-- ==== Sys2Proof/Word.lean ====
section
/-!
DEFINITION. The words of the JK16 (spec/00_scope.md R9): bits are numbered from 0 at the least significant end, and
every multi-byte value is little-endian.
-/
namespace Sys2Proof

/-- A 32-bit register, or one third of an instruction. -/
abbrev Word := BitVec 32

/-- One byte of memory. -/
abbrev Byte := BitVec 8

/-- A whole instruction, 96 bits (R15). -/
abbrev IWord := BitVec 96

end Sys2Proof
end

