-- ==== Sys2Proof/Syntax.lean ====
section
/-!
DEFINITION. What the JK16 executes, as syntax: one constructor of `Instr` per row of spec/opcode_table.json. The first
142 rows are the instructions of the two streams (10 R208, 11 R229, 12 R247, 13 R273, 14 R294), each carrying the fields
of its word (08 R177); the other 90 rows are the happenings of the device (spec/95_what_each_step_holds.md), each
carrying what it acts on or what arrives.
-/
namespace Sys2Proof

/-- The data types of MOD, in the order of their codes 0 to 13 (08 R181). -/
inductive Ty
  | i32 | n32 | i64 | n64 | f32 | f16 | bf16 | f16x2 | bf16x2 | i8 | n8 | i16 | n16 | i4
  deriving DecidableEq, Repr

/-- The system values of operand codes 0x50 to 0x5B (02 R47). -/
inductive SysVal
  | tid | groupLo | groupHi | setid | lane | quad | core | cluster | nthreads | cgrank | cycLo | cycHi
  deriving DecidableEq, Repr

/-- An operand code (08 R185). Code 0x00, which an unused field holds, is `x 0`. -/
inductive Operand
  | x (n : Fin 64) | p (n : Fin 8) | zero | imm | drain | sys (v : SysVal) | g (n : Fin 128)
  deriving DecidableEq, Repr

/-- The fields of an instruction word beside OPC (08 R177); HINT_RSV is zero in every accepted word. -/
structure Form where
  guard : Fin 8
  gneg  : Bool
  park  : Bool
  yield : Bool
  fuse  : Bool
  last  : Bool
  ty    : Ty
  d     : Operand
  a     : Operand
  b     : Operand
  c     : Operand
  sub   : BitVec 4
  op2   : BitVec 4
  imm   : Word
  deriving DecidableEq, Repr

/-- A context of a group: one of its threads, by index, or its steward (02 R43, 03 R77). -/
inductive Who
  | thread (n : Nat) | steward
  deriving DecidableEq, Repr

/-- A context of the device: the key of its group and which context of the group it is. -/
structure CtxRef where
  group : Nat
  who   : Who
  deriving DecidableEq, Repr

/-- The causes of 12 R271, in the order of their codes 0x00 to 0x5F. -/
inductive Cause
  | step | illop | emu | illenc | illopnd | stream | priv | swtrap
  | bkpt | doubleTrap | tretState | ibreak | fetchUe | sysreg | sysregRo | fetchPerm
  | hazardRaw | hazardWaw | regalloc | pairAlign | drainIdle | drainMember | xregUe | gregUe
  | pregUe | accUe | dqUe | deadRead | opcacheUe | fwdUe | sysvalUe | replayUe
  | misalign | pageNotmapped | pagePerm | stage2 | spaceBounds | rangeLock | atomicSpace | memUe
  | frameFault | linkFault | walkUe | eccPoison | ordSpace | spareExhausted | patrolUe | saveFault
  | rdvMaskMismatch | rdvSelfOmitted | rdvExited | barId | barMembership | dqDrained | barSequence | detSpin
  | ordOverflow | barUe | rdvUe | eventOverflow | detResidency | restoreFault | eventWaitFault | launchFault
  | tidInvalid | tensorGeom | mxKlimit | accTile | tensorBounds | rslotState | rslotVersion | cpyRange
  | watchLimit | enginePage | engineUe | mxQuad | drainBusy | cpyCompletion | launchRecord | launchDenied
  | pairMismatch | cloneMismatch | rnsCheck | rollbackLimit | watchdog | corrected | contextKill | vfReset
  | vfDisable | clockStep | pairRetired | linkAbort | tovorDeny | codeMeasure | powerCap | shadowTimeout
  deriving DecidableEq, Repr

/-- Whose write reaches a queue's control block, and in which partition (16 R333, 17 R351): function 0 is the physical one, n is
virtual function n − 1. -/
structure Reach where
  func : Nat
  part : Nat
  deriving DecidableEq, Repr

/-- A context whose block is written, and whether by the physical function (17 R354, 19 R396, 20 R409). -/
structure CtxReach where
  ctx  : Nat
  phys : Bool
  deriving DecidableEq, Repr

/-- A mailbox request: TAG, and ARGS whose bit 0 is bit 64 of the request (18 R383). -/
structure MailArgs where
  tag  : Word
  args : BitVec 448
  deriving DecidableEq, Repr

/-- What a Jarkin-link operation does at the peer (20 R412); `nibble` is the store of a 4-bit element. -/
inductive LinkKind
  | read (len : Nat) | write (data : List Byte) | nibble (val mask : Byte)
  /-- `lane` and `pc` are those of the issuing context, which a NaN carries (01 R28). -/
  | red (op : Nat) (ty : Ty) (operand : BitVec 64) (lane pc : Nat) | signal
  /-- The sender's context is reset: its operations end as ABORTED (R413; 17 R362). -/
  | abort
  deriving DecidableEq, Repr

/-- An operation that arrives over a Jarkin link (20 R413): the link, the context it names, the peer context that sent
it, the space (`g`, or `s` when `chip`) and the address. -/
structure LinkOp where
  link : Nat
  ctx  : Nat
  peer : Nat
  chip : Bool
  addr : Nat
  kind : LinkKind
  deriving DecidableEq, Repr

/-- How the peer ends an outbound operation (20 R413): performed, with the bytes read; completed as ABORTED; refused. -/
inductive LinkReply
  | ok (data : List Byte) | aborted | refused
  deriving DecidableEq, Repr

/-- A host write, or an AtomicOp of 4 or 8 bytes, through the memory window (20 R408, R410). -/
inductive HostWrite
  | bytes (data : List Byte) | fetchAdd (size : Nat) (v : BitVec 64) | swap (size : Nat) (v : BitVec 64)
  | cas (size : Nat) (expected new : BitVec 64)
  deriving DecidableEq, Repr

/-- A host access to a register of BAR0 that has no row of its own (20 R409); `func` is the function whose BAR0 it reaches. -/
inductive RegWrite
  | deviceBlock (base : BitVec 64) (size : BitVec 4)
  | miCtl (channel : Nat) (value : Word)
  | winBase (func : Nat) (value : BitVec 64)
  | linkBinding (link ctx : Nat) (value : BitVec 128)
  | translation (func ctx : Nat) (ipa va : BitVec 64)
  /-- A write to an offset that the table does not list for the function, or to a block that is read-only there. -/
  | unlisted (func offset : Nat) (value : Word)
  /-- A read of a word. -/
  | read (func offset : Nat)
  deriving DecidableEq, Repr

/-- An error of the silicon, by the state it arises in (18 R376, R381, R382; 12 R271). -/
inductive HwFault
  /-- An error in DRAM, the chip scratchpad, a core scratchpad or host memory, at a byte of the model's memory. -/
  | memory (addr : Nat) (correctable : Bool)
  /-- An uncorrectable error in the clean copy that the L1 or the L2 holds of a byte. -/
  | cleanCopy (addr : Nat)
  /-- An error that the L1 or the L2 corrects, or else a TLB, a walker or the fabric. -/
  | sharedCorrected (copies : Bool)
  /-- An uncorrectable error in a TLB, a walker or the fabric: met by the access of a context, in a walk or else in its data, or by none. -/
  | fabric (met : Option (CtxRef × Bool))
  /-- A fault of a cause of delivery I that the context meets at its next issue. -/
  | context (r : CtxRef) (cause : Cause)
  /-- A corrected error in state that the context alone holds (R381). -/
  | corrected (r : CtxRef)
  /-- Bits that a channel of an accumulator word takes by error. -/
  | accumulator (core tile elem : Nat) (mask : BitVec 40)
  /-- An uncorrectable error in the accumulator memory of a tile. -/
  | accumulatorUe (core tile : Nat)
  /-- The mask is XORed into what the clone or the shadow computes next for the context. -/
  | duplicate (r : CtxRef) (mask : Word)
  /-- The shadow stops answering the comparator of the pair. -/
  | shadowSilent (pair : Nat)
  | primarySilent (pair : Nat)
  /-- An error of a cause of delivery I in the shadow's own copy of a context's state, or in its tile of a quadrant (18 R373, R376). -/
  | shadow (r : CtxRef) (cause : Cause) (quad : Option Nat)
  /-- An internal error of the engine that runs command k of the core, in the matrix unit of a quadrant or in state of the core. -/
  | engine (core k : Nat) (quad : Option Nat)
  deriving DecidableEq, Repr

/-- One constructor per row of spec/opcode_table.json. -/
inductive Instr
  /-- NOP (R209). -/
  | nop (f : Form)
  /-- MOV (R209). -/
  | mov (f : Form)
  /-- SEL (R209). -/
  | sel (f : Form)
  /-- XGET (R210). -/
  | xget (f : Form)
  /-- XPUT (R210). -/
  | xput (f : Form)
  /-- GGET (R211). -/
  | gget (f : Form)
  /-- GPUT (R211). -/
  | gput (f : Form)
  /-- ADD (R212). -/
  | add (f : Form)
  /-- SUB (R212). -/
  | sub (f : Form)
  /-- MUL (R212). -/
  | mul (f : Form)
  /-- MULH (R212). -/
  | mulh (f : Form)
  /-- MAD (R212). -/
  | mad (f : Form)
  /-- MADW (R212). -/
  | madw (f : Form)
  /-- DIV (R213). -/
  | div (f : Form)
  /-- REM (R213). -/
  | rem (f : Form)
  /-- MIN (R212). -/
  | min (f : Form)
  /-- MAX (R212). -/
  | max (f : Form)
  /-- ABS (R212). -/
  | abs (f : Form)
  /-- CLAMP (R212). -/
  | clamp (f : Form)
  /-- AND (R214). -/
  | and (f : Form)
  /-- OR (R214). -/
  | or (f : Form)
  /-- XOR (R214). -/
  | xor (f : Form)
  /-- ANDN (R214). -/
  | andn (f : Form)
  /-- LOGIC3 (R214). -/
  | logic3 (f : Form)
  /-- SHL (R215). -/
  | shl (f : Form)
  /-- SHR (R215). -/
  | shr (f : Form)
  /-- SAR (R215). -/
  | sar (f : Form)
  /-- ROL (R215). -/
  | rol (f : Form)
  /-- FSHL (R215). -/
  | fshl (f : Form)
  /-- BFX (R216). -/
  | bfx (f : Form)
  /-- BFI (R216). -/
  | bfi (f : Form)
  /-- BREV (R217). -/
  | brev (f : Form)
  /-- POPC (R217). -/
  | popc (f : Form)
  /-- CLZ (R217). -/
  | clz (f : Form)
  /-- CTZ (R217). -/
  | ctz (f : Form)
  /-- PERM (R218). -/
  | perm (f : Form)
  /-- CMP (R219). -/
  | cmp (f : Form)
  /-- PLOP (R220). -/
  | plop (f : Form)
  /-- PSET (R220). -/
  | pset (f : Form)
  /-- PSET_BULK (R220). -/
  | psetBulk (f : Form)
  /-- PGET (R220). -/
  | pget (f : Form)
  /-- LEA (R221). -/
  | lea (f : Form)
  /-- CVTI (R222). -/
  | cvti (f : Form)
  /-- PACK (R223). -/
  | pack (f : Form)
  /-- UNPACK (R223). -/
  | unpack (f : Form)
  /-- DP4 (R224). -/
  | dp4 (f : Form)
  /-- FADD (R230). -/
  | fadd (f : Form)
  /-- FSUB (R230). -/
  | fsub (f : Form)
  /-- FMUL (R230). -/
  | fmul (f : Form)
  /-- FFMA (R230). -/
  | ffma (f : Form)
  /-- FMIN (R233). -/
  | fmin (f : Form)
  /-- FMAX (R233). -/
  | fmax (f : Form)
  /-- FCMP (R234). -/
  | fcmp (f : Form)
  /-- FCLASS (R235). -/
  | fclass (f : Form)
  /-- FADD2 (R231). -/
  | fadd2 (f : Form)
  /-- FMUL2 (R231). -/
  | fmul2 (f : Form)
  /-- FFMA2 (R231). -/
  | ffma2 (f : Form)
  /-- FDOT2 (R232). -/
  | fdot2 (f : Form)
  /-- FDOT4 (R232). -/
  | fdot4 (f : Form)
  /-- FRND (R236). -/
  | frnd (f : Form)
  /-- FSCALE (R237). -/
  | fscale (f : Form)
  /-- FKEY (R238). -/
  | fkey (f : Form)
  /-- FQUANT (R239). -/
  | fquant (f : Form)
  /-- FDEQ (R240). -/
  | fdeq (f : Form)
  /-- FCVT (R241). -/
  | fcvt (f : Form)
  /-- F2I (R242). -/
  | f2i (f : Form)
  /-- I2F (R242). -/
  | i2f (f : Form)
  /-- FRCP (R243). -/
  | frcp (f : Form)
  /-- FRSQ (R243). -/
  | frsq (f : Form)
  /-- FSQRT (R243). -/
  | fsqrt (f : Form)
  /-- FEXP2 (R243). -/
  | fexp2 (f : Form)
  /-- FLOG2 (R243). -/
  | flog2 (f : Form)
  /-- FSIN (R243). -/
  | fsin (f : Form)
  /-- FCOS (R243). -/
  | fcos (f : Form)
  /-- FTANH (R243). -/
  | ftanh (f : Form)
  /-- FSIGM (R243). -/
  | fsigm (f : Form)
  /-- BRA (R248). -/
  | bra (f : Form)
  /-- BRX (R248). -/
  | brx (f : Form)
  /-- CALL (R248). -/
  | call (f : Form)
  /-- RET (R248). -/
  | ret (f : Form)
  /-- BRDEC (R248). -/
  | brdec (f : Form)
  /-- EXIT (R249). -/
  | exit (f : Form)
  /-- YIELD (R250). -/
  | yield (f : Form)
  /-- RECONV (R252). -/
  | reconv (f : Form)
  /-- REGION (R253). -/
  | region (f : Form)
  /-- TRAP (R254). -/
  | trap (f : Form)
  /-- BKPT (R254). -/
  | bkpt (f : Form)
  /-- TRET (R258). -/
  | tret (f : Form)
  /-- SLEEP (R251). -/
  | sleep (f : Form)
  /-- RDV (R260). -/
  | rdv (f : Form)
  /-- RSHFL (R261). -/
  | rshfl (f : Form)
  /-- RVOTE (R260). -/
  | rvote (f : Form)
  /-- RVOTE_BALLOT (R260). -/
  | rvoteBallot (f : Form)
  /-- RRED (R262). -/
  | rred (f : Form)
  /-- RSCAN (R262). -/
  | rscan (f : Form)
  /-- RRANK (R260). -/
  | rrank (f : Form)
  /-- BAR (R263). -/
  | bar (f : Form)
  /-- BARRIVE (R263). -/
  | barrive (f : Form)
  /-- BWAIT (R263). -/
  | bwait (f : Form)
  /-- BTEST (R263). -/
  | btest (f : Form)
  /-- CBAR (R263). -/
  | cbar (f : Form)
  /-- CBARRIVE (R263). -/
  | cbarrive (f : Form)
  /-- CBWAIT (R263). -/
  | cbwait (f : Form)
  /-- FENCE (R264). -/
  | fence (f : Form)
  /-- WAITA (R265). -/
  | waita (f : Form)
  /-- TRIG (R266). -/
  | trig (f : Form)
  /-- OFLUSH (R141). -/
  | oflush (f : Form)
  /-- LD (R278). -/
  | ld (f : Form)
  /-- ST (R280). -/
  | st (f : Form)
  /-- LDT (R284). -/
  | ldt (f : Form)
  /-- STT (R284). -/
  | stt (f : Form)
  /-- PF (R282). -/
  | pf (f : Form)
  /-- LDP (R279). -/
  | ldp (f : Form)
  /-- ATOM (R286). -/
  | atom (f : Form)
  /-- ACAS (R286). -/
  | acas (f : Form)
  /-- RED (R287). -/
  | red (f : Form)
  /-- DQPUSH (R299). -/
  | dqpush (f : Form)
  /-- DQPOP (R299). -/
  | dqpop (f : Form)
  /-- DQLEN (R299). -/
  | dqlen (f : Form)
  /-- CPY (R301). -/
  | cpy (f : Form)
  /-- CPYQ (R302). -/
  | cpyq (f : Form)
  /-- CPYC (R303). -/
  | cpyc (f : Form)
  /-- MXZ (R305). -/
  | mxz (f : Form)
  /-- MX (R305). -/
  | mx (f : Form)
  /-- MXD (R308). -/
  | mxd (f : Form)
  /-- MXS (R309). -/
  | mxs (f : Form)
  /-- MXW (R310). -/
  | mxw (f : Form)
  /-- DLT (R167). -/
  | dlt (f : Form)
  /-- RSBIND (R163). -/
  | rsbind (f : Form)
  /-- RSINV (R166). -/
  | rsinv (f : Form)
  /-- RSINV_REL (R166). -/
  | rsinvRel (f : Form)
  /-- RSREF (R171). -/
  | rsref (f : Form)
  /-- RSQ (R312). -/
  | rsq (f : Form)
  /-- RSPARAM (R164). -/
  | rsparam (f : Form)
  /-- TDW (R313). -/
  | tdw (f : Form)
  /-- TDR (R314). -/
  | tdr (f : Form)
  /-- LAUNCH (R315). -/
  | launch (f : Form)
  /-- SIGNAL (R316). -/
  | signal (f : Form)
  /-- RAND (R317). -/
  | rand (f : Form)
  /-- RSEED (R318). -/
  | rseed (f : Form)
  /-- SYSR (R319). -/
  | sysr (f : Form)
  /-- SYSW (R319). -/
  | sysw (f : Form)
  /-- RESULT_RETURN (R62). -/
  | resultReturn (r : CtxRef) (k : Nat)
  /-- STORE_COMMIT (R367). -/
  | storeCommit (r : CtxRef)
  /-- BARRIER_ARRIVAL_PERFORMED (R108). -/
  | barrierArrivalPerformed (r : CtxRef)
  /-- BARRIER_PHASE_COMPLETE (R109). -/
  | barrierPhaseComplete (group : Nat) (bar : Nat)
  /-- RDV_INSTANCE_COMPLETE (R113). -/
  | rdvInstanceComplete (group : Nat) (k : Nat)
  /-- RECONV_TIMEOUT (R116). -/
  | reconvTimeout (r : CtxRef)
  /-- URGENT_THREAD (R60). -/
  | urgentThread (r : CtxRef)
  /-- FUSE_WAIT_EXPIRY (R59). -/
  | fuseWaitExpiry (r : CtxRef)
  /-- SLEEP_EXPIRY (R251). -/
  | sleepExpiry (r : CtxRef)
  /-- TRAP_ENTRY (R53). -/
  | trapEntry (r : CtxRef)
  /-- EVICTION_TIMER_EXPIRY (R97). -/
  | evictionTimerExpiry (group : Nat)
  /-- GROUP_PLACEMENT (R341). -/
  | groupPlacement (group : Nat) (cluster core quad : Nat)
  /-- CLUSTER_MODE_CHANGE (R389). -/
  | clusterModeChange (cluster : Nat) (fixed : Bool)
  /-- ENGINE_COMMAND_START (R296). -/
  | engineCommandStart (core k : Nat)
  /-- MX_COMPLETE (R305). -/
  | mxComplete (core k : Nat)
  /-- CPY_COMPLETE (R301). -/
  | cpyComplete (core k : Nat)
  /-- DLT_BLOCK_STEP (R168). -/
  | dltBlockStep (core k : Nat)
  /-- DLT_COMPLETE (R167). -/
  | dltComplete (core k : Nat)
  /-- DRAIN_ROW_CONVERT (R307). -/
  | drainRowConvert (core k : Nat)
  /-- MXD_COMPLETE (R308). -/
  | mxdComplete (core k : Nat)
  /-- MXS_COMPLETE (R309). -/
  | mxsComplete (core k : Nat)
  /-- ORDERED_BATCH_APPLY (R138). -/
  | orderedBatchApply (grid : Nat)
  /-- GROUP_RETIRE (R88). -/
  | groupRetire (group : Nat)
  /-- GRID_COMPLETE (R331). -/
  | gridComplete (grid : Nat)
  /-- QUEUE_DISPATCH (R327). -/
  | queueDispatch (part queue : Nat)
  /-- LAUNCH_HELD_PERFORM (R315). -/
  | launchHeldPerform (r : CtxRef)
  /-- DOORBELL (R336). -/
  | doorbell (reach : Reach) (queue : Nat) (value : Word)
  /-- QUEUE_ENABLE (R340). -/
  | queueEnable (reach : Reach) (queue : Nat)
  /-- QUEUE_DISABLE (R340). -/
  | queueDisable (reach : Reach) (queue : Nat)
  /-- QUEUE_CONFIG_WRITE (R333). -/
  | queueConfigWrite (reach : Reach) (queue : Nat) (block : BitVec 512)
  /-- CREATE (R351). -/
  | create (n : Nat)
  /-- DESTROY (R362). -/
  | destroy (n : Nat)
  /-- RESET (R362). -/
  | reset (n : Nat)
  /-- PREEMPT (R356). -/
  | preempt (n : Nat)
  /-- CONTEXT_FIELD_WRITE (R351). -/
  | contextFieldWrite (n : Nat) (block : BitVec 512)
  /-- GRP_SEL_WRITE (R354). -/
  | grpSelWrite (reach : CtxReach) (value : Word)
  /-- SLICE_EXPIRY (R356). -/
  | sliceExpiry (n : Nat)
  /-- CONTEXT_SAVE (R357). -/
  | contextSave (n : Nat)
  /-- CONTEXT_RESTORE (R358). -/
  | contextRestore (n : Nat)
  /-- FUNCTION_LEVEL_RESET (R362). -/
  | functionLevelReset (vf : Nat)
  /-- VF_ENABLE_CLEAR (R363). -/
  | vfEnableClear
  /-- RESET_QUEUE_HOLD_EXPIRY (R362). -/
  | resetQueueHoldExpiry (n : Nat)
  /-- RESET_ZEROING_COMPLETE (R362). -/
  | resetZeroingComplete (n : Nat)
  /-- PAIR (R372). -/
  | pair (m : MailArgs)
  /-- UNPAIR (R372). -/
  | unpair (m : MailArgs)
  /-- LOAD_SET (R349). -/
  | loadSet (m : MailArgs)
  /-- SLOT_SET_SWITCH (R346). -/
  | slotSetSwitch
  /-- REGISTER_CODE (R323). -/
  | registerCode (m : MailArgs)
  /-- INJECT (R387). -/
  | inject (m : MailArgs)
  /-- CLEAR_FAULT (R386). -/
  | clearFault (m : MailArgs)
  /-- RETIRE (R391). -/
  | retire (m : MailArgs)
  /-- RESTORE (R384). -/
  | restore (m : MailArgs)
  /-- CLOCK (R390). -/
  | clock (m : MailArgs)
  /-- REPORT_RING (R384). -/
  | reportRing (m : MailArgs)
  /-- ATTEST (R417). -/
  | attest (m : MailArgs)
  /-- BAD_REQUEST (R384). -/
  | badRequest (cmd : Byte) (m : MailArgs)
  /-- COMPARATOR_COMPARE (R374). -/
  | comparatorCompare (core : Nat)
  /-- SHADOW_TIMEOUT (R375). -/
  | shadowTimeout (pair : Nat)
  /-- CLONE_EXECUTE (R369). -/
  | cloneExecute (r : CtxRef)
  /-- CLONE_REPLAY (R370). -/
  | cloneReplay (core quad : Nat)
  /-- ROLLBACK_RESTART (R377). -/
  | rollbackRestart (group : Nat)
  /-- DEGRADED_STEP_ENTER (R390). -/
  | degradedStepEnter (temperature : Bool)
  /-- DEGRADED_STEP_LEAVE (R390). -/
  | degradedStepLeave
  /-- POWER_CAP (R388). -/
  | powerCap (part : Nat) (mhz : Nat)
  /-- TOVOR_CORE_MISMATCH (R386). -/
  | tovorCoreMismatch
  /-- POWER_UP (R4). -/
  | powerUp (verified : Bool)
  /-- INV_STAGE1_PAGE (R396). -/
  | invStage1Page (n : Nat) (phys : Bool)
  /-- INV_STAGE1_ALL (R396). -/
  | invStage1All (n : Nat) (phys : Bool)
  /-- INV_STAGE2_PAGE (R396). -/
  | invStage2Page (n : Nat) (phys : Bool)
  /-- INV_STAGE2_ALL (R396). -/
  | invStage2All (n : Nat) (phys : Bool)
  /-- INV_BOTH (R396). -/
  | invBoth (n : Nat) (phys : Bool)
  /-- S1_ROOT_WRITE (R396). -/
  | s1RootWrite (reach : CtxReach) (value : BitVec 64)
  /-- INVALIDATION_COMPLETE (R397). -/
  | invalidationComplete (n : Nat)
  /-- PAGE_WALK (R398). -/
  | pageWalk (core n : Nat) (va : BitVec 48)
  /-- PATROL_BLOCK_VISIT (R405). -/
  | patrolBlockVisit (block : Nat)
  /-- PATROL_PASS_COMPLETE (R406). -/
  | patrolPassComplete (channel : Nat)
  /-- SPARE_ROW_COPY (R406). -/
  | spareRowCopy (row : Nat)
  /-- HOST_WINDOW_READ (R410). -/
  | hostWindowRead (func : Nat) (off len : Nat)
  /-- HOST_WINDOW_WRITE (R410). -/
  | hostWindowWrite (func : Nat) (off : Nat) (data : HostWrite)
  /-- LINK_INBOUND_OPERATION (R413). -/
  | linkInboundOperation (op : LinkOp)
  /-- LINK_ACK_TIMEOUT (R413). -/
  | linkAckTimeout (k : Nat)
  /-- LINK_DOWN (R413). -/
  | linkDown (link : Nat)
  /-- FRAME_ARRIVAL (R415). -/
  | frameArrival (port : Nat) (frame : List Byte)
  /-- NET_CTL_WRITE (R416). -/
  | netCtlWrite (port : Nat) (block : BitVec 512)
  /-- REGISTER_WRITE (R409). -/
  | registerWrite (w : RegWrite)
  /-- EVICTION_COMPLETE (R99). -/
  | evictionComplete (group : Nat)
  /-- LINK_ACKNOWLEDGEMENT (R413). -/
  | linkAcknowledgement (k : Nat) (reply : LinkReply)
  /-- YIELD_EXCLUSION_EXPIRY (R59). -/
  | yieldExclusionExpiry (r : CtxRef)
  /-- HARDWARE_FAULT (R366). -/
  | hardwareFault (f : HwFault)
  /-- UNASSIGNED_OPCODE (R200). -/
  | unassignedOpcode (w : IWord)
  deriving DecidableEq, Repr

end Sys2Proof
end

