-- ==== Sys2Proof/Machine/State.lean ====
section
/-!
DEFINITION. The state of the JK16: everything the spec gives the machine, as plain data. Collections by number are
lists of pairs with rising keys (`Map`); a key that is not listed holds the default its accessor names. INVENTORY.md,
'## State', lists every piece with its rule and its reset value.
-/
namespace Sys2Proof.Machine

/-- A collection by number; keys rise strictly. -/
abbrev Map (α : Type) := List (Nat × α)

/-- Memory: bytes by flat address (see `Machine/Mem.lean`), keys rising, no entry 0, which an unlisted byte reads as. -/
abbrev Memory := List Host.Cell

/-! ## Contexts that issue -/

/-- Thread states (02 R51); stewards follow them too. -/
inductive Status
  | ready | parked | blocked | halted | evicted | exited
  deriving DecidableEq, Repr

/-- What a trap carries into its frame (12 R256). -/
structure TrapInfo where
  cause : Cause
  pc    : Word
  aux   : Word := 0
  addr  : BitVec 64 := 0
  space : BitVec 4 := 0
  write : Bool := false
  insn  : BitVec 96 := 0
  deriving DecidableEq, Repr

/-- An outstanding variable-latency instruction (02 R62, R64): the registers it writes, low word first, or the predicates,
one bit of the value each, and the value once known; it writes neither where its destination discards. `region` is the
serial at issue (18 R377). -/
structure Result where
  id     : Nat
  regs   : List Nat
  preds  : List Nat
  value  : Option (BitVec 128)
  region : Nat
  deriving DecidableEq, Repr

/-- One byte of a store: its flat address, its value and the bits it writes (a nibble for 4-bit elements, 13 R284). -/
structure WByte where
  addr : Nat
  val  : Byte
  mask : Byte
  deriving DecidableEq, Repr

/-- The operation of an atomic (13 R285), or ACAS with its expected value, or the increment of SIGNAL (14 R316). -/
inductive AtomKind
  | op (code : Nat) (ty : Ty) (c : Nat) | cas (size : Nat) (expected new : Nat) | signal
  deriving DecidableEq, Repr

/-- What a store queue entry does when it is performed: bytes, at the home or in the L1 of the core; an operation at a
peer device (20 R412). -/
inductive Action
  | bytes (w : List WByte) (home : Bool)
  | remote (link : Nat) (chip : Bool) (addr : Nat) (k : LinkKind)
  deriving DecidableEq, Repr

/-- An issued store that has not committed (18 R367); `agreed` unless the comparator still holds it; `region` is the serial at
issue (18 R377). -/
structure Store where
  act    : Action
  agreed : Bool
  region : Nat := 0
  deriving DecidableEq, Repr

/-- The spin detector (02 R67): the last taken short backward branch, if any since a change, and its repeat count. -/
structure Spin where
  last  : Option (Word × Word)
  count : Nat
  deriving DecidableEq, Repr

/-- Per-context barrier states (04 R104). -/
inductive BarState
  | idle | arrived | done
  deriving DecidableEq, Repr

/-- An ordered access in the group's buffer (05 R137): its space and address, the size, the operation, and the words of
8 bytes it takes. -/
structure OrdEntry where
  space : Nat
  addr  : Nat
  size  : Nat
  mask  : Byte
  /-- An atomic, or a store of this value. -/
  kind  : AtomKind ⊕ Nat
  /-- The place at issue, a flat address or one of a peer (link, `s` rather than `g`); the translation is taken again at
  application (13 R281). -/
  flat  : Nat
  peer  : Option (Nat × Bool)
  /-- The result that an atomic fills, its region and the random state behind it. -/
  dst   : Option Result
  words : Nat
  lane  : Nat
  pc    : Word
  /-- The region serial at issue; 0 for a store that had committed before it came here. -/
  region : Nat
  rng   : BitVec 64
  deriving DecidableEq, Repr

/-- What a BLOCKED context waits for (03 R95). -/
inductive Wait
  | none
  /-- The wait half of a barrier: 0 to 15 of the group, 16 to 23 of the cluster-group. -/
  | bar (b : Nat)
  /-- WAITA: the word's flat address, its scope and size, the comparand, and the registers that it fills (12 R265). -/
  | waita (addr sub size cmp : Nat) (regs : List Nat)
  | dqpop | dqpush | rdv
  | reconv (mask : BitVec 64) (deadline : Nat) (pd : Nat)
  | sleep (wake : Nat)
  | drain
  | claim
  /-- Parked at OFLUSH until every ordered access before it is applied (05 R141). -/
  | oflush
  | launch (part queue : Nat) (record : BitVec 1024)
  deriving DecidableEq, Repr

/-- What two executions of an instruction are compared by (18 R369, R371, R374): the values of the first and of the
second. `row` is the row of the table of R374, 0 where IL1 compares; `cmd` the engine command that waits for it; `inj`
whether an injection made it. -/
structure Dup where
  row    : Nat
  first  : List Nat
  second : List Nat
  agreed : Bool := false
  queued : Bool := false
  cmd    : Option Nat := none
  inj    : Bool := false
  /-- The PC of its instruction, and the cycle in which its record was made. -/
  pc     : Nat := 0
  since  : Nat := 0
  /-- The shadow's record has arrived at the comparator (18 R374); the primary's own has not, and will not. -/
  met    : Bool := false
  lost   : Bool := false
  deriving DecidableEq, Repr

/-- A thread (02 R43) or a steward (03 R77), with what the device keeps for it. -/
structure Hart where
  pc        : Word
  regs      : List Word
  preds     : BitVec 7
  status    : Status
  wait      : Wait
  /-- The word last issued, and whether its S bit parks the context when it completes. -/
  insn      : BitVec 96
  parkS     : Bool
  handler   : Bool
  regionPc  : Word
  rng       : BitVec 64
  rngSnap   : BitVec 64
  cycLatch  : Word
  results   : List Result
  nextId    : Nat
  stores    : List Store
  spin      : Spin
  /-- A barrier arrival issued and not performed (04 R108), the BAR half still to wait when `true`, and the region entry
  that its performance leaves. -/
  arrival   : Option (Nat × Bool × Word)
  /-- The arrival-taken record: a BAR whose arrival is performed (04 R108). -/
  taken     : Option Nat
  bars      : List BarState
  dqRead    : Nat
  trapping  : Option TrapInfo
  exiting   : Bool
  /-- The cycle in which a yield excluded the context from its port (02 R59, 12 R250). -/
  yieldExcl : Option Nat
  fuseWaited : Bool
  starve    : Nat
  urgent    : Bool
  /-- The cycle of its last issue. -/
  lastIssue : Option Nat
  /-- Present at the RECONV of a PC until the end of a cycle (04 R116). -/
  reconvAt  : Option (Word × Nat)
  /-- Results numbered below it stood before the last acquire: later accesses come after their reads (05 R125). -/
  acqId     : Nat
  /-- What a rendezvous completed in a cycle has moved: the region entry, its snapshot and its serial before it (04 R117). -/
  rdvBack   : Option (Nat × Word × BitVec 64 × Nat)
  /-- Parked at YIELD or OFLUSH of a `.det` kernel (03 R92, 05 R141). -/
  yielded   : Bool
  ord       : List OrdEntry
  bounded   : Bool
  /-- A serial that rises with every boundary, and with every instruction that becomes one when it completes; and the serial from
  which the region entry counts: what bears a lower one was issued before it (18 R377). -/
  regionNo  : Nat
  entryNo   : Nat
  /-- Registers that the last restore did not bring back (15 R324). -/
  dead      : List Nat
  dup       : Option Dup
  flip      : Word
  fault     : Option Cause
  /-- The chunks of a trap frame that TRET has asked of peers: the result of each, and its value once it has returned (12 R258). -/
  frame     : Map (Nat × Option (BitVec 128))
  /-- The slot at which the steward is held, and its turn there (07 R174). -/
  slotAt    : Option (Nat × Nat)
  lane      : Nat
  quad      : Nat
  slot      : Nat
  deriving DecidableEq, Repr

/-! ## Engine commands -/

/-- A range-lock entry (05 R133): command, context, space (1 for core memory, 3, 4), first and last byte, mode. -/
structure Lock where
  cmd   : Nat
  ctx   : Nat
  space : Nat
  first : Nat
  last  : Nat
  write : Bool
  deriving DecidableEq, Repr

/-- The engine commands (14 R294). -/
inductive CmdKind
  | mxz | mx (ty : Ty) (mix : Bool) | mxd (z : Bool) | mxs (z : Bool) | dlt | cpy
  deriving DecidableEq, Repr

/-- An engine command issued and not complete (14 R296, R297): its block, the descriptors it copied (06 R155), how far
it is, and for each kind what it keeps. -/
structure Cmd where
  id       : Nat
  gid      : Nat
  pc       : Word
  kind     : CmdKind
  block    : List Word
  descs    : Map (BitVec 1024)
  /-- The region serial of its steward at its issue (18 R377), and the cycle of its issue (14 R308), none once it was saved. -/
  region   : Nat
  issued   : Option Nat
  /-- Performed and committed: its steward's earlier stores have committed and its own record agrees (18 R367). -/
  ready    : Bool
  started  : Bool
  /-- K-steps, rows converted or written, column-blocks or elements done. -/
  progress : Nat
  /-- Records of its writes that the comparator has been given, and has matched (18 R374). -/
  asked    : Nat
  matched  : Nat
  /-- MXD: the rows converted, and the number of rows each reader has read. -/
  rows     : List (List Word)
  reads    : List Nat
  /-- Tiles as they were at the start (14 R298). -/
  snapshot : Map (List (BitVec 40))
  /-- Abandoned, behind a boundary that has been performed since: it starts again once its group has (log 88), and takes these
  locks again, each in its core's table. -/
  again    : Bool := false
  relock   : List (Nat × Lock) := []
  /-- What it has read at a peer and not used: link, `s` rather than `g`, address, bytes (20 R412). -/
  fetched  : List (Nat × Bool × Nat × List Byte) := []
  /-- DLT: the slot record at issue and the weight version sampled (07 R167). -/
  slotRec  : BitVec 512
  version  : Nat
  /-- An I cause that one of the command's own accesses met. -/
  event    : Option Cause
  deriving DecidableEq, Repr

/-- The provenance of a tile (07 R171): context, slot, binding serial, first tile, tiles per row of tiles. -/
structure Prov where
  ctx    : Nat
  slot   : Nat
  serial : Nat
  t0     : Nat
  cols   : Nat
  deriving DecidableEq, Repr

/-! ## Groups and grids -/

/-- Group states, in the order of 03 R87. -/
inductive GState
  | pending | resident | waiting | evicted | halted | retiring | retired | killed
  deriving DecidableEq, Repr

/-- A member's arrival at a rendezvous (04 R112, 12 R259): its values at arrival and where its result goes. -/
structure Arrival where
  tid  : Nat
  b    : Nat
  c    : Nat
  p    : Bool
  form : Form
  deriving DecidableEq, Repr

/-- An open rendezvous instance: its set, key and arrivals (04 R112). -/
structure Rdv where
  set      : Nat
  opc      : Nat
  ty       : Ty
  sub      : Nat
  op2      : Nat
  mask     : BitVec 64
  arrivals : List Arrival
  deriving DecidableEq, Repr

/-- The event that set a group's rollback mark, for one of the same cycle (18 R392): the cycle, the cause code, and the number
and the bits of Tovor's report. -/
structure Detected where
  cycle  : Nat
  code   : Nat
  seq    : BitVec 24
  report : BitVec 256
  deriving DecidableEq, Repr

/-- An entry of a decision queue: its word, and the steward's results outstanding at the push, which are written before the
entry can be popped (03 R84). -/
structure DqEntry where
  word  : BitVec 64
  after : List Nat
  deriving DecidableEq, Repr

/-- An image in a save area (03 R97, 17 R359): the pieces of the area that it takes, base and length, its bytes in their order,
and whether it is still being written. -/
structure Image where
  pieces  : List (Nat × Nat)
  bytes   : List Byte
  writing : Bool
  deriving DecidableEq, Repr

/-- A group, or a group's saved image (03 R87, 17 R359): the image of a HALTED or EVICTED group is held here. -/
structure Group where
  grid     : Nat
  index    : Nat
  ctx      : Nat
  state    : GState
  cluster  : Nat
  core     : Nat
  stewardSlot : Nat
  cbase    : Nat
  threads  : List Hart
  steward  : Hart
  /-- The decision queue: entries not freed and the index of the first (03 R82). -/
  dq       : List DqEntry
  dqBase   : Nat
  rdvs     : List Rdv
  /-- Ended batches of ordered accesses, oldest first, by context (05 R138). -/
  batches  : List (List (Who × OrdEntry))
  rounds   : Nat
  triggered : Bool
  /-- The rollback mark (18 R378), and a rollback whose event has been detected and that has not restarted (18 R377). -/
  mark     : Bool
  rollback : Bool
  event    : Option Detected
  /-- The cycle from which a group with an integrity event issues nothing (18 R377); none once it is halted. -/
  halting  : Option Nat
  /-- The cycle in which its rollback was detected, and the one in which a rendezvous last cleared its mark (04 R117). -/
  detected : Option Nat
  unmarked : Option Nat
  /-- The cycle in which an arrival or an exit of it was last performed (04 R105, R109). -/
  arrived  : Option Nat
  /-- The eviction timer: its start and its threshold, in ns (03 R96, 17 R351). -/
  timer    : Option (Nat × Nat)
  woken    : Bool
  /-- The code object was rewritten while the group was resident (08 R190). -/
  tainted  : Bool
  /-- The image in the save area. -/
  image    : Option Image
  /-- The group's scratchpad and tiles as saved (17 R359). -/
  savedMem : List Byte
  hadClaim : Bool
  savedAcc : Map (List (BitVec 40))
  savedDepth : Map Nat
  savedProv : Map Prov
  savedCmds : List Cmd
  savedLocks : List Lock
  deriving DecidableEq, Repr

/-- A dispatched grid (15 R327 to R331). -/
structure Grid where
  ctx     : Nat
  part    : Nat
  queue   : Nat
  recIdx  : Nat
  order   : Nat
  record  : BitVec 1024
  header  : BitVec 1024
  level   : Nat
  total   : Nat
  /-- Logical indices below `next` have been placed once. -/
  next    : Nat
  retired : Nat
  killed  : Nat
  trig    : Nat
  trigDone : Bool
  tokenRound : Nat
  tokenIndex : Nat
  firstGroup : Option Nat
  cause   : Option Cause
  aborted : Bool
  /-- The bytes of its two streams where they lie, first and last (08 R190). -/
  streams : List (Nat × Nat)
  /-- The status record is written (15 R331). -/
  ended   : Bool
  /-- The status and the cause of a launch that was refused (15 R327). -/
  refused : Option (Nat × Option Cause)
  /-- Its queue awaits its completion: it has not been enabled anew since (16 R340). -/
  owed    : Bool := true
  deriving DecidableEq, Repr

/-! ## Cores, clusters, pairs -/

/-- A TLB entry (19 R401): both stages combined, for the smaller mapping. -/
structure TlbEntry where
  ctx   : Nat
  page  : Nat
  size  : Nat
  ipa   : Nat
  pa    : Nat
  attr  : Nat
  perm1 : BitVec 3
  perm2 : BitVec 3
  deriving DecidableEq, Repr

/-- Why a walk ends without a mapping; `ue` names the flat address of the entry with the uncorrectable error. -/
inductive WalkStop
  | notMapped | stage2 | ue (flat : Nat)
  deriving DecidableEq, Repr

/-- A walk of a core in a cycle: what the misses of that cycle on its page receive (19 R402, R403): its end in stage 1, or the
permissions of stage 1 and what both stages give. -/
structure Walk where
  cycle  : Nat
  ctx    : Nat
  page   : Nat
  result : WalkStop ⊕ (BitVec 3 × (WalkStop ⊕ TlbEntry))
  deriving DecidableEq, Repr

/-- An entry of a quadrant's replay queue (18 R370): the clones of an issue group that have not executed. -/
structure Replay where
  quad  : Nat
  cycle : Nat
  pc    : Word
  refs  : List CtxRef
  deriving DecidableEq, Repr

/-- The vote of a port pair for one cycle (02 R56, R57; 03 R79): the contexts elected, those of them not issued yet, and the
cycle from which the special-function unit is free. -/
structure Vote where
  cycle    : Option Nat
  ballot   : List CtxRef
  left     : List CtxRef
  sfuUntil : Nat
  deriving DecidableEq, Repr

/-- A core (00 R2). -/
structure Core where
  locks   : List Lock
  cmds    : List Cmd
  nextCmd : Nat
  /-- Accumulator tiles, by quadrant·24 + tile: 1,024 words (01 R37). -/
  acc     : Map (List (BitVec 40))
  /-- Chain depth of each tile, completed commands only (01 R39). -/
  depth   : Map Nat
  prov    : Map Prov
  claim   : Option Nat
  running : Option Nat
  /-- The votes of the quadrants, and at 4 of the steward port. -/
  votes   : Map Vote
  /-- Bytes the L1 holds written and not yet performed at their home (13 R276). -/
  l1      : Memory
  tlb     : List TlbEntry
  /-- The walks of the last cycle in which the core had any. -/
  walks   : List Walk
  replay  : List Replay
  /-- The cycle in which clones last executed on lanes of a quadrant, and the lanes, by quadrant (18 R370). -/
  clones  : Map (Nat × List Nat)
  records : List (CtxRef × Dup)
  /-- Errors in accumulator tiles not yet met. -/
  accUe   : List Nat
  /-- The rows each reader has read of an abandoned drain, by group key·16 + set (14 R308). -/
  resume  : Map (List Nat)
  deriving DecidableEq, Repr

/-- An injection armed at a pair (18 R387). -/
structure Injection where
  kind  : Nat
  mask  : Word
  count : Nat
  deriving DecidableEq, Repr

/-- A pair of clusters (18 R372 to R375, R387). -/
structure Pair where
  formed : Bool
  /-- Formed in this cycle, its clusters on their way to fixed timing (18 R372, R392). -/
  forming : Bool
  inj    : Option Injection
  /-- The shadow's records, or the primary's, do not arrive at the comparator: a record of the other waits (18 R375). -/
  silent : Bool
  mute   : Bool
  deriving DecidableEq, Repr

/-! ## Contexts, queues, partitions -/

/-- Context states, in the order of their codes (17 R352). -/
inductive CState
  | free | idle | running | saving | saved | restoring | resetting
  deriving DecidableEq, Repr

/-- A registered code object (15 R323). -/
structure CodeReg where
  addr    : Nat
  len     : Nat
  measure : BitVec 384
  stale   : Bool
  /-- The physical lines of the object, watched for writes. -/
  lines   : List Nat
  deriving DecidableEq, Repr

/-- A reuse slot (07 R160) and the number of its bindings so far. -/
structure SlotRec where
  bits   : BitVec 512
  serial : Nat
  deriving DecidableEq, Repr

/-- A reset in progress (17 R362). -/
structure ResetSeq where
  start  : Nat
  cause  : Cause
  queuesHeld : Bool
  deriving DecidableEq, Repr

/-- A context: control block without CMD and STATE, state, status block, translation block, system registers,
descriptors, slots, code table (17 R351, R354; 19 R396; 14 R320; 06 R145; 07 R159; 15 R323). -/
structure Ctx where
  ctl       : BitVec 512
  state     : CState
  rollbacks : BitVec 64
  corrected : BitVec 64
  integ     : BitVec 64
  kills     : BitVec 64
  logIdx    : Word
  saves     : Word
  lastSaveNs  : Word
  lastSaveBlk : Word
  grpSel    : Word
  s1Root    : BitVec 64
  invVa     : BitVec 64
  invIpa    : BitVec 64
  invSeq    : Word
  /-- Invalidation commands written and not complete, oldest first, with their page. -/
  invCmds   : List (Nat × Nat)
  dbgctl    : BitVec 2
  ibrk      : Word
  descs     : Map (BitVec 1024)
  slots     : Map SlotRec
  code      : List CodeReg
  reset     : Option ResetSeq
  /-- The slice clock: its start in ns and the slice in µs (17 R351, R356). -/
  sliceAt   : Option (Nat × Nat)
  haltAt    : Option Nat
  /-- The image of the context section, while the context is saved (17 R359). -/
  image     : Option Image
  deriving DecidableEq, Repr

/-- Queue states, in the order of their codes (16 R333). -/
inductive QState
  | disabled | idle | active | headWait | draining | error
  deriving DecidableEq, Repr

/-- A queue's control block (16 R333), the records completed out of order (R335) and the hold of a reset (17 R362). -/
structure Queue where
  qbase    : BitVec 64
  log2     : Nat
  prio     : Nat
  ctx      : Nat
  launchOk : Bool
  enable   : Bool
  state    : QState
  writeIdx : Word
  readIdx  : Word
  doneIdx  : Word
  inflight : Nat
  faultCause : Byte
  doneOut  : List Word
  held     : Bool
  /-- The head record, kept while its event waits hold it (16 R334), and the waits that have been met (16 R339). -/
  head     : Option (BitVec 1024)
  met      : List Nat
  deriving DecidableEq, Repr

/-- The partition records and slot tables, loaded as one set (16 R344, 17 R348). -/
structure PartSet where
  parts  : List (BitVec 128)
  memory : List (BitVec 16)
  fabric : List (BitVec 16)
  deriving DecidableEq, Repr

/-! ## Tovor, memory integrity, links -/

/-- A memory channel (19 R405 to R407). -/
structure Channel where
  patrolEn : Bool
  passMs   : BitVec 16
  passes   : BitVec 16
  overruns : BitVec 8
  passAt   : Nat
  /-- The blocks of 64 bytes that this pass has visited. -/
  seen     : List Nat
  deriving DecidableEq, Repr

/-- The spare rows of a row (19 R406): the bank-local spare of its remap entry, if it has one, and a copy in progress: the spare it
goes to and the lines copied. -/
structure Spare where
  entry : Option Nat
  copy  : Option (Nat × Nat)
  deriving DecidableEq, Repr

/-- What a load makes of the value it reads (13 R274, 01 R20): the value, its sign extension, a nibble of it. -/
inductive LoadExt
  | plain | signed (bits : Nat) | nibble (odd : Bool)
  deriving DecidableEq, Repr

/-- Where a physical address lies: a flat address of the model's memory, or a peer's (20 R412). -/
inductive Loc
  | flat (a : Nat) (host : Bool)
  | peer (link : Nat) (chip : Bool) (a : Nat)
  deriving DecidableEq, Repr

/-- A part of a window access that lies at a peer (20 R410): a read by its number, and where its bytes go in it; a write. -/
inductive HostPart
  | read (number off : Nat) | write
  deriving DecidableEq, Repr

/-- The completion word of a cancelled CPY that waits for what the CPY has sent over a link (05 R129, 14 R303): the command, the
core, the flat address, the value, and whether its scope is wider than the core. -/
structure DueWord where
  cmd  : Nat
  core : Nat
  addr : Nat
  val  : Nat
  wide : Bool
  deriving DecidableEq, Repr

/-- An outbound Jarkin-link operation not yet acknowledged (20 R413, R414); `who` is none for what the device itself
writes. -/
structure OutOp where
  link : Nat
  ctx  : Nat
  who  : Option CtxRef
  ext  : LoadExt := .plain
  chip : Bool
  addr : Nat
  kind : LinkKind
  dst  : Option Nat
  sent : Nat
  /-- The sender's ordered accesses to the bytes of a read, laid over what it returns (05 R137). -/
  lay  : List OrdEntry := []
  /-- The engine command that sent it, and the slot whose DLT writes. -/
  cmd  : Option Nat := none
  own  : Option (Nat × Nat) := none
  /-- The address in the launch record of a status record or an event word that the device writes itself (15 R331). -/
  va   : Option Nat := none
  /-- The host's window access that it serves (20 R410). -/
  win  : Option HostPart := none
  deriving DecidableEq, Repr

/-- What the host writes to the control block of a queue (16 R333, R336, R340): WRITE_IDX, ENABLE as 1 or as 0, its configuration. -/
inductive QueueWrite
  | doorbell (value : Word) | enable | disable | config (block : BitVec 512)
  deriving DecidableEq, Repr

/-- What the host has sent behind its own writes that a peer has not acknowledged: PCIe lets nothing pass them (16 R336, 20 R410). A
window access has taken its translation; a write to a queue is performed as it then finds the queue. -/
inductive HostPost
  | write (n : Nat) (at_ : List Loc) (data : List Byte)
  | read (n : Nat) (at_ : List Loc)
  | atomic (n a : Nat) (w : HostWrite)
  | queue (p : Reach) (k : Nat) (w : QueueWrite)
  deriving DecidableEq, Repr

/-- A vehicle-network port (20 R416). -/
structure Port where
  ctl    : BitVec 64
  frames : Word
  bad    : Word
  deriving DecidableEq, Repr

/-- The device block (17 R355). -/
structure DevBlock where
  windowFaults : BitVec 64
  spareRemaps  : BitVec 64
  poisoned     : BitVec 64
  ueShared     : BitVec 64
  corrShared   : BitVec 64
  ueCtx        : BitVec 64
  corrCtx      : BitVec 64
  dlogIdx      : Word
  dlogSize     : BitVec 4
  dlogBase     : BitVec 64
  deriving DecidableEq, Repr

/-- The answer the host last received from a window read (20 R410): bytes, Completer Abort, Unsupported Request. -/
inductive HostReply
  | none | data (bs : List Byte) | completerAbort | unsupported
  deriving DecidableEq, Repr

/-- Tovor and the device-wide registers. -/
structure Tovor where
  request  : BitVec 512
  response : BitVec 512
  /-- REPORT_RING: base and log2 of the records (18 R384). -/
  ring     : Option (Nat × Nat)
  reportSeq : BitVec 24
  /-- FAULT_N asserted since this time, and the newest report with FAULTN = 1 (18 R386). -/
  faultN   : Option Nat
  faultSeq : Option (BitVec 24)
  /-- An accepted CLEAR_FAULT that waits for the 10 µs of 18 R386. -/
  faultClear : Bool
  degraded : Bool
  /-- CLOCK asked for the degraded step; when temperature or droop last triggered it (18 R390). -/
  clockAsked : Bool
  triggerAt : Option Nat
  /-- The step that the clocks enter or leave at the next cycle boundary (18 R372, R390). -/
  stepTo : Option Bool
  released : Bool
  active   : PartSet
  /-- A set that waits for its frame boundary, with the TAG to answer (16 R346). -/
  waiting  : Option (PartSet × Word)
  /-- The clock cap Tovor applies to a partition, in MHz (18 R388). -/
  caps     : Map Nat
  block    : DevBlock
  winBase  : Map (BitVec 64)
  bindings : Map (BitVec 128)
  linkUp   : List Bool
  outbound : List OutOp
  /-- Completion words still to be written. -/
  due      : List DueWord
  /-- Host window reads with bytes at a peer, by number: the bytes that are there; and the next number (20 R410). -/
  winReads : Map (List (Option Byte))
  winNext  : Nat
  /-- What of the host waits behind its own writes to a peer, oldest first. -/
  posted   : List HostPost
  ports    : List Port
  channels : Map Channel
  rowCount : Map Nat
  spares   : Map Spare
  /-- Spare rows used, by channel + 32·bank (19 R406). -/
  spareUsed : Map (List Nat)
  irqs     : List Nat
  hostReply : HostReply
  /-- The answer a peer last received to an operation of its own (20 R413). -/
  linkReply : Option LinkReply
  nonFatal : Nat
  /-- Memory errors that have arisen and not been met, by the first 64-bit word of what their check bits cover, correctable or not (18
  R381, R382; 19 R404). -/
  latent   : Map Bool
  /-- The 64-bit words whose clean cached copy holds an uncorrectable error that nothing has met (18 R382, 19 R404). -/
  badCopies : List Nat
  /-- Poisoned blocks of 64 bytes (18 R382, 19 R404). -/
  poison   : List Nat
  selfTests : Nat
  deriving DecidableEq, Repr

/-! ## The whole machine -/

/-- A turn: the cycles by which the clocks advance before it, in `elastic` those of elastic clusters that differ (02 R48), and
the nanoseconds of Tovor's clock; and what takes place: a context issues, or a happening of the device, or nothing more, where what
stood here has been taken earlier in its cycle (log 2). -/
inductive TurnOf
  | issue (r : CtxRef) | event (i : Instr) | pause
  deriving DecidableEq, Repr

structure Turn where
  cycles  : Nat
  elastic : Map Nat := []
  ns      : Nat
  what    : TurnOf
  deriving DecidableEq, Repr

/-- The state of the machine. -/
structure State where
  /-- The context whose turn it is to issue, and the turns to come: the model's own (log 2). -/
  cur      : CtxRef
  agenda   : List Turn
  /-- The free-value counter: the model's own (log 3). -/
  free     : Nat
  refNs    : Nat
  cycles   : Map Nat
  mem      : Memory
  /-- Groups by key: grid·2⁶⁴ + logical index. -/
  groups   : Map Group
  grids    : Map Grid
  gridSeq  : Nat
  cores    : Map Core
  fixed    : Map Bool
  tlb2     : Map (List TlbEntry)
  pairs    : Map Pair
  retiredPairs : List Nat
  retiredQuads : List Nat
  ctxs     : Map Ctx
  queues   : Map Queue
  /-- Round-robin: the queue served last, by partition·8 + priority (16 R341). -/
  served   : Map Nat
  /-- The context of a partition that was pre-empted last, by partition (17 R356). -/
  turn     : Map Nat
  /-- Partitions in which a context was pre-empted and none has been restored or placed since (17 R356). -/
  sliceDue : List Nat
  /-- How often a candidate has been passed over, and the reserving candidates in order (16 R342). -/
  passed   : Map Nat
  reserving : List Nat
  tovor    : Tovor
  deriving DecidableEq, Repr

/-! ## Reasons a step can stop -/

/-- The faults of the model: none, since the manual gives every instruction and every happening an effect. -/
inductive Fault
  deriving DecidableEq, Repr

/-- The refusals of the model. -/
inductive Refusal
  /-- Raised by an arm of `exec` whose instruction has no meaning yet. Safe: nothing is claimed of it. -/
  | notModelled (mnemonic : String)
  deriving DecidableEq, Repr

/-! ## Reset -/

def resetPart : PartSet :=
  { parts := List.replicate 12 0, memory := List.replicate 64 0xFF, fabric := List.replicate 32 0xFF }

def resetTovor : Tovor :=
  { request := 0, response := 0, ring := none, reportSeq := 0, faultN := none, faultSeq := none, faultClear := false
    degraded := false, clockAsked := false, triggerAt := none, stepTo := none, released := true, active := resetPart, waiting := none
    caps := []
    block := { windowFaults := 0, spareRemaps := 0, poisoned := 0, ueShared := 0, corrShared := 0, ueCtx := 0
               corrCtx := 0, dlogIdx := 0, dlogSize := 0, dlogBase := 0 }
    winBase := [], bindings := [], linkUp := [true, true], outbound := [], due := [], winReads := [], winNext := 0, posted := []
    ports := List.replicate 4 { ctl := 0, frames := 0, bad := 0 }
    channels := [], rowCount := [], spares := [], spareUsed := [], irqs := [], hostReply := .none, linkReply := none, nonFatal := 0, latent := [], badCopies := []
    poison := [], selfTests := 0 }

/-- The machine right after reset: the compute domain released, no partition, context, queue, grid or group. -/
def State.reset : State :=
  { cur := { group := 0, who := .thread 0 }, agenda := [], free := 0, refNs := 0, cycles := [], mem := [], groups := []
    grids := [], gridSeq := 0, cores := [], fixed := [], tlb2 := [], pairs := [], retiredPairs := []
    retiredQuads := [], ctxs := [], queues := [], served := [], turn := [], sliceDue := [], passed := [], reserving := [], tovor := resetTovor }

end Sys2Proof.Machine
end

