-- ==== Sys2Proof/Machine/Bits.lean ====
section
/-!
DEFINITION. Bit fields, sign extension and byte order on numbers (00 R9, R14), and the keyed collections of the state.
-/
namespace Sys2Proof.Machine

/-- `value[lo + len - 1 : lo]`. -/
def bitsOf (v lo len : Nat) : Nat := (v >>> lo) % 2 ^ len

def bitAt (v i : Nat) : Bool := v.testBit i

/-- Zext(value, n). -/
def zext (v n : Nat) : Nat := v % 2 ^ n

/-- Sext(value, n). -/
def sext (v n : Nat) : Int :=
  let u := v % 2 ^ n
  if u < 2 ^ (n - 1) then (u : Int) else (u : Int) - (2 ^ n : Nat)

/-- The n-bit two's-complement form of a value. -/
def wrap (v : Int) (n : Nat) : Nat := (v % ((2 ^ n : Nat) : Int)).toNat

/-- What a load writes of the value it reads. -/
def LoadExt.apply : LoadExt → Nat → Nat
  | .plain, v => v
  | .signed n, v => wrap (sext v n) 32
  | .nibble odd, v => if odd then v / 16 else v % 16

/-- A value moved into a range. -/
def clampInt (v lo hi : Int) : Int := if v < lo then lo else if hi < v then hi else v

/-- `hi:lo` of two 32-bit words. -/
def pairNat (lo hi : Word) : Nat := lo.toNat + hi.toNat * 2 ^ 32

/-- The little-endian bytes of a number. -/
def bytesOfNat : Nat → Nat → List Byte
  | 0, _ => []
  | n + 1, v => BitVec.ofNat 8 v :: bytesOfNat n (v >>> 8)

/-- The number of little-endian bytes. -/
def natOfLe : List Byte → Nat
  | [] => 0
  | b :: bs => b.toNat + 256 * natOfLe bs

/-- A field of a wide register. -/
def field {n : Nat} (v : BitVec n) (lo len : Nat) : Nat := bitsOf v.toNat lo len

def flag {n : Nat} (v : BitVec n) (i : Nat) : Bool := v.toNat.testBit i

/-- `v` with a field replaced. -/
def putField (v lo len new : Nat) : Nat := v - (bitsOf v lo len) * 2 ^ lo + (new % 2 ^ len) * 2 ^ lo

/-- Addition that saturates at all ones. -/
def satInc {n : Nat} (v : BitVec n) : BitVec n := if v = BitVec.allOnes n then v else v + 1

def ceilDiv (a b : Nat) : Nat := (a + b - 1) / b

def boolNat (b : Bool) : Nat := if b then 1 else 0

/-! ## Collections by number -/

/-- The entry of a key, if it is listed. -/
def mapFind {α : Type} : Map α → Nat → Option α
  | [], _ => none
  | (k', v) :: m, k => if k = k' then some v else if k < k' then none else mapFind m k

/-- The entry of a key, or the default. -/
def mapGet {α : Type} (dflt : α) (m : Map α) (k : Nat) : α := (mapFind m k).getD dflt

/-- The collection with an entry set. -/
def mapPut {α : Type} : Map α → Nat → α → Map α
  | [], k, v => [(k, v)]
  | (k', v') :: m, k, v =>
    if k = k' then (k, v) :: m else if k < k' then (k, v) :: (k', v') :: m else (k', v') :: mapPut m k v

/-- The collection without a key. -/
def mapDrop {α : Type} : Map α → Nat → Map α
  | [], _ => []
  | (k', v') :: m, k => if k = k' then m else if k < k' then (k', v') :: m else (k', v') :: mapDrop m k

/-- Every entry changed, its key known. -/
def mapEach {α : Type} (m : Map α) (f : Nat → α → α) : Map α := m.map fun p => (p.1, f p.1 p.2)

/-- The entry of a list at a place, changed. -/
def listModify {α : Type} : List α → Nat → (α → α) → List α
  | [], _, _ => []
  | x :: xs, 0, f => f x :: xs
  | x :: xs, n + 1, f => x :: listModify xs n f

/-- The list without the entry at a place. -/
def listRemove {α : Type} : List α → Nat → List α
  | [], _ => []
  | _ :: xs, 0 => xs
  | x :: xs, n + 1 => x :: listRemove xs n

end Sys2Proof.Machine
end

