-- ==== Sys2Proof/Machine/Float.lean ====
section
/-!
DEFINITION. Floating-point numbers (01 R22 to R36): bit patterns as numbers, exact values as integers times powers of
two, and one rounding.
-/
namespace Sys2Proof.Machine

/-- A format: exponent bits, fraction bits (01 R22). -/
structure Fmt where
  ebits : Nat
  fbits : Nat
  deriving DecidableEq, Repr

def fF32 : Fmt := ⟨8, 23⟩
def fF16 : Fmt := ⟨5, 10⟩
def fBF16 : Fmt := ⟨8, 7⟩

/-- The scalar format of a type, or the element format of a packed type (R23). -/
def Ty.fmt : Ty → Fmt
  | .f16 | .f16x2 => fF16
  | .bf16 | .bf16x2 => fBF16
  | _ => fF32

namespace Fmt
def width (f : Fmt) : Nat := 1 + f.ebits + f.fbits
def bias (f : Fmt) : Nat := 2 ^ (f.ebits - 1) - 1
/-- The exponent of the smallest subnormal. -/
def qmin (f : Fmt) : Int := 1 - (f.bias : Int) - (f.fbits : Int)
def expAll (f : Fmt) : Nat := 2 ^ f.ebits - 1
def signBit (f : Fmt) : Nat := 2 ^ (f.ebits + f.fbits)
def infBits (f : Fmt) : Nat := f.expAll * 2 ^ f.fbits
def maxBits (f : Fmt) : Nat := f.infBits - 1
def quietBit (f : Fmt) : Nat := 2 ^ (f.fbits - 1)
def oneBits (f : Fmt) : Nat := f.bias * 2 ^ f.fbits
def sign (f : Fmt) (b : Nat) : Bool := b.testBit (f.ebits + f.fbits)
def expo (f : Fmt) (b : Nat) : Nat := bitsOf b f.fbits f.ebits
def frac (f : Fmt) (b : Nat) : Nat := bitsOf b 0 f.fbits
def mag (f : Fmt) (b : Nat) : Nat := b % f.signBit
def isNan (f : Fmt) (b : Nat) : Bool := f.expo b == f.expAll && f.frac b != 0
def isInf (f : Fmt) (b : Nat) : Bool := f.mag b == f.infBits
def isZero (f : Fmt) (b : Nat) : Bool := f.mag b == 0
def withSign (f : Fmt) (neg : Bool) (m : Nat) : Nat := if neg then f.signBit + m else m
def negate (f : Fmt) (b : Nat) : Nat := f.withSign (!f.sign b) (f.mag b)
/-- Quiet(x) (11 R227). -/
def quiet (f : Fmt) (b : Nat) : Nat := b ||| f.quietBit
end Fmt

/-- The lane and the PC that a generated NaN carries (R28). -/
structure NanTag where
  lane : Nat
  pc   : Nat
  deriving DecidableEq, Repr

/-- GenNaN(code): quiet, positive, with the payload of R28. -/
def genNan (f : Fmt) (t : NanTag) (code : Nat) : Nat :=
  let pay :=
    if f.fbits = 23 then code * 2 ^ 16 + (t.lane % 32) * 2 ^ 11 + bitsOf t.pc 2 11
    else if f.fbits = 10 then code * 8 + t.lane % 8
    else code
  f.infBits + f.quietBit + pay

/-- The magnitude of a finite pattern: significand and exponent of its last bit. -/
def Fmt.finite (f : Fmt) (b : Nat) : Nat × Int :=
  let e := f.expo b
  if e = 0 then (f.frac b, f.qmin) else (2 ^ f.fbits + f.frac b, (e : Int) - 1 + f.qmin)

/-- `2^k · m` as a number, for an exponent of either sign towards a common one. -/
def shiftTo (m : Nat) (e to_ : Int) : Nat := m * 2 ^ (e - to_).toNat

/-- The value of a finite pattern as an integer multiple of `2^to_`, for `to_` not above its exponent. -/
def Fmt.signedAt (f : Fmt) (b : Nat) (to_ : Int) : Int :=
  let (m, e) := f.finite b
  if f.sign b then -(shiftTo m e to_ : Int) else (shiftTo m e to_ : Int)

/-- Whether a magnitude is rounded away from zero: modes of R25, sign, last kept bit, first dropped bit, rest. -/
def roundsUp (mode : Nat) (neg odd half rest : Bool) : Bool :=
  match mode with
  | 0 => half && (rest || odd)
  | 1 => false
  | 2 => !neg && (half || rest)
  | _ => neg && (half || rest)

/-- What overflow becomes (R26). -/
def overflowBits (f : Fmt) (mode : Nat) (neg : Bool) : Nat :=
  let inf := match mode with
    | 0 => true
    | 1 => false
    | 2 => !neg
    | _ => neg
  f.withSign neg (if inf then f.infBits else f.maxBits)

/-- `m` shifted right by `k`, rounded to an integer; `sticky` stands for a nonzero part below. -/
def roundShift (mode : Nat) (neg : Bool) (m k : Nat) (sticky : Bool) : Nat :=
  if k = 0 then m
  else
    let kept := m >>> k
    let half := m.testBit (k - 1)
    let rest := m % 2 ^ (k - 1) != 0 || sticky
    kept + boolNat (roundsUp mode neg (kept % 2 == 1) half rest)

/-- The exact nonzero magnitude `m · 2^e` (a little more when `sticky`), rounded once to a format (R25, R26). -/
def roundMag (f : Fmt) (mode : Nat) (neg : Bool) (m : Nat) (e : Int) (sticky : Bool := false) : Nat :=
  if m = 0 then f.withSign neg 0
  else
    let top : Int := e + (Nat.log2 m : Nat) - (f.fbits : Nat)
    let q : Int := if top < f.qmin then f.qmin else top
    let kept := if q ≤ e then m * 2 ^ (e - q).toNat else roundShift mode neg m (q - e).toNat sticky
    let bits := (q - f.qmin).toNat * 2 ^ f.fbits + kept
    if f.infBits ≤ bits then overflowBits f mode neg else f.withSign neg bits

/-- An exact signed value `v · 2^e`, rounded; an exact zero takes the given sign. -/
def roundInt (f : Fmt) (mode : Nat) (v : Int) (e : Int) (zeroNeg : Bool) : Nat :=
  if v = 0 then f.withSign zeroNeg 0 else roundMag f mode (v < 0) v.natAbs e

/-- Under `.SAT` an infinite result becomes the largest finite value of its sign (R26). -/
def satFloat (f : Fmt) (sat : Bool) (b : Nat) : Nat :=
  if sat && f.isInf b then f.withSign (f.sign b) f.maxBits else b

/-- The first NaN among the operands (R30). -/
def firstNan (f : Fmt) (ops : List Nat) : Option Nat := ops.find? f.isNan

/-- A sum without NaN operands. -/
def addNum (f : Fmt) (mode : Nat) (t : NanTag) (a b : Nat) : Nat :=
  if f.isInf a then (if f.isInf b && f.sign a != f.sign b then genNan f t 1 else a)
  else if f.isInf b then b
  else
    let e := min (f.finite a).2 (f.finite b).2
    let zneg := if f.sign a == f.sign b then f.sign a else mode == 3
    roundInt f mode (f.signedAt a e + f.signedAt b e) e zneg

/-- FADD of R230, before `.SAT`. -/
def fadd (f : Fmt) (mode : Nat) (t : NanTag) (a b : Nat) : Nat :=
  match firstNan f [a, b] with
  | some n => f.quiet n
  | none => addNum f mode t a b

/-- FSUB of R230: it never changes the sign of a NaN operand. -/
def fsub (f : Fmt) (mode : Nat) (t : NanTag) (a b : Nat) : Nat :=
  match firstNan f [a, b] with
  | some n => f.quiet n
  | none => addNum f mode t a (f.negate b)

/-- FMUL of R230. -/
def fmul (f : Fmt) (mode : Nat) (t : NanTag) (a b : Nat) : Nat :=
  match firstNan f [a, b] with
  | some n => f.quiet n
  | none =>
    let neg := f.sign a != f.sign b
    if f.isInf a || f.isInf b then
      if f.isZero a || f.isZero b then genNan f t 1 else f.withSign neg f.infBits
    else
      let (ma, ea) := f.finite a
      let (mb, eb) := f.finite b
      roundMag f mode neg (ma * mb) (ea + eb)

/-- FFMA of R230: one exact expression; `.NEG` negates the product. -/
def ffma (f : Fmt) (mode : Nat) (t : NanTag) (neg : Bool) (a b c : Nat) : Nat :=
  match firstNan f [a, b, c] with
  | some n => f.quiet n
  | none =>
    let pneg := (f.sign a != f.sign b) != neg
    if f.isInf a || f.isInf b then
      if f.isZero a || f.isZero b then genNan f t 1
      else if f.isInf c && f.sign c != pneg then genNan f t 1
      else f.withSign pneg f.infBits
    else if f.isInf c then c
    else
      let (ma, ea) := f.finite a
      let (mb, eb) := f.finite b
      let (_, ec) := f.finite c
      let e := min (ea + eb) ec
      let prod : Int := shiftTo (ma * mb) (ea + eb) e
      let zneg := if pneg == f.sign c then pneg else mode == 3
      roundInt f mode ((if pneg then -prod else prod) + f.signedAt c e) e zneg

/-- The order of numbers, −0 below +0: a pattern as a signed integer. -/
def orderKey (f : Fmt) (b : Nat) : Int := if f.sign b then -1 - (f.mag b : Int) else (f.mag b : Int)

/-- FMIN and FMAX (R33); under `.NANP` the first NaN wins. -/
def fminmax (f : Fmt) (isMax nanp : Bool) (a b : Nat) : Nat :=
  let pick := if isMax then (if orderKey f a < orderKey f b then b else a)
              else (if orderKey f b < orderKey f a then b else a)
  match f.isNan a, f.isNan b with
  | true, true => f.quiet a
  | true, false => if nanp then f.quiet a else b
  | false, true => if nanp then f.quiet b else a
  | false, false => pick

/-- −1, 0, 1 for a < b, a = b, a > b; −0 equals +0. -/
def fcompare (f : Fmt) (a b : Nat) : Int :=
  let v (x : Nat) : Int := if f.sign x then -(f.mag x : Int) else (f.mag x : Int)
  if v a < v b then -1 else if v a = v b then 0 else 1

/-- The conditions of SUB on float types (08 R182). -/
def fcond (f : Fmt) (cond : Nat) (a b : Nat) : Bool :=
  let nan := f.isNan a || f.isNan b
  let c := fcompare f a b
  match cond with
  | 0 => !nan && c == 0
  | 1 => nan || c != 0
  | 2 => !nan && c == -1
  | 3 => !nan && c != 1
  | 4 => !nan && c == 1
  | 5 => !nan && c != -1
  | 6 => !nan
  | 7 => nan
  | 8 => nan || c == -1
  | 9 => nan || c != 1
  | 10 => nan || c == 1
  | 11 => nan || c != -1
  | 12 => nan || c == 0
  | _ => !nan && c != 0

/-- The class word (11 R235). -/
def fclass (f : Fmt) (b : Nat) : Nat :=
  let neg := f.sign b
  if f.isNan b then
    let ev := if f.fbits = 23 then bitsOf b 16 6 else if f.fbits = 10 then bitsOf b 3 6 else bitsOf b 0 6
    ev * 2 ^ 16 + (if f.frac b / f.quietBit % 2 = 1 then 2 ^ 9 else 2 ^ 8)
  else if f.isInf b then (if neg then 1 else 2 ^ 7)
  else if f.isZero b then (if neg then 2 ^ 3 else 2 ^ 4)
  else if f.expo b = 0 then (if neg then 2 ^ 2 else 2 ^ 5)
  else (if neg then 2 else 2 ^ 6)

/-- The magnitude of a finite pattern rounded to an integer. -/
def integralMag (f : Fmt) (mode : Nat) (b : Nat) : Nat :=
  let (m, e) := f.finite b
  if 0 ≤ e then m * 2 ^ e.toNat else roundShift mode (f.sign b) m (-e).toNat false

/-- FRND (11 R236). -/
def frnd (f : Fmt) (mode : Nat) (b : Nat) : Nat :=
  if f.isNan b then f.quiet b
  else if f.isInf b || f.isZero b then b
  else
    let v := integralMag f mode b
    if v = 0 then f.withSign (f.sign b) 0 else roundMag f mode (f.sign b) v 0

/-- FSCALE (11 R237), before `.SAT`. Exponents beyond ±4,096 act as ±4,096, which overflows or underflows alike. -/
def fscale (f : Fmt) (mode : Nat) (t : NanTag) (a b : Nat) : Nat :=
  match firstNan f [a, b] with
  | some n => f.quiet n
  | none =>
    if f.isInf b then
      if !f.sign b && f.isZero a then genNan f t 1
      else if f.sign b && f.isInf a then genNan f t 1
      else if f.isZero a || f.isInf a then a
      else if f.sign b then roundMag f mode (f.sign a) 1 (-4096)
      else overflowBits f mode (f.sign a)
    else if f.isZero a || f.isInf a then a
    else
      let (mb, eb) := f.finite b
      let cut : Nat := if 12 < eb then (if mb = 0 then 0 else 4096)
        else min 4096 (if 0 ≤ eb then mb * 2 ^ eb.toNat else mb >>> (-eb).toNat)
      let n : Int := if f.sign b then -(cut : Int) else (cut : Int)
      let (ma, ea) := f.finite a
      roundMag f mode (f.sign a) ma (ea + n)

/-- FKEY, the three encodings (11 R238). -/
def fkey (f : Fmt) (op : Nat) (b : Nat) : Nat :=
  let top := f.signBit
  if op = 1 && f.isNan b then 0
  else if op = 2 && f.isNan b then 2 * top - 1
  else if f.sign b then 2 * top - 1 - b else b + top

/-- FKEY.DEC (11 R238). -/
def fkeyDec (f : Fmt) (k : Nat) : Nat :=
  if k.testBit (f.ebits + f.fbits) then k - f.signBit else 2 * f.signBit - 1 - k

/-- A NaN carried between formats (R31), quiet. -/
def nanConvert (src dst : Fmt) (b : Nat) : Nat :=
  let frac := src.frac b
  let wide := if src.fbits = 23 then frac else if src.fbits = 7 then frac * 2 ^ 16
    else bitsOf frac 3 6 * 2 ^ 16 + bitsOf frac 0 3 * 2 ^ 11
  let narrow := if dst.fbits = 23 then wide else if dst.fbits = 7 then wide / 2 ^ 16
    else bitsOf wide 16 6 * 8 + bitsOf wide 11 3
  dst.withSign (src.sign b) (dst.infBits + (narrow ||| dst.quietBit))

/-- Conversion between float formats (11 R241), before `.SAT`. -/
def fconvert (src dst : Fmt) (mode : Nat) (b : Nat) : Nat :=
  if src.isNan b then nanConvert src dst b
  else if src.isInf b then dst.withSign (src.sign b) dst.infBits
  else
    let (m, e) := src.finite b
    roundMag dst mode (src.sign b) m e

/-- Float to integer (R32): the target's range is `lo … hi`. -/
def floatToInt (f : Fmt) (mode : Nat) (lo hi : Int) (b : Nat) : Int :=
  if f.isNan b then lo
  else if f.isInf b then (if f.sign b then lo else hi)
  else
    let m : Int := integralMag f mode b
    clampInt (if f.sign b then -m else m) lo hi

/-- Integer to float (R32). -/
def intToFloat (f : Fmt) (mode : Nat) (v : Int) : Nat := roundInt f mode v 0 false

/-- An integer times an F32 scale, rounded once (01 R42 step 1, 11 R240); the zero integer counts as +0. -/
def mulIntF32 (mode : Nat) (t : NanTag) (code : Nat) (v : Int) (s : Nat) : Nat :=
  let f := fF32
  if f.isInf s then
    if v = 0 then genNan f t code else f.withSign (f.sign s != decide (v < 0)) f.infBits
  else
    let (m, e) := f.finite s
    if v = 0 then f.withSign (f.sign s) 0
    else roundMag f mode (f.sign s != decide (v < 0)) (v.natAbs * m) e

/-! ## Correctly rounded special functions (01 R36) -/

/-- The integer square root, bit by bit from bit `n`. -/
def isqrtBits (v : Nat) : Nat → Nat → Nat
  | 0, r => r
  | n + 1, r =>
    let r' := r + 2 ^ n
    isqrtBits v n (if r' * r' ≤ v then r' else r)

def isqrt (v : Nat) : Nat := isqrtBits v (Nat.log2 v / 2 + 1) 0

/-- A finite magnitude with an even exponent. -/
def evenExp (m : Nat) (e : Int) : Nat × Int := if e % 2 = 0 then (m, e) else (2 * m, e - 1)

/-- FRCP (11 R243, R244). -/
def frcp (f : Fmt) (b : Nat) : Nat :=
  if f.isNan b then f.quiet b
  else if f.isInf b then f.withSign (f.sign b) 0
  else if f.isZero b then f.withSign (f.sign b) f.infBits
  else
    let (m, e) := f.finite b
    roundMag f 0 (f.sign b) (2 ^ 80 / m) (-80 - e) (2 ^ 80 % m != 0)

/-- FSQRT (11 R243, R244). -/
def fsqrt (f : Fmt) (t : NanTag) (b : Nat) : Nat :=
  if f.isNan b then f.quiet b
  else if f.isZero b then b
  else if f.sign b then genNan f t 2
  else if f.isInf b then b
  else
    let (m, e) := evenExp (f.finite b).1 (f.finite b).2
    let v := m * 2 ^ 60
    let r := isqrt v
    roundMag f 0 false r (e / 2 - 30) (r * r != v)

/-- FRSQ (11 R243, R244). -/
def frsq (f : Fmt) (t : NanTag) (b : Nat) : Nat :=
  if f.isNan b then f.quiet b
  else if f.isZero b then f.withSign (f.sign b) f.infBits
  else if f.sign b then genNan f t 2
  else if f.isInf b then 0
  else
    let (m, e) := evenExp (f.finite b).1 (f.finite b).2
    let r := isqrt (2 ^ 160 / m)
    roundMag f 0 false r (-80 - e / 2) (r * r * m != 2 ^ 160)

end Sys2Proof.Machine
end

