-- ==== Sys2Proof/Machine/Mem.lean ====
section
/-!
DEFINITION. Memory. Every byte the device reaches without a link has one flat address: local DRAM from 0 (19 R404, 124
GiB), the chip scratchpad from 2⁴⁸ (00 R5, 32 MiB), the core scratchpads from 2·2⁴⁸ (00 R2, 256 KiB each, core by core),
host memory from 3·2⁴⁸ (20 R411, 48-bit addresses). A byte that nothing has written reads as 0 (log 6).
-/
namespace Sys2Proof.Machine

def dramBase : Nat := 0
def scrBase : Nat := 2 ^ 48
def coreBase : Nat := 2 * 2 ^ 48
def hostBase : Nat := 3 * 2 ^ 48
def memTop : Nat := 4 * 2 ^ 48

/-- 124 GiB of usable DRAM (00 R5, 19 R395). -/
def dramBytes : Nat := 124 * 2 ^ 30
/-- A core scratchpad (00 R2). -/
def corePadBytes : Nat := 2 ^ 18

/-! ### Check bits (19 R404) -/

/-- How many bytes check bits cover at an address: a 64-bit word of a scratchpad, else a block of 64 bytes (log 45). -/
def unitBytes (a : Nat) : Nat := if decide (scrBase ≤ a) && decide (a < hostBase) then 8 else 64

/-- What check bits cover at an address, by its first 64-bit word. -/
def errUnit (a : Nat) : Nat := a / unitBytes a * (unitBytes a / 8)

/-- A write gives what it touches fresh check bits: poison and errors are gone (18 R382, 19 R405). `hits` says whether it touches some
bytes of an address on. -/
def Tovor.rewritten (t : Tovor) (hits : Nat → Nat → Bool) : Tovor :=
  { t with poison := t.poison.filter fun b => !hits (64 * b) 64
           latent := t.latent.filter fun p => !hits (8 * p.1) (unitBytes (8 * p.1))
           badCopies := t.badCopies.filter fun w => !hits (8 * w) 8 }

/-- An error that arises in a unit of check bits: one that they cannot correct stays so. -/
def putError (latent : Map Bool) (unit : Nat) (correctable : Bool) : Map Bool :=
  if mapFind latent unit = some false then latent else mapPut latent unit correctable

/-- Of a write to a range, and to a list of bytes. -/
def hitsRange (first n a size : Nat) : Bool := decide (a < first + n) && decide (first < a + size)
def hitsBytes (ws : List WByte) (a size : Nat) : Bool := ws.any fun w => decide (a ≤ w.addr) && decide (w.addr < a + size)

/-- The canonical form: addresses strictly rising, below the top of memory, and no byte 0. -/
def memSorted : Nat → Memory → Bool
  | _, [] => true
  | lo, (a, b) :: m => decide (lo ≤ a) && decide (a < memTop) && b != 0 && memSorted (a + 1) m

def Memory.wf (m : Memory) : Bool := memSorted 0 m

/-- The byte at an address. -/
def memGet : Memory → Nat → Byte
  | [], _ => 0
  | (a, b) :: m, k => if k = a then b else if k < a then 0 else memGet m k

/-- Memory with a byte written; writing 0 removes the entry. -/
def memPut : Memory → Nat → Byte → Memory
  | [], k, v => if v = 0 then [] else [(k, v)]
  | (a, b) :: m, k, v =>
    if k = a then (if v = 0 then m else (k, v) :: m)
    else if k < a then (if v = 0 then (a, b) :: m else (k, v) :: (a, b) :: m)
    else (a, b) :: memPut m k v

/-- A write of a byte, only below the top of memory. -/
def memSet (m : Memory) (k : Nat) (v : Byte) : Memory := if k < memTop then memPut m k v else m

/-- Consecutive bytes. -/
def memBytes (m : Memory) (a : Nat) : Nat → List Byte
  | 0 => []
  | n + 1 => memGet m a :: memBytes m (a + 1) n

/-- A little-endian number. -/
def memNat (m : Memory) (a n : Nat) : Nat := natOfLe (memBytes m a n)

def memSetBytes (m : Memory) (a : Nat) : List Byte → Memory
  | [] => m
  | b :: bs => memSetBytes (memSet m a b) (a + 1) bs

/-- Memory with `n` bytes from `a` zero: the entries in between are dropped. -/
def memZero (m : Memory) (a n : Nat) : Memory := m.filter fun c => c.1 < a || a + n ≤ c.1

/-- A byte with the bits of a mask replaced. -/
def mixByte (old new mask : Byte) : Byte := (old &&& ~~~mask) ||| (new &&& mask)

def memSetMasked (m : Memory) : List WByte → Memory
  | [] => m
  | w :: ws => memSetMasked (memSet m w.addr (mixByte (memGet m w.addr) w.val w.mask)) ws

/-! The L1 of a core (13 R276): bytes written there and not yet performed at their home, by address. Unlike `Memory` it
lists bytes that are 0. -/

def l1Put : Memory → Nat → Byte → Memory
  | [], k, v => [(k, v)]
  | (a, b) :: m, k, v =>
    if k = a then (k, v) :: m else if k < a then (k, v) :: (a, b) :: m else (a, b) :: l1Put m k v

def l1Get : Memory → Nat → Option Byte
  | [], _ => none
  | (a, b) :: m, k => if k = a then some b else if k < a then none else l1Get m k

end Sys2Proof.Machine
end

