-- ==== Sys2Proof/Machine/Views.lean ====
section
/-!
DEFINITION. How the state is read and written by name: the objects of the collections with their defaults, the fields of
the packed records of the manual, and contexts by reference.
-/
namespace Sys2Proof.Machine

/-! ## Causes -/

/-- The 8-bit code of a cause (12 R271). -/
def Cause.code (c : Cause) : Nat := c.ctorIdx

/-! ## Defaults of the collections: what an object holds at reset -/

def initCore : Core :=
  { locks := [], cmds := [], nextCmd := 0, acc := [], depth := [], prov := [], claim := none, running := none, votes := []
    l1 := [], tlb := [], walks := [], replay := [], clones := [], records := [], accUe := [], resume := [] }

def initVote : Vote := { cycle := none, ballot := [], left := [], sfuUntil := 0 }

def initPair : Pair := { formed := false, forming := false, inj := none, silent := false, mute := false }

def initCtx : Ctx :=
  { ctl := 0, state := .free, rollbacks := 0, corrected := 0, integ := 0, kills := 0, logIdx := 0, saves := 0
    lastSaveNs := 0, lastSaveBlk := 0, grpSel := 0, s1Root := 0, invVa := 0, invIpa := 0, invSeq := 0, invCmds := []
    dbgctl := 0, ibrk := 0, descs := [], slots := [], code := [], reset := none, sliceAt := none, haltAt := none
    image := none }

def initQueue : Queue :=
  { qbase := 0, log2 := 0, prio := 0, ctx := 0, launchOk := false, enable := false, state := .disabled, writeIdx := 0
    readIdx := 0, doneIdx := 0, inflight := 0, faultCause := 0, doneOut := [], held := false, head := none
    met := [] }

def initChannel : Channel := { patrolEn := true, passMs := 1000, passes := 0, overruns := 0, passAt := 0, seen := [] }

def initSlot : SlotRec := { bits := 0, serial := 0 }

/-- A tile after MXZ, and before anything has written it: every word Fwd(0) (01 R37, log 8). -/
def zeroTile : List (BitVec 40) := List.replicate 1024 0

/-! ## Objects by number -/

def State.core (s : State) (k : Nat) : Core := mapGet initCore s.cores k
def State.setCore (s : State) (k : Nat) (c : Core) : State := { s with cores := mapPut s.cores k c }
def State.ctx (s : State) (n : Nat) : Ctx := mapGet initCtx s.ctxs n
def State.setCtx (s : State) (n : Nat) (c : Ctx) : State := { s with ctxs := mapPut s.ctxs n c }
def State.queue (s : State) (p q : Nat) : Queue := mapGet initQueue s.queues (p * 64 + q)
def State.setQueue (s : State) (p q : Nat) (v : Queue) : State := { s with queues := mapPut s.queues (p * 64 + q) v }
def State.pair (s : State) (j : Nat) : Pair := mapGet initPair s.pairs j
def State.setPair (s : State) (j : Nat) (v : Pair) : State := { s with pairs := mapPut s.pairs j v }
def State.group? (s : State) (k : Nat) : Option Group := mapFind s.groups k
def State.setGroup (s : State) (k : Nat) (g : Group) : State := { s with groups := mapPut s.groups k g }
/-- The image of a saved group is complete: the group is in memory and on no core (17 R352). -/
def Group.saved (g : Group) : Bool := g.image.any fun i => !i.writing
/-- The group is on its core: placed, not ended and not in a completed image; a halt reaches it. -/
def Group.present (g : Group) : Bool :=
  (g.state == .resident || g.state == .waiting || g.state == .halted || g.state == .retiring) && !g.saved
def State.grid? (s : State) (k : Nat) : Option Grid := mapFind s.grids k
def State.setGrid (s : State) (k : Nat) (g : Grid) : State := { s with grids := mapPut s.grids k g }
def State.clusterCycles (s : State) (c : Nat) : Nat := mapGet 0 s.cycles c
def State.isFixed (s : State) (c : Nat) : Bool := mapGet false s.fixed c
def State.channel (s : State) (c : Nat) : Channel := mapGet initChannel s.tovor.channels c
def Core.tile (c : Core) (q t : Nat) : List (BitVec 40) := mapGet zeroTile c.acc (q * 24 + t)
def Core.setTile (c : Core) (q t : Nat) (v : List (BitVec 40)) : Core := { c with acc := mapPut c.acc (q * 24 + t) v }
def Core.depthOf (c : Core) (q t : Nat) : Nat := mapGet 0 c.depth (q * 24 + t)
def Core.setDepth (c : Core) (q t d : Nat) : Core := { c with depth := mapPut c.depth (q * 24 + t) d }
def Ctx.desc (c : Ctx) (tid : Nat) : BitVec 1024 := mapGet 0 c.descs tid
def Ctx.slot (c : Ctx) (k : Nat) : SlotRec := mapGet initSlot c.slots k

/-- The key of a group of a grid, and its parts. -/
def groupKey (grid index : Nat) : Nat := grid * 2 ^ 64 + index

/-- The physical number of a group's core. -/
def Group.coreNo (g : Group) : Nat := g.cluster * 8 + g.core

/-! ## Contexts by reference -/

def Group.hart? (g : Group) : Who → Option Hart
  | .thread n => g.threads[n]?
  | .steward => some g.steward

def Group.setHart (g : Group) : Who → Hart → Group
  | .thread n, h => { g with threads := g.threads.set n h }
  | .steward, h => { g with steward := h }

def State.hart? (s : State) (r : CtxRef) : Option Hart := (s.group? r.group).bind (·.hart? r.who)

def State.setHart (s : State) (r : CtxRef) (h : Hart) : State :=
  match s.group? r.group with
  | some g => s.setGroup r.group (g.setHart r.who h)
  | none => s

def State.modHart (s : State) (r : CtxRef) (f : Hart → Hart) : State :=
  match s.hart? r with
  | some h => s.setHart r (f h)
  | none => s

def State.modGroup (s : State) (k : Nat) (f : Group → Group) : State :=
  match s.group? k with
  | some g => s.setGroup k (f g)
  | none => s

def State.modGrid (s : State) (k : Nat) (f : Grid → Grid) : State :=
  match s.grid? k with
  | some g => s.setGrid k (f g)
  | none => s

def State.modCore (s : State) (k : Nat) (f : Core → Core) : State := s.setCore k (f (s.core k))
def State.modCtx (s : State) (k : Nat) (f : Ctx → Ctx) : State := s.setCtx k (f (s.ctx k))
def State.modQueue (s : State) (p q : Nat) (f : Queue → Queue) : State := s.setQueue p q (f (s.queue p q))
def State.modTovor (s : State) (f : Tovor → Tovor) : State := { s with tovor := f s.tovor }
def State.modBlock (s : State) (f : DevBlock → DevBlock) : State :=
  s.modTovor fun t => { t with block := f t.block }

/-- Every context of a group, its reference with it: threads by ascending index, then the steward. -/
def Group.harts (g : Group) : List (Who × Hart) :=
  (g.threads.zipIdx.map fun p => (Who.thread p.2, p.1)) ++ [(.steward, g.steward)]

def Group.eachHart (g : Group) (f : Who → Hart → Hart) : Group :=
  { g with threads := g.threads.zipIdx.map fun p => f (.thread p.2) p.1
           steward := f .steward g.steward }

def Who.isSteward : Who → Bool
  | .steward => true
  | .thread _ => false

/-! ## The code-object header (15 R322) -/

namespace Hdr
def regs (h : BitVec 1024) : Nat := 16 * (field h 64 2 + 1)
def privBytes (h : BitVec 1024) : Nat := 16 * field h 66 7
def threads (h : BitVec 1024) : Nat := field h 73 11 + 1
def cbytes (h : BitVec 1024) : Nat := 1024 * field h 84 9
def stewardMember (h : BitVec 1024) : Bool := flag h 93
def det (h : BitVec 1024) : Bool := flag h 94
def spin (h : BitVec 1024) : Bool := flag h 95
def cgroup (h : BitVec 1024) : Nat := field h 96 3 + 1
def integrity (h : BitVec 1024) : Nat := field h 99 2
def trapEn (h : BitVec 1024) : Bool := flag h 101
def tOff (h : BitVec 1024) : Nat := field h 128 32
def tLen (h : BitVec 1024) : Nat := field h 160 32
def sOff (h : BitVec 1024) : Nat := field h 192 32
def sLen (h : BitVec 1024) : Nat := field h 224 32
def trapPc (h : BitVec 1024) : Nat := field h 256 32
def liveOff (h : BitVec 1024) : Nat := field h 288 32
def regionOff (h : BitVec 1024) : Nat := field h 320 32
def regionLen (h : BitVec 1024) : Nat := field h 352 32
def paramOff (h : BitVec 1024) : Nat := field h 384 32
def paramLen (h : BitVec 1024) : Nat := field h 416 32
def paramBytes (h : BitVec 1024) : Nat := field h 448 32
def dataOff (h : BitVec 1024) : Nat := field h 480 32
def dataLen (h : BitVec 1024) : Nat := field h 512 32
def totalLen (h : BitVec 1024) : Nat := field h 544 32
def nameOff (h : BitVec 1024) : Nat := field h 576 32
def nameLen (h : BitVec 1024) : Nat := field h 608 32
def measure (h : BitVec 1024) : Nat := field h 640 384
end Hdr

/-! ## The launch record (15 R326) -/

namespace Rec
def code (r : BitVec 1024) : Nat := field r 0 64
def param (r : BitVec 1024) : Nat := field r 64 64
def seed (r : BitVec 1024) : BitVec 64 := r.extractLsb' 128 64
def privBase (r : BitVec 1024) : Nat := field r 192 64
def gx (r : BitVec 1024) : Nat := field r 256 32
def gy (r : BitVec 1024) : Nat := field r 288 32
def gz (r : BitVec 1024) : Nat := field r 320 32
def priority (r : BitVec 1024) : Nat := field r 352 3
def integrity (r : BitVec 1024) : Nat := field r 355 2
def nwaits (r : BitVec 1024) : Nat := field r 357 2
def waitAddr (r : BitVec 1024) (k : Nat) : Nat := field r (384 + 128 * k) 64
def waitValue (r : BitVec 1024) (k : Nat) : Nat := field r (448 + 128 * k) 64
def signalEvent (r : BitVec 1024) : Nat := field r 640 64
def statusAddr (r : BitVec 1024) : Nat := field r 704 64
def trigEvent (r : BitVec 1024) : Nat := field r 768 64
end Rec

/-! ## The context control block (17 R351) -/

namespace Ctx
def part (c : Ctx) : Nat := field c.ctl 54 4
def isFixedMode (c : Ctx) : Bool := flag c.ctl 58
def privileged (c : Ctx) : Bool := flag c.ctl 59
def ilMax (c : Ctx) : Nat := field c.ctl 60 2
def func (c : Ctx) : Nat := field c.ctl 62 10
def logSize (c : Ctx) : Nat := field c.ctl 128 4
def scrLen (c : Ctx) : Nat := field c.ctl 144 16
def scrOff (c : Ctx) : Nat := field c.ctl 160 16
def sliceUs (c : Ctx) : Nat := field c.ctl 176 16
/-- The eviction threshold in µs: 0 means 200, and 1 to 9 are taken as 10. -/
def evictUs (c : Ctx) : Nat :=
  let v := field c.ctl 192 16
  if v = 0 then 200 else if v < 10 then 10 else v
def spillLen (c : Ctx) : Nat := field c.ctl 208 16
def saveLen (c : Ctx) : Nat := field c.ctl 224 32
def s2Root (c : Ctx) : Nat := field c.ctl 256 64
def logBase (c : Ctx) : Nat := field c.ctl 320 64
def spillBase (c : Ctx) : Nat := field c.ctl 384 64
def saveBase (c : Ctx) : Nat := field c.ctl 448 64
end Ctx

/-! ## Partitions (17 R348) -/

namespace Part
def clusters (p : BitVec 128) : Nat := field p 0 16
def ways (p : BitVec 128) : Nat := field p 24 24
def valid (p : BitVec 128) : Bool := flag p 56
def guaranteed (p : BitVec 128) : Bool := flag p 57
def scrBaseUnits (p : BitVec 128) : Nat := field p 80 9
def scrUnits (p : BitVec 128) : Nat := field p 96 10
def cap (p : BitVec 128) : Nat := field p 112 16
end Part

def State.part (s : State) (p : Nat) : BitVec 128 := s.tovor.active.parts.getD p 0

/-- The clusters of a partition, ascending. -/
def State.partClusters (s : State) (p : Nat) : List Nat :=
  (List.range 16).filter fun c => (Part.clusters (s.part p)).testBit c

/-- The context-relative number of a physical cluster (02 R47). -/
def State.relCluster (s : State) (p c : Nat) : Nat := ((s.partClusters p).filter (· < c)).length

/-- The header of the grid of a group. -/
def State.gridOf (s : State) (g : Group) : Option Grid := s.grid? g.grid

/-- The groups of the cluster-group of a group, itself included, by key (03 R76). -/
def clusterGroupKeys (cgroup : Nat) (g : Group) : List Nat :=
  let base := g.index / cgroup * cgroup
  (List.range cgroup).map fun r => groupKey g.grid (base + r)

def rankOf (cgroup : Nat) (g : Group) : Nat := if cgroup = 1 then 0 else g.index % cgroup

/-- The groups that are halted, evicted and killed with a group: its cluster-group. -/
def State.peers (s : State) (key : Nat) : List Nat :=
  match s.group? key with
  | none => []
  | some g =>
    match s.grid? g.grid with
    | none => [key]
    | some gr => (clusterGroupKeys (Hdr.cgroup gr.header) g).filter fun k => (s.group? k).isSome

/-! ## Waiting together (03 R87, R95, R98) -/

/-- A live context of the group is not BLOCKED. -/
def Group.awake (g : Group) : Bool := !(g.harts.all fun p => p.2.status == .blocked || p.2.status == .exited)

/-- Some group of the cluster-group of a group meets a condition. -/
def State.anyPeer (s : State) (key : Nat) (p : Group → Bool) : Bool :=
  (s.peers key).any fun k => match s.group? k with | some g => p g | none => false

/-- The groups of a cluster-group leave WAITING together, once a context of one has left BLOCKED, and EVICTED together, once one
of them is PENDING. -/
def settlePeers (s : State) : State :=
  { s with groups := mapEach s.groups fun key g =>
      if g.state = .waiting && s.anyPeer key Group.awake then { g with state := .resident, timer := none }
      else if g.state = .evicted && s.anyPeer key (fun p => p.state == .pending) then { g with state := .pending }
      else g }

/-! ## Results (02 R62, R64) -/

/-- A pending mark set: a variable-latency instruction issued, its value once known. -/
def Hart.addResult (h : Hart) (regs preds : List Nat) (value : Option (BitVec 128)) : Hart :=
  { h with results := h.results ++ [{ id := h.nextId, regs := regs, preds := preds, value := value, region := h.regionNo }]
           nextId := h.nextId + 1 }

/-- The value of a result becomes known. -/
def Hart.fillResult (h : Hart) (id v : Nat) : Hart :=
  { h with results := h.results.map fun q => if q.id = id then { q with value := some (BitVec.ofNat 128 v) } else q }

/-- An acquire: what the context accesses from now on comes after the reads that it has outstanding (05 R125). -/
def Hart.acquire (h : Hart) : Hart := { h with acqId := h.nextId }

/-- An operation of the context itself over a Jarkin link has not been answered (20 R414). -/
def linkBusy (s : State) (r : CtxRef) : Bool := s.tovor.outbound.any fun o => o.who == some r && o.cmd.isNone

/-- A read over a link from before the last acquire is outstanding: no access of the context is performed yet (05 R125). -/
def acquireHeld (s : State) (r : CtxRef) (h : Hart) : Bool :=
  s.tovor.outbound.any fun o => o.who == some r && (o.dst.any fun d => decide (d < h.acqId))

/-- Single-stepping applies to a context (12 R255). -/
def stepsOn (s : State) (g : Group) (w : Who) (h : Hart) : Bool :=
  !Who.isSteward w && !h.handler && (s.ctx g.ctx).dbgctl.toNat.testBit 0

end Sys2Proof.Machine
end

