-- ==== Sys2Proof/Machine/Page.lean ====
section
/-!
DEFINITION. Translation (19 R393 to R402): the two-stage walk, the TLBs, the permissions each kind of access needs, and
where a physical address lies.
-/
namespace Sys2Proof.Machine

/-- What an access needs of a page (19 R399), and whether a page of host memory or of a peer carries it (20 R411, R412). -/
structure Need where
  perm  : BitVec 3
  fetch : Bool := false
  host  : Bool := true
  peer  : Bool := true
  deriving DecidableEq, Repr

def needRead : Need := { perm := 1 }
def needWrite : Need := { perm := 2 }
def needReadWrite : Need := { perm := 3 }
def needFetch : Need := { perm := 4, fetch := true, host := false, peer := false }

/-! ## Entries (19 R394, R395) -/

def pteValid (e : Nat) : Bool := bitAt e 0
def pteTable (e : Nat) : Bool := bitAt e 1
/-- Bits X, W, RD of a leaf as a mask: 4, 2, 1. -/
def ptePerm (e : Nat) : BitVec 3 := BitVec.ofNat 3 (bitsOf e 2 3)
def pteAttr (e : Nat) : Nat := bitsOf e 7 2
def pteExcl (e : Nat) : Bool := bitAt e 9
def pteAddr (e : Nat) : Nat := bitsOf e 16 32 * 2 ^ 16

/-- The entry at this level ends the walk: a page at level 2, a block at level 1. -/
def pteLeaf (level e : Nat) : Bool := if level = 2 then true else !pteTable e

/-- A valid entry that R395 calls malformed. -/
def pteMalformed (stage2 : Bool) (level e : Nat) : Bool :=
  let leaf := pteLeaf level e
  let block := leaf && level == 1
  bitsOf e 48 16 != 0 || bitsOf e 10 6 != 0 || bitsOf e 5 2 != 0
  || (!pteTable e && (level == 0 || level == 2))
  || (!leaf && bitsOf e 2 8 != 0)
  || (!stage2 && (pteExcl e || pteAttr e != 0))
  || (leaf && bitAt e 3 && !bitAt e 2)
  || (block && bitsOf e 16 13 != 0)
  || (stage2 && leaf && pteAttr e == 0
      && decide (dramBytes < pteAddr e + (if block then 2 ^ 29 else 2 ^ 16)))

/-- The table index of an address at a level (19 R393). Bits 63:48 of an address in a record take no part (DESIGN CHOICE, log 100). -/
def vaIndex (va level : Nat) : Nat :=
  match level with
  | 0 => bitsOf va 42 6
  | 1 => bitsOf va 29 13
  | _ => bitsOf va 16 13

/-- A mapping that a walk found: base and size of the leaf, permissions, attribute, exclusive mark. -/
structure Leaf where
  base : Nat
  size : Nat
  perm : BitVec 3
  attr : Nat
  excl : Bool
  deriving DecidableEq, Repr

def leafOf (level e : Nat) : Leaf :=
  { base := pteAddr e, size := if level = 1 then 2 ^ 29 else 2 ^ 16, perm := ptePerm e, attr := pteAttr e
    excl := pteExcl e }

/-- A walk over the levels that are left, reading entries through `rd` (19 R398). -/
def walkLevels (rd : Nat → Except WalkStop Nat) (stage2 : Bool) (va : Nat) : List Nat → Nat → Except WalkStop Leaf
  | [], _ => .error .notMapped
  | level :: rest, tab =>
    match rd (tab + 8 * vaIndex va level) with
    | .error c => .error c
    | .ok e =>
      if !pteValid e || pteMalformed stage2 level e then .error .notMapped
      else if pteLeaf level e then .ok (leafOf level e)
      else walkLevels rd stage2 va rest (pteAddr e)

/-- The entry at a flat address has an uncorrectable error: in its memory, or in the copy that the L2 holds of it (R398). -/
def entryBad (s : State) (a : Nat) : Bool :=
  s.tovor.poison.contains (a / 64) || mapFind s.tovor.latent (errUnit a) == some false || s.tovor.badCopies.contains (a / 8)

/-- An 8-byte entry at a flat address. -/
def entryAtFlat (s : State) (a : Nat) : Except WalkStop Nat := if entryBad s a then .error (.ue a) else .ok (memNat s.mem a 8)

/-- An 8-byte entry at a physical address of local DRAM. -/
def readEntry (s : State) (pa : Nat) : Except WalkStop Nat :=
  if dramBytes < pa + 8 then .error .stage2 else entryAtFlat s (dramBase + pa)

/-- The stage-2 walk; every failure is a stage-2 fault but an uncorrectable error. -/
def stage2Walk (s : State) (root ipa : Nat) : Except WalkStop Leaf :=
  match walkLevels (readEntry s) true ipa [0, 1, 2] root with
  | .error (.ue pa) => .error (.ue pa)
  | .error _ => .error .stage2
  | .ok l => .ok l

/-- A stage-1 entry, itself reached through stage 2 with read permission. -/
def readEntryS1 (s : State) (root ipa : Nat) : Except WalkStop Nat :=
  match stage2Walk s root (ipa % 2 ^ 48) with
  | .error c => .error c
  | .ok l =>
    if l.perm &&& 1 = 0 then .error .stage2
    else if l.attr = 0 then readEntry s (l.base + ipa % l.size)
    else if l.attr = 1 then entryAtFlat s (hostBase + (l.base + ipa % l.size))
    else .error .stage2

/-- The stage-1 walk (19 R396: no root, nothing mapped). A root of either stage is taken as it is written, whatever its low bits and
bits 63:48 (DESIGN CHOICE, log 113). -/
def stage1Walk (s : State) (c : Ctx) (va : Nat) : Except WalkStop Leaf :=
  if c.s1Root = 0 then .error .notMapped
  else walkLevels (readEntryS1 s c.s2Root) false va [0, 1, 2] c.s1Root.toNat

/-! ## Both stages -/

/-- A peer's address from a leaf's ADDR and the offset (20 R412). -/
def peerLoc (link pa : Nat) : Option Loc :=
  if bitAt pa 47 then (if bitsOf pa 32 15 = 0 then some (.peer link true (pa % 2 ^ 32)) else none)
  else some (.peer link false (pa % 2 ^ 47))

/-- The combined entry of both stages behind a stage-1 leaf (19 R401). -/
def walkFrom (s : State) (n va : Nat) (l1 : Leaf) : Except WalkStop TlbEntry :=
  let ipa := l1.base + va % l1.size
  match stage2Walk s (s.ctx n).s2Root ipa with
  | .error e => .error e
  | .ok l2 =>
    let size := min l1.size l2.size
    .ok { ctx := n, page := va / size, size := size, ipa := ipa / size * size
          pa := l2.base + (ipa % l2.size) / size * size
          attr := l2.attr, perm1 := l1.perm, perm2 := l2.perm }

/-- The combined entry of both stages for the page of a virtual address (19 R401). -/
def walkBoth (s : State) (n : Nat) (va : Nat) : Except WalkStop TlbEntry :=
  match stage1Walk s (s.ctx n) va with
  | .error e => .error e
  | .ok l1 => walkFrom s n va l1

/-- A TLB hit for an address of a context. -/
def tlbHit (tlb : List TlbEntry) (n va : Nat) : Option TlbEntry :=
  tlb.find? fun e => e.ctx == n && va / e.size == e.page

/-- The entry that the L1 TLB of a core or the L2 TLB of its cluster holds. -/
def cachedEntry (s : State) (core n va : Nat) : Option TlbEntry :=
  (tlbHit (s.core core).tlb n va).orElse fun _ => tlbHit (mapGet [] s.tlb2 (core / 8)) n va

/-- The entry an access uses: from a TLB, or of a walk. -/
def lookup (s : State) (core n va : Nat) : Except WalkStop TlbEntry :=
  match cachedEntry s core n va with
  | some e => .ok e
  | none => walkBoth s n va

/-- The cause of a missing permission. -/
def Need.cause (need : Need) : Cause := if need.fetch then .fetchPerm else .pagePerm

/-- The permission checks and the place of the address (19 R398, R399; 20 R411, R412). A stage-1 failure comes first. -/
def useEntry (e : TlbEntry) (va : Nat) (need : Need) : Except Cause Loc :=
  let perm := need.cause
  if e.perm1 &&& need.perm != need.perm then .error perm
  else if e.perm2 &&& need.perm != need.perm then .error .stage2
  else
    let pa := e.pa + va % e.size
    if e.attr = 0 then .ok (.flat (dramBase + pa) false)
    else if e.attr = 1 then (if need.host then .ok (.flat (hostBase + pa) true) else .error perm)
    else if need.peer then
      match peerLoc (e.attr - 2) pa with
      | some l => .ok l
      | none => .error .stage2
    else .error perm

def WalkStop.cause : WalkStop → Cause
  | .notMapped => .pageNotmapped
  | .stage2 => .stage2
  | .ue _ => .walkUe

/-- What a walk finds: its end in stage 1, or the permissions of stage 1 and what both stages give. -/
def walkResult (s : State) (n va : Nat) : WalkStop ⊕ (BitVec 3 × (WalkStop ⊕ TlbEntry)) :=
  match stage1Walk s (s.ctx n) va with
  | .error e => .inl e
  | .ok l1 => .inr (l1.perm, match walkFrom s n va l1 with | .error e => .inl e | .ok e => .inr e)

/-- Translate(ctx, va, kind) of R398 on what a walk has found: the stage-1 permission comes before the stage-2 walk. -/
def useWalk (r : WalkStop ⊕ (BitVec 3 × (WalkStop ⊕ TlbEntry))) (va : Nat) (need : Need) : Except Cause Loc :=
  match r with
  | .inl e => .error e.cause
  | .inr (perm, r) =>
    if perm &&& need.perm != need.perm then .error need.cause
    else match r with
      | .inl e => .error e.cause
      | .inr e => useEntry e va need

/-- Translate(ctx, va, kind) of R398 by a walk. No core makes the translations of the host, the links and the dispatcher, which use
this directly. -/
def translateDirect (s : State) (n va : Nat) (need : Need) : Except Cause Loc := useWalk (walkResult s n va) va need

/-- A walk of the core in this cycle for the page of an address: a miss on it joins that walk (R402, R403). -/
def sharedWalk (s : State) (core n va : Nat) : Option Walk :=
  (s.core core).walks.find? fun w => w.cycle == s.clusterCycles (core / 8) && w.ctx == n && w.page == va / 65536

/-- Translate(ctx, va, kind) of R398. -/
def translate (s : State) (core n va : Nat) (need : Need) : Except Cause Loc :=
  match cachedEntry s core n va with
  | some e => useEntry e va need
  | none => match sharedWalk s core n va with
    | some w => useWalk w.result va need
    | none => translateDirect s n va need

/-- An instruction of the core that was issued in a cycle waits for its second execution. -/
def dupOfCycle (s : State) (core cycle : Nat) : Bool :=
  s.groups.any fun p => p.2.coreNo == core && p.2.harts.any fun q => q.2.dup.any fun d => d.since == cycle

/-- A walk of the core in this cycle, for the misses that join it; what an earlier cycle has left goes, unless an instruction of that
cycle waits for its second execution. -/
def recordWalk (s : State) (core n va : Nat) : State :=
  let now := s.clusterCycles (core / 8)
  s.modCore core fun c =>
    { c with walks := { cycle := now, ctx := n, page := va / 65536, result := walkResult s n va }
                        :: c.walks.filter fun w => w.cycle == now || dupOfCycle s core w.cycle }

/-- The flat address of the entry whose uncorrectable error ends the walk of an address: none where the walk reaches none. -/
def walkErrorAt (s : State) (n va : Nat) : Option Nat :=
  match walkBoth s n va with
  | .error (.ue a) => some a
  | _ => none

/-- The flat range of the chip scratchpad that a context's space `s` covers: its base and bound (05 R118). -/
def scrRange (s : State) (c : Ctx) : Nat × Nat :=
  (scrBase + (Part.scrBaseUnits (s.part c.part) + c.scrOff) * 65536, c.scrLen * 65536)

end Sys2Proof.Machine
end

