-- ==== Sys2Proof/Machine/Desc.lean ====
section
/-!
DEFINITION. Tensor descriptors (06 R147 to R154): their fields, the checks of TDW, element addresses and footprints; and
the fields of slot records (07 R160).
-/
namespace Sys2Proof.Machine

namespace Desc
def baseTid (d : BitVec 1024) : Nat := field d 0 8
def role (d : BitVec 1024) : Bool := flag d 13
def clip (d : BitVec 1024) : Nat := field d 14 2
def bperm (d : BitVec 1024) : Nat := field d 16 2
def kind (d : BitVec 1024) : Nat := field d 18 2
def fmt (d : BitVec 1024) : Nat := field d 20 4
def space (d : BitVec 1024) : Nat := field d 24 3
def rank (d : BitVec 1024) : Nat := field d 27 3
def watch (d : BitVec 1024) : Bool := flag d 30
def valid (d : BitVec 1024) : Bool := flag d 31
def version (d : BitVec 1024) : Nat := field d 32 32
def base (d : BitVec 1024) : Nat := field d 64 64
def pad (d : BitVec 1024) : Nat := field d 128 32
def biasSpace (d : BitVec 1024) : Nat := field d 180 3
def csSpace (d : BitVec 1024) : Nat := field d 183 3
def rsSpace (d : BitVec 1024) : Nat := field d 186 3
def biasEn (d : BitVec 1024) : Bool := flag d 189
def csEn (d : BitVec 1024) : Bool := flag d 190
def rsEn (d : BitVec 1024) : Bool := flag d 191
def rowScale (d : BitVec 1024) : Nat := field d 192 64
def colScale (d : BitVec 1024) : Nat := field d 256 64
def bias (d : BitVec 1024) : Nat := field d 320 64
def size (d : BitVec 1024) (i : Nat) : Nat := field d (384 + 64 * i) 32
def stride (d : BitVec 1024) (i : Nat) : Int := sext (field d (416 + 64 * i) 32) 32
def win (d : BitVec 1024) (j : Nat) : Nat := field d (832 + 64 * j) 64

/-- WIN_j (R151). -/
def winEn (w : Nat) : Bool := bitAt w 7
def winDim (w : Nat) : Nat := bitsOf w 8 3
def winStride (w : Nat) : Nat := bitsOf w 16 8 + 1
def winDil (w : Nat) : Nat := bitsOf w 24 8 + 1
def winBefore (w : Nat) : Nat := bitsOf w 32 8
def winAfter (w : Nat) : Nat := bitsOf w 40 8
def winTaps (w : Nat) : Nat := bitsOf w 48 8 + 1

/-- The entries in use. -/
def wins (d : BitVec 1024) : List Nat := (List.range 3).filter fun j => winEn (win d j)

def withVersion (d : BitVec 1024) (v : Nat) : BitVec 1024 := BitVec.ofNat 1024 (putField d.toNat 32 32 v)
end Desc

/-- The width of an element in bits, by FMT (R147): 14 is N4. -/
def elemBits (fmt : Nat) : Nat :=
  match fmt with
  | 0 | 1 | 4 => 32
  | 2 | 3 => 64
  | 5 | 6 | 11 | 12 => 16
  | 9 | 10 => 8
  | 13 | 14 => 4
  | _ => 0

/-- FMT codes a descriptor may hold. -/
def fmtOk (fmt : Nat) : Bool := elemBits fmt != 0

def sizesList (d : BitVec 1024) : List Nat := (List.range 7).map (Desc.size d)
def stridesList (d : BitVec 1024) : List Int := (List.range 7).map (Desc.stride d)

/-- The checks of TDW on a valid descriptor: R147 reserved fields, R148, R150, R151, R152. ROLE outside BLOCKED and BASE_TID outside
WINDOW are refused where nonzero; PAD of a WINDOW has no element size to be held to here (DESIGN CHOICE, log 83). -/
def descOk (d : BitVec 1024) : Bool :=
  let rank := Desc.rank d
  let bits := elemBits (Desc.fmt d)
  let above := (List.range 7).all fun i => i < rank || Desc.size d i == 0
  let reserved := field d 8 5 == 0 && field d 160 20 == 0
  let winsZero := (List.range 3).all fun j => Desc.win d j == 0
  let ranges := decide (1 ≤ rank) && decide (Desc.kind d < 3) && decide (Desc.bperm d < 3) && decide (Desc.clip d < 3)
  let epi (en : Bool) (space addr : Nat) : Bool :=
    !en || (decide (1 ≤ space) && decide (space ≤ 4) && addr % 4 == 0)
  let epis := epi (Desc.rsEn d) (Desc.rsSpace d) (Desc.rowScale d) && epi (Desc.csEn d) (Desc.csSpace d) (Desc.colScale d)
    && epi (Desc.biasEn d) (Desc.biasSpace d) (Desc.bias d)
  let plain :=
    decide (1 ≤ Desc.space d) && decide (Desc.space d ≤ 4) && fmtOk (Desc.fmt d)
    && (bits == 4 || Desc.base d % (bits / 8) == 0)
    && decide (Desc.pad d < 2 ^ bits)
    && epis
    && (Desc.bperm d == 0 || (decide (Desc.space d ≤ 2) && Desc.base d % 512 == 0
          && (stridesList d).all fun x => decide (0 ≤ x)))
    && (!Desc.watch d || decide (3 ≤ Desc.space d))
  let blocked :=
    rank == 2 && (Desc.fmt d == 9 || Desc.fmt d == 13) && Desc.pad d == 0 && (stridesList d).all fun x => x == 0
  let n := (Desc.wins d).length
  let window :=
    -- SPACE, FMT, BPERM, BASE, the epilogue fields and the strides are reserved; WATCH needs a SPACE of its own.
    Desc.space d == 0 && Desc.fmt d == 0 && Desc.bperm d == 0 && Desc.base d == 0 && field d 180 12 == 0
    && field d 192 192 == 0 && ((stridesList d).all fun x => x == 0) && !Desc.watch d
    && decide (n + 1 ≤ rank)
    && Desc.wins d == List.range n
    && ((Desc.wins d).map fun j => Desc.winDim (Desc.win d j)).Nodup
    && ((Desc.wins d).all fun j => decide (Desc.winDim (Desc.win d j) < rank - n)
          && Desc.size d (rank - n + j) == Desc.winTaps (Desc.win d j)
          && bitsOf (Desc.win d j) 0 7 == 0 && bitsOf (Desc.win d j) 11 5 == 0 && bitsOf (Desc.win d j) 56 8 == 0)
    && ((List.range 3).all fun j => Desc.winEn (Desc.win d j) || Desc.win d j == 0)
  above && reserved && ranges
  && (match Desc.kind d with
      | 0 => plain && winsZero && !Desc.role d && Desc.baseTid d == 0
      | 1 => window && !Desc.role d
      | _ => plain && winsZero && blocked && Desc.baseTid d == 0)

/-- What TDW accepts: a valid descriptor that passes, or one that is all zero but for VERSION (R148). -/
def tdwOk (d : BitVec 1024) : Bool :=
  if Desc.valid d then descOk d else Desc.withVersion d 0 == 0

/-- BlockedIndex of R152. -/
def blockedIndex (d : BitVec 1024) (k v : Nat) : Nat :=
  let ktiles := ceilDiv (Desc.size d 0) 64
  ((v >>> 5) * ktiles + (k >>> 6)) * 2048 + (v % 32) * 64 + k % 64

/-- Permute of R153. -/
def permuteOffset (bperm : Nat) (offset : Nat) : Nat :=
  if bperm = 0 then offset
  else
    let word := offset >>> 3
    let bank := word % 64
    let row := word >>> 6
    let pbank := if bperm = 1 then bank ^^^ (row % 64) else (bank + row) % 64
    row * 512 + pbank * 8 + offset % 8

/-- The extent of dimension i of a view, its store at hand (R149, R151). -/
def viewSize (view store : BitVec 1024) (i : Nat) : Nat :=
  let own := Desc.size view i
  if Desc.kind view = 1 && own == 0 && decide (i < Desc.rank store) then
    match (Desc.wins view).find? fun j => Desc.winDim (Desc.win view j) == i with
    | some j =>
      let w := Desc.win view j
      let numer : Int := (Desc.size store i : Int) + Desc.winBefore w + Desc.winAfter w
        - Desc.winDil w * (Desc.winTaps w - 1 : Nat) - 1
      if numer < 0 then 0 else (numer / (Desc.winStride w : Int) + 1).toNat
    | none => Desc.size store i
  else own

/-- What Resolve gives (R149): an address in the store's space, with the half of the byte a 4-bit element takes;
OUTSIDE; or a trap. -/
inductive Where
  | at (addr : Int) (odd : Bool) | outside | trap (c : Cause)
  deriving DecidableEq, Repr

/-- The store of a view: itself, or the base of a WINDOW with the checks of R149. -/
def storeOf (look : Nat → BitVec 1024) (view : BitVec 1024) : Option (BitVec 1024) :=
  if !Desc.valid view then none
  else if Desc.kind view = 1 then
    let st := look (Desc.baseTid view)
    if Desc.valid st && Desc.kind st == 0 && Desc.rank st + (Desc.wins view).length == Desc.rank view then some st
    else none
  else some view

/-- The bounds of one coordinate under CLIP: the coordinate to use, or what ends the access. -/
def clipCoord (view store : BitVec 1024) (i : Nat) (x : Int) : Except Where Int :=
  let n := viewSize view store i
  if x < 0 || (n : Int) ≤ x then
    match Desc.clip view with
    | 0 => .error .outside
    | 1 => .error (.trap .tensorBounds)
    | _ => if n = 0 then .error .outside else .ok (clampInt x 0 ((n : Int) - 1))
  else .ok x

def clipAll (view store : BitVec 1024) : Nat → List Int → Except Where (List Int)
  | _, [] => .ok []
  | i, x :: xs =>
    match clipCoord view store i x with
    | .error w => .error w
    | .ok y =>
      match clipAll view store (i + 1) xs with
      | .error w => .error w
      | .ok ys => .ok (y :: ys)

/-- The base coordinates of a WINDOW access. -/
def windowCoords (view store : BitVec 1024) (cs : List Int) : List Int :=
  (List.range (Desc.rank store)).map fun i =>
    match (Desc.wins view).find? fun j => Desc.winDim (Desc.win view j) == i with
    | some j =>
      let w := Desc.win view j
      cs.getD i 0 * (Desc.winStride w : Int) + cs.getD (Desc.rank store + j) 0 * (Desc.winDil w : Int)
        - (Desc.winBefore w : Int)
    | none => cs.getD i 0

/-- The element's place in a store, coordinates within its extents. -/
def elementAt (store : BitVec 1024) (cs : List Int) : Where :=
  let elem : Int :=
    if Desc.kind store = 2 then (blockedIndex store (cs.getD 0 0).toNat (cs.getD 1 0).toNat : Int)
    else (cs.zipIdx.map fun p => p.1 * Desc.stride store p.2).sum
  let bits : Int := elem * (elemBits (Desc.fmt store) : Int)
  let off := bits / 8
  let odd := bits % 8 != 0
  if off < 0 then .at ((Desc.base store : Int) + off) odd
  else .at ((Desc.base store : Int) + (permuteOffset (Desc.bperm store) off.toNat : Int)) odd

/-- Resolve(tid, coord) of R149. -/
def resolveTensor (look : Nat → BitVec 1024) (view : BitVec 1024) (cs : List Int) : Where :=
  match storeOf look view with
  | none => .trap .tidInvalid
  | some store =>
    match clipAll view store 0 (cs.take (Desc.rank view)) with
    | .error w => w
    | .ok cs =>
      if Desc.kind view = 1 then
        let ics := windowCoords view store cs
        if (ics.zipIdx.all fun p => decide (0 ≤ p.1) && decide (p.1 < (Desc.size store p.2 : Int)))
        then elementAt store ics else .outside
      else elementAt store cs

/-- The footprint of a store: first and last byte of its range in its space (R154). -/
def footprint (store : BitVec 1024) : Option (Int × Int) :=
  let dims := List.range (Desc.rank store)
  if dims.any fun i => Desc.size store i == 0 then none
  else
    let bits := elemBits (Desc.fmt store)
    let base : Int := Desc.base store
    if Desc.kind store = 2 then
      let tiles := ceilDiv (Desc.size store 0) 64 * ceilDiv (Desc.size store 1) 32
      let bytes := tiles * 2048 * bits / 8
      let bytes := if Desc.bperm store = 0 then bytes else ceilDiv bytes 512 * 512
      some (base, base + (bytes : Int) - 1)
    else
      let span (i : Nat) : Int := ((Desc.size store i : Int) - 1) * Desc.stride store i
      let lo : Int := (dims.map fun i => min 0 (span i)).sum
      let hi : Int := (dims.map fun i => max 0 (span i)).sum
      let first := lo * (bits : Int) / 8
      let last := (hi * (bits : Int) + (bits : Int) - 1) / 8
      if Desc.bperm store = 0 then some (base + first, base + last)
      else some (base + first / 512 * 512, base + last / 512 * 512 + 511)

/-! ## Slot records (07 R160) -/

namespace Slot
def tau (r : BitVec 512) : Nat := field r 32 7
def blkMax (r : BitVec 512) : Nat := field r 40 8
def slotMax (r : BitVec 512) : Nat := field r 48 8
def wTid (r : BitVec 512) : Nat := field r 56 8
def kb (r : BitVec 512) : Nat := field r 64 16
def cols (r : BitVec 512) : Nat := field r 80 16
def rows (r : BitVec 512) : Nat := field r 96 16
def pcolLo (r : BitVec 512) : Nat := field r 112 16
def pcolHi (r : BitVec 512) : Nat := field r 128 16
def age (r : BitVec 512) : Nat := field r 144 16
def wVersion (r : BitVec 512) : Nat := field r 160 32
def refBase (r : BitVec 512) : Nat := field r 192 64
def resBase (r : BitVec 512) : Nat := field r 256 64
def invocations (r : BitVec 512) : Nat := field r 320 32
def fullCount (r : BitVec 512) : Nat := field r 352 32
def updated (r : BitVec 512) : Nat := field r 384 64
def skipped (r : BitVec 512) : Nat := field r 448 64
def cursor (r : BitVec 512) : Nat := field r 0 21
def fullRun (r : BitVec 512) : Bool := flag r 22
def state (r : BitVec 512) : Nat := field r 23 3
def resSpace (r : BitVec 512) : Nat := field r 26 3
def refSpace (r : BitVec 512) : Nat := field r 29 3
def put (r : BitVec 512) (lo len v : Nat) : BitVec 512 := BitVec.ofNat 512 (putField r.toNat lo len v)
def setState (r : BitVec 512) (v : Nat) : BitVec 512 := put r 23 3 v
/-- XBYTES (R161). -/
def xBytes (r : BitVec 512) : Nat := ceilDiv (cols r) 32 * ceilDiv (kb r) 4 * 2048
/-- Bytes of the reference buffer and of the result buffer. -/
def refBytes (r : BitVec 512) : Nat := xBytes r + cols r * kb r
def resBytes (r : BitVec 512) : Nat := ceilDiv (rows r) 32 * ceilDiv (cols r) 32 * 8192
end Slot

end Sys2Proof.Machine
end

