-- ==== Sys2Proof/WellFormed.lean ====
section
/-!
DEFINITION. The field forms of the 142 program instructions, one `OpRow` each, from the instruction tables of 10 R208,
11 R229, 12 R247, 13 R273 and 14 R294, and the checks that depend on a word and its stream alone: steps 4 and 5 of
08 R178. An instruction is well-formed when some stream it belongs to accepts it; a happening when what it names exists.
-/
namespace Sys2Proof

/-- The streams an opcode belongs to (09 R198): both, the thread stream T, the steward stream S. -/
inductive Stream
  | both | threads | stewards
  deriving DecidableEq, Repr

def Stream.has : Stream → Bool → Bool
  | .both, _ => true
  | .threads, st => !st
  | .stewards, st => st

/-- The width of an operand position: by the MOD type, 32 bits, a register pair, four registers (LDP). -/
inductive Width
  | typ | single | pair | quad
  deriving DecidableEq, Repr

/-- A type whose registers are pairs (01 R19). -/
def Ty.wide : Ty → Bool
  | .i64 | .n64 => true
  | _ => false

/-- Registers an operand position of this width takes. -/
def Width.regs (ty : Ty) : Width → Nat
  | .typ => if ty.wide then 2 else 1
  | .single => 1
  | .pair => 2
  | .quad => 4

/-- What an operand position accepts (08 R186 and the instruction tables). -/
inductive Slot
  | unused | dst (w : Width) | src (w : Width) | srcReg (w : Width) | psrc | pdst | base | index
  | mask | blk (n : Nat) | ordFlag | coord | dstSrc (w : Width) | psrcIfOp2 | srcIfPack | srcOfCode | dstEven
  deriving DecidableEq, Repr

/-- The use of IMM (08 R184): none, the immediate operand, or a fixed meaning with its largest value. -/
inductive ImmUse
  | zero | op | fixed (max : Nat)
  deriving DecidableEq, Repr

/-- One row of the instruction tables. `subMax` is the largest accepted SUB, `op2` the accepted OP2 codes, `extra` what
the row asks beside, `var` whether the result is variable-latency (02 R62). -/
structure OpRow where
  opc       : BitVec 10
  stream    : Stream := .both
  types     : List Ty := [.i32]
  stewTypes : List Ty := types
  d : Slot := .unused
  a : Slot := .unused
  b : Slot := .unused
  c : Slot := .unused
  subMax : Nat := 0
  op2    : List Nat := [0]
  imm    : ImmUse := .zero
  extra  : Ty → Nat → Nat → Nat → Bool := fun _ _ _ _ => true
  var    : Bool := false

/-- The fields that step 4 and 5 of R178 examine; an operand code that R185 reserves is `none`. -/
structure Fields where
  ty  : Ty
  d   : Option Operand
  a   : Option Operand
  b   : Option Operand
  c   : Option Operand
  sub : Nat
  op2 : Nat
  imm : Nat
  deriving DecidableEq, Repr

def Form.fields (f : Form) : Fields :=
  { ty := f.ty, d := some f.d, a := some f.a, b := some f.b, c := some f.c,
    sub := f.sub.toNat, op2 := f.op2.toNat, imm := f.imm.toNat }

/-- FCVT packs two F32 sources (11 R241). -/
def packs (ty : Ty) (imm : Nat) : Bool := (ty == .f16x2 || ty == .bf16x2) && imm == 4

/-- The width of a source whose type is the code u in IMM (10 R222, 11 R242). -/
def codeWidth (u : Nat) : Width := if u % 16 == 2 || u % 16 == 3 then .pair else .single

/-- The position takes no operand in this word. -/
def Slot.isUnused (f : Fields) : Slot → Bool
  | .unused => true
  | .psrcIfOp2 => f.op2 == 0
  | .srcIfPack => !packs f.ty f.imm
  | _ => false

/-- A field holds a nonzero code where the word does not use it, or an .ORD flag beyond 1 (R178 step 4, 13 R273). -/
def Slot.encBad (f : Fields) (sl : Slot) (o : Option Operand) : Bool :=
  (sl.isUnused f && o != some (.x 0)) || (sl == .ordFlag && o != some (.x 0) && o != some (.x 1))

/-- The position may name the immediate code when IMM is an operand of the instruction (R184, R187). -/
def Slot.takesImm (f : Fields) (sl : Slot) (imm : ImmUse) : Bool :=
  imm == .op && (match sl with | .src _ => true | .srcIfPack => !sl.isUnused f | _ => false)

/-- The operand code lies in the class of its position, in the stream that issues (R186, R188, R47). -/
def Slot.accepts (steward : Bool) (f : Fields) (imm : ImmUse) (sl : Slot) (o : Operand) : Bool :=
  let reg := match o with | .x _ => !steward | .g _ => true | .zero => true | _ => false
  let value (w : Width) : Bool :=
    reg || (match o with
      | .drain => !steward && w.regs f.ty == 1
      | .sys _ => w.regs f.ty == 1
      | .imm => sl.takesImm f imm
      | _ => false)
  if sl.isUnused f then true else
  match sl with
  | .unused | .ordFlag => true
  | .dst _ | .dstSrc _ => (match o with | .x _ => !steward | .g _ => steward | .zero => true | _ => false)
  | .src w | .srcReg w => value w
  | .srcOfCode => value (codeWidth f.imm)
  | .srcIfPack => value .single
  | .psrc | .pdst | .psrcIfOp2 => (match o with | .p _ => true | _ => false)
  | .base | .index => reg
  | .mask => (match o with | .x _ => !steward | _ => false)
  | .dstEven => (match o with | .x k => !steward && k.val % 2 == 0 | .zero => true | _ => false)
  | .blk n => (match o with | .g k => steward && decide (k.val + n ≤ 128) | _ => false)
  | .coord => (match o with | .x _ => !steward | .g _ => steward | _ => false)

/-- Operand fields that name DRAIN. -/
def Fields.drains (f : Fields) : Nat := [f.d, f.a, f.b, f.c].count (some .drain)

/-- Step 4 of R178, ILLENC, but for the codes that never reach a `Fields`. -/
def OpRow.encOk (row : OpRow) (steward : Bool) (f : Fields) : Bool :=
  (if steward then row.stewTypes else row.types).contains f.ty
  && decide (f.sub ≤ row.subMax)
  && row.op2.contains f.op2
  && !(row.d.encBad f f.d || row.a.encBad f f.a || row.b.encBad f f.b || row.c.encBad f f.c)
  && (match row.imm with
      | .zero => f.imm == 0
      | .op => f.imm == 0 || f.a == some .imm || f.b == some .imm || f.c == some .imm
      | .fixed m => decide (f.imm ≤ m))
  && row.extra f.ty f.sub f.op2 f.imm

/-- Step 5 of R178, ILLOPND: every operand code stands in the class of its position, DRAIN at most once. -/
def OpRow.opndOk (row : OpRow) (steward : Bool) (f : Fields) : Bool :=
  let ok (sl : Slot) : Option Operand → Bool
    | none => false
    | some o => sl.accepts steward f row.imm o
  ok row.d f.d && ok row.a f.a && ok row.b f.b && ok row.c f.c && decide (f.drains ≤ 1)

def OpRow.okIn (row : OpRow) (steward : Bool) (f : Fields) : Bool :=
  row.stream.has steward && row.encOk steward f && row.opndOk steward f

/-- Some stream that the opcode belongs to accepts the fields. -/
def OpRow.ok (row : OpRow) (f : Fields) : Bool := row.okIn false f || row.okIn true f

/-! The type sets of the instruction tables. -/

def tysW : List Ty := [.i32, .n32, .i64, .n64]
def tysWN : List Ty := [.i32, .n32, .i64, .n64, .i8, .n8, .i16, .n16]
def tys32 : List Ty := [.i32, .n32]
def tysF : List Ty := [.f32, .f16, .bf16]
def tysPK : List Ty := [.f16x2, .bf16x2]
def tysM : List Ty :=
  [.i32, .n32, .i64, .n64, .f32, .f16, .bf16, .f16x2, .bf16x2, .i8, .n8, .i16, .n16]
def tysEl : List Ty := [.i32, .n32, .i64, .n64, .f32, .f16, .bf16, .i8, .n8, .i16, .n16]
def tysAtF : List Ty := [.i32, .n32, .i64, .n64, .f32]

/-- Codes 0 to 3 and 9 to 13: the integer MOD codes (R222). -/
def intCode (u : Nat) : Bool := decide (u ≤ 3) || (decide (9 ≤ u) && decide (u ≤ 13))

/-- The allowed pairs of FCVT and the use of .HI (R241). -/
def fcvtOk (ty : Ty) (op2 u : Nat) : Bool :=
  let hi := decide (2 ≤ op2)
  match ty with
  | .f32 => (!hi && (u == 5 || u == 6)) || u == 7 || u == 8
  | .f16 => !hi && (u == 4 || u == 6)
  | .bf16 => !hi && (u == 4 || u == 5)
  | .f16x2 => !hi && (u == 4 || u == 8)
  | .bf16x2 => !hi && (u == 4 || u == 7)
  | _ => false

/-- The atomic operation code of IMM[31:28] fits the type (R285). -/
def atomOk (red : Bool) (ty : Ty) (imm : Nat) : Bool :=
  let op := imm / 2 ^ 28
  match op with
  | 0 | 4 | 5 => true
  | 1 | 2 | 3 => ty != .f32
  | 6 => !red
  | 7 | 8 => ty == .n32 || ty == .n64
  | _ => false

/-- The reduction code fits the type (R247). -/
def redOk (ty : Ty) (op : Nat) : Bool := decide (op ≤ 5) && (ty != .f32 || decide (op ≤ 2))

def maxImm : Nat := 0xFFFFFFFF

/-! The rows of 10 R208. -/

def rowNop : OpRow := { opc := 0x000 }
def rowMov : OpRow := { opc := 0x001, types := tysW, d := .dst .typ, a := .src .typ, imm := .op }
def rowSel : OpRow :=
  { opc := 0x002, types := tysW, d := .dst .typ, a := .src .typ, b := .src .typ, c := .psrc, imm := .op }
def rowXget : OpRow :=
  { opc := 0x003, stream := .threads, types := tysW, d := .dst .typ, a := .src .single, imm := .op, var := true }
def rowXput : OpRow := { opc := 0x004, stream := .threads, types := tysW, a := .src .single, b := .src .typ, imm := .op }
def rowGget : OpRow := { opc := 0x005, stream := .stewards, types := tysW, d := .dst .typ, a := .src .single, imm := .op }
def rowGput : OpRow := { opc := 0x006, stream := .stewards, types := tysW, a := .src .single, b := .src .typ, imm := .op }

/-- Two sources of the type, with or without .SAT. -/
def rowTwo (opc : BitVec 10) (types : List Ty) (op2 : List Nat) : OpRow :=
  { opc := opc, types := types, d := .dst .typ, a := .src .typ, b := .src .typ, op2 := op2, imm := .op }

def rowAdd : OpRow := rowTwo 0x008 tysWN [0, 1]
def rowSub : OpRow := rowTwo 0x009 tysWN [0, 1]
def rowMul : OpRow := rowTwo 0x00C tysW [0, 1]
def rowMulh : OpRow := rowTwo 0x00D tysW [0]
def rowMad : OpRow := { rowTwo 0x00E tysW [0, 1] with c := .src .typ }
def rowMadw : OpRow :=
  { opc := 0x00F, types := tys32, d := .dst .pair, a := .src .typ, b := .src .typ, c := .src .pair, op2 := [0, 1], imm := .op }
def rowDiv : OpRow := rowTwo 0x010 tysWN [0, 1]
def rowRem : OpRow := rowTwo 0x011 tysWN [0]
def rowMin : OpRow := rowTwo 0x012 tysWN [0]
def rowMax : OpRow := rowTwo 0x013 tysWN [0]
def rowAbs : OpRow :=
  { opc := 0x014, types := [.i8, .i16, .i32, .i64], d := .dst .typ, a := .src .typ, op2 := [0, 1], imm := .op }
def rowClamp : OpRow := { rowTwo 0x015 tysWN [0] with c := .src .typ }
def rowAnd : OpRow := rowTwo 0x018 tysW [0]
def rowOr : OpRow := rowTwo 0x019 tysW [0]
def rowXor : OpRow := rowTwo 0x01A tysW [0]
def rowAndn : OpRow := rowTwo 0x01B tysW [0]
def rowLogic3 : OpRow := { rowTwo 0x01C tysW [0] with c := .src .typ, imm := .fixed 255 }

/-- A shift: the amount is a 32-bit position. -/
def rowShift (opc : BitVec 10) : OpRow :=
  { opc := opc, types := tysW, d := .dst .typ, a := .src .typ, b := .src .single, imm := .op }

def rowShl : OpRow := rowShift 0x020
def rowShr : OpRow := rowShift 0x021
def rowSar : OpRow := rowShift 0x022
def rowRol : OpRow := rowShift 0x023
def rowFshl : OpRow := { rowTwo 0x024 tysW [0] with c := .src .single }
def rowBfx : OpRow := rowShift 0x028
def rowBfi : OpRow := { rowShift 0x029 with c := .src .typ }
def rowBrev : OpRow := { opc := 0x02A, types := tysW, d := .dst .typ, a := .src .typ, imm := .op }

/-- A count of bits: the result is 32-bit. -/
def rowCount (opc : BitVec 10) : OpRow := { opc := opc, types := tysW, d := .dst .single, a := .src .typ, imm := .op }

def rowPopc : OpRow := rowCount 0x02B
def rowClz : OpRow := rowCount 0x02C
def rowCtz : OpRow := rowCount 0x02D
def rowPerm : OpRow := { rowTwo 0x02E tys32 [0] with c := .src .typ }
def rowCmp : OpRow :=
  { opc := 0x030, types := tysWN, d := .pdst, a := .src .typ, b := .src .typ, c := .psrcIfOp2, subMax := 5,
    op2 := [0, 1, 2, 3], imm := .op }
def rowPlop : OpRow := { opc := 0x031, d := .pdst, a := .psrc, b := .psrc, c := .psrc, imm := .fixed 255 }
def rowPset : OpRow := { opc := 0x032, d := .pdst, a := .src .single, imm := .op }
def rowPsetBulk : OpRow := { opc := 0x032, a := .src .single, b := .src .single, op2 := [1], imm := .op }
def rowPget : OpRow := { opc := 0x033, d := .dst .single }
def rowLea : OpRow :=
  { opc := 0x038, types := [.n32, .n64], d := .dst .typ, a := .src .typ, b := .src .single, subMax := 4,
    imm := .fixed maxImm }
def rowCvti : OpRow :=
  { opc := 0x040, types := .i4 :: tysWN, d := .dst .typ, a := .srcOfCode, op2 := [0, 1], imm := .fixed 15,
    extra := fun _ _ _ u => intCode u }
def rowPack : OpRow :=
  { opc := 0x041, types := [.i16, .n16, .i8, .n8, .i4], d := .dst .single, a := .src .single, b := .src .single, op2 := [0, 1],
    imm := .op }
def rowUnpack : OpRow := { opc := 0x042, types := [.i16, .n16, .i8, .n8, .i4], d := .dst .pair, a := .src .single, imm := .op }
def rowDp4 : OpRow :=
  { opc := 0x043, types := [.i8, .n8, .i4], d := .dst .single, a := .src .single, b := .src .single, c := .src .single,
    op2 := [0, 1, 2, 3], imm := .op }

/-! The rows of 11 R229; in the steward a float type is F32 alone, but for the conversions and FKEY (03 R78). -/

def rowFadd : OpRow := { rowTwo 0x100 tysF [0, 1] with stewTypes := [.f32], subMax := 3 }
def rowFsub : OpRow := { rowFadd with opc := 0x101 }
def rowFmul : OpRow := { rowFadd with opc := 0x102 }
def rowFfma : OpRow := { rowFadd with opc := 0x103, c := .src .typ, op2 := [0, 1, 2, 3] }
def rowFmin : OpRow := { rowTwo 0x104 (tysF ++ tysPK) [0, 1] with stewTypes := [.f32] }
def rowFmax : OpRow := { rowFmin with opc := 0x105 }
def rowFcmp : OpRow :=
  { opc := 0x106, types := tysF, stewTypes := [.f32], d := .pdst, a := .src .typ, b := .src .typ, c := .psrcIfOp2,
    subMax := 13, op2 := [0, 1, 2, 3], imm := .op }
def rowFclass : OpRow :=
  { opc := 0x107, types := tysF, stewTypes := [.f32], d := .dst .single, a := .src .typ, imm := .op }
def rowFadd2 : OpRow := { rowTwo 0x108 tysPK [0, 1] with stream := .threads, subMax := 3 }
def rowFmul2 : OpRow := { rowFadd2 with opc := 0x109 }
def rowFfma2 : OpRow := { rowFadd2 with opc := 0x10A, c := .src .typ, op2 := [0, 1, 2, 3] }
def rowFdot2 : OpRow :=
  { rowTwo 0x10C [.f16, .bf16] [0, 1] with stream := .threads, d := .dst .single, c := .src .single }
def rowFdot4 : OpRow :=
  { rowFdot2 with opc := 0x10D, a := .srcReg .pair, b := .srcReg .pair }
def rowFrnd : OpRow :=
  { opc := 0x110, types := tysF, stewTypes := [.f32], d := .dst .typ, a := .src .typ, subMax := 3, imm := .op }
def rowFscale : OpRow := { rowFadd with opc := 0x111 }
def rowFkey : OpRow := { opc := 0x112, types := tysF, d := .dst .typ, a := .src .typ, op2 := [0, 1, 2, 3], imm := .op }
def rowFquant : OpRow :=
  { opc := 0x113, types := [.i4, .i8, .n8, .i16, .n16], stewTypes := [], d := .dst .typ, a := .src .single, b := .src .single,
    subMax := 3, op2 := [0, 1], imm := .op }
def rowFdeq : OpRow :=
  { opc := 0x114, types := [.i4, .i8, .n8, .i16, .n16, .i32, .n32], stewTypes := [], d := .dst .single, a := .src .typ,
    b := .src .single, subMax := 3, imm := .op }
def rowFcvt : OpRow :=
  { opc := 0x118, types := tysF ++ tysPK, d := .dst .typ, a := .src .single, b := .srcIfPack, subMax := 3,
    op2 := [0, 1, 2, 3], imm := .fixed 15, extra := fun ty _ op2 u => fcvtOk ty op2 u }
def rowF2i : OpRow :=
  { opc := 0x119, types := .i4 :: tysWN, d := .dst .typ, a := .src .single, subMax := 3, imm := .fixed 15,
    extra := fun _ _ _ u => u == 4 || u == 5 || u == 6 }
def rowI2f : OpRow :=
  { opc := 0x11A, types := tysF, d := .dst .typ, a := .srcOfCode, subMax := 3, imm := .fixed 15,
    extra := fun _ _ _ u => intCode u }

/-- A special function (R243). -/
def rowSpecial (opc : BitVec 10) : OpRow :=
  { opc := opc, types := tysF, stewTypes := [.f32], d := .dst .typ, a := .src .typ, imm := .op, var := true }

def rowFrcp : OpRow := rowSpecial 0x180
def rowFrsq : OpRow := rowSpecial 0x181
def rowFsqrt : OpRow := rowSpecial 0x182
def rowFexp2 : OpRow := rowSpecial 0x183
def rowFlog2 : OpRow := rowSpecial 0x184
def rowFsin : OpRow := rowSpecial 0x185
def rowFcos : OpRow := rowSpecial 0x186
def rowFtanh : OpRow := rowSpecial 0x187
def rowFsigm : OpRow := rowSpecial 0x188

/-! The rows of 12 R247. -/

def rowBra : OpRow := { opc := 0x200, imm := .fixed maxImm }
def rowBrx : OpRow := { opc := 0x201, a := .src .single, imm := .fixed maxImm }
def rowCall : OpRow := { opc := 0x202, d := .dst .single, imm := .fixed maxImm }
def rowRet : OpRow := { opc := 0x203, a := .src .single }
def rowExit : OpRow := { opc := 0x204 }
def rowYield : OpRow := { opc := 0x205 }
def rowReconv : OpRow :=
  { opc := 0x206, stream := .threads, d := .pdst, a := .mask, imm := .fixed 65535, var := true }
def rowRegion : OpRow := { opc := 0x207 }
def rowTrap : OpRow := { opc := 0x208, imm := .fixed maxImm }
def rowBkpt : OpRow := { opc := 0x209 }
def rowTret : OpRow := { opc := 0x20A, stream := .threads }
def rowBrdec : OpRow := { opc := 0x20B, stream := .stewards, d := .dst .single, a := .src .single, imm := .fixed maxImm }
def rowSleep : OpRow := { opc := 0x20C, a := .src .single, imm := .op }
def rowRdv : OpRow := { opc := 0x210, stream := .threads, a := .mask, var := true }
def rowRshfl : OpRow :=
  { opc := 0x211, stream := .threads, types := tysW, d := .dst .typ, a := .mask, b := .src .typ, c := .src .single,
    op2 := [0, 1, 2, 3], imm := .op, var := true }
def rowRvote : OpRow :=
  { opc := 0x212, stream := .threads, d := .pdst, a := .mask, b := .psrc, op2 := [0, 1], var := true }
def rowRvoteBallot : OpRow :=
  { opc := 0x212, stream := .threads, d := .dstEven, a := .mask, b := .psrc, op2 := [2], var := true }
def rowRred : OpRow :=
  { opc := 0x213, stream := .threads, types := tysAtF, d := .dst .typ, a := .mask, b := .src .typ,
    op2 := [0, 1, 2, 3, 4, 5], imm := .op, extra := fun ty _ op2 _ => redOk ty op2, var := true }
def rowRscan : OpRow :=
  { rowRred with opc := 0x214, op2 := [0, 1, 2, 3, 4, 5, 8, 9, 10, 11, 12, 13],
                 extra := fun ty _ op2 _ => redOk ty (op2 % 8) }
def rowRrank : OpRow := { opc := 0x215, stream := .threads, d := .dst .single, a := .mask, var := true }
def rowBar : OpRow := { opc := 0x218, imm := .fixed maxImm }
def rowBarrive : OpRow := { opc := 0x219, imm := .fixed maxImm }
def rowBwait : OpRow := { opc := 0x21A, imm := .fixed maxImm }
def rowBtest : OpRow := { opc := 0x21B, d := .pdst, op2 := [0, 1], imm := .fixed maxImm }
def rowCbar : OpRow := { opc := 0x21C, imm := .fixed maxImm }
def rowCbarrive : OpRow := { opc := 0x21D, imm := .fixed maxImm }
def rowCbwait : OpRow := { opc := 0x21E, imm := .fixed maxImm }
def rowFence : OpRow := { opc := 0x220, subMax := 7, op2 := [1, 2, 3] }
def rowWaita : OpRow :=
  { opc := 0x221, types := [.n32, .n64], d := .dst .typ, a := .base, b := .index, c := .src .typ, subMax := 7,
    op2 := [0, 1, 2, 3, 4], imm := .fixed maxImm, var := true }
def rowTrig : OpRow := { opc := 0x222 }
def rowOflush : OpRow := { opc := 0x223 }

/-! The rows of 13 R273. -/

def rowLd : OpRow :=
  { opc := 0x280, types := tysM, d := .dst .typ, a := .base, b := .index, subMax := 7, op2 := [0, 1, 2, 3, 4],
    imm := .fixed maxImm, var := true }
def rowSt : OpRow :=
  { opc := 0x281, types := tysM, d := .ordFlag, a := .base, b := .index, c := .src .typ, subMax := 7,
    op2 := [0, 1, 2, 3, 4], imm := .fixed maxImm }
def rowLdt : OpRow :=
  { opc := 0x282, types := tysEl, d := .dst .typ, a := .coord, b := .src .single, subMax := 7, imm := .op, var := true }
def rowStt : OpRow :=
  { opc := 0x283, types := tysEl, d := .ordFlag, a := .coord, b := .src .single, c := .srcReg .typ, subMax := 7, imm := .op }
def rowPf : OpRow :=
  { opc := 0x284, types := tysM, a := .base, b := .index, subMax := 7, op2 := [0, 1, 2, 3, 4], imm := .fixed maxImm }
def rowLdp : OpRow := { rowLd with opc := 0x285, types := [.n32], stewTypes := [.n32], d := .dst .quad }
def rowAtom : OpRow :=
  { opc := 0x288, types := tysAtF, d := .dst .typ, a := .base, b := .index, c := .src .typ, subMax := 7,
    op2 := [0, 1, 2, 3, 4], imm := .fixed maxImm, extra := fun ty _ _ imm => atomOk false ty imm, var := true }
def rowAcas : OpRow :=
  { rowAtom with opc := 0x289, types := tysW, stewTypes := tysW, d := .dstSrc .typ, extra := fun _ _ _ imm => decide (imm < 2 ^ 28) }
def rowRed : OpRow :=
  { rowAtom with opc := 0x28A, d := .unused, extra := fun ty _ _ imm => atomOk true ty imm, var := false }

/-! The rows of 14 R294. -/

def rowDqpush : OpRow := { opc := 0x300, stream := .stewards, types := [.n64], a := .src .pair, imm := .op }
def rowDqpop : OpRow := { opc := 0x301, stream := .threads, types := [.n64], d := .dst .pair, var := true }
def rowDqlen : OpRow := { opc := 0x302, types := [.n32], d := .dst .single }
def rowCpy : OpRow := { opc := 0x308, stream := .stewards, a := .blk 8 }
def rowCpyq : OpRow :=
  { opc := 0x309, stream := .stewards, types := [.n32], d := .dst .single, a := .src .single, imm := .op, var := true }
def rowCpyc : OpRow := { opc := 0x30A, stream := .stewards, a := .src .single, imm := .op }
def rowMxz : OpRow := { opc := 0x310, stream := .stewards, a := .blk 1 }
def rowMx : OpRow := { opc := 0x311, stream := .stewards, types := [.i8, .i4], a := .blk 4, op2 := [0, 1] }
def rowMxd : OpRow := { opc := 0x312, stream := .stewards, a := .blk 5, op2 := [0, 1] }
def rowMxs : OpRow := { opc := 0x313, stream := .stewards, a := .blk 8, op2 := [0, 1] }
def rowMxw : OpRow := { opc := 0x314, stream := .stewards }
def rowDlt : OpRow := { opc := 0x318, stream := .stewards, a := .blk 1 }
def rowRsbind : OpRow := { opc := 0x319, stream := .stewards, a := .blk 8 }
def rowRsinv : OpRow := { opc := 0x31A, stream := .stewards, a := .src .single, imm := .op }
def rowRsinvRel : OpRow := { rowRsinv with op2 := [1] }
def rowRsref : OpRow :=
  { opc := 0x31B, stream := .stewards, a := .src .single, b := .src .single, c := .src .single, imm := .op }
def rowRsq : OpRow := { opc := 0x31C, types := [.n64], d := .dst .pair, a := .src .single, b := .src .single, imm := .op, var := true }
def rowRsparam : OpRow := { opc := 0x31D, stream := .stewards, a := .blk 2 }
def rowTdw : OpRow := { opc := 0x320, stream := .stewards, a := .blk 32, b := .src .single, imm := .op }
def rowTdr : OpRow := { opc := 0x321, types := [.n64], d := .dst .pair, a := .src .single, b := .src .single, imm := .op, var := true }
def rowLaunch : OpRow := { opc := 0x328, stream := .stewards, a := .src .pair, b := .src .single, imm := .op }
def rowSignal : OpRow := { opc := 0x329, a := .base, b := .index, op2 := [3, 4], imm := .fixed maxImm }
def rowRand : OpRow := { opc := 0x338, stream := .threads, types := [.n32, .n64, .f32], d := .dst .typ }
def rowRseed : OpRow := { opc := 0x339, stream := .threads, a := .src .pair, op2 := [0, 1], imm := .op }
def rowSysr : OpRow := { opc := 0x3C0, d := .dst .single, imm := .fixed 4095 }
def rowSysw : OpRow := { opc := 0x3C1, a := .src .single, imm := .fixed 4095 }

/-- The row and the fields of a program instruction; a happening of the device has none. -/
def Instr.row? : Instr → Option (OpRow × Form)
  | .nop f => some (rowNop, f)
  | .mov f => some (rowMov, f)
  | .sel f => some (rowSel, f)
  | .xget f => some (rowXget, f)
  | .xput f => some (rowXput, f)
  | .gget f => some (rowGget, f)
  | .gput f => some (rowGput, f)
  | .add f => some (rowAdd, f)
  | .sub f => some (rowSub, f)
  | .mul f => some (rowMul, f)
  | .mulh f => some (rowMulh, f)
  | .mad f => some (rowMad, f)
  | .madw f => some (rowMadw, f)
  | .div f => some (rowDiv, f)
  | .rem f => some (rowRem, f)
  | .min f => some (rowMin, f)
  | .max f => some (rowMax, f)
  | .abs f => some (rowAbs, f)
  | .clamp f => some (rowClamp, f)
  | .and f => some (rowAnd, f)
  | .or f => some (rowOr, f)
  | .xor f => some (rowXor, f)
  | .andn f => some (rowAndn, f)
  | .logic3 f => some (rowLogic3, f)
  | .shl f => some (rowShl, f)
  | .shr f => some (rowShr, f)
  | .sar f => some (rowSar, f)
  | .rol f => some (rowRol, f)
  | .fshl f => some (rowFshl, f)
  | .bfx f => some (rowBfx, f)
  | .bfi f => some (rowBfi, f)
  | .brev f => some (rowBrev, f)
  | .popc f => some (rowPopc, f)
  | .clz f => some (rowClz, f)
  | .ctz f => some (rowCtz, f)
  | .perm f => some (rowPerm, f)
  | .cmp f => some (rowCmp, f)
  | .plop f => some (rowPlop, f)
  | .pset f => some (rowPset, f)
  | .psetBulk f => some (rowPsetBulk, f)
  | .pget f => some (rowPget, f)
  | .lea f => some (rowLea, f)
  | .cvti f => some (rowCvti, f)
  | .pack f => some (rowPack, f)
  | .unpack f => some (rowUnpack, f)
  | .dp4 f => some (rowDp4, f)
  | .fadd f => some (rowFadd, f)
  | .fsub f => some (rowFsub, f)
  | .fmul f => some (rowFmul, f)
  | .ffma f => some (rowFfma, f)
  | .fmin f => some (rowFmin, f)
  | .fmax f => some (rowFmax, f)
  | .fcmp f => some (rowFcmp, f)
  | .fclass f => some (rowFclass, f)
  | .fadd2 f => some (rowFadd2, f)
  | .fmul2 f => some (rowFmul2, f)
  | .ffma2 f => some (rowFfma2, f)
  | .fdot2 f => some (rowFdot2, f)
  | .fdot4 f => some (rowFdot4, f)
  | .frnd f => some (rowFrnd, f)
  | .fscale f => some (rowFscale, f)
  | .fkey f => some (rowFkey, f)
  | .fquant f => some (rowFquant, f)
  | .fdeq f => some (rowFdeq, f)
  | .fcvt f => some (rowFcvt, f)
  | .f2i f => some (rowF2i, f)
  | .i2f f => some (rowI2f, f)
  | .frcp f => some (rowFrcp, f)
  | .frsq f => some (rowFrsq, f)
  | .fsqrt f => some (rowFsqrt, f)
  | .fexp2 f => some (rowFexp2, f)
  | .flog2 f => some (rowFlog2, f)
  | .fsin f => some (rowFsin, f)
  | .fcos f => some (rowFcos, f)
  | .ftanh f => some (rowFtanh, f)
  | .fsigm f => some (rowFsigm, f)
  | .bra f => some (rowBra, f)
  | .brx f => some (rowBrx, f)
  | .call f => some (rowCall, f)
  | .ret f => some (rowRet, f)
  | .brdec f => some (rowBrdec, f)
  | .exit f => some (rowExit, f)
  | .yield f => some (rowYield, f)
  | .reconv f => some (rowReconv, f)
  | .region f => some (rowRegion, f)
  | .trap f => some (rowTrap, f)
  | .bkpt f => some (rowBkpt, f)
  | .tret f => some (rowTret, f)
  | .sleep f => some (rowSleep, f)
  | .rdv f => some (rowRdv, f)
  | .rshfl f => some (rowRshfl, f)
  | .rvote f => some (rowRvote, f)
  | .rvoteBallot f => some (rowRvoteBallot, f)
  | .rred f => some (rowRred, f)
  | .rscan f => some (rowRscan, f)
  | .rrank f => some (rowRrank, f)
  | .bar f => some (rowBar, f)
  | .barrive f => some (rowBarrive, f)
  | .bwait f => some (rowBwait, f)
  | .btest f => some (rowBtest, f)
  | .cbar f => some (rowCbar, f)
  | .cbarrive f => some (rowCbarrive, f)
  | .cbwait f => some (rowCbwait, f)
  | .fence f => some (rowFence, f)
  | .waita f => some (rowWaita, f)
  | .trig f => some (rowTrig, f)
  | .oflush f => some (rowOflush, f)
  | .ld f => some (rowLd, f)
  | .st f => some (rowSt, f)
  | .ldt f => some (rowLdt, f)
  | .stt f => some (rowStt, f)
  | .pf f => some (rowPf, f)
  | .ldp f => some (rowLdp, f)
  | .atom f => some (rowAtom, f)
  | .acas f => some (rowAcas, f)
  | .red f => some (rowRed, f)
  | .dqpush f => some (rowDqpush, f)
  | .dqpop f => some (rowDqpop, f)
  | .dqlen f => some (rowDqlen, f)
  | .cpy f => some (rowCpy, f)
  | .cpyq f => some (rowCpyq, f)
  | .cpyc f => some (rowCpyc, f)
  | .mxz f => some (rowMxz, f)
  | .mx f => some (rowMx, f)
  | .mxd f => some (rowMxd, f)
  | .mxs f => some (rowMxs, f)
  | .mxw f => some (rowMxw, f)
  | .dlt f => some (rowDlt, f)
  | .rsbind f => some (rowRsbind, f)
  | .rsinv f => some (rowRsinv, f)
  | .rsinvRel f => some (rowRsinvRel, f)
  | .rsref f => some (rowRsref, f)
  | .rsq f => some (rowRsq, f)
  | .rsparam f => some (rowRsparam, f)
  | .tdw f => some (rowTdw, f)
  | .tdr f => some (rowTdr, f)
  | .launch f => some (rowLaunch, f)
  | .signal f => some (rowSignal, f)
  | .rand f => some (rowRand, f)
  | .rseed f => some (rowRseed, f)
  | .sysr f => some (rowSysr, f)
  | .sysw f => some (rowSysw, f)
  | .resultReturn _ _ => none
  | .storeCommit _ => none
  | .barrierArrivalPerformed _ => none
  | .barrierPhaseComplete _ _ => none
  | .rdvInstanceComplete _ _ => none
  | .reconvTimeout _ => none
  | .urgentThread _ => none
  | .fuseWaitExpiry _ => none
  | .sleepExpiry _ => none
  | .trapEntry _ => none
  | .evictionTimerExpiry _ => none
  | .groupPlacement _ _ _ _ => none
  | .clusterModeChange _ _ => none
  | .engineCommandStart _ _ => none
  | .mxComplete _ _ => none
  | .cpyComplete _ _ => none
  | .dltBlockStep _ _ => none
  | .dltComplete _ _ => none
  | .drainRowConvert _ _ => none
  | .mxdComplete _ _ => none
  | .mxsComplete _ _ => none
  | .orderedBatchApply _ => none
  | .groupRetire _ => none
  | .gridComplete _ => none
  | .queueDispatch _ _ => none
  | .launchHeldPerform _ => none
  | .doorbell _ _ _ => none
  | .queueEnable _ _ => none
  | .queueDisable _ _ => none
  | .queueConfigWrite _ _ _ => none
  | .create _ => none
  | .destroy _ => none
  | .reset _ => none
  | .preempt _ => none
  | .contextFieldWrite _ _ => none
  | .grpSelWrite _ _ => none
  | .sliceExpiry _ => none
  | .contextSave _ => none
  | .contextRestore _ => none
  | .functionLevelReset _ => none
  | .vfEnableClear => none
  | .resetQueueHoldExpiry _ => none
  | .resetZeroingComplete _ => none
  | .pair _ => none
  | .unpair _ => none
  | .loadSet _ => none
  | .slotSetSwitch => none
  | .registerCode _ => none
  | .inject _ => none
  | .clearFault _ => none
  | .retire _ => none
  | .restore _ => none
  | .clock _ => none
  | .reportRing _ => none
  | .attest _ => none
  | .badRequest _ _ => none
  | .comparatorCompare _ => none
  | .shadowTimeout _ => none
  | .cloneExecute _ => none
  | .cloneReplay _ _ => none
  | .rollbackRestart _ => none
  | .degradedStepEnter _ => none
  | .degradedStepLeave => none
  | .powerCap _ _ => none
  | .tovorCoreMismatch => none
  | .powerUp _ => none
  | .invStage1Page _ _ => none
  | .invStage1All _ _ => none
  | .invStage2Page _ _ => none
  | .invStage2All _ _ => none
  | .invBoth _ _ => none
  | .s1RootWrite _ _ => none
  | .invalidationComplete _ => none
  | .pageWalk _ _ _ => none
  | .patrolBlockVisit _ => none
  | .patrolPassComplete _ => none
  | .spareRowCopy _ => none
  | .hostWindowRead _ _ _ => none
  | .hostWindowWrite _ _ _ => none
  | .linkInboundOperation _ => none
  | .linkAckTimeout _ => none
  | .linkDown _ => none
  | .frameArrival _ _ => none
  | .netCtlWrite _ _ => none
  | .registerWrite _ => none
  | .evictionComplete _ => none
  | .linkAcknowledgement _ _ => none
  | .yieldExclusionExpiry _ => none
  | .hardwareFault _ => none
  | .unassignedOpcode _ => none

/-- The 139 assigned opcodes (09 R198). -/
def assignedOpcs : List Nat :=
  [0x000, 0x001, 0x002, 0x003, 0x004, 0x005, 0x006, 0x008, 0x009, 0x00C, 0x00D, 0x00E, 0x00F, 0x010]
    ++ [0x011, 0x012, 0x013, 0x014, 0x015, 0x018, 0x019, 0x01A, 0x01B, 0x01C, 0x020, 0x021, 0x022, 0x023]
    ++ [0x024, 0x028, 0x029, 0x02A, 0x02B, 0x02C, 0x02D, 0x02E, 0x030, 0x031, 0x032, 0x033, 0x038, 0x040]
    ++ [0x041, 0x042, 0x043, 0x100, 0x101, 0x102, 0x103, 0x104, 0x105, 0x106, 0x107, 0x108, 0x109, 0x10A]
    ++ [0x10C, 0x10D, 0x110, 0x111, 0x112, 0x113, 0x114, 0x118, 0x119, 0x11A, 0x180, 0x181, 0x182, 0x183]
    ++ [0x184, 0x185, 0x186, 0x187, 0x188, 0x200, 0x201, 0x202, 0x203, 0x204, 0x205, 0x206, 0x207, 0x208]
    ++ [0x209, 0x20A, 0x20B, 0x20C, 0x210, 0x211, 0x212, 0x213, 0x214, 0x215, 0x218, 0x219, 0x21A, 0x21B]
    ++ [0x21C, 0x21D, 0x21E, 0x220, 0x221, 0x222, 0x223, 0x280, 0x281, 0x282, 0x283, 0x284, 0x285, 0x288]
    ++ [0x289, 0x28A, 0x300, 0x301, 0x302, 0x308, 0x309, 0x30A, 0x310, 0x311, 0x312, 0x313, 0x314, 0x318]
    ++ [0x319, 0x31A, 0x31B, 0x31C, 0x31D, 0x320, 0x321, 0x328, 0x329, 0x338, 0x339, 0x3C0, 0x3C1]

/-! What a happening names must exist (00 R2, 16 R333, 17 R348 and R351, 18 R366, 20 R408 and R409). -/

def okCtxRef (r : CtxRef) : Bool := match r.who with | .thread n => decide (n < 1024) | .steward => true
def okCore (core : Nat) : Bool := decide (core < 128)
def okCtx (n : Nat) : Bool := decide (n < 1024)
def okQueue (part queue : Nat) : Bool := decide (part < 12) && decide (queue < 64)
/-- The mailbox commands that have a meaning of their own (18 R384). -/
def okCommand (cmd : Byte) : Bool := decide (1 ≤ cmd.toNat) && decide (cmd.toNat ≤ 11)

/-- A host write within the window; an AtomicOp has 4 or 8 bytes (20 R408). -/
def okHostWrite (off : Nat) : HostWrite → Bool
  | .bytes data => decide (off + data.length ≤ 2 ^ 32)
  | .fetchAdd n _ | .swap n _ | .cas n _ _ => (n == 4 || n == 8) && decide (off + n ≤ 2 ^ 32)

def Instr.named : Instr → Bool
  | .nop _ => true
  | .mov _ => true
  | .sel _ => true
  | .xget _ => true
  | .xput _ => true
  | .gget _ => true
  | .gput _ => true
  | .add _ => true
  | .sub _ => true
  | .mul _ => true
  | .mulh _ => true
  | .mad _ => true
  | .madw _ => true
  | .div _ => true
  | .rem _ => true
  | .min _ => true
  | .max _ => true
  | .abs _ => true
  | .clamp _ => true
  | .and _ => true
  | .or _ => true
  | .xor _ => true
  | .andn _ => true
  | .logic3 _ => true
  | .shl _ => true
  | .shr _ => true
  | .sar _ => true
  | .rol _ => true
  | .fshl _ => true
  | .bfx _ => true
  | .bfi _ => true
  | .brev _ => true
  | .popc _ => true
  | .clz _ => true
  | .ctz _ => true
  | .perm _ => true
  | .cmp _ => true
  | .plop _ => true
  | .pset _ => true
  | .psetBulk _ => true
  | .pget _ => true
  | .lea _ => true
  | .cvti _ => true
  | .pack _ => true
  | .unpack _ => true
  | .dp4 _ => true
  | .fadd _ => true
  | .fsub _ => true
  | .fmul _ => true
  | .ffma _ => true
  | .fmin _ => true
  | .fmax _ => true
  | .fcmp _ => true
  | .fclass _ => true
  | .fadd2 _ => true
  | .fmul2 _ => true
  | .ffma2 _ => true
  | .fdot2 _ => true
  | .fdot4 _ => true
  | .frnd _ => true
  | .fscale _ => true
  | .fkey _ => true
  | .fquant _ => true
  | .fdeq _ => true
  | .fcvt _ => true
  | .f2i _ => true
  | .i2f _ => true
  | .frcp _ => true
  | .frsq _ => true
  | .fsqrt _ => true
  | .fexp2 _ => true
  | .flog2 _ => true
  | .fsin _ => true
  | .fcos _ => true
  | .ftanh _ => true
  | .fsigm _ => true
  | .bra _ => true
  | .brx _ => true
  | .call _ => true
  | .ret _ => true
  | .brdec _ => true
  | .exit _ => true
  | .yield _ => true
  | .reconv _ => true
  | .region _ => true
  | .trap _ => true
  | .bkpt _ => true
  | .tret _ => true
  | .sleep _ => true
  | .rdv _ => true
  | .rshfl _ => true
  | .rvote _ => true
  | .rvoteBallot _ => true
  | .rred _ => true
  | .rscan _ => true
  | .rrank _ => true
  | .bar _ => true
  | .barrive _ => true
  | .bwait _ => true
  | .btest _ => true
  | .cbar _ => true
  | .cbarrive _ => true
  | .cbwait _ => true
  | .fence _ => true
  | .waita _ => true
  | .trig _ => true
  | .oflush _ => true
  | .ld _ => true
  | .st _ => true
  | .ldt _ => true
  | .stt _ => true
  | .pf _ => true
  | .ldp _ => true
  | .atom _ => true
  | .acas _ => true
  | .red _ => true
  | .dqpush _ => true
  | .dqpop _ => true
  | .dqlen _ => true
  | .cpy _ => true
  | .cpyq _ => true
  | .cpyc _ => true
  | .mxz _ => true
  | .mx _ => true
  | .mxd _ => true
  | .mxs _ => true
  | .mxw _ => true
  | .dlt _ => true
  | .rsbind _ => true
  | .rsinv _ => true
  | .rsinvRel _ => true
  | .rsref _ => true
  | .rsq _ => true
  | .rsparam _ => true
  | .tdw _ => true
  | .tdr _ => true
  | .launch _ => true
  | .signal _ => true
  | .rand _ => true
  | .rseed _ => true
  | .sysr _ => true
  | .sysw _ => true
  | .resultReturn r k => okCtxRef r && decide (k < 16)
  | .storeCommit r => okCtxRef r
  | .barrierArrivalPerformed r => okCtxRef r
  | .barrierPhaseComplete _ k => decide (k < 24)
  | .rdvInstanceComplete _ _ => true
  | .reconvTimeout r => okCtxRef r
  | .urgentThread r => okCtxRef r
  | .fuseWaitExpiry r => okCtxRef r
  | .sleepExpiry r => okCtxRef r
  | .trapEntry r => okCtxRef r
  | .evictionTimerExpiry _ => true
  | .groupPlacement _ cluster core quad => decide (cluster < 16) && decide (core < 8) && decide (quad < 4)
  | .clusterModeChange cluster _ => decide (cluster < 16)
  | .engineCommandStart core _ => okCore core
  | .mxComplete core _ => okCore core
  | .cpyComplete core _ => okCore core
  | .dltBlockStep core _ => okCore core
  | .dltComplete core _ => okCore core
  | .drainRowConvert core _ => okCore core
  | .mxdComplete core _ => okCore core
  | .mxsComplete core _ => okCore core
  | .orderedBatchApply _ => true
  | .groupRetire _ => true
  | .gridComplete _ => true
  | .queueDispatch p q => okQueue p q
  | .launchHeldPerform r => okCtxRef r
  | .doorbell p q _ => decide (p.func ≤ 512) && okQueue p.part q
  | .queueEnable p q => decide (p.func ≤ 512) && okQueue p.part q
  | .queueDisable p q => decide (p.func ≤ 512) && okQueue p.part q
  | .queueConfigWrite p q _ => decide (p.func ≤ 512) && okQueue p.part q
  | .create n => okCtx n
  | .destroy n => okCtx n
  | .reset n => okCtx n
  | .preempt n => okCtx n
  | .contextFieldWrite n _ => okCtx n
  | .grpSelWrite reach _ => okCtx reach.ctx
  | .sliceExpiry n => okCtx n
  | .contextSave n => okCtx n
  | .contextRestore n => okCtx n
  | .functionLevelReset vf => decide (vf < 512)
  | .vfEnableClear => true
  | .resetQueueHoldExpiry n => okCtx n
  | .resetZeroingComplete n => okCtx n
  | .pair _ => true
  | .unpair _ => true
  | .loadSet _ => true
  | .slotSetSwitch => true
  | .registerCode _ => true
  | .inject _ => true
  | .clearFault _ => true
  | .retire _ => true
  | .restore _ => true
  | .clock _ => true
  | .reportRing _ => true
  | .attest _ => true
  | .badRequest _ _ => true
  | .comparatorCompare core => okCore core
  | .shadowTimeout j => decide (j < 8)
  | .cloneExecute r => okCtxRef r
  | .cloneReplay core quad => okCore core && decide (quad < 4)
  | .rollbackRestart _ => true
  | .degradedStepEnter _ => true
  | .degradedStepLeave => true
  | .powerCap part mhz => decide (part < 12) && decide (800 ≤ mhz) && decide (mhz ≤ 1250)
  | .tovorCoreMismatch => true
  | .powerUp _ => true
  | .invStage1Page n _ => okCtx n
  | .invStage1All n _ => okCtx n
  | .invStage2Page n _ => okCtx n
  | .invStage2All n _ => okCtx n
  | .invBoth n _ => okCtx n
  | .s1RootWrite reach _ => okCtx reach.ctx
  | .invalidationComplete n => okCtx n
  | .pageWalk core n _ => okCore core && okCtx n
  | .patrolBlockVisit b => decide (b < 2 ^ 31)
  | .patrolPassComplete c => decide (c < 32)
  | .spareRowCopy r => decide (r < 2 ^ 25)
  | .hostWindowRead func off len => decide (func ≤ 512) && decide (off + len ≤ 2 ^ 32)
  | .hostWindowWrite func off data => decide (func ≤ 512) && okHostWrite off data
  | .linkInboundOperation op => decide (op.link < 2) && okCtx op.ctx
  | .linkAckTimeout _ => true
  | .linkDown link => decide (link < 2)
  | .frameArrival port _ => decide (port < 4)
  | .netCtlWrite port _ => decide (port < 4)
  | .registerWrite _ => true
  | .evictionComplete _ => true
  | .linkAcknowledgement _ _ => true
  | .yieldExclusionExpiry r => okCtxRef r
  | .hardwareFault _ => true
  | .unassignedOpcode w => !assignedOpcs.contains (w.extractLsb' 0 10).toNat

/-- An instruction that some stream accepts, or a happening whose parts exist. -/
def Instr.wellFormed (i : Instr) : Bool :=
  match i.row? with
  | some (row, f) => row.ok f.fields
  | none => i.named

end Sys2Proof
end

