-- ==== Sys2Proof/Decode.lean ====
section
/-!
DEFINITION. The decoder: any 96-bit word to an instruction, or a rejection by name (08 R177, R178 steps 1, 2, 4, 5; 09
R198); and after it the encoder, written from the same tables. A word whose OPC is unassigned or lies in 0x380 to 0x3BF
is itself an instruction of the table, UNASSIGNED_OPCODE.
-/
namespace Sys2Proof

/-- The code of MOD (08 R181). -/
def Ty.code : Ty → BitVec 4
  | .i32 => 0 | .n32 => 1 | .i64 => 2 | .n64 => 3 | .f32 => 4 | .f16 => 5 | .bf16 => 6 | .f16x2 => 7 | .bf16x2 => 8
  | .i8 => 9 | .n8 => 10 | .i16 => 11 | .n16 => 12 | .i4 => 13

/-- The type of a MOD code; 14 and 15 are reserved. -/
def Ty.ofCode (c : Nat) : Option Ty :=
  match c with
  | 0 => some .i32 | 1 => some .n32 | 2 => some .i64 | 3 => some .n64 | 4 => some .f32 | 5 => some .f16
  | 6 => some .bf16 | 7 => some .f16x2 | 8 => some .bf16x2 | 9 => some .i8 | 10 => some .n8 | 11 => some .i16
  | 12 => some .n16 | 13 => some .i4 | _ => none

/-- The place of a system value above code 0x50 (02 R47). -/
def SysVal.index : SysVal → Nat
  | .tid => 0 | .groupLo => 1 | .groupHi => 2 | .setid => 3 | .lane => 4 | .quad => 5 | .core => 6 | .cluster => 7
  | .nthreads => 8 | .cgrank => 9 | .cycLo => 10 | .cycHi => 11

def SysVal.ofIndex (c : Nat) : Option SysVal :=
  match c with
  | 0 => some .tid | 1 => some .groupLo | 2 => some .groupHi | 3 => some .setid | 4 => some .lane | 5 => some .quad
  | 6 => some .core | 7 => some .cluster | 8 => some .nthreads | 9 => some .cgrank | 10 => some .cycLo
  | 11 => some .cycHi | _ => none

/-- The code of an operand (08 R185). -/
def Operand.code : Operand → Byte
  | .x n => BitVec.ofNat 8 n.val
  | .p n => BitVec.ofNat 8 (0x40 + n.val)
  | .zero => 0x48
  | .imm => 0x49
  | .drain => 0x4A
  | .sys v => BitVec.ofNat 8 (0x50 + v.index)
  | .g n => BitVec.ofNat 8 (0x80 + n.val)

/-- The operand of a code; a reserved code has none (08 R185). -/
def Operand.ofCode (b : Byte) : Option Operand :=
  let c := b.toNat
  if h : c < 0x40 then some (.x ⟨c, h⟩)
  else if h : c - 0x40 < 8 then some (.p ⟨c - 0x40, h⟩)
  else if c = 0x48 then some .zero
  else if c = 0x49 then some .imm
  else if c = 0x4A then some .drain
  else if c < 0x50 then none
  else if c < 0x80 then (SysVal.ofIndex (c - 0x50)).map .sys
  else if h : c - 0x80 < 128 then some (.g ⟨c - 0x80, h⟩)
  else none

/-- The row and the constructor of an opcode (09 R198); OP2 tells the rows that share one. -/
def instrOf (opc op2 : Nat) : Option (OpRow × (Form → Instr)) :=
  match opc with
  | 0x000 => some (rowNop, .nop)
  | 0x001 => some (rowMov, .mov)
  | 0x002 => some (rowSel, .sel)
  | 0x003 => some (rowXget, .xget)
  | 0x004 => some (rowXput, .xput)
  | 0x005 => some (rowGget, .gget)
  | 0x006 => some (rowGput, .gput)
  | 0x008 => some (rowAdd, .add)
  | 0x009 => some (rowSub, .sub)
  | 0x00C => some (rowMul, .mul)
  | 0x00D => some (rowMulh, .mulh)
  | 0x00E => some (rowMad, .mad)
  | 0x00F => some (rowMadw, .madw)
  | 0x010 => some (rowDiv, .div)
  | 0x011 => some (rowRem, .rem)
  | 0x012 => some (rowMin, .min)
  | 0x013 => some (rowMax, .max)
  | 0x014 => some (rowAbs, .abs)
  | 0x015 => some (rowClamp, .clamp)
  | 0x018 => some (rowAnd, .and)
  | 0x019 => some (rowOr, .or)
  | 0x01A => some (rowXor, .xor)
  | 0x01B => some (rowAndn, .andn)
  | 0x01C => some (rowLogic3, .logic3)
  | 0x020 => some (rowShl, .shl)
  | 0x021 => some (rowShr, .shr)
  | 0x022 => some (rowSar, .sar)
  | 0x023 => some (rowRol, .rol)
  | 0x024 => some (rowFshl, .fshl)
  | 0x028 => some (rowBfx, .bfx)
  | 0x029 => some (rowBfi, .bfi)
  | 0x02A => some (rowBrev, .brev)
  | 0x02B => some (rowPopc, .popc)
  | 0x02C => some (rowClz, .clz)
  | 0x02D => some (rowCtz, .ctz)
  | 0x02E => some (rowPerm, .perm)
  | 0x030 => some (rowCmp, .cmp)
  | 0x031 => some (rowPlop, .plop)
  | 0x032 => if op2 == 1 then some (rowPsetBulk, .psetBulk) else some (rowPset, .pset)
  | 0x033 => some (rowPget, .pget)
  | 0x038 => some (rowLea, .lea)
  | 0x040 => some (rowCvti, .cvti)
  | 0x041 => some (rowPack, .pack)
  | 0x042 => some (rowUnpack, .unpack)
  | 0x043 => some (rowDp4, .dp4)
  | 0x100 => some (rowFadd, .fadd)
  | 0x101 => some (rowFsub, .fsub)
  | 0x102 => some (rowFmul, .fmul)
  | 0x103 => some (rowFfma, .ffma)
  | 0x104 => some (rowFmin, .fmin)
  | 0x105 => some (rowFmax, .fmax)
  | 0x106 => some (rowFcmp, .fcmp)
  | 0x107 => some (rowFclass, .fclass)
  | 0x108 => some (rowFadd2, .fadd2)
  | 0x109 => some (rowFmul2, .fmul2)
  | 0x10A => some (rowFfma2, .ffma2)
  | 0x10C => some (rowFdot2, .fdot2)
  | 0x10D => some (rowFdot4, .fdot4)
  | 0x110 => some (rowFrnd, .frnd)
  | 0x111 => some (rowFscale, .fscale)
  | 0x112 => some (rowFkey, .fkey)
  | 0x113 => some (rowFquant, .fquant)
  | 0x114 => some (rowFdeq, .fdeq)
  | 0x118 => some (rowFcvt, .fcvt)
  | 0x119 => some (rowF2i, .f2i)
  | 0x11A => some (rowI2f, .i2f)
  | 0x180 => some (rowFrcp, .frcp)
  | 0x181 => some (rowFrsq, .frsq)
  | 0x182 => some (rowFsqrt, .fsqrt)
  | 0x183 => some (rowFexp2, .fexp2)
  | 0x184 => some (rowFlog2, .flog2)
  | 0x185 => some (rowFsin, .fsin)
  | 0x186 => some (rowFcos, .fcos)
  | 0x187 => some (rowFtanh, .ftanh)
  | 0x188 => some (rowFsigm, .fsigm)
  | 0x200 => some (rowBra, .bra)
  | 0x201 => some (rowBrx, .brx)
  | 0x202 => some (rowCall, .call)
  | 0x203 => some (rowRet, .ret)
  | 0x204 => some (rowExit, .exit)
  | 0x205 => some (rowYield, .yield)
  | 0x206 => some (rowReconv, .reconv)
  | 0x207 => some (rowRegion, .region)
  | 0x208 => some (rowTrap, .trap)
  | 0x209 => some (rowBkpt, .bkpt)
  | 0x20A => some (rowTret, .tret)
  | 0x20B => some (rowBrdec, .brdec)
  | 0x20C => some (rowSleep, .sleep)
  | 0x210 => some (rowRdv, .rdv)
  | 0x211 => some (rowRshfl, .rshfl)
  | 0x212 => if op2 == 2 then some (rowRvoteBallot, .rvoteBallot) else some (rowRvote, .rvote)
  | 0x213 => some (rowRred, .rred)
  | 0x214 => some (rowRscan, .rscan)
  | 0x215 => some (rowRrank, .rrank)
  | 0x218 => some (rowBar, .bar)
  | 0x219 => some (rowBarrive, .barrive)
  | 0x21A => some (rowBwait, .bwait)
  | 0x21B => some (rowBtest, .btest)
  | 0x21C => some (rowCbar, .cbar)
  | 0x21D => some (rowCbarrive, .cbarrive)
  | 0x21E => some (rowCbwait, .cbwait)
  | 0x220 => some (rowFence, .fence)
  | 0x221 => some (rowWaita, .waita)
  | 0x222 => some (rowTrig, .trig)
  | 0x223 => some (rowOflush, .oflush)
  | 0x280 => some (rowLd, .ld)
  | 0x281 => some (rowSt, .st)
  | 0x282 => some (rowLdt, .ldt)
  | 0x283 => some (rowStt, .stt)
  | 0x284 => some (rowPf, .pf)
  | 0x285 => some (rowLdp, .ldp)
  | 0x288 => some (rowAtom, .atom)
  | 0x289 => some (rowAcas, .acas)
  | 0x28A => some (rowRed, .red)
  | 0x300 => some (rowDqpush, .dqpush)
  | 0x301 => some (rowDqpop, .dqpop)
  | 0x302 => some (rowDqlen, .dqlen)
  | 0x308 => some (rowCpy, .cpy)
  | 0x309 => some (rowCpyq, .cpyq)
  | 0x30A => some (rowCpyc, .cpyc)
  | 0x310 => some (rowMxz, .mxz)
  | 0x311 => some (rowMx, .mx)
  | 0x312 => some (rowMxd, .mxd)
  | 0x313 => some (rowMxs, .mxs)
  | 0x314 => some (rowMxw, .mxw)
  | 0x318 => some (rowDlt, .dlt)
  | 0x319 => some (rowRsbind, .rsbind)
  | 0x31A => if op2 == 1 then some (rowRsinvRel, .rsinvRel) else some (rowRsinv, .rsinv)
  | 0x31B => some (rowRsref, .rsref)
  | 0x31C => some (rowRsq, .rsq)
  | 0x31D => some (rowRsparam, .rsparam)
  | 0x320 => some (rowTdw, .tdw)
  | 0x321 => some (rowTdr, .tdr)
  | 0x328 => some (rowLaunch, .launch)
  | 0x329 => some (rowSignal, .signal)
  | 0x338 => some (rowRand, .rand)
  | 0x339 => some (rowRseed, .rseed)
  | 0x3C0 => some (rowSysr, .sysr)
  | 0x3C1 => some (rowSysw, .sysw)
  | _ => none

/-- Why a word of an assigned opcode is no instruction: step 4 or step 5 of R178. -/
inductive Reject
  | illEnc | illOpnd
  deriving DecidableEq, Repr

/-- The fields of a word that steps 4 and 5 examine; none where MOD is 14 or 15. -/
def wordFields (w : IWord) : Option Fields :=
  (Ty.ofCode (w.extractLsb' 20 4).toNat).map fun ty =>
    { ty := ty
      d := Operand.ofCode (w.extractLsb' 24 8), a := Operand.ofCode (w.extractLsb' 32 8)
      b := Operand.ofCode (w.extractLsb' 40 8), c := Operand.ofCode (w.extractLsb' 48 8)
      sub := (w.extractLsb' 56 4).toNat, op2 := (w.extractLsb' 60 4).toNat, imm := (w.extractLsb' 64 32).toNat }

def wordOpc (w : IWord) : Nat := (w.extractLsb' 0 10).toNat
def wordOp2 (w : IWord) : Nat := (w.extractLsb' 60 4).toNat
/-- HINT_RSV is zero (R177). -/
def wordRsvOk (w : IWord) : Bool := w.extractLsb' 18 2 == 0

/-- The form of a word, where every operand code is one of R185. -/
def wordForm (w : IWord) (fs : Fields) : Option Form :=
  match fs.d, fs.a, fs.b, fs.c with
  | some d, some a, some b, some c =>
    some { guard := (w.extractLsb' 10 3).toFin, gneg := w.getLsbD 13, park := w.getLsbD 14, yield := w.getLsbD 15
           fuse := w.getLsbD 16, last := w.getLsbD 17, ty := fs.ty, d := d, a := a, b := b, c := c
           sub := w.extractLsb' 56 4, op2 := w.extractLsb' 60 4, imm := w.extractLsb' 64 32 }
  | _, _, _, _ => none

/-- Step 4 of R178 for a word, in one stream. -/
def wordEncOk (row : OpRow) (steward : Bool) (w : IWord) : Bool :=
  wordRsvOk w && (match wordFields w with | some fs => row.encOk steward fs | none => false)

/-- The decoder. A word is rejected when no stream of its opcode accepts it. -/
def decode (w : IWord) : Except Reject Instr :=
  match instrOf (wordOpc w) (wordOp2 w) with
  | none => .ok (.unassignedOpcode w)
  | some (row, mk) =>
    if (row.stream.has false && wordEncOk row false w) || (row.stream.has true && wordEncOk row true w) then
      match (wordFields w).bind (wordForm w) with
      | some f => if row.ok f.fields then .ok (mk f) else .error .illOpnd
      | none => .error .illOpnd
    else .error .illEnc

/-- The cause a rejected word raises in the stream that issues it: steps 3, 4, 5 of R178. -/
def rejectCause (steward : Bool) (w : IWord) : Cause :=
  match instrOf (wordOpc w) (wordOp2 w) with
  | none => .illop
  | some (row, _) =>
    if !row.stream.has steward then .stream
    else if wordEncOk row steward w then .illopnd
    else .illenc

/-! The encoder. -/

def bit (b : Bool) : BitVec 1 := BitVec.ofBool b

/-- The 96-bit word of an opcode and its fields (08 R177). -/
def encodeForm (opc : BitVec 10) (f : Form) : IWord :=
  f.imm ++ f.op2 ++ f.sub ++ f.c.code ++ f.b.code ++ f.a.code ++ f.d.code ++ f.ty.code ++ (0 : BitVec 2)
    ++ bit f.last ++ bit f.fuse ++ bit f.yield ++ bit f.park ++ bit f.gneg ++ BitVec.ofNat 3 f.guard.val ++ opc

/-- The word of an instruction; a happening of the device has none. -/
def encode? (i : Instr) : Option IWord :=
  match i.row? with
  | some (row, f) => some (encodeForm row.opc f)
  | none => match i with
    | .unassignedOpcode w => some w
    | _ => none

/-- The word of a well-formed instruction. -/
def encode (i : Instr) : IWord := (encode? i).getD 0

/-! Bytes: three 32-bit little-endian words, bits [31:0] at the lowest address (00 R15). -/

/-- The 12 bytes of a word. -/
def wordBytes (w : IWord) : List Byte := (List.range 12).map fun k => w.extractLsb' (8 * k) 8

/-- The number that little-endian bytes hold. -/
def natOfBytes : List Byte → Nat
  | [] => 0
  | b :: bs => b.toNat + 256 * natOfBytes bs

/-- The word at the head of a list of bytes, with the bytes after it; none when fewer than 12 remain. -/
def takeWord (bs : List Byte) : Option (IWord × List Byte) :=
  if bs.length < 12 then none else some (BitVec.ofNat 96 (natOfBytes (bs.take 12)), bs.drop 12)

/-- Decoding of bytes. -/
def decodeBytes (bs : List Byte) : Option (Except Reject Instr × List Byte) :=
  (takeWord bs).map fun p => (decode p.1, p.2)

/-- The instruction this decoder reads from a word of the opcode table, its bits above `nbits` zero. -/
def decodeTableWord (nbits w : Nat) : Option Instr :=
  match decodeBytes (wordBytes (BitVec.ofNat 96 (w % 2 ^ nbits))) with
  | some (.ok i, _) => some i
  | _ => none

end Sys2Proof
end

