-- ==== Sys2Proof/Config.lean ====
section
/-!
DEFINITION. What the implementation fixes and the spec leaves open: free values without a body (notes/assumptions 3, 21 to
24, 26, 29, 30, 46), and the figures of 00 R5 that the model uses.
-/
namespace Sys2Proof.Config

/-- A result within the bounds of 01 R36 and 11 R243, by function (the low bits of its opcode), format (its MOD code)
and operand; used where it lies within the bound (log 21). -/
opaque specialPick : Nat → Nat → Nat → Nat

/-- The nonzero blocks of a section of an image whose contents are internal, by a counter and the section; used where it
does not exceed the section (log 22). -/
opaque imageBlocks : Nat → Nat → Nat

/-- Where an image begins in its save area, by a counter: any place that is free (03 R97, log 22). -/
opaque imagePlace : Nat → Nat

/-- The bytes of an image, whose contents are internal, by a counter and their number (17 R359, log 22). -/
opaque imageByte : Nat → Nat → BitVec 8

/-- The word that a stream holds once its memory has been rewritten, by a counter (08 R190, log 73). -/
opaque rewrittenWord : Nat → BitVec 96

/-- How far a command in flight has come when its context is halted, by a counter; used up to its end (17 R357, log 27). -/
opaque engineProgress : Nat → Nat

/-- The device serial number (20 R417, log 23). -/
opaque deviceSerial : BitVec 128
/-- The measurement of Tovor's firmware (20 R417, log 23). -/
opaque tovorFirmware : BitVec 384
/-- The measurement of the device firmware (20 R417, log 23). -/
opaque deviceFirmware : BitVec 384
/-- The ECDSA P-384 signature r, s of a digest by the device identity key (20 R417, log 23). -/
opaque signature : BitVec 384 → BitVec 768

/-- A byte that an engine reads at a peer device (20 R412), by a counter and its address (log 26). -/
opaque peerByte : Nat → Nat → BitVec 8

/-- Whether Tovor's self-test of a unit passes (18 R384 RESTORE), by kind and number and a counter (log 24). -/
opaque selfTest : Nat → Nat → Nat → Bool

/-- Which line of 128 bytes lies where in DRAM (19 R404): transpositions that take the order of the addresses to the order of the
rows, 31 data lines in each; every arrangement of the lines is such a list (log 29). -/
opaque dramSwaps : List (Nat × Nat)

/-- The OUTCOME of a report for a cause to which 18 R385 gives none: one of its nine, by the remainder (log 30). -/
opaque openOutcome : Nat → Nat

/-- The CAUSE of the report of a mismatch of Tovor's own cores: one of the 96 of 12 R271, by the remainder (18 R386, log 30). -/
opaque internalCause : Nat

/-- The cycles from the detection of an event to the halt where timing is elastic, by the number of the report: 12 in fixed
timing, and at most 64 (18 R377, R380, R385; log 46). -/
opaque haltCycles : Nat → Nat

end Sys2Proof.Config
end

