-- ==== Sys2Proof/Machine/Visible.lean ====
section
/-!
DEFINITION. What a context sees of memory (05 R123, R137; 13 R276, R290): the home, the L1 of its core, its own stores that
have not committed and its own ordered accesses that have not been applied; and the operations of atomics (13 R285).
-/
namespace Sys2Proof.Machine

/-- Bytes of the access size of a type (13 R274). -/
def Ty.size : Ty → Nat
  | .i8 | .n8 | .i4 => 1
  | .i16 | .n16 | .f16 | .bf16 => 2
  | .i64 | .n64 => 8
  | _ => 4

/-- Whether an atomic writes: ACAS does so only where the old value is the expected one (13 R286), SIGNAL but for a full word. -/
def AtomKind.writes (k : AtomKind) (old : Nat) : Bool :=
  match k with
  | .op .. => true
  | .signal => decide (old ≠ 2 ^ 64 - 1)
  | .cas _ expected _ => old == expected

/-- The operation of an atomic on a memory value (13 R285). -/
def atomNew (k : AtomKind) (old : Nat) (tag : NanTag) : Nat :=
  match k with
  | .cas _ expected new => if old = expected then new else old
  | .signal => old + 1
  | .op code ty c =>
    let w := 8 * Ty.size ty
    let signed := ty == .i32 || ty == .i64
    let less (a b : Nat) : Bool := if signed then decide (sext a w < sext b w) else decide (a < b)
    match code with
    | 0 => if ty == .f32 then fadd fF32 0 tag old c else (old + c) % 2 ^ w
    | 1 => old &&& c
    | 2 => old ||| c
    | 3 => old ^^^ c
    | 4 => if ty == .f32 then fminmax fF32 false false old c else if less c old then c else old
    | 5 => if ty == .f32 then fminmax fF32 true false old c else if less old c then c else old
    | 6 => c
    | 7 => if c ≤ old then 0 else old + 1
    | _ => if old = 0 || c < old then c else old - 1

def AtomKind.size : AtomKind → Nat
  | .op _ ty _ => Ty.size ty
  | .signal => 8
  | .cas n _ _ => n

/-- An ordered access performed on the memory that holds its place (05 R137). -/
def ordOn (m : Memory) (o : OrdEntry) : Memory :=
  match o.kind with
  | .inl k =>
    let old := memNat m o.flat k.size
    if k.writes old then memSetBytes m o.flat (bytesOfNat k.size (atomNew k old { lane := o.lane, pc := o.pc.toNat })) else m
  | .inr v =>
    if o.mask = 0xFF then memSetBytes m o.flat (bytesOfNat o.size v)
    else memSetMasked m [{ addr := o.flat, val := BitVec.ofNat 8 v, mask := o.mask }]

/-- The ordered accesses of a context that are not applied yet, oldest first. -/
def Group.pendingOrd (g : Group) (who : Who) (h : Hart) : List OrdEntry :=
  (g.batches.map fun b => (b.filter fun p => p.1 == who).map fun p => p.2).flatten ++ h.ord

/-- An ordered access takes bytes of a range, here or at a peer. -/
def OrdEntry.meets (o : OrdEntry) (peer : Option (Nat × Bool)) (a size : Nat) : Bool :=
  o.peer == peer && decide (o.flat < a + size) && decide (a < o.flat + o.size)

def storeOn (m : Memory) (s : Store) : Memory :=
  match s.act with
  | .bytes ws _ => memSetMasked m ws
  | .remote .. => m

/-- Memory as the accesses of a core find it: the home, and the L1 for an access that uses it. -/
def coreView (s : State) (core : Nat) (useL1 : Bool) : Memory :=
  if useL1 then (s.core core).l1.foldl (fun m c => memSet m c.1 c.2) s.mem else s.mem

/-- Memory as a context sees it: its ordered accesses that are not applied, then its stores that have not committed. An ordered
access waits for earlier stores of its bytes, and a store that commits before an ordered access of its bytes joins the
buffer, so that this is program order (13 R290). -/
def hartView (s : State) (g : Group) (who : Who) (h : Hart) (useL1 : Bool) : Memory :=
  h.stores.foldl storeOn (((g.pendingOrd who h).filter fun o => o.peer.isNone).foldl ordOn (coreView s g.coreNo useL1))

/-- A scope of .CLU or wider (05 R121). -/
def wideScope (sub : Nat) : Bool := decide (4 ≤ sub)

end Sys2Proof.Machine
end

