-- ==== Sys2Proof/Machine/Watch.lean ====
section
/-!
DEFINITION. What a write to memory brings with it, whoever writes: waiting contexts and evicted groups wake (12 R265, 03
R98), event waits of queues are checked (16 R339), watched descriptors count (06 R156), slot buffers make their slot STALE
(07 R162), registered code becomes stale (15 R323), streams that execute are rewritten (08 R190), poison clears (18 R382).
Lines are 128 bytes of the flat address space.
-/
namespace Sys2Proof.Machine

def lineOf (a : Nat) : Nat := a / 128

/-- What a write touches: ranges of bytes, first and last. -/
abbrev Touched := List (Nat × Nat)

/-- The bytes of a list of writes. -/
def touchedBy (ws : List WByte) : Touched := (ws.map fun w => (w.addr, w.addr)).eraseDups

/-- A line is touched; so is a line of a range. -/
def Touched.line (t : Touched) (l : Nat) : Bool := t.any fun r => decide (lineOf r.1 ≤ l) && decide (l ≤ lineOf r.2)
def Touched.lines (t : Touched) (first last : Nat) : Bool :=
  t.any fun r => decide (lineOf first ≤ lineOf r.2) && decide (lineOf r.1 ≤ lineOf last)

/-- A byte of a range is written. -/
def Touched.bytes (t : Touched) (first last : Nat) : Bool := t.any fun r => decide (first ≤ r.2) && decide (r.1 ≤ last)

/-! ## Descriptors, slots, code -/

/-- A test of the pieces of a virtual range of a context, page by page, by the tables as they are. -/
def virtualAny (s : State) (n : Nat) (test : Loc → Nat → Bool) (hi : Nat) : Nat → Nat → Bool
  | 0, _ => false
  | fuel + 1, a =>
    if hi < a then false
    else
      let pageEnd := min hi (a / 65536 * 65536 + 65535)
      (match translateDirect s n a { perm := 0 } with
        | .ok l => test l (pageEnd - a)
        | .error _ => false)
      || virtualAny s n test hi fuel (pageEnd + 1)

/-- The test over a whole range. -/
def virtualTest (s : State) (n lo hi : Nat) (test : Loc → Nat → Bool) : Bool :=
  virtualAny s n test hi (hi / 65536 + 2 - lo / 65536) lo

/-- Whether a range of space `s` (3) or `g` (4) of a context has a touched line. -/
def rangeTouches (s : State) (n : Nat) (space : Nat) (first last : Int) (t : Touched) : Bool :=
  if last < 0 then false
  else
    let lo := first.toNat
    let hi := last.toNat
    if space = 3 then
      let base := (scrRange s (s.ctx n)).1
      t.lines (base + lo) (base + hi)
    else virtualTest s n lo hi fun l len => match l with | .flat f _ => t.lines f (f + len) | .peer .. => false

/-- A watched descriptor counts one more write, unless saturated (06 R156). -/
def countVersion (d : BitVec 1024) : BitVec 1024 :=
  if Desc.version d = 2 ^ 32 - 1 then d else Desc.withVersion d (Desc.version d + 1)

def watchHit (s : State) (n : Nat) (d : BitVec 1024) (t : Touched) : Bool :=
  Desc.valid d && Desc.watch d
    && (match footprint d with
        | some (a, b) => rangeTouches s n (Desc.space d) a b t
        | none => false)

/-- The slot's buffers are touched (07 R162); the slot named `own` of that context is the writer's own. -/
def slotHit (s : State) (n k : Nat) (own : Option (Nat × Nat)) (r : BitVec 512) (t : Touched) : Bool :=
  Slot.state r != 0 && own != some (n, k)
    && (rangeTouches s n (Slot.refSpace r) (Slot.refBase r) ((Slot.refBase r + Slot.refBytes r : Nat) - 1 : Int) t
        || rangeTouches s n (Slot.resSpace r) (Slot.resBase r) ((Slot.resBase r + Slot.resBytes r : Nat) - 1 : Int) t)

/-- What a write does to a context's descriptors, slots and code table. -/
def touchCtx (s : State) (own : Option (Nat × Nat)) (t : Touched) (n : Nat) (c : Ctx) : Ctx :=
  { c with
    descs := mapEach c.descs fun _ d => if watchHit s n d t then countVersion d else d
    slots := mapEach c.slots fun k v =>
      if slotHit s n k own v.bits t then { v with bits := Slot.setState v.bits 3 } else v
    code := c.code.map fun r => if r.lines.any t.line then { r with stale := true } else r }

/-- The binding of a context on a link (20 R413), and the peer context that it names. -/
def State.binding (s : State) (link n : Nat) : BitVec 128 := mapGet 0 s.tovor.bindings (1024 * link + n)
def State.peerCtx (s : State) (link n : Nat) : Nat := field (s.binding link n) 64 10

/-- Bytes at a peer: the link, the peer context, its space (`s` where `chip`), first and last. -/
structure PeerBytes where
  link  : Nat
  ctx   : Nat
  chip  : Bool
  first : Nat
  last  : Nat
  deriving DecidableEq, Repr

/-- A range of `g` of a context has a touched line at the peer. -/
def rangeAtPeer (s : State) (n : Nat) (first last : Int) (w : PeerBytes) : Bool :=
  !decide (last < 0) && s.peerCtx w.link n == w.ctx && virtualTest s n first.toNat last.toNat fun l len =>
    (match l with
     | .peer k c f => k == w.link && c == w.chip && decide (lineOf f ≤ lineOf w.last) && decide (lineOf w.first ≤ lineOf (f + len))
     | .flat .. => false)

/-- A watched footprint in `g` is touched at a peer (06 R156). -/
def watchAtPeer (s : State) (n : Nat) (d : BitVec 1024) (w : PeerBytes) : Bool :=
  Desc.valid d && Desc.watch d && Desc.space d == 4
    && (match footprint d with | some (a, b) => rangeAtPeer s n a b w | none => false)

/-- A buffer in `g` of a slot is touched at a peer (07 R162). -/
def slotAtPeer (s : State) (n k : Nat) (own : Option (Nat × Nat)) (r : BitVec 512) (w : PeerBytes) : Bool :=
  Slot.state r != 0 && own != some (n, k)
    && ((Slot.refSpace r == 4 && rangeAtPeer s n (Slot.refBase r) ((Slot.refBase r + Slot.refBytes r : Nat) - 1 : Int) w)
        || (Slot.resSpace r == 4 && rangeAtPeer s n (Slot.resBase r) ((Slot.resBase r + Slot.resBytes r : Nat) - 1 : Int) w))

/-- A write of the device performed at a peer counts at the watched descriptors, and makes the slots STALE, whose pages lie there. -/
def touchPeer (s : State) (own : Option (Nat × Nat)) (w : PeerBytes) : State :=
  { s with ctxs := mapEach s.ctxs fun n c =>
      { c with
        descs := mapEach c.descs fun _ d => if watchAtPeer s n d w then countVersion d else d
        slots := mapEach c.slots fun k v => if slotAtPeer s n k own v.bits w then { v with bits := Slot.setState v.bits 3 } else v } }

/-! ## Waits -/

/-- A core scratchpad is the only memory that a context alone holds. -/
def isCorePad (a : Nat) : Bool := decide (coreBase ≤ a) && decide (a < hostBase)

/-- The word a WAITA waits on lies in a touched line. -/
def waitTouched (t : Touched) : Wait → Bool
  | .waita a _ _ _ _ => t.line (lineOf a)
  | _ => false

/-- The wait can be met while the group is in memory: its word lies outside the core scratchpads, which others use by then (R98). -/
def outsideTouched (t : Touched) : Wait → Bool
  | .waita a _ _ _ _ => !isCorePad a && t.line (lineOf a)
  | _ => false

/-- The next read here meets an error. -/
def blockBad (s : State) (a : Nat) : Bool :=
  s.tovor.poison.contains (a / 64) || s.tovor.badCopies.contains (a / 8) || (mapFind s.tovor.latent (errUnit a)).isSome

/-- A WAITA whose condition holds is complete (12 R265): its result, an acquire, and its park or STEP. -/
def endWaita (s : State) (g : Group) (who : Who) (h : Hart) (regs : List Nat) (v : Nat) : Hart :=
  let h := { (h.addResult regs [] (some (BitVec.ofNat 128 v))).acquire with wait := .none, pc := h.pc + 12 }
  if h.parkS then { h with status := .parked }
  else if stepsOn s g who h then { h with status := .parked, trapping := some { cause := .step, pc := h.pc, insn := h.insn } }
  else { h with status := .ready }

/-- A context that waits in WAITA, after a write to its line: the condition is evaluated again. -/
def touchHart (s : State) (g : Group) (t : Touched) (who : Who) (h : Hart) : Hart :=
  match h.wait with
  | .waita a sub size cmp regs =>
    if h.status != .blocked || !t.line (lineOf a) then h
    else if blockBad s a then { h with status := .ready, wait := .none }
    else
      let v := memNat (hartView s g who h (!wideScope sub)) a size
      if cmp ≤ v then endWaita s g who h regs v else h
  | _ => h

/-- A stream of the group's code object is rewritten while the group is resident (08 R190). -/
def codeTouched (s : State) (t : Touched) (g : Group) : Bool :=
  match s.grid? g.grid with
  | some gr => gr.streams.any fun r => t.bytes r.1 r.2
  | none => false

/-- An evicted group wakes (R98), at once or when its image is written (R99). -/
def wakeEvicted (g : Group) : Group :=
  if g.image.any fun i => i.writing then { g with woken := true }
  else if g.state = .evicted then { g with state := .pending } else g

/-- Whether the group is in memory as an image, or on its way there. -/
def Group.isEvicting (g : Group) : Bool :=
  g.state == .evicted || (g.image.any fun i => i.writing && g.state != .halted)

/-- The contexts of the group go on with their waits: it runs, or its context's pre-emption begins in this cycle (12 R268). -/
def Group.takesWakes (s : State) (g : Group) : Bool :=
  g.state == .resident || g.state == .waiting
    || (g.state == .halted && !g.rollback && (s.ctx g.ctx).state == .saving && (s.ctx g.ctx).haltAt == some s.refNs)

/-- A write to the line of a WAITA starts the timer of a WAITING group afresh; the cluster-group's follow (`settleTimers`). -/
def touchGroup (s : State) (_key : Nat) (t : Touched) (g : Group) : Group :=
  if g.isEvicting then
    let hit := if g.state = .evicted then outsideTouched t else waitTouched t
    (if g.harts.any fun p => hit p.2.wait then wakeEvicted g else g)
  else
    let g := if g.takesWakes s && (g.harts.any fun p => p.2.status == .blocked && waitTouched t p.2.wait)
      then { g.eachHart (fun w h => touchHart s g t w h) with timer := none } else g
    if g.present && codeTouched s t g
    then { g with tainted := true } else g

/-- The groups of a cluster-group whose timer has started afresh. -/
def settleTimers (s : State) : State :=
  { s with groups := mapEach s.groups fun key g =>
      if g.state = .waiting && g.image.isNone && s.anyPeer key (fun p => p.state == .waiting && p.timer.isNone)
      then { g with timer := some (s.refNs, (s.ctx g.ctx).evictUs * 1000) } else g }

/-- The event waits of a record at the head of a queue that a write meets (16 R339): a wait once met stays so. -/
def touchQueue (s : State) (t : Touched) (q : Queue) : Queue :=
  match q.head with
  | none => q
  | some r =>
    let hit (k : Nat) : Bool :=
      match translateDirect s q.ctx (Rec.waitAddr r k) needRead with
      | .ok (.flat a _) => t.line (lineOf a) && !blockBad s a && decide (Rec.waitValue r k ≤ memNat s.mem a 8)
      | _ => false
    { q with met := q.met ++ (List.range (Rec.nwaits r)).filter fun k => !q.met.contains k && hit k }

/-- The consequences of a write. -/
def touch (s : State) (own : Option (Nat × Nat)) (t : Touched) : State :=
  settleTimers (settlePeers
    { s with
      ctxs := mapEach s.ctxs (touchCtx s own t)
      queues := mapEach s.queues fun _ q => touchQueue s t q
      groups := mapEach s.groups fun key g => touchGroup s key t g })

/-- Bytes written at their home, with all a write brings. `own` is the slot whose DLT writes. -/
def writeHome (s : State) (own : Option (Nat × Nat)) (ws : List WByte) : State :=
  if ws.isEmpty then s
  else
    touch { s with mem := memSetMasked s.mem ws, tovor := s.tovor.rewritten (hitsBytes ws) } own (touchedBy ws)

def wholeBytes (a : Nat) (bs : List Byte) : List WByte :=
  bs.zipIdx.map fun p => { addr := a + p.2, val := p.1, mask := 0xFF }

/-- A little-endian number of n bytes written at its home. -/
def writeNat (s : State) (a n v : Nat) : State := writeHome s none (wholeBytes a (bytesOfNat n v))

end Sys2Proof.Machine
end

