-- ==== Sys2Proof/Machine/Log.lean ====
section
/-!
DEFINITION. What the device records: event-log and device-log records (17 R353, R355), Tovor's reports and interrupts (18
R385, R380, 20 R409), FAULT_N (18 R386). A `g` address in the physical function's space is a physical address of local
DRAM (log 25).
-/
namespace Sys2Proof.Machine

/-- What a record says (17 R353). -/
structure LogEntry where
  kind    : Nat
  cause   : Cause
  group   : Option Nat := none
  pc      : Nat := 0
  aux     : Nat := 0
  /-- The physical cluster, where one is concerned. -/
  cluster : Option Nat := none
  core    : Nat := 0
  quad    : Nat := 0
  deriving DecidableEq, Repr

def allOnes64 : Nat := 2 ^ 64 - 1

/-- The 256 bits of an event-log record; `mid` stands at bits [54:42], `cluster` at [63:60]. -/
def logBits (e : LogEntry) (time seq mid cluster : Nat) : Nat :=
  seq % 2 ^ 32 + Cause.code e.cause * 2 ^ 32 + (e.kind % 4) * 2 ^ 40 + (mid % 2 ^ 13) * 2 ^ 42
    + (e.quad % 4) * 2 ^ 55 + (e.core % 8) * 2 ^ 57 + (cluster % 16) * 2 ^ 60 + (e.aux % 2 ^ 32) * 2 ^ 64
    + (e.pc % 2 ^ 32) * 2 ^ 96 + (e.group.getD allOnes64 % 2 ^ 64) * 2 ^ 128 + (time % 2 ^ 64) * 2 ^ 192

/-- A write through the physical function's space; none where the address leaves local DRAM. -/
def writePf (s : State) (a n v : Nat) : Option State :=
  if a + n ≤ dramBytes then some (writeNat s (dramBase + a) n v) else none

/-- A device-log record (17 R355): the context, or none, and its source. DLOG_IDX always advances. -/
def deviceLog (s : State) (ctx : Option Nat) (source : Nat) (e : LogEntry) : State :=
  let b := s.tovor.block
  let size := b.dlogSize.toNat
  let mid := (ctx.getD 1023 % 1024) * 8 + source % 8
  let s' :=
    if 4 ≤ size then
      (writePf s (b.dlogBase.toNat + 32 * (b.dlogIdx.toNat % 2 ^ size)) 32
        (logBits e s.refNs b.dlogIdx.toNat mid (e.cluster.getD 0))).getD s
    else s
  s'.modBlock fun b => { b with dlogIdx := b.dlogIdx + 1 }

/-- An event-log record of a context (17 R353); one that faults is dropped and entered in the device log. -/
def logEvent (s : State) (n : Nat) (e : LogEntry) : State :=
  let c := s.ctx n
  let rel := match e.cluster with | some k => s.relCluster c.part k | none => 0
  match writePf s (c.logBase + 32 * (c.logIdx.toNat % 2 ^ c.logSize)) 32 (logBits e s.refNs c.logIdx.toNat 0 rel) with
  | some s' => s'.modCtx n fun c => { c with logIdx := c.logIdx + 1 }
  | none => deviceLog s (some n) 0 { e with cause := .saveFault, kind := 2 }

/-- What the host receives for a request of its own. -/
def answerHost (s : State) (r : HostReply) : State := s.modTovor fun t => { t with hostReply := r }

/-- A write to a block of a context, by the physical function or by the virtual function bound to it: one to the function of a
RESETTING context completes with Unsupported Request (17 R362), and where no virtual function is bound, none writes (20 R409). -/
def ctxWrite (s : State) (n : Nat) (phys : Bool) (take : State → State) : State :=
  if !s.tovor.released || 1024 ≤ n then s
  else if phys then take s
  else if (s.ctx n).func = 0 || (s.ctx n).state = .free then s
  else if (s.ctx n).state = .resetting then answerHost s .unsupported
  else take s

/-- A Tovor report (18 R385). -/
structure Report where
  cause   : Cause
  outcome : Nat
  faultn  : Bool := false
  group   : Option Nat := none
  pc      : Nat := 0
  aux     : Nat := 0
  ctx     : Option Nat := none
  part    : Nat := 0
  cluster : Nat := 0
  core    : Nat := 0
  quad    : Nat := 0
  pair    : Nat := 15
  /-- The code where it is not that of `cause`. -/
  code    : Option Nat := none
  deriving DecidableEq, Repr

def reportBits (r : Report) (time seq : Nat) : Nat :=
  seq % 2 ^ 24 + (r.code.getD (Cause.code r.cause) % 256) * 2 ^ 24 + boolNat r.faultn * 2 ^ 32 + (r.outcome % 16) * 2 ^ 33
    + (r.pair % 16) * 2 ^ 37 + (r.quad % 4) * 2 ^ 41 + (r.core % 8) * 2 ^ 43 + (r.cluster % 16) * 2 ^ 46
    + (r.part % 16) * 2 ^ 50 + (r.ctx.getD 1023 % 1024) * 2 ^ 54 + (r.aux % 2 ^ 32) * 2 ^ 64
    + (r.pc % 2 ^ 32) * 2 ^ 96 + (r.group.getD allOnes64 % 2 ^ 64) * 2 ^ 128 + (time % 2 ^ 64) * 2 ^ 192

/-- The bits of a report as Tovor writes it now: AUX with the context's rollbacks. -/
def reportWord (s : State) (r : Report) : BitVec 256 :=
  let rollbacks := match r.ctx with
    | some n => (s.ctx n).rollbacks.toNat % 256
    | none => 0
  BitVec.ofNat 256 (reportBits { r with aux := r.aux + rollbacks * 256 } s.refNs s.tovor.reportSeq.toNat)

/-- The slot of a report in the ring, if one is set, written. -/
def ringWrite (s : State) (seq : BitVec 24) (bits : BitVec 256) : State :=
  match s.tovor.ring with
  | some (base, n) => (writePf s (base + 32 * (seq.toNat % 2 ^ n)) 32 bits.toNat).getD s
  | none => s

/-- Tovor writes the report into its ring, if one is set, asserts FAULT_N if the report says so, and interrupts the
physical function with vector 0. -/
def report (s : State) (r : Report) : State :=
  let s' := ringWrite s s.tovor.reportSeq (reportWord s r)
  s'.modTovor fun t =>
    { t with
      reportSeq := t.reportSeq + 1
      irqs := t.irqs ++ [0]
      faultN := if r.faultn then some (t.faultN.getD s.refNs) else t.faultN
      faultSeq := if r.faultn then some t.reportSeq else t.faultSeq
      faultClear := if r.faultn then false else t.faultClear }

/-- FAULT_N is released once it has been asserted for 10 µs and a CLEAR_FAULT has been accepted (18 R386). -/
def settleFaultN (s : State) : State :=
  match s.tovor.faultN with
  | some t => if s.tovor.faultClear && decide (t + 10000 ≤ s.refNs) then s.modTovor fun t => { t with faultN := none, faultClear := false } else s
  | none => s

/-- A request answered DENY (18 R383): logged in the context concerned or the device log, and reported. -/
def denyReport (s : State) (ctx : Option Nat) : State :=
  let e : LogEntry := { kind := 2, cause := .tovorDeny }
  let s := match ctx with
    | some n => logEvent s n e
    | none => deviceLog s none 6 e
  report s { cause := .tovorDeny, outcome := 3, ctx := ctx, part := match ctx with | some n => (s.ctx n).part | none => 0 }

/-- A refused register write: a device-log entry only. -/
def denyDevice (s : State) (ctx : Option Nat) : State := deviceLog s ctx 6 { kind := 2, cause := .tovorDeny }

/-- A refused register write that the context's own log records. -/
def denyCtx (s : State) (n kind : Nat) : State := logEvent s n { kind := kind, cause := .tovorDeny }

/-- Where a group is, for a record. -/
def placeEntry (g : Group) (e : LogEntry) : LogEntry :=
  { e with group := some g.index, cluster := some g.cluster, core := g.core }

/-- The pair of a cluster, as a report names it: 15 where it is unpaired. -/
def pairNo (s : State) (cluster : Nat) : Nat := if (s.pair (cluster / 2)).formed then cluster / 2 else 15

/-- Where a group is, for a report. -/
def placeReport (s : State) (g : Group) (r : Report) : Report :=
  { r with group := some g.index, ctx := some g.ctx, part := (s.ctx g.ctx).part, cluster := g.cluster, core := g.core
           pair := pairNo s g.cluster }

/-! ## Counters -/

/-- Causes of errors in state that a context alone holds (17 R354). -/
def Cause.inContext : Cause → Bool
  | .xregUe | .gregUe | .pregUe | .accUe | .dqUe | .barUe | .engineUe | .rnsCheck => true
  | _ => false

/-- Causes of errors in a core that 17 R354 names neither among what a context alone holds nor among the shared units: the device log
alone has them, of source 0 (17 R355; DEDUCED, log 104). -/
def Cause.ofCore : Cause → Bool
  | .opcacheUe | .fwdUe | .sysvalUe | .replayUe | .rdvUe => true
  | _ => false

def countUeCtx (s : State) (n : Nat) : State :=
  (s.modBlock fun b => { b with ueCtx := satInc b.ueCtx }).modCtx n fun c => { c with integ := satInc c.integ }

/-- A corrected error in context-held state (18 R381), of a group where one is concerned. -/
def correctedCtx (s : State) (n : Nat) (g : Option Group) : State :=
  let s := (s.modBlock fun b => { b with corrCtx := satInc b.corrCtx }).modCtx n
    fun c => { c with corrected := satInc c.corrected }
  let e : LogEntry := { kind := 2, cause := .corrected }
  let r : Report := { cause := .corrected, outcome := 0, ctx := some n, part := (s.ctx n).part }
  match g with
  | some g => report (logEvent s n (placeEntry g e)) (placeReport s g r)
  | none => report (logEvent s n e) r

/-- The source code of the device log for a memory address. An error in host memory counts as one met in the fabric (DESIGN CHOICE, log
109). -/
def memSource (a : Nat) : Nat := if a < scrBase then 2 else if a < coreBase then 3 else 4

/-! The rows of DRAM (19 R404, R406). -/

/-- Two lines change places. -/
def swapLines (i : Nat) (p : Nat × Nat) : Nat := if i = p.1 then p.2 else if i = p.2 then p.1 else i

/-- The place of a line among the lines of all rows. -/
def linePlace (i : Nat) : Nat :=
  (Config.dramSwaps.filter fun p => decide (p.1 < 31 * 2 ^ 25) && decide (p.2 < 31 * 2 ^ 25)).foldl swapLines i

/-- The row of a DRAM address: channel in bits [4:0], bank in bits [9:5], row of the bank above; and the line of the row, 0 to 30. -/
def rowOf (a : Nat) : Nat := linePlace (a / 128) / 31
def lineInRow (a : Nat) : Nat := linePlace (a / 128) % 31
def rowChannel (row : Nat) : Nat := row % 32
def rowBank (row : Nat) : Nat := row % 1024

/-- A copy of the row is under way. -/
def copying (s : State) (row : Nat) : Bool := (mapFind s.tovor.spares row).any fun x => x.copy.isSome

/-- A row that reaches the threshold: a copy to the lowest free spare row of its bank begins, or SPARE_EXHAUSTED. -/
def remapRow (s : State) (row : Nat) : State :=
  let used := mapGet [] s.tovor.spareUsed (rowBank row)
  match (List.range 64).find? fun k => !used.contains k with
  | some k =>
    s.modTovor fun t =>
      { t with spares := mapPut t.spares row { entry := (mapFind t.spares row).bind fun x => x.entry, copy := some (k, 0) }
               spareUsed := mapPut t.spareUsed (rowBank row) (k :: used) }
  | none =>
    report (deviceLog s none 2 { kind := 2, cause := .spareExhausted })
      { cause := .spareExhausted, outcome := Config.openOutcome (Cause.code .spareExhausted) % 9, faultn := true }

/-- A corrected error in a row: its 4-bit counter rises, but not while the row is copied, and stays at 15 (DESIGN CHOICE, log 112). -/
def countRow (s : State) (row : Nat) : State :=
  if copying s row then s
  else
    let n := min 15 (mapGet 0 s.tovor.rowCount row + 1)
    let s := s.modTovor fun t => { t with rowCount := mapPut t.rowCount row n }
    if n = 8 then remapRow s row else s

/-- A corrected error in a shared unit, by its source code: counted, a device-log record and a report (18 R381). -/
def correctedIn (s : State) (source : Nat) : State :=
  let s := s.modBlock fun b => { b with corrShared := satInc b.corrShared }
  report (deviceLog s none source { kind := 2, cause := .corrected }) { cause := .corrected, outcome := 0 }

/-- A corrected error in a shared memory. -/
def correctedShared (s : State) (a : Nat) : State :=
  let s := correctedIn s (memSource a)
  if a < dramBytes then countRow s (rowOf a) else s

/-- A block of 64 bytes poisoned, by demand or by the patrol (18 R382, 19 R405). -/
def poisonBlock (s : State) (blk : Nat) : State :=
  (s.modBlock fun b => { b with poisoned := satInc b.poisoned }).modTovor
    fun t => { t with poison := (blk :: t.poison).eraseDups, latent := t.latent.filter fun p => p.1 / 8 != blk }

/-- The group on a core whose scratchpad allocation holds a flat address. -/
def padOwner (s : State) (a : Nat) : Option Group :=
  let inside (g : Group) : Bool :=
    match s.gridOf g with
    | some gr =>
      let base := coreBase + g.coreNo * corePadBytes + g.cbase
      decide (base ≤ a) && decide (a < base + Hdr.cbytes gr.header) && g.present
    | none => false
  (s.groups.find? fun p => inside p.2).map fun p => p.2

/-- An uncorrectable error in a shared memory that an access meets, of a context or of none: counted, and a device-log record. -/
def countUeShared (s : State) (n : Option Nat) (source : Nat) (c : Cause) : State :=
  deviceLog (s.modBlock fun b => { b with ueShared := satInc b.ueShared }) n source { kind := 2, cause := c }

/-- A read of a word of shared memory, by a context or by the device: what error it meets (18 R381, R382). -/
def meetShared (s : State) (n : Option Nat) (a : Nat) : State × Option Cause :=
  if s.tovor.badCopies.contains (a / 8) then
    (countUeShared (s.modTovor fun t => { t with badCopies := t.badCopies.erase (a / 8) }) n 1 .memUe, some .memUe)
  else if s.tovor.poison.contains (a / 64) then (s, some .eccPoison)
  else match mapFind s.tovor.latent (errUnit a) with
    | none => (s, none)
    | some true => (correctedShared (s.modTovor fun t => { t with latent := mapDrop t.latent (errUnit a) }) a, none)
    | some false => (countUeShared (poisonBlock s (a / 64)) n (memSource a) .memUe, some .memUe)

/-- A read of a word of memory by a context: what error it meets. An error in a core scratchpad is the context's own (17 R354). -/
def meetMemory (s : State) (n : Nat) (a : Nat) : State × Option Cause :=
  if !isCorePad a || s.tovor.badCopies.contains (a / 8) then meetShared s (some n) a
  else if s.tovor.poison.contains (a / 64) then (countUeCtx s n, some .eccPoison)
  else match mapFind s.tovor.latent (errUnit a) with
    | none => (s, none)
    | some true =>
      let s := s.modTovor fun t => { t with latent := mapDrop t.latent (errUnit a) }
      (correctedCtx s n (padOwner s a), none)
    | some false => (countUeCtx (poisonBlock s (a / 64)) n, some .memUe)

/-- The errors that reads of some places meet, in turn, up to one that cannot be corrected. -/
def meetEach (meet : State → Nat → State × Option Cause) : State → List Nat → State × Option Cause
  | s, [] => (s, none)
  | s, a :: as => match meet s a with
    | (s, none) => meetEach meet s as
    | r => r

/-- A place of each 64-bit word of a range. -/
def wordsOf (a size : Nat) : List Nat := a :: ((List.range (size / 8 + 1)).map fun k => (a / 8 + k + 1) * 8).filter fun b => decide (b < a + size)

/-- A read of a range by a context. -/
def meetSpan (s : State) (n a size : Nat) : State × Option Cause := meetEach (fun s a => meetMemory s n a) s (wordsOf a size)

/-- The uncorrectable error that ends the walk of an address, met and counted (R355, R382). -/
def meetWalk (s : State) (n va : Nat) : State :=
  match walkErrorAt s n va with
  | some a => (meetMemory s n a).1
  | none => s

/-- The state in which every error in memory ends a walk. -/
def strictWalk (s : State) : State :=
  s.modTovor fun t => { t with latent := mapEach t.latent fun _ _ => false }

/-- The correctable errors in the entries that a walk reads, in turn, up to an uncorrectable one: corrected, counted and reported (18
R381, 19 R404). A walk reads at most 15 entries. -/
def correctEntries (n va : Nat) : Nat → State → State
  | 0, s => s
  | k + 1, s =>
    match walkErrorAt (strictWalk s) n va with
    | some a => if entryBad s a then s else correctEntries n va k (meetMemory s n a).1
    | none => s

/-- What a walk of an address meets on its way that does not end it. -/
def walkCorrect (s : State) (n va : Nat) : State := if s.tovor.latent.isEmpty then s else correctEntries n va 15 s

/-- A translation that no core makes, with what its walk meets. -/
def walked (s : State) (n va : Nat) (need : Need) : State × Except Cause Loc :=
  let s := walkCorrect s n va
  match translateDirect s n va need with
  | .error .walkUe => (meetWalk s n va, .error .walkUe)
  | r => (s, r)

/-- The addresses in whose pages a range lies: its first, and the pages that begin in it. -/
def pagesOf (va len : Nat) : List Nat :=
  va :: ((List.range (len / 65536 + 1)).map fun k => (va / 65536 + k + 1) * 65536).filter fun a => decide (a < va + len)

/-- The walks of a range, with what they meet. -/
def walkRange (s : State) (n va len : Nat) (need : Need) : State := (pagesOf va len).foldl (fun s a => (walked s n a need).1) s

/-- A miss of a core walks, and others of the cycle join the walk. -/
def coreWalk (s : State) (core n va : Nat) : State :=
  if (cachedEntry s core n va).isSome || (sharedWalk s core n va).isSome then s else recordWalk (walkCorrect s n va) core n va

end Sys2Proof.Machine
end

