-- ==== Sys2Proof/Machine/Kill.lean ====
section
/-!
DEFINITION. The end of groups: event words (14 R316, 15 R331), the trigger count (15 R330), the release of a group's
resources (03 R88), the kill (03 R89), and the switch points of `.det` kernels (03 R92).
-/
namespace Sys2Proof.Machine

/-! ## Event words -/

/-- Whether memory at a flat address is poisoned. -/
def poisoned (s : State) (a : Nat) : Bool := s.tovor.poison.contains (a / 64)

/-- A SIGNAL on a word that is full: logged (14 R316). -/
def signalFull (s : State) (n : Nat) (e : LogEntry) : State := logEvent s n { e with kind := 2, cause := .eventOverflow }

/-- A SIGNAL performed on a 64-bit word of the device or of host memory (14 R316). -/
def signalFlat (s : State) (n : Nat) (a : Nat) (e : LogEntry) : State :=
  let old := memNat s.mem a 8
  if old = allOnes64 then signalFull s n e
  else writeNat s a 8 (old + 1)

/-- The bytes that an operation over a link writes. -/
def linkWritten : LinkKind → Nat
  | .read _ => 0
  | .write bs => bs.length
  | .nibble .. => 1
  | .red _ ty _ _ _ => Ty.size ty
  | .signal => 8
  | .abort => 0

/-- The bytes that an operation writes at the peer, which watches of the device notice (06 R156, 07 R162): as it is sent, before the
write can be seen, and once more as it is acknowledged, when it has been performed (DESIGN CHOICE, log 97). -/
def peerWritten (s : State) (op : OutOp) : State :=
  let n := linkWritten op.kind
  if n = 0 then s
  else touchPeer s op.own { link := op.link, ctx := s.peerCtx op.link op.ctx, chip := op.chip, first := op.addr, last := op.addr + n - 1 }

/-- An operation sent over a Jarkin link (20 R412, R414). -/
def sendLink (s : State) (op : OutOp) : State := (peerWritten s op).modTovor fun t => { t with outbound := t.outbound ++ [op] }

/-- The record of an event or status write that faults (15 R331). -/
def dropWrite (s : State) (n va : Nat) : State :=
  logEvent s n { kind := 3, cause := .saveFault, group := some 0, aux := va % 2 ^ 32 }

/-- An event word of a grid, incremented by the device (15 R330, R331); address 0 means none. A word that is full gives a record of
KIND 2 and GROUP 0 (DESIGN CHOICE, log 91). A word at an address that is no multiple of 8 is the 8 bytes that follow the place of its
first byte (DESIGN CHOICE, log 102). -/
def bumpEvent (s : State) (n va : Nat) : State :=
  if va = 0 then s
  else match walked s n va needReadWrite with
    | (s, .ok (.flat a _)) =>
      (match meetSpan s n a 8 with
      | (s, some _) => dropWrite s n va
      | (s, none) => signalFlat s n a { kind := 2, cause := .eventOverflow, group := some 0 })
    | (s, .ok (.peer l chip a)) =>
      sendLink s { link := l, ctx := n, who := none, chip := chip, addr := a, kind := .signal
                   dst := none, sent := s.refNs, va := some va }
    | (s, .error _) => dropWrite s n va

/-! ## The trigger count -/

/-- The first trigger, retirement or kill of a group (15 R330). -/
def countTrigger (s : State) (key : Nat) : State :=
  match s.group? key with
  | none => s
  | some g =>
    if g.triggered then s
    else
      let s := s.setGroup key { g with triggered := true }
      match s.grid? g.grid with
      | none => s
      | some gr =>
        let gr := { gr with trig := gr.trig + 1 }
        if gr.trig = gr.total && !gr.trigDone then
          bumpEvent (s.setGrid g.grid { gr with trigDone := true }) gr.ctx (Rec.trigEvent gr.record)
        else s.setGrid g.grid gr

/-! ## Resources -/

/-- Every byte the L1 of a core holds is performed at its home. -/
def flushL1 (s : State) (core : Nat) : State :=
  let ws := (s.core core).l1.map fun c => { addr := c.1, val := c.2, mask := 0xFF : WByte }
  writeHome (s.modCore core fun c => { c with l1 := [] }) none ws

/-- What a command has sent over a link is answered: a release of it covers what it has written there (05 R124, R129). -/
def engReleased (s : State) (id : Nat) : Bool := !s.tovor.outbound.any fun o => o.cmd == some id

/-- The completion word of a CPY (14 R301, R303). -/
def cpyDue (g : Group) (c : Cmd) (flag : Nat) : DueWord :=
  { cmd := c.id, core := g.coreNo, addr := coreBase + g.coreNo * corePadBytes + g.cbase + (c.block.getD 2 0).toNat
    val := (c.block.getD 3 0).toNat ||| flag, wide := wideScope (field (c.block.getD 0 0) 16 3) }

/-- It is written, a release at SCOPE. -/
def writeDue (s : State) (d : DueWord) : State := writeNat (if d.wide then flushL1 s d.core else s) d.addr 4 d.val

/-- The completion words whose commands have nothing outstanding over a link are written. -/
def settleDue (s : State) : State :=
  (s.tovor.due.filter fun d => engReleased s d.cmd).foldl writeDue
    (s.modTovor fun t => { t with due := t.due.filter fun d => !engReleased s d.cmd })

/-- The completion word of a cancelled CPY is written once what the command has sent over a link is performed (05 R129). -/
def cancelCpy (s : State) (g : Group) (c : Cmd) : State :=
  settleDue (s.modTovor fun t => { t with due := t.due ++ [cpyDue g c 0x80000000] })

/-- A completion word is still to be written in a part of a core's scratchpad. -/
def padDue (s : State) (core base len : Nat) : Bool :=
  let a := coreBase + core * corePadBytes + base
  s.tovor.due.any fun d => decide (a ≤ d.addr) && decide (d.addr < a + len)

/-- A slot whose DLT is abandoned at a block-step boundary (07 R175). -/
def abandonSlot (s : State) (g : Group) (c : Cmd) : State :=
  s.modCtx g.ctx fun x =>
    let k := (c.block.getD 0 0).toNat % 64
    let v := x.slot k
    { x with slots := mapPut x.slots k { v with bits := Slot.setState (Slot.put (Slot.put v.bits 0 21 0) 22 1 0) 3 } }

/-- A slot whose DLT ends before it has started: it stands as it did at the issue, unless a write has made it STALE. -/
def releaseSlot (s : State) (g : Group) (c : Cmd) : State :=
  s.modCtx g.ctx fun x =>
    let k := (c.block.getD 0 0).toNat % 64
    let v := x.slot k
    let r := if Slot.state v.bits = 5 then Slot.setState v.bits (Slot.state c.slotRec) else v.bits
    { x with slots := mapPut x.slots k { v with bits := Slot.put r 22 1 0 } }

/-- Locks of a command leave every table of the cluster. -/
def dropLocks (s : State) (cluster id : Nat) : State :=
  { s with cores := mapEach s.cores fun k c =>
      if k / 8 = cluster then { c with locks := c.locks.filter fun l => l.cmd != id } else c }

/-- A command leaves its core, its locks with it. -/
def removeCmd (s : State) (core id : Nat) : State :=
  dropLocks (s.modCore core fun c => { c with cmds := c.cmds.filter fun k => k.id != id }) (core / 8) id

/-- A command cancelled at a kill, as CPYC cancels it (03 R89). -/
def cancelCmd (s : State) (g : Group) (c : Cmd) : State :=
  let s := removeCmd s g.coreNo c.id
  match c.kind with
  | .cpy => cancelCpy s g c
  | .dlt => if c.started then abandonSlot s g c else s
  | _ => s

def cancelCmds (s : State) (g : Group) : List Cmd → State
  | [] => s
  | c :: cs => cancelCmds (cancelCmd s g c) g cs

/-- The commands of a group, oldest first. -/
def State.cmdsOf (s : State) (key : Nat) (g : Group) : List Cmd := (s.core g.coreNo).cmds.filter fun c => c.gid == key

/-- A BLOCKED context becomes READY and meets its instruction again. -/
def wakeHart (h : Hart) : Hart := if h.status = .blocked then { h with status := .ready, wait := .none } else h

/-- The stewards that wait for the tiles of a core wake, the evicted ones too (03 R98, 14 R297). -/
def wakeClaim (s : State) (core : Nat) : State :=
  settlePeers { s with groups := mapEach s.groups fun _ g =>
      if g.coreNo = core && g.steward.wait == .claim then
        (if g.isEvicting then wakeEvicted g else { g with steward := wakeHart g.steward })
      else g }

/-- The claim of a group on its core's tiles ends, and the tiles lose their provenance with the next writer (07 R171;
DESIGN CHOICE, log 84). -/
def releaseClaim (s : State) (key : Nat) (g : Group) : State :=
  if (s.core g.coreNo).claim = some key then
    wakeClaim (s.modCore g.coreNo fun c => { c with claim := none }) g.coreNo
  else s

/-- Whether a context's state changes to IDLE: it has no group left. -/
def State.ctxBusy (s : State) (n : Nat) : Bool :=
  (s.groups.any fun p => p.2.ctx == n && p.2.state != .retired && p.2.state != .killed)
  || (s.grids.any fun p => p.2.ctx == n && decide (p.2.next < p.2.total) && !p.2.aborted)

def settleCtx (s : State) (n : Nat) : State :=
  if (s.ctx n).state = .running && !s.ctxBusy n then s.modCtx n fun c => { c with state := .idle, sliceAt := none } else s

/-! ## Kills -/

/-- A context of a killed group. -/
def killHart (h : Hart) : Hart :=
  { h with status := .exited, wait := .none, results := [], stores := [], ord := [], trapping := none, dup := none
           fault := none, exiting := false, arrival := none, taken := none, slotAt := none }

/-- The clones of a group leave the replay queues of its core. -/
def dropReplay (key : Nat) (rs : List Replay) : List Replay :=
  (rs.map fun r => { r with refs := r.refs.filter fun x => x.group != key }).filter fun r => !r.refs.isEmpty

/-- One group ended without completion (03 R89), its record in the context's log or the device log. -/
def killOne (s : State) (key : Nat) (cause : Cause) (pc aux quad : Nat) (toDevice : Bool) : State :=
  match s.group? key with
  | none => s
  | some g =>
    if g.state = .killed || g.state = .retired then s
    else
      let s := cancelCmds s g (s.cmdsOf key g)
      let s := (g.savedCmds.filter fun c => c.kind == .dlt).foldl (fun s c => if c.started then abandonSlot s g c else releaseSlot s g c) s
      let s := if g.state = .evicted || g.state = .pending then s else releaseClaim s key g
      let s := s.modCore g.coreNo fun c =>
        { c with running := if c.running = some key then none else c.running
                 records := c.records.filter fun r => r.1.group != key
                 replay := dropReplay key c.replay }
      let s := s.modGroup key fun g =>
        { g.eachHart fun _ h => killHart h with
          state := .killed, dq := [], rdvs := [], batches := [], image := none, timer := none, savedMem := []
          savedAcc := [], savedDepth := [], savedProv := [], savedCmds := [], savedLocks := [], hadClaim := false, rollback := false, halting := none }
      let s := s.modGrid g.grid fun gr =>
        { gr with killed := gr.killed + 1, firstGroup := some (gr.firstGroup.getD g.index)
                  cause := some (gr.cause.getD cause) }
      let s := s.modCtx g.ctx fun c => { c with kills := satInc c.kills }
      let entry : LogEntry :=
        { kind := 0, cause := cause, group := some g.index, pc := pc, aux := aux, core := g.core, quad := quad
          cluster := some g.cluster }
      let s := if toDevice then deviceLog s (some g.ctx) 0 entry else logEvent s g.ctx entry
      settleCtx (countTrigger s key) g.ctx

/-- A group killed, its cluster-group with it; the record of the group concerned carries the PC. The groups of
a cluster-group are killed in the order of their ranks, so that FIRST_GROUP is the lowest (DESIGN CHOICE, log 58). -/
def killGroup (s : State) (key : Nat) (cause : Cause) (pc aux quad : Nat) : State :=
  (s.peers key).foldl
    (fun s k => if k = key then killOne s k cause pc aux quad false else killOne s k cause 0 0 0 false) s

/-! ## Switch points of `.det` kernels (03 R92) -/

/-- Waits at which a context of a `.det` group is at a switch point. -/
def Wait.isSwitch : Wait → Bool
  | .bar _ | .waita .. | .dqpop | .sleep _ | .claim => true
  | _ => false

/-- A context at a switch point; one that parks with an ordered atomic outstanding counts (13 R289). -/
def Hart.atSwitch (batchWaits : Bool) (h : Hart) : Bool :=
  match h.status with
  | .exited => true
  | .blocked => h.wait.isSwitch
  | .parked => h.yielded || batchWaits
  | .ready => batchWaits && decide (16 ≤ h.results.length)
  | _ => false

/-- The context waits for the old value of an ordered atomic. -/
def Group.awaitsBatch (g : Group) (who : Who) (h : Hart) : Bool :=
  (h.ord.any fun e => e.dst.isSome) || (g.batches.any fun b => b.any fun e => e.1 == who && e.2.dst.isSome)

def Group.atSwitch (g : Group) : Bool :=
  g.harts.all fun p => p.2.atSwitch (g.awaitsBatch p.1 p.2)

/-- The context has ordered accesses that are not applied. -/
def Group.hasOrd (g : Group) (who : Who) (h : Hart) : Bool :=
  !h.ord.isEmpty || g.batches.any fun b => b.any fun e => e.1 == who

/-- A context parked at YIELD that can go on when its group is chosen; at OFLUSH once its accesses are applied. -/
def Group.yieldOver (g : Group) (who : Who) (h : Hart) : Bool :=
  h.yielded && !(h.wait == .oflush && g.hasOrd who h)

/-- The group can be chosen to run: it is not at a switch point. -/
def Group.canRun (g : Group) : Bool := (g.state == .resident || g.state == .waiting) && !g.atSwitch

/-- A group at a switch point that is chosen where no other can be: a YIELD of it is over (log 43). -/
def Group.canYield (g : Group) : Bool :=
  (g.state == .resident || g.state == .waiting) && g.harts.any fun p => g.yieldOver p.1 p.2

/-- The group that runs goes on: it is on the core and not at a switch point. A halt is no choice point. -/
def State.keepsRunning (s : State) (k : Nat) : Bool :=
  match s.group? k with
  | some g => (g.state == .resident || g.state == .waiting || g.state == .halted) && !g.atSwitch
  | none => false

/-- The key with the lowest logical index; of two grids' groups of one index, that of the grid dispatched earlier (DESIGN CHOICE, log
43). -/
def lowestIndex : List (Nat × Group) → Option Nat
  | [] => none
  | (k, g) :: rest => if rest.all fun p => decide (g.index ≤ p.2.index) then some k else lowestIndex rest

/-- The group runs by the rule of `.det` kernels. -/
def State.isDet (s : State) (g : Group) : Bool := match s.gridOf g with | some gr => Hdr.det gr.header | none => false

/-- The group that a core runs under `.det` after a choice point: the running one until it reaches a switch point, then the
lowest index that is at none, else the lowest that has parked at YIELD. -/
def State.chosen (s : State) (c : Nat) : Option Nat :=
  let now : Option Nat := (s.core c).running.filter s.keepsRunning
  let mine := s.groups.filter fun p => p.2.coreNo == c && s.isDet p.2
  if now.isSome then now
  else (lowestIndex (mine.filter fun p => p.2.canRun)).orElse fun _ => lowestIndex (mine.filter fun p => p.2.canYield)

/-- A batch of ordered accesses ends (05 R138): the threads' entries by TID, then the steward's. -/
def Group.endBatch (g : Group) : Group :=
  let entries := (g.harts.map fun p => p.2.ord.map fun e => (p.1, e)).flatten
  { (g.eachHart fun _ h => { h with ord := [] }) with batches := g.batches ++ [entries] }

/-- A `.det` group that has just reached a switch point ends its batch. -/
def settleSwitch (s : State) (key : Nat) : State :=
  match s.group? key with
  | none => s
  | some g =>
    match s.grid? g.grid with
    | none => s
    | some gr => if Hdr.det gr.header && g.atSwitch then s.setGroup key g.endBatch else s

/-- Every live context of the group is BLOCKED, and no command of it is in flight; a group that has ended has none left. -/
def Group.allBlocked (s : State) (g : Group) : Bool :=
  g.state == .retiring || g.state == .retired || g.state == .killed
    || ((g.state == .resident || g.state == .waiting) && !g.awake && (s.cmdsOf (groupKey g.grid g.index) g).isEmpty)

/-- The eviction timer of a group as its state is entered (R96). -/
def startTimer (s : State) (g : Group) : Group := { g with timer := some (s.refNs, (s.ctx g.ctx).evictUs * 1000) }

/-- A group whose live contexts are all BLOCKED becomes WAITING (03 R95), its cluster-group with it. -/
def settleWaiting (s : State) (key : Nat) : State :=
  match s.group? key with
  | none => s
  | some g =>
    match s.grid? g.grid with
    | none => s
    | some gr =>
      if !Hdr.spin gr.header && !s.anyPeer key (fun p => !Group.allBlocked s p)
          && s.anyPeer key fun p => p.harts.any fun q => q.2.status == .blocked then
        (s.peers key).foldl (fun s k => s.modGroup k fun p =>
          if p.state = .resident then startTimer s { p with state := .waiting } else p) s
      else s

end Sys2Proof.Machine
end

