-- ==== Sys2Proof/Machine/Integrity.lean ====
section
/-!
DEFINITION. Integrity: counting and reporting of errors (18 R381, R382; 17 R354, R355), the halt, rollback and
escalation of groups (18 R376 to R379), and retirement (18 R391).
-/
namespace Sys2Proof.Machine

/-- The contexts of a partition that are in use. -/
def State.ctxsOf (s : State) (p : Nat) : List Nat :=
  (s.ctxs.filter fun c => c.2.state != .free && c.2.part == p).map fun c => c.1

/-- The partition that owns a cluster. -/
def State.partOf (s : State) (cluster : Nat) : Option Nat :=
  (List.range 12).find? fun p => Part.valid (s.part p) && (Part.clusters (s.part p)).testBit cluster

/-- PAIR_RETIRED in the log of every context of the cluster's partition. -/
def logRetired (s : State) (cluster : Nat) : State :=
  match s.partOf cluster with
  | none => s
  | some p => (s.ctxsOf p).foldl (fun s n => logEvent s n { kind := 2, cause := .pairRetired }) s

/-- A unit that can be retired: none, a pair, or a quadrant by cluster·32 + core·4 + quadrant. -/
inductive HwUnit
  | none | pair (j : Nat) | quad (q : Nat)
  deriving DecidableEq, Repr

/-- The quadrant that a record of the unit carries; 0 where none applies. -/
def HwUnit.quadNo : HwUnit → Nat
  | .quad q => q % 4
  | _ => 0

def retireUnit (s : State) : HwUnit → State
  | .none => s
  | .pair j => logRetired { s with retiredPairs := (j :: s.retiredPairs).eraseDups } (2 * j)
  | .quad q => logRetired { s with retiredQuads := (q :: s.retiredQuads).eraseDups } (q / 32)

/-! ## Halt, rollback, escalation -/

/-- A context halted by an integrity event: everything not committed is discarded, results of the region dropped. The store of an
instruction that is a boundary itself lies before the region entry and stays (log 49). -/
def haltHart (h : Hart) : Hart :=
  if h.status = .exited then h
  else
    { h with status := .halted, wait := .none, stores := h.stores.filter fun q => decide (q.region < h.entryNo), dup := none, arrival := none, trapping := none
             exiting := false, parkS := false, fault := none, yielded := false, reconvAt := none, slotAt := none, frame := []
             spin := { last := none, count := 0 }, ord := h.ord.filter fun o => decide (o.region < h.entryNo)
             results := h.results.filter fun r => decide (r.region < h.entryNo) }

/-- A rendezvous completed in the cycle in which the rollback begins is undone: the rollback is taken first (04 R117). -/
def undoRdv (now : Nat) (h : Hart) : Hart :=
  match h.rdvBack with
  | some (t, pc, rng, no) =>
    if t = now && h.status != .exited then { h with regionPc := pc, rngSnap := rng, entryNo := no } else h
  | none => h

/-- The batches of a halted group: an ordered access of a region that is undone is discarded (13 R292). -/
def haltBatches (g : Group) : List (List (Who × OrdEntry)) :=
  g.batches.map fun b => b.filter fun p => match g.hart? p.1 with
    | some h => h.status == .exited || decide (p.2.region < h.entryNo)
    | none => false

/-- The commands of a halted group that are discarded: uncommitted ones, and a CPY of the region (14 R298). -/
def Cmd.discarded (steward : Hart) (c : Cmd) : Bool :=
  !c.ready || (c.kind == .cpy && decide (steward.entryNo ≤ c.region))

/-- Committed matrix commands in flight run to completion, and a rollback does not issue them again: the steward's region entry
moves past the last of them (07 R175, 14 R298; log 49). -/
def pastRunning (h : Hart) (cmds : List Cmd) : Hart :=
  cmds.foldl (fun h c =>
    if c.ready && c.kind != .cpy && h.status != .exited && decide (h.entryNo ≤ c.region)
    then { h with regionPc := c.pc + 12, rngSnap := h.rng, entryNo := c.region + 1 } else h) h

def removeCmds (s : State) (core : Nat) : List Cmd → State
  | [] => s
  | c :: cs => removeCmds (removeCmd s core c.id) core cs


/-- A group halted for a rollback (18 R377). -/
def haltGroup (s : State) (key : Nat) : State :=
  (s.modCore ((s.group? key).elim 0 Group.coreNo) fun c => { c with replay := dropReplay key c.replay }).modGroup key fun g =>
    { g.eachHart fun _ h => haltHart h with
      state := .halted, rdvs := [], batches := haltBatches g, timer := none, halting := none }

/-- The halts whose cycle has come. -/
def settleHalts (s : State) : State :=
  ((s.groups.filter fun p => p.2.halting.any fun t => decide (t ≤ s.clusterCycles p.2.cluster)).map fun p => p.1).foldl haltGroup s

/-- The detection of an event in a group (18 R377): its commands and records that are not committed are discarded, and it issues
nothing from `halt` cycles on; one that does not run is halted at once. -/
def beginHalt (halt : Nat) (s : State) (key : Nat) : State :=
  match s.group? key with
  | none => s
  | some g =>
    if !g.present then s
    else
      let now := s.clusterCycles g.cluster
      let steward := pastRunning (undoRdv now g.steward) (s.cmdsOf key g)
      let s := removeCmds s g.coreNo ((s.cmdsOf key g).filter (Cmd.discarded steward))
      let s := s.modCore g.coreNo fun c =>
        { c with records := c.records.filter fun r => r.1.group != key
                 cmds := c.cmds.map fun k => if k.gid = key then { k with asked := k.matched } else k }
      let s := s.modGroup key fun g =>
        { g.eachHart fun _ h => undoRdv now h with
          steward := steward, rollback := true, detected := some now, halting := some (g.halting.getD (now + halt)) }
      if (g.state == .resident || g.state == .waiting) && (s.ctx g.ctx).state == .running then s else haltGroup s key

/-- A context restarts at its region entry (18 R377, 02 R54); the results still outstanding are those of ordered accesses that it
had performed before. -/
def restartHart (halted : Bool) (h : Hart) : Hart :=
  if h.status = .exited then h
  else
    { h with pc := h.regionPc, rng := h.rngSnap, handler := false, bounded := false
             status := if halted then .halted else .ready }

/-- An integrity event: the detected group and context, the cause, and the unit that R376 names. -/
structure Event where
  key   : Nat
  cause : Cause
  pc    : Nat := 0
  part  : HwUnit := .none
  inj   : Bool := false
  /-- The groups halted beside the detected one and its cluster-group. -/
  also  : List Nat := []
  /-- The cluster, where it is not the group's. -/
  cluster : Option Nat := none
  /-- The quadrant of the thread whose record a pair's event concerns. -/
  quad  : Option Nat := none
  deriving DecidableEq, Repr

/-- Groups rolled back, each counted in its context (18 R377, R378). -/
def rollBack (s : State) (halt : Nat) (keys : List Nat) : State :=
  keys.foldl (fun s k => match s.group? k with
    | some p =>
      if p.present then (beginHalt halt s k).modCtx p.ctx fun c => { c with rollbacks := satInc c.rollbacks } else s
    | none => s) s

/-- The event falls in the cycle of the one that halted the group (18 R392). -/
def sameCycle (s : State) (g : Group) : Bool :=
  g.mark && g.rollback && (match g.event with | some d => d.cycle == s.clusterCycles g.cluster | none => false)

/-- A second event of the cycle: one rollback; the log carries both, and the report names the lower cause code (R392). -/
def secondEvent (s : State) (e : Event) (d : Detected) (entry : LogEntry) (n halt : Nat) (halted : List Nat) : State :=
  let s := rollBack s halt (halted.filter fun k => match s.group? k with | some p => !p.rollback | none => false)
  let s := logEvent s n { entry with aux := (s.ctx n).rollbacks.toNat }
  let code := Cause.code e.cause
  if code < d.code then
    let bits := BitVec.ofNat 256 (putField d.report.toNat 24 8 code)
    (ringWrite s d.seq bits).modGroup e.key fun g => { g with event := some { d with code := code, report := bits } }
  else s

/-- The quadrant that the record and the report of an event carry: that of its unit, for a pair that of the thread concerned, 0 where
none applies (18 R376). -/
def eventQuad (e : Event) : Nat :=
  match e.part with
  | .pair _ => e.quad.getD 0
  | u => u.quadNo

/-- The group carries the rollback mark; one that a rendezvous of this cycle has cleared still stands, since the rollback is taken first
(04 R117). -/
def Group.marked (g : Group) (now : Nat) : Bool := g.mark || g.unmarked == some now

/-- Where an event counts beside the rollback or the kill that follows it (17 R354, R355). -/
def countEvent (s : State) (e : Event) (g : Group) : State :=
  if Cause.inContext e.cause then countUeCtx s g.ctx
  else if Cause.ofCore e.cause then
    deviceLog s (some g.ctx) 0 (placeEntry g { kind := 2, cause := e.cause, pc := e.pc, quad := eventQuad e })
  else s

/-- What an event leaves of the groups (18 R377, R379). -/
def integrityEvent (s : State) (e : Event) : State :=
  match s.group? e.key with
  | none => s
  | some g =>
    let n := g.ctx
    let s := countEvent s e g
    let peers := s.peers e.key
    let halted := (peers ++ e.also).eraseDups
    let quad := eventQuad e
    let halt := if s.isFixed g.cluster then 12 else max 1 (min 64 (Config.haltCycles s.tovor.reportSeq.toNat))
    let at_ := e.cluster.getD g.cluster
    let marked := g.marked (s.clusterCycles g.cluster)
    let rep : Report := { placeReport s g
      { cause := e.cause, outcome := if marked then 2 else 1, faultn := marked, pc := e.pc, quad := quad
        aux := halt + boolNat e.inj * 128 } with cluster := at_ }
    let entry : LogEntry := { placeEntry g { kind := 1, cause := e.cause, pc := e.pc, quad := quad } with cluster := some at_ }
    match if sameCycle s g then g.event else none with
    | some d => secondEvent s e d entry n halt halted
    | none =>
      if marked then
        let s := killGroup s e.key .rollbackLimit e.pc (s.ctx n).rollbacks.toNat quad
        let s := rollBack s halt (halted.filter fun k => !peers.contains k)
        let s := retireUnit s e.part
        report s rep
      else
        let s := rollBack s halt halted
        let s := logEvent s n { entry with aux := (s.ctx n).rollbacks.toNat }
        let d : Detected :=
          { cycle := s.clusterCycles g.cluster, code := Cause.code e.cause, seq := s.tovor.reportSeq, report := reportWord s rep }
        report (s.modGroup e.key fun g => { g with mark := true, event := some d }) rep

/-- The unit that a cause of the table of R376 names, for a thread of a quadrant or for a steward. -/
def unitOf (g : Group) (quad : Option Nat) : Cause → HwUnit
  | .cloneMismatch | .xregUe | .pregUe | .opcacheUe | .fwdUe | .replayUe | .accUe | .rnsCheck | .gregUe | .dqUe
  | .sysvalUe | .barUe | .rdvUe | .engineUe | .fetchUe =>
    (match quad with | some q => .quad (g.coreNo * 4 + q) | none => .none)
  | _ => .none

/-- An event that a context raises: it issues nothing more, whatever its group does until the halt. -/
def raiseOn (s : State) (r : CtxRef) (cause : Cause) : State :=
  match s.group? r.group, s.hart? r with
  | some g, some h =>
    let part := unitOf g (if Who.isSteward r.who then none else some h.quad) cause
    (integrityEvent s { key := r.group, cause := cause, pc := h.pc.toNat, part := part }).modHart r haltHart
  | _, _ => s

end Sys2Proof.Machine
end

