-- ==== Sys2Proof/Machine/Operands.lean ====
section
/-!
DEFINITION. Operands: the context that issues, its registers and predicates, the value of every operand form (08 R185 to
R188, 02 R47), and the registers and predicates that an instruction reads and writes (02 R63).
-/
namespace Sys2Proof.Machine

/-- The context that issues, with its group and grid, and the DRAIN element it reads (08 R188). -/
structure Env where
  r     : CtxRef
  g     : Group
  gr    : Grid
  h     : Hart
  drain : Nat := 0
  /-- What an engine command has read at a peer: link, `s` rather than `g`, address, bytes. -/
  fetched : List (Nat × Bool × Nat × List Byte) := []
  deriving DecidableEq, Repr

def Env.steward (e : Env) : Bool := Who.isSteward e.r.who
def Env.n (e : Env) : Nat := e.g.ctx
def Env.hdr (e : Env) : BitVec 1024 := e.gr.header
/-- Number of X registers of a thread (02 R44). -/
def Env.xregs (e : Env) : Nat := Hdr.regs e.hdr
def Env.det (e : Env) : Bool := Hdr.det e.hdr

/-- The TID, all ones in the steward (02 R47). -/
def Env.tid (e : Env) : Nat :=
  match e.r.who with
  | .thread n => n
  | .steward => 0xFFFFFFFF

/-! ## Registers and predicates -/

/-- The number held by `k` registers from `n`, the lowest register lowest. -/
def regsGet (regs : List Word) (n : Nat) : Nat → Nat
  | 0 => 0
  | k + 1 => (regs.getD n 0).toNat + 2 ^ 32 * regsGet regs (n + 1) k

/-- `k` registers from `n` set to a number. -/
def regsSet (regs : List Word) (n v : Nat) : Nat → List Word
  | 0 => regs
  | k + 1 => regsSet (regs.set n (BitVec.ofNat 32 v)) (n + 1) (v >>> 32) k

/-- P7 reads true (02 R43). -/
def Hart.pred (h : Hart) (k : Nat) : Bool := k == 7 || h.preds.toNat.testBit k

/-- A write to P7 is discarded (02 R44). -/
def Hart.setPred (h : Hart) (k : Nat) (v : Bool) : Hart :=
  if k = 7 then h else { h with preds := if v then h.preds ||| BitVec.ofNat 7 (2 ^ k) else h.preds &&& ~~~BitVec.ofNat 7 (2 ^ k) }

/-- Registers written; they hold a value again after a restore (15 R324). -/
def Hart.setRegs (h : Hart) (n k v : Nat) : Hart :=
  { h with regs := regsSet h.regs n v k, dead := h.dead.filter fun d => !(decide (n ≤ d) && decide (d < n + k)) }

def Hart.pendingReg (h : Hart) (n : Nat) : Bool := h.results.any fun r => r.regs.contains n
def Hart.pendingPred (h : Hart) (n : Nat) : Bool := n != 7 && h.results.any fun r => r.preds.contains n

/-! ## Values -/

/-- The system values (02 R47). -/
def sysValue (s : State) (e : Env) : SysVal → Nat
  | .tid => e.tid
  | .groupLo => e.g.index % 2 ^ 32
  | .groupHi => e.g.index / 2 ^ 32 % 2 ^ 32
  | .setid => if e.steward then 0xFFFFFFFF else e.tid / 64
  | .lane => if e.steward then 0 else e.h.lane
  | .quad => if e.steward then 0xFFFFFFFF else e.h.quad
  | .core => e.g.core
  | .cluster => s.relCluster (s.ctx e.n).part e.g.cluster
  | .nthreads => Hdr.threads e.hdr
  | .cgrank => rankOf (Hdr.cgroup e.hdr) e.g
  | .cycLo => s.clusterCycles e.g.cluster % 2 ^ 32
  | .cycHi => e.h.cycLatch.toNat

/-- The immediate operand at a width (08 R187). -/
def immValue (ty : Ty) (imm : Word) (k : Nat) : Nat :=
  if k = 2 && ty == .i64 then wrap (sext imm.toNat 32) 64 else imm.toNat

/-- The value an operand code names, over `k` registers. A G pair that the steward writes in the same cycle is read whole, old or new,
by the order of the turns, where 03 R81 allows one half of each (DESIGN CHOICE, log 89). -/
def operandValue (s : State) (e : Env) (f : Form) (k : Nat) : Operand → Nat
  | .x n => regsGet e.h.regs n.val k
  | .g n => if e.steward then regsGet e.h.regs n.val k else regsGet e.g.steward.regs n.val k
  | .p n => boolNat (e.h.pred n.val)
  | .zero => 0
  | .imm => immValue f.ty f.imm k
  | .drain => e.drain
  | .sys v => sysValue s e v

/-- Registers an operand position takes in this word. -/
def posWidth (f : Fields) : Sys2Proof.Slot → Nat
  | .dst w | .src w | .srcReg w | .dstSrc w => w.regs f.ty
  | .srcOfCode => (codeWidth f.imm).regs f.ty
  | .base => if f.op2 = 4 then 2 else 1
  | .index | .coord | .srcIfPack => 1
  | .mask | .dstEven => 2
  | .blk n => n
  | .unused | .psrc | .pdst | .ordFlag | .psrcIfOp2 => 0

/-- The value of operand position A, B, C, and of D where it is a source. -/
def Env.A (e : Env) (s : State) (row : OpRow) (f : Form) : Nat := operandValue s e f (posWidth f.fields row.a) f.a
def Env.B (e : Env) (s : State) (row : OpRow) (f : Form) : Nat := operandValue s e f (posWidth f.fields row.b) f.b
def Env.C (e : Env) (s : State) (row : OpRow) (f : Form) : Nat := operandValue s e f (posWidth f.fields row.c) f.c
def Env.D (e : Env) (s : State) (row : OpRow) (f : Form) : Nat := operandValue s e f (posWidth f.fields row.d) f.d

/-! ## Reads and writes of the hazard rules -/

/-- The own registers an operand names: X in a thread, G in the steward (02 R63, 03 R81). -/
def ownRegs (steward : Bool) (k : Nat) : Operand → List Nat
  | .x n => if steward then [] else (List.range k).map (n.val + ·)
  | .g n => if steward then (List.range k).map (n.val + ·) else []
  | _ => []

def readRegs (steward : Bool) (f : Fields) (sl : Sys2Proof.Slot) (o : Operand) : List Nat :=
  match sl with
  | .src _ | .srcReg _ | .dstSrc _ | .srcOfCode | .base | .index | .mask | .blk _ => ownRegs steward (posWidth f sl) o
  | .srcIfPack => if packs f.ty f.imm then ownRegs steward 1 o else []
  | _ => []

def writeRegs (steward : Bool) (f : Fields) (sl : Sys2Proof.Slot) (o : Operand) : List Nat :=
  match sl with
  | .dst _ | .dstSrc _ | .dstEven => ownRegs steward (posWidth f sl) o
  | _ => []

def readPreds (f : Fields) (sl : Sys2Proof.Slot) (o : Operand) : List Nat :=
  match sl, o with
  | .psrc, .p k => [k.val]
  | .psrcIfOp2, .p k => if f.op2 = 0 then [] else [k.val]
  | _, _ => []

def writePreds (sl : Sys2Proof.Slot) (o : Operand) : List Nat :=
  match sl, o with
  | .pdst, .p k => [k.val]
  | _, _ => []

/-- Something collected over the four operand positions. -/
def overSlots {α : Type} (row : OpRow) (f : Form) (c : Sys2Proof.Slot → Operand → List α) : List α :=
  c row.d f.d ++ c row.a f.a ++ c row.b f.b ++ c row.c f.c

/-! ## The checks of 08 R178 -/

/-- Step 6: an X register at or beyond `.regs`, the last of the four registers of LDP included (13 R279). -/
def regallocBad (e : Env) (_f : Form) (sl : Sys2Proof.Slot) (o : Operand) : List Unit :=
  match o with
  | .x n =>
    let last := if sl == .dst .quad then n.val + 3 else n.val
    if sl != .unused && sl != .ordFlag && decide (e.xregs ≤ last) then [()] else []
  | _ => []

/-- Step 7: an odd register in a 64-bit position; a quad whose first register is no multiple of 4 (13 R279). -/
def alignBad (f : Form) (sl : Sys2Proof.Slot) (o : Operand) : List Unit :=
  let n := match o with | .x k => k.val | .g k => k.val | _ => 0
  let k := match sl with | .blk _ => 0 | _ => posWidth f.fields sl
  if (k = 2 && n % 2 == 1) || (k = 4 && n % 4 != 0) then [()] else []

/-- The decode checks of R178 from step 3 on. -/
def decodeTrap (s : State) (e : Env) (row : OpRow) (f : Form) : Option Cause :=
  if !row.stream.has e.steward then some .stream
  else if !row.encOk e.steward f.fields then some .illenc
  else if !row.opndOk e.steward f.fields then some .illopnd
  else if !(overSlots row f (regallocBad e f)).isEmpty then some .regalloc
  else if !(overSlots row f (alignBad f)).isEmpty then some .pairAlign
  else if (row.opc == 0x3C0 || row.opc == 0x3C1) && decide (0x800 ≤ f.imm.toNat) && !(s.ctx e.n).privileged then some .priv
  else none

/-! ## Registers selected at run time (10 R210, R211, R220) -/

/-- The registers and predicates that an instruction selects by a value: the index, what it reads and writes, and the cause where
the index is no register's. -/
structure Selected where
  index  : Word := 0
  reads  : List Nat := []
  preads : List Nat := []
  writes : List Nat := []
  pwrites : List Nat := []
  bad    : Option Cause := none
  deriving DecidableEq, Repr

/-- A register selected by an index below a bound. -/
def selectReg (idx k bound : Nat) (beyond : Cause) (write : Bool) : Selected :=
  let regs := (List.range k).map (idx + ·)
  let i := BitVec.ofNat 32 idx
  if bound ≤ idx then { index := i, bad := some beyond }
  else if k = 2 && idx % 2 == 1 then { index := i, bad := some .pairAlign }
  else if write then { index := i, writes := regs } else { index := i, reads := regs }

/-- The index of the register a coordinate run starts at. -/
def coordBase : Operand → Nat
  | .x n => n.val
  | .g n => n.val
  | _ => 0

/-- The registers that a context has. -/
def Env.regBound (e : Env) : Nat := if e.steward then 128 else e.xregs

/-- The coordinate registers of LDT and STT, by the RANK of the descriptor that they name; none where a check that comes before
theirs fails (13 R283, R284). -/
def coordRegs (s : State) (e : Env) (row : OpRow) (f : Form) : List Nat :=
  let tid := e.B s row f
  let view := (s.ctx e.n).desc tid
  let first := coordBase f.a
  let r := Desc.rank view
  if 255 < tid || (storeOf (s.ctx e.n).desc view).isNone || decide (e.regBound < first + r) then []
  else (List.range r).map (first + ·)

/-- What the instruction selects, its operands as they are in the environment. -/
def selected (s : State) (e : Env) (row : OpRow) (f : Form) : Selected :=
  let idx := e.A s row f
  let k := Width.typ.regs f.ty
  if row.opc = rowXget.opc then selectReg idx k e.xregs .regalloc false
  else if row.opc = rowXput.opc then selectReg idx k e.xregs .regalloc true
  else if row.opc = rowGget.opc then selectReg idx k 128 .illopnd false
  else if row.opc = rowGput.opc then selectReg idx k 128 .illopnd true
  else if row.opc = rowPget.opc then { preads := List.range 7 }
  else if row.opc = rowPsetBulk.opc && f.op2 == 1 then { pwrites := (List.range 7).filter fun i => (e.B s row f).testBit i }
  else if row.opc = rowLdt.opc || row.opc = rowStt.opc then { reads := coordRegs s e row f }
  else {}

/-- The operand that selects is DRAIN: nothing is selected before it is read. -/
def selectsByDrain (row : OpRow) (f : Form) : Bool :=
  if row.opc = rowPsetBulk.opc || row.opc = rowLdt.opc || row.opc = rowStt.opc then f.b == .drain else f.a == .drain

/-- The G registers that a thread reads through the broadcast path (03 R81). -/
def groupReads (e : Env) (row : OpRow) (f : Form) : List Nat :=
  if e.steward then [] else overSlots row f (readRegs true f.fields)

/-- The hazards of 02 R63 and the reads of registers that a restore did not bring back (15 R324), with the AUX of the frame; `sel`
is what the instruction selects. Reads come before writes, and both before the check of the index (12 R270). A read of a register
that a restore did not bring back comes behind the pending ones and before the check of the index (DESIGN CHOICE, log 87). -/
def hazardWith (e : Env) (row : OpRow) (f : Form) (sel : Selected) : Option (Cause × Word) :=
  let reads := overSlots row f (readRegs e.steward f.fields)
  if reads.any e.h.pendingReg || (overSlots row f (readPreds f.fields)).any e.h.pendingPred then some (.hazardRaw, 0)
  else if sel.reads.any e.h.pendingReg || sel.preads.any e.h.pendingPred then some (.hazardRaw, sel.index)
  else if (overSlots row f (writeRegs e.steward f.fields)).any e.h.pendingReg
      || (overSlots row f writePreds).any e.h.pendingPred then some (.hazardWaw, 0)
  else if sel.writes.any e.h.pendingReg || sel.pwrites.any e.h.pendingPred then some (.hazardWaw, sel.index)
  else if reads.any e.h.dead.contains || (groupReads e row f).any e.g.steward.dead.contains then some (.deadRead, 0)
  else match sel.bad with
    | some c => some (c, sel.index)
    | none => if sel.reads.any e.h.dead.contains then some (.deadRead, sel.index) else none

/-- The hazards at issue, before a DRAIN operand is read. -/
def hazard (s : State) (e : Env) (row : OpRow) (f : Form) : Option (Cause × Word) :=
  hazardWith e row f (if selectsByDrain row f then {} else selected s e row f)

/-- The hazards of what a DRAIN operand selects, once it is read. -/
def drainHazard (s : State) (e : Env) (row : OpRow) (f : Form) : Option (Cause × Word) :=
  if selectsByDrain row f then hazardWith e row f (selected s e row f) else none

end Sys2Proof.Machine
end

