-- ==== Sys2Proof/Machine/Ops.lean ====
section
/-!
DEFINITION. Issue of one instruction, shared by every instruction of the two streams: who may issue (02 R56, R64), the
order of the checks (08 R178, 02 R63), the park, the hints, the spin detector (02 R67), single-stepping (12 R255), the
redundant executions (18 R369 to R374), taking a trap (02 R53, R54; 12 R256) and returning from it (12 R258).
-/
namespace Sys2Proof.Machine

/-! ## Who may issue -/

def State.groupLive (s : State) (g : Group) : Bool :=
  (g.state == .resident || g.state == .waiting) && (s.ctx g.ctx).state == .running && !g.rollback

/-- A group with an integrity event still issues until the cycle of its halt (18 R377). -/
def State.runsOut (s : State) (g : Group) : Bool :=
  (g.state == .resident || g.state == .waiting) && (s.ctx g.ctx).state == .running
    && g.halting.any fun t => decide (s.clusterCycles g.cluster < t)

/-- A context that may issue: READY, not held by an arrival, a clone or a full pending set (02 R56, R64). -/
def Hart.canIssue (h : Hart) : Bool :=
  h.status == .ready && decide (h.results.length < 16)
    && (match h.dup with | none => true | some d => d.agreed) && h.arrival.isNone

/-- The context of a turn, if it may issue: in a `.det` kernel, a context of the running group of its core (03 R92). -/
def envOf (s : State) (r : CtxRef) : Option Env :=
  match s.group? r.group with
  | none => none
  | some g =>
    match s.grid? g.grid, g.hart? r.who with
    | some gr, some h =>
      if (s.groupLive g || s.runsOut g) && (!Hdr.det gr.header || (s.core g.coreNo).running == some r.group) && h.canIssue
      then some { r := r, g := g, gr := gr, h := h } else none
    | _, _ => none

/-! ## Stores and records -/

/-- The word of an instruction. -/
def wordOf (row : OpRow) (f : Form) : IWord := encodeForm row.opc f

/-- A comparator record of the context under IL2 (18 R374). -/
def addRecord (s : State) (r : CtxRef) (core : Nat) (d : Dup) : State :=
  s.modCore core fun c => { c with records := c.records ++ [(r, { d with lost := (s.pair (core / 16)).mute })] }

/-- A record of a context whose second copy the arisen error of the context alters. -/
def dupOf (s : State) (g : Group) (h : Hart) (row : Nat) (values : List Nat) : Dup :=
  { row := row, first := values, pc := h.pc.toNat, since := s.clusterCycles g.cluster
    second := match values with
      | [] => []
      | v :: vs => (v ^^^ h.flip.toNat) :: vs }

/-- A comparator record of a context, made now; the error of the context is used up. Those that a context makes between an integrity
event and the halt are discarded (18 R377). -/
def recordOf (s : State) (r : CtxRef) (row : Nat) (values : List Nat) (cmd : Option Nat := none) : State :=
  match s.group? r.group, s.hart? r with
  | some g, some h =>
    if g.rollback && cmd.isNone then s
    else addRecord (s.modHart r fun h => { h with flip := 0 }) r g.coreNo { dupOf s g h row values with cmd := cmd }
  | _, _ => s

/-- An operation at a peer, as numbers. -/
def linkWords : LinkKind → List Nat
  | .read n => [0, n]
  | .write bs => [natOfLe bs, 1, bs.length]
  | .nibble v m => [v.toNat, 2, m.toNat]
  | .red op ty v lane pc => [v.toNat, 3, op, ty.code.toNat, lane, pc]
  | .signal => [4]
  | .abort => [5]

/-- Datum, address and mask of what a store does. -/
def Action.words : Action → List Nat
  | .bytes ws home => natOfLe (ws.map WByte.val) :: boolNat home :: (ws.map fun w => w.addr) ++ ws.map fun w => w.mask.toNat
  | .remote link chip a k => linkWords k ++ [link, boolNat chip, a]

/-- A store put in the context's queue; under IL2 it waits for its record, unless its instruction has waited for one (18 R367,
R374). -/
def pushStore (s : State) (r : CtxRef) (level space : Nat) (a : Action) : State :=
  let agreed := decide (level < 2) || (match s.hart? r with | some h => h.dup.isSome | none => false)
  let s := s.modHart r fun h => { h with stores := h.stores ++ [{ act := a, agreed := agreed, region := h.regionNo }] }
  if agreed then s else recordOf s r 1 (a.words ++ [space])

/-! ## Taking a trap -/

/-- The 80 bytes that trap entry writes (12 R256), as a number. -/
def frameBits (h : Hart) (xregs : Nat) (t : TrapInfo) (cycle : Nat) : Nat :=
  let x (i : Nat) : Nat := if 56 + i < xregs then (h.regs.getD (56 + i) 0).toNat else 0
  t.pc.toNat + Cause.code t.cause * 2 ^ 32 + t.space.toNat * 2 ^ 40 + boolNat t.write * 2 ^ 44
    + t.insn.toNat * 2 ^ 64 + t.aux.toNat * 2 ^ 160 + t.addr.toNat * 2 ^ 192
    + ((List.range 8).map fun i => x i * 2 ^ (256 + 32 * i)).sum
    + h.preds.toNat * 2 ^ 512 + (cycle % 2 ^ 64) * 2 ^ 576

/-- The virtual address of a thread's private slice (15 R328). -/
def privBase (gr : Grid) (index tid : Nat) : Nat :=
  let h := gr.header
  Rec.privBase gr.record + (index * Hdr.threads h + tid) * (Hdr.privBytes h + 256)

/-- A lock entry of the context stops the access (05 R133). -/
def Lock.stops (l : Lock) (n space first last : Nat) (write : Bool) : Bool :=
  l.ctx == n && l.space == space && decide (l.first ≤ last) && decide (first ≤ l.last) && (write || l.write)

/-- The flat places of `k` chunks of 16 bytes of the frame; none where translation faults, or where a range lock of the context stops the
thread's access (05 R133, log 47). -/
def frameChunks (s : State) (g : Group) (va : Nat) (need : Need) : Nat → Option (List Loc)
  | 0 => some []
  | k + 1 =>
    let stopped := (s.core g.coreNo).locks.any fun k => k.stops g.ctx 4 (va % 2 ^ 48) (va % 2 ^ 48 + 15) (need == needWrite)
    match translate s g.coreNo g.ctx va need, frameChunks s g (va + 16) need k with
    | .ok l, some ls => if stopped then none else some (l :: ls)
    | _, _ => none

/-- The walks of the chunks of a frame. -/
def walkFrame (s : State) (core n va : Nat) : Nat → State
  | 0 => s
  | k + 1 => walkFrame (coreWalk s core n va) core n (va + 16) k

/-- The uncorrectable errors of walks that the chunks of a frame meet. -/
def meetFrame (s : State) (n va : Nat) : Nat → State
  | 0 => s
  | k + 1 => meetFrame (meetWalk s n va) n (va + 16) k

/-- The stores of trap entry: chunk by chunk, into the L1 of the core or at host or peer memory. -/
def frameStores (s : State) (r : CtxRef) (level : Nat) : List Loc → List Byte → State
  | [], _ => s
  | l :: ls, bs =>
    let a : Action := match l with
      | .flat f host => .bytes (wholeBytes f (bs.take 16)) host
      | .peer k chip f => .remote k chip f (.write (bs.take 16))
    frameStores (pushStore s r level 0 a) r level ls (bs.drop 16)

/-- Trap entry (02 R53 steps 3 and 4): the frame, the handler flag, the vector. FRAME_FAULT where the frame cannot be
written (12 R257). -/
def enterTrap (s : State) (r : CtxRef) (t : TrapInfo) : State :=
  match s.group? r.group, s.hart? r with
  | some g, some h =>
    (match s.grid? g.grid with
    | none => s
    | some gr =>
      let tid := match r.who with | .thread n => n | .steward => 0
      let va := privBase gr g.index tid + Hdr.privBytes gr.header
      let s := walkFrame s g.coreNo g.ctx va 5
      match frameChunks s g va needWrite 5 with
      | none => killGroup (meetFrame s g.ctx va 5) r.group .frameFault t.pc.toNat (Cause.code t.cause) h.quad
      | some ls =>
        let bs := bytesOfNat 80 (frameBits h (Hdr.regs gr.header) t (s.clusterCycles g.cluster))
        let vec := BitVec.ofNat 32 (Hdr.trapPc gr.header)
        let s := frameStores s r gr.level ls bs
        let s := if gr.level < 2 then s else recordOf s r 3 [vec.toNat]
        s.modHart r fun h =>
          { h with pc := vec, handler := true, status := .ready, trapping := none, parkS := false
                   spin := { last := none, count := 0 } })
  | _, _ => s

/-- A trap raised at issue (02 R53, R54; 03 R80): a group with an integrity event takes none; in the steward, without a vector, or
in a handler it kills the group; else the thread parks until its outstanding results have returned, and enters the handler. A STEP
trap raised as a RECONV wait ends leaves the presence of that cycle (DESIGN CHOICE, log 108). -/
def raiseTrap (s : State) (r : CtxRef) (t : TrapInfo) : State :=
  match s.group? r.group, s.hart? r with
  | some g, some h =>
    (match s.grid? g.grid with
    | none => s
    | some gr =>
      let aux := if t.addr ≠ 0 then t.addr.toNat % 2 ^ 32 else t.aux.toNat
      if g.state == .killed || g.state == .retired || g.rollback then s
      else if Who.isSteward r.who then killGroup s r.group t.cause t.pc.toNat aux 0
      else if !Hdr.trapEn gr.header then killGroup s r.group t.cause t.pc.toNat aux h.quad
      else if h.handler then killGroup s r.group .doubleTrap t.pc.toNat (Cause.code t.cause) h.quad
      else
        let s := s.modHart r fun h =>
          { h with wait := .none, dup := none, parkS := false, starve := 0, urgent := false, slotAt := none
                   reconvAt := if t.cause = .step then h.reconvAt else none
                   spin := { last := none, count := 0 } }
        if h.results.isEmpty then enterTrap s r t
        else settleSwitch (s.modHart r fun h => { h with status := .parked, trapping := some t }) r.group)
  | _, _ => s

/-! ## Completion -/

/-- Single-stepping as it stands at issue (12 R255). -/
def stepping (s : State) (e : Env) : Bool := stepsOn s e.g e.r.who e.h

/-- The spin detector at a completed instruction: any changed register clears it, a taken branch counts (02 R67). A branch other
than the last counts as a taken branch to another target, even one that goes to the same place, and a BRDEC that changes no register,
with D other than A or D = ZERO, counts as any branch does (DESIGN CHOICE, log 79). -/
def spinAfter (before after : Hart) (target : Option Word) : Spin :=
  let s0 : Spin := if before.regs = after.regs && before.preds = after.preds then before.spin else { last := none, count := 0 }
  match target with
  | none => s0
  | some t =>
    if t ≤ before.pc && before.pc.toNat ≤ t.toNat + 180 then
      { last := some (before.pc, t), count := if s0.last = some (before.pc, t) then s0.count + 1 else 0 }
    else { last := none, count := 0 }

/-- What the issue of an instruction in a cycle leaves of the hints and of the vote (02 R59, R60); nothing where it was issued when
its second execution was asked for. -/
def Hart.issued (h : Hart) (f : Form) (now : Nat) : Hart :=
  if h.dup.isSome then { h with slotAt := none } else
  { h with yieldExcl := if f.yield then some now else h.yieldExcl, fuseWaited := false, starve := 0, urgent := false
           lastIssue := some now, slotAt := none }

/-- The context after an instruction that completes at issue: the PC, the hints, the park of S. -/
def afterIssue (e : Env) (f : Form) (w : IWord) (now : Nat) (target : Option Word) (h : Hart) : Hart :=
  let parks := f.park && !h.results.isEmpty
  { h.issued f now with
    pc := target.getD (e.h.pc + 12), insn := w, parkS := parks, status := if parks then .parked else .ready
    spin := spinAfter e.h h target }

/-- STEP after an instruction that has completed; one that parks completes when its park ends (12 R255). -/
def stepAfter (s : State) (r : CtxRef) (on : Bool) : State :=
  match s.hart? r with
  | none => s
  | some h => if on && h.status != .parked then raiseTrap s r { cause := .step, pc := h.pc, insn := h.insn } else s

def finish (s0 : State) (e : Env) (f : Form) (w : IWord) (target : Option Word) (s : State) : State :=
  let s := s.modHart e.r (afterIssue e f w (s0.clusterCycles e.g.cluster) target)
  let s := if e.det then settleSwitch s e.r.group else s
  stepAfter s e.r (stepping s0 e)

/-- A context that waits inside its instruction. -/
def blockOn (s : State) (e : Env) (f : Form) (w : IWord) (on : Wait) : State :=
  let s := s.modHart e.r fun h =>
    { h.issued f (s.clusterCycles e.g.cluster) with
      status := .blocked, wait := on, insn := w, parkS := f.park, spin := { last := none, count := 0 } }
  let s := if e.det then settleSwitch s e.r.group else s
  settleWaiting s e.r.group

/-- A context that leaves BLOCKED with its instruction's effect taken: it goes on behind it, or parks by its S. -/
def completeWait (s : State) (r : CtxRef) : State :=
  match s.group? r.group, s.hart? r with
  | some g, some h =>
    let parks := h.parkS && !h.results.isEmpty
    let s1 := s.modHart r fun h =>
      { h with pc := h.pc + 12, wait := .none, status := if parks then .parked else .ready, parkS := parks }
    stepAfter (settlePeers s1) r (stepsOn s g r.who h)
  | _, _ => s

/-- A region boundary performed: the region entry is the next instruction, the random state is kept (03 R85). -/
def Hart.boundary (h : Hart) (entry : Word) : Hart :=
  { h with regionPc := entry, rngSnap := h.rng, bounded := true, regionNo := h.regionNo + 1, entryNo := h.regionNo + 1, rdvBack := none }

/-- Behind an instruction that becomes a boundary only when it completes: what is issued now bears a later serial. -/
def Hart.nextSerial (h : Hart) : Hart := { h with regionNo := h.regionNo + 1 }

/-- An instruction of a serial completes as a boundary, unless a later one stands already (13 R288, R289; 14 R298). -/
def Hart.lateBoundary (h : Hart) (serial : Nat) (entry : Word) (rng : BitVec 64) : Hart :=
  if h.entryNo ≤ serial then { h with regionPc := entry, rngSnap := rng, entryNo := serial + 1, bounded := true, rdvBack := none }
  else { h with bounded := true }

/-- The rollback mark clears when every context has performed a boundary or exited (18 R378). -/
def settleMark (s : State) (key : Nat) : State :=
  s.modGroup key fun g =>
    if g.mark && !g.rollback && (g.harts.all fun p => p.2.bounded || p.2.status == .exited) then { g with mark := false } else g

/-- A boundary behind the instruction of the environment. -/
def boundaryAfter (s : State) (e : Env) : State :=
  settleMark (s.modHart e.r fun h => h.boundary (e.h.pc + 12)) e.r.group

/-! ## One instruction -/

/-- What an instruction does once its checks have passed: it completes, jumps, traps, waits at issue, meets an
integrity event, BLOCKS, or has seen to the context itself. -/
inductive Act
  | done (s : State) | jump (target : Word) (s : State) | trap (t : TrapInfo) | hold
  | event (s : State) (c : Cause) | block (w : Wait) (s : State) | raw (s : State)
  deriving DecidableEq, Repr

/-- The row of R374 whose record the comparator must release before the instruction is performed: 2 for atomics and
SIGNAL, 6 for LAUNCH, TRIG, SYSW and barrier arrivals; 3 for branches and TRET, which do not wait; else 0. -/
def recordRow (opc : BitVec 10) : Nat :=
  let o := opc.toNat
  if o = 0x288 || o = 0x289 || o = 0x28A || o = 0x329 then 2
  else if o = 0x328 || o = 0x222 || o = 0x3C1 || o = 0x218 || o = 0x219 || o = 0x21C || o = 0x21D then 6
  else if o = 0x200 || o = 0x201 || o = 0x202 || o = 0x203 || o = 0x20B || o = 0x20A then 3
  else 0

/-- The operands of an instruction as it reads them, and its operation. -/
def operandWords (s : State) (e : Env) (row : OpRow) (f : Form) : List Nat :=
  [e.C s row f, e.D s row f, e.A s row f, e.B s row f, row.opc.toNat, f.ty.code.toNat, f.sub.toNat, f.op2.toNat, f.imm.toNat]

/-- What an act leaves that its clone must leave too (18 R369): values and predicates written, the target, every store. -/
def actWords (r : CtxRef) : Act → List Nat
  | .done s | .raw s | .block _ s | .event s _ =>
    (match s.hart? r with
    | none => [0]
    | some h => h.preds.toNat :: h.pc.toNat :: (h.regs.map BitVec.toNat ++ (h.results.map fun q => (q.value.getD 0).toNat))
        ++ (h.stores.map fun q => q.act.words).flatten)
  | .jump t s => t.toNat :: (match s.hart? r with | none => [] | some h => h.regs.map BitVec.toNat)
  | .trap _ | .hold => []

/-- A cause that translation raises (19 R400). -/
def Cause.translates : Cause → Bool
  | .pageNotmapped | .pagePerm | .stage2 => true
  | _ => false

/-- The walk of an access that traps behind it: the misses of the cycle on its page join it too (19 R403). -/
def trapWalk (s : State) (e : Env) (t : TrapInfo) : State :=
  if Cause.translates t.cause || (t.cause == .rangeLock && t.space == 4) then coreWalk s e.g.coreNo e.n t.addr.toNat
  else if t.cause = .rangeLock && t.space = 0 then
    coreWalk s e.g.coreNo e.n ((privBase e.gr e.g.index e.tid + t.addr.toNat) % 2 ^ 48)
  else s

/-- The effect of an instruction that is performed. -/
def perform (s0 : State) (e : Env) (row : OpRow) (f : Form) : Act → State
  | .done s => finish s0 e f (wordOf row f) none s
  | .jump t s =>
    if e.det && spinAfter e.h e.h (some t) == { last := some (e.h.pc, t), count := 4 }
        && (match s.hart? e.r with | some h => h.regs == e.h.regs && h.preds == e.h.preds | none => false) then
      raiseTrap s0 e.r { cause := .detSpin, pc := e.h.pc, insn := wordOf row f }
    else
      let s := if e.gr.level < 2 then s else recordOf s e.r 3 [t.toNat]
      finish s0 e f (wordOf row f) (some t) s
  | .trap t => raiseTrap (trapWalk s0 e t) e.r { t with pc := e.h.pc, insn := wordOf row f }
  | .hold => s0
  | .event s c => raiseOn s e.r c
  | .block w s => blockOn s e f (wordOf row f) w
  | .raw s => s

def usesDrain (f : Form) : Bool := decide (0 < f.fields.drains)

/-- ST and STT. -/
def storesOpc (opc : BitVec 10) : Bool := opc == rowSt.opc || opc == rowStt.opc

/-- An ordered store of a `.det` kernel (05 R137). -/
def orderedStore (e : Env) (row : OpRow) (f : Form) : Bool := e.det && storesOpc row.opc && f.d == .x 1

/-- The row of R374 of the record that holds an instruction: 1 for an ordered store and for one that reads DRAIN, which are region
boundaries themselves, 5 for CPYC, which writes the completion word of a copy, else as `recordRow`. -/
def heldRow (e : Env) (row : OpRow) (f : Form) : Nat :=
  if orderedStore e row f || (storesOpc row.opc && usesDrain f) then 1 else if row.opc == 0x30A then 5 else recordRow row.opc

/-- The redundant execution that an instruction waits for before it is performed (18 R367, R369, R371, R374). -/
def needsDup (e : Env) (row : OpRow) (f : Form) : Bool :=
  e.gr.level == 1 || (decide (2 ≤ e.gr.level) && (heldRow e row f == 1 || heldRow e row f == 2 || heldRow e row f == 5 || heldRow e row f == 6))

/-- The vote of a quadrant, or of the steward port (4), in this cycle; none where no context has issued in it yet. -/
def State.voteNow (s : State) (core port : Nat) : Option Vote :=
  let v := mapGet initVote (s.core core).votes port
  if v.cycle == some (s.clusterCycles (core / 8)) then some v else none

/-- The lanes of a quadrant on which clones execute in this cycle. -/
def cloneLanes (s : State) (core quad : Nat) : List Nat :=
  match mapFind (s.core core).clones quad with
  | some (t, ls) => if t = s.clusterCycles (core / 8) then ls else []
  | none => []

/-- A clone executes on a lane in this cycle. -/
def useLane (s : State) (core quad lane : Nat) : State :=
  s.modCore core fun c => { c with clones := mapPut c.clones quad (s.clusterCycles (core / 8), lane :: cloneLanes s core quad) }

/-- A port issues in this cycle on a lane of a quadrant. -/
def portTakes (s : State) (core quad lane : Nat) : Bool :=
  (s.voteNow core quad).any fun v => v.ballot.any fun r => (s.hart? r).any fun h => h.lane == lane

/-- A context, or a clone, issues in this cycle on a lane of a quadrant. -/
def laneTaken (s : State) (core quad lane : Nat) : Bool := portTakes s core quad lane || (cloneLanes s core quad).contains lane

/-- The replay entries of a quadrant. -/
def replaysOf (s : State) (core quad : Nat) : List Replay := (s.core core).replay.filter fun q => q.quad == quad

/-- A second execution asked for; a steward keeps its turn at a slot (07 R174). A thread's clone whose lane a port uses goes into the
replay queue, one entry for an issue group; where the queue has no room, the instruction does not issue (18 R370). -/
def askDup (s : State) (e : Env) (f : Form) (d : Dup) : State :=
  let s1 (q : Bool) := s.modHart e.r fun h =>
    { h.issued f d.since with dup := some { d with queued := q }, flip := 0, slotAt := h.slotAt }
  if d.row != 0 then addRecord (s1 false) e.r e.g.coreNo d
  else if e.steward then s1 false
  else if !portTakes s e.g.coreNo e.h.quad (e.h.lane ^^^ 16) then useLane (s1 false) e.g.coreNo e.h.quad (e.h.lane ^^^ 16)
  else
    let mine (q : Replay) : Bool := q.quad == e.h.quad && q.cycle == d.since && q.pc == e.h.pc
    if (s.core e.g.coreNo).replay.any mine then
      (s1 true).modCore e.g.coreNo fun c =>
        { c with replay := c.replay.map fun q => if mine q then { q with refs := q.refs ++ [e.r] } else q }
    else if (replaysOf s e.g.coreNo e.h.quad).length < 16 then
      (s1 true).modCore e.g.coreNo fun c =>
        { c with replay := c.replay ++ [{ quad := e.h.quad, cycle := d.since, pc := e.h.pc, refs := [e.r] }] }
    else s

/-- The state that an act leaves. -/
def Act.state? : Act → Option State
  | .done s | .jump _ s | .event s _ | .block _ s | .raw s => some s
  | .trap _ | .hold => none

/-- The walks of an act that waits for its second execution are made now, for the misses that join them (19 R403). -/
def keepWalks (s : State) (core : Nat) (a : Act) : State :=
  let now := (s.core core).walks
  match a.state? with
  | some s1 => (((s1.core core).walks.filter fun w => !now.contains w).reverse).foldl (fun s w => coreWalk s core w.ctx (w.page * 65536)) s
  | none => s

/-- The act performed, or, under IL1 and IL2, put before its second execution. -/
def performDup (s0 : State) (e : Env) (row : OpRow) (f : Form) (a : Act) : State :=
  match a with
  | .trap _ | .hold => perform s0 e row f a
  | _ =>
    if !needsDup e row f then perform s0 e row f a
    else
      match e.h.dup with
      | some _ => (perform s0 e row f a).modHart e.r fun h => { h with dup := none }
      | none =>
        let words := operandWords s0 e row f
        askDup (keepWalks s0 e.g.coreNo a) e f (if e.gr.level = 1 then dupOf s0 e.g e.h 0 (actWords e.r a ++ words)
          else dupOf s0 e.g e.h (heldRow e row f) words)

/-- Operand positions that read a system value. -/
def readsCycLo (row : OpRow) (f : Form) : Bool :=
  !(overSlots row f fun sl o => if o == .sys .cycLo && !sl.isUnused f.fields then [()] else []).isEmpty

/-- The drain that addresses a thread's set, from the cycle after its issue (14 R308). -/
def drainFor (s : State) (e : Env) : Option Cmd :=
  (s.core e.g.coreNo).cmds.find? fun c => c.gid == e.r.group && c.kind matches .mxd _
    && (c.issued.all fun t => decide (t < s.clusterCycles e.g.cluster)) && field (c.block.getD 0 0) 16 4 == e.tid / 64

/-- A DRAIN read: the element and the state with it consumed; a trap; or a wait (14 R308). -/
inductive DrainRead
  | none | value (v : Nat) (s : State) | trap (c : Cause) | wait
  deriving DecidableEq, Repr

def readDrain (s : State) (e : Env) : DrainRead :=
  match drainFor s e with
  | .none => .trap .drainIdle
  | some c =>
    let first := 64 * field (c.block.getD 0 0) 16 4 + 32 * field (c.block.getD 0 0) 20 1
    if e.tid < first || first + 32 ≤ e.tid then .trap .drainMember
    else
      let k := c.reads.getD (e.tid - first) 0
      if 32 ≤ k then .trap .drainMember
      else match c.rows[k]? with
        | .none => .wait
        | some row =>
          .value (row.getD (e.tid - first) 0).toNat
            (s.modCore e.g.coreNo fun q =>
              { q with cmds := q.cmds.map fun x => if x.id = c.id then { x with reads := x.reads.set (e.tid - first) (k + 1) } else x })

/-- A region boundary performed by the context of the environment: what it has issued lies before it. -/
def boundaryTo (s : State) (e : Env) (entry : Word) : State :=
  settleMark (s.modHart e.r fun h => h.boundary entry) e.r.group

/-- An act of an instruction that has read DRAIN, which is a region boundary (14 R308): its own result and its own store lie before
the boundary. Where it meets an event it reads no row. -/
def drainAct (s0 : State) (e : Env) : Act → Act
  | .done s => .done (boundaryTo s e (e.h.pc + 12))
  | .jump t s => .jump t (boundaryTo s e t)
  | .block w s => .block w (boundaryTo s e (e.h.pc + 12))
  | .raw s => .raw (boundaryTo s e (e.h.pc + 12))
  | .event s c => .event (s.modCore e.g.coreNo fun q => { q with cmds := (s0.core e.g.coreNo).cmds }) c
  | a => a

/-- The instruction past its hazards: the DRAIN read, then its own meaning. -/
def runBody (s : State) (e : Env) (row : OpRow) (f : Form) (body : Env → State → Act) : State :=
  let s1 := if readsCycLo row f
    then s.modHart e.r fun h => { h with cycLatch := BitVec.ofNat 32 (s.clusterCycles e.g.cluster / 2 ^ 32) } else s
  if !usesDrain f then performDup s e row f (body e s1)
  else if !e.h.stores.isEmpty then s
  else match readDrain s1 e with
    | .none => s
    | .trap c => raiseTrap s e.r { cause := c, pc := e.h.pc, insn := wordOf row f }
    | .wait => blockOn s e f (wordOf row f) .drain
    | .value v s2 =>
      match drainHazard s { e with drain := v } row f with
      | some t => raiseTrap s e.r { cause := t.1, pc := e.h.pc, aux := t.2, insn := wordOf row f }
      | none => performDup s e row f (drainAct s e (body { e with drain := v } s2))

/-- Instructions that leave nothing but registers, predicates and uncommitted stores. Between an integrity event and the halt a group
issues these alone: nothing else could be undone (DESIGN CHOICE, log 46). -/
def issuesPlain (e : Env) (row : OpRow) (f : Form) : Bool :=
  let o := row.opc.toNat
  !usesDrain f && !orderedStore e row f && (decide (o < 0x204) || o == 0x20B || decide (0x280 ≤ o ∧ o ≤ 0x285))

/-- The instruction waits for the rollback that is under way. -/
def windowHolds (e : Env) (row : OpRow) (f : Form) : Bool := e.g.rollback && !issuesPlain e row f

/-- Of an instruction that waits, what the cycle of the first event still sees: the event that it meets itself, which is the second
event of the cycle (18 R392). -/
def onlyEvent : Act → Act
  | .event s c => .event s c
  | _ => .hold

/-- The result of an instruction is variable-latency (02 R62). -/
def isVar (row : OpRow) (f : Form) : Bool := row.var || usesDrain f

/-- An instruction issued by a context that may issue. -/
def issueIn (s : State) (e : Env) (row : OpRow) (f : Form) (body : Env → State → Act) : State :=
  match e.h.fault with
  | some c => raiseOn (s.modHart e.r fun h => { h with fault := none }) e.r c
  | none =>
    let trap (c : Cause) (aux : Word) : State := raiseTrap s e.r { cause := c, pc := e.h.pc, aux := aux, insn := wordOf row f }
    match decodeTrap s e row f with
    | some c => trap c 0
    | none =>
      if e.h.pendingPred f.guard.val then trap .hazardRaw 0
      else if e.h.pred f.guard.val == f.gneg then finish s e f (wordOf row f) none s
      else match hazard s e row f with
        | some t => trap t.1 t.2
        | none => runBody s e row f body

/-- The meaning of every instruction of the two streams, over what it does itself; a context that may not issue leaves
the state as it is. -/
def issue (row : OpRow) (f : Form) (s : State) (body : Env → State → Act) : Host.Outcome State Fault Refusal :=
  match envOf s s.cur with
  | none => .next s
  | some e =>
    .next (if !windowHolds e row f then issueIn s e row f body
      else if sameCycle s e.g then issueIn s e row f fun e s => onlyEvent (body e s)
      else s)

/-! ## Results -/

/-- A register destination written: at once, or as a variable-latency result, which one that discards its value is too (02 R64). -/
def writeDst (s : State) (e : Env) (row : OpRow) (f : Form) (v : Nat) : State :=
  let regs := writeRegs e.steward f.fields row.d f.d
  if isVar row f then s.modHart e.r fun h => h.addResult regs [] (some (BitVec.ofNat 128 v))
  else match regs with
  | [] => s
  | n :: _ => s.modHart e.r fun h => h.setRegs n regs.length v

/-- The predicates that a predicate operand writes: P7 discards (02 R44). -/
def predsOf : Operand → List Nat
  | .p k => if k.val = 7 then [] else [k.val]
  | _ => []

/-- A predicate destination written. -/
def writePred (s : State) (e : Env) (row : OpRow) (f : Form) (o : Operand) (v : Bool) : State :=
  if isVar row f then s.modHart e.r fun h => h.addResult [] (predsOf o) (some (BitVec.ofNat 128 (boolNat v)))
  else match predsOf o with
  | [] => s
  | k :: _ => s.modHart e.r fun h => h.setPred k v

/-- A result marked pending whose value is not known yet. -/
def markPending (s : State) (e : Env) (row : OpRow) (f : Form) : State :=
  s.modHart e.r fun h => h.addResult (writeRegs e.steward f.fields row.d f.d) [] none

/-- An instruction that computes a register result from its operands. -/
def compute (row : OpRow) (f : Form) (v : Env → State → Nat) : Env → State → Act :=
  fun e s => .done (writeDst s e row f (v e s))

/-- An outstanding result returns: its registers or its predicate are written (02 R62). -/
def Hart.returnResult (h : Hart) (q : Result) (v : Nat) : Hart :=
  let h := { h with
    results := h.results.filter fun x => x.id != q.id
    frame := mapEach h.frame fun _ p => if p.1 = q.id then (p.1, some (BitVec.ofNat 128 v)) else p }
  let h' := match q.regs with
    | [] => h
    | n :: _ => h.setRegs n q.regs.length v
  let h' := q.preds.zipIdx.foldl (fun h p => h.setPred p.1 (v.testBit p.2)) h'
  if h'.regs = h.regs && h'.preds = h.preds then h' else { h' with spin := { last := none, count := 0 } }

end Sys2Proof.Machine
end

