-- ==== Sys2Proof/Machine/Access.lean ====
section
/-!
DEFINITION. Memory accesses: the address (08 R189), the checks of 05 R119 in their order, where the access goes, what a
load of a context sees (05 R123, 13 R276), and how stores and atomics are performed (05 R130, 18 R367).
-/
namespace Sys2Proof.Machine

/-- An access before its checks. -/
structure Access where
  space  : Nat
  addr   : Int
  size   : Nat
  write  : Bool
  atomic : Bool := false
  /-- The pair base of a `g` access has bits above the 48 of an address (05 R119). -/
  far    : Bool := false
  need   : Need
  deriving DecidableEq, Repr

/-- Base and bound of the spaces; the rank's group in space `k` (05 R118, 03 R76). -/
def rankGroup (s : State) (e : Env) (rank : Nat) : Option Group :=
  let n := Hdr.cgroup e.hdr
  if n ≤ rank then none
  else if n = 1 then some e.g
  else s.group? (groupKey e.g.grid (e.g.index / n * n + rank))

/-- Step 2 of R119. -/
def inBounds (s : State) (e : Env) (space : Nat) (addr : Int) : Bool :=
  decide (0 ≤ addr) &&
  (let a := addr.toNat
   match space with
   | 0 => !e.steward && decide (a < Hdr.privBytes e.hdr + 256)
   | 1 => decide (a < Hdr.cbytes e.hdr)
   | 2 => decide (a < 2 ^ 21) && decide (a % 2 ^ 18 < Hdr.cbytes e.hdr) && (rankGroup s e (a / 2 ^ 18)).isSome
   | 3 => decide (a < (scrRange s (s.ctx e.n)).2)
   | _ => decide (a < 2 ^ 48))

/-- The virtual address of a `p` or `g` access; one of `p` wraps at 2^48 (DESIGN CHOICE, log 100). -/
def virtAddr (e : Env) (space a : Nat) : Nat :=
  if space = 0 then (privBase e.gr e.g.index e.tid + a) % 2 ^ 48 else a

/-- The trap of an access (12 R256): the address in the form of its space, or where translation fails the virtual one. -/
def Access.trap (e : Env) (a : Access) (c : Cause) : TrapInfo :=
  { cause := c, pc := 0, space := BitVec.ofNat 4 a.space, write := a.write
    addr := if Cause.translates c then BitVec.ofNat 64 (virtAddr e a.space a.addr.toNat) else BitVec.ofInt 64 a.addr }

/-- Step 4 of R119: where the bytes lie. -/
def place (s : State) (e : Env) (space a : Nat) (need : Need) : Except Cause Loc :=
  match space with
  | 1 => .ok (.flat (coreBase + e.g.coreNo * corePadBytes + e.g.cbase + a) false)
  | 2 =>
    (match rankGroup s e (a / 2 ^ 18) with
    | some g => .ok (.flat (coreBase + g.coreNo * corePadBytes + g.cbase + a % 2 ^ 18) false)
    | none => .error .spaceBounds)
  | 3 => .ok (.flat ((scrRange s (s.ctx e.n)).1 + a) false)
  | _ => translate s e.g.coreNo e.n (virtAddr e space a) need

/-- Step 5 of R119. Core memory is checked at the owning core, the other spaces at the issuing core. -/
def locked (s : State) (e : Env) (space a size : Nat) (write : Bool) (l : Loc) : Bool :=
  if space = 1 || space = 2 then
    match l with
    | .flat f _ => (s.core ((f - coreBase) / corePadBytes)).locks.any fun k => k.stops e.n 1 f (f + size - 1) write
    | _ => false
  else
    let lo := virtAddr e space a
    let sp := if space = 3 then 3 else 4
    (s.core e.g.coreNo).locks.any fun k => k.stops e.n sp lo (lo + size - 1) write

/-- An access that passes the checks before translation walks where both TLBs miss. -/
def Access.walks (s : State) (e : Env) (a : Access) : Bool :=
  (a.space == 0 || a.space == 4) && !(a.atomic && a.space == 0) && !a.far && inBounds s e a.space a.addr && a.addr.toNat % a.size == 0

/-- The walk of an access, with the errors it meets and corrects (19 R398, R402, R404). -/
def meetPath (s : State) (e : Env) (a : Access) : State :=
  if a.walks s e then coreWalk s e.g.coreNo e.n (virtAddr e a.space a.addr.toNat) else s

/-- The checks of R119, in order; the place of the access where all pass. -/
def checkAccess (s : State) (e : Env) (a : Access) : Except Cause Loc :=
  if a.atomic && a.space == 0 then .error .atomicSpace
  else if a.far || !inBounds s e a.space a.addr then .error .spaceBounds
  else if a.addr.toNat % a.size != 0 then .error .misalign
  else
    match place s e a.space a.addr.toNat a.need with
    | .error c => .error c
    | .ok l => if locked s e a.space a.addr.toNat a.size a.write l then .error .rangeLock else .ok l

/-! ## Addresses (08 R189) -/

def memAddr (s : State) (e : Env) (row : OpRow) (f : Form) (size : Nat) (offset : Int) : Int :=
  (e.A s row f : Int) + sext (e.B s row f) 32 * (size : Int) + offset

/-- The pair base of a `g` operand has bits [63:48]. -/
def farBase (s : State) (e : Env) (row : OpRow) (f : Form) : Bool := f.op2 == 4 && decide (2 ^ 48 ≤ e.A s row f)

/-! ## What a context sees -/

/-- Bytes that leave the L1 of a core: performed at their home (13 R276), so that an access at .CLU or wider meets what its
agent wrote before (05 R123). -/
def evictBytes (s : State) (core : Nat) (inside : Nat → Bool) : State :=
  let ws := ((s.core core).l1.filter fun x => inside x.1).map fun x => { addr := x.1, val := x.2, mask := 0xFF : WByte }
  if ws.isEmpty then s
  else writeHome (s.modCore core fun c => { c with l1 := c.l1.filter fun x => !inside x.1 }) none ws

def evictRange (s : State) (core a size : Nat) : State := evictBytes s core fun x => decide (a ≤ x) && decide (x < a + size)

/-- A read of a place of the device or of host memory: the value and the error it meets. -/
def readFlat (s : State) (e : Env) (sub a size : Nat) : Nat × State × Option Cause :=
  let s := if wideScope sub then evictRange s e.g.coreNo a size else s
  let p := meetSpan s e.n a size
  (memNat (hartView s e.g e.r.who e.h (!wideScope sub)) a size, p.1, p.2)

/-! ## Performing -/

/-- Bytes written where a store of this space and scope goes: the home, or the L1 of the core (13 R276). -/
def performBytes (s : State) (core : Nat) (ws : List WByte) (home : Bool) : State :=
  if home then
    let s := evictBytes s core fun x => ws.any fun w => w.addr == x && w.mask != 0xFF
    writeHome (s.modCore core fun c => { c with l1 := c.l1.filter fun x => !(ws.any fun w => w.addr == x.1) }) none ws
  else
    let put (m : Memory) (w : WByte) : Memory :=
      l1Put m w.addr (mixByte ((l1Get m w.addr).getD (memGet s.mem w.addr)) w.val w.mask)
    touch ((s.modCore core fun c => { c with l1 := ws.foldl put c.l1 }).modTovor fun t => t.rewritten (hitsBytes ws)) none (touchedBy ws)

/-- Whether a store goes to its home at commit: everything but a `g` or `p` access in local DRAM at .THR to .CORE. -/
def storesHome (space sub : Nat) (host : Bool) : Bool := host || !(space == 0 || space == 4) || wideScope sub

/-- An atomic performed at its home, or in the L1 of the issuing core (05 R130); the old value. An ACAS that fails writes nothing
(13 R286). -/
def performAtomic (s : State) (core : Nat) (k : AtomKind) (a : Nat) (home : Bool) (tag : NanTag) : State × Nat :=
  let s := if home then evictRange s core a k.size else s
  let m := if home then s.mem else (s.core core).l1.foldl (fun m c => memSet m c.1 c.2) s.mem
  let old := memNat m a k.size
  (if k.writes old then performBytes s core (wholeBytes a (bytesOfNat k.size (atomNew k old tag))) home else s, old)

end Sys2Proof.Machine
end

