-- ==== Sys2Proof/Machine/Flags.lean ====
section
/-!
DEFINITION. Types as numbers (01 R18, R19, R21; 10 R206), conditions (08 R182), and the predicate results of comparisons
(10 R219, R220).
-/
namespace Sys2Proof.Machine

/-- Bits of a MOD type (01 R18, R22). -/
def tyBits : Ty → Nat
  | .i4 => 4
  | .i8 | .n8 => 8
  | .i16 | .n16 | .f16 | .bf16 => 16
  | .i64 | .n64 => 64
  | _ => 32

def tySigned : Ty → Bool
  | .i32 | .i64 | .i8 | .i16 | .i4 => true
  | _ => false

/-- `Read` as a number: the low w bits, signed for an I type. -/
def asInt (ty : Ty) (v : Nat) : Int := if tySigned ty then sext v (tyBits ty) else (zext v (tyBits ty) : Int)

/-- The range of R18. -/
def tyMin (ty : Ty) : Int := if tySigned ty then -(2 ^ (tyBits ty - 1) : Nat) else 0
def tyMax (ty : Ty) : Int := if tySigned ty then ((2 ^ (tyBits ty - 1) : Nat) : Int) - 1 else ((2 ^ tyBits ty : Nat) : Int) - 1

/-- The register image of the w-bit value of a number: I types are sign-extended to 32 bits (01 R19). -/
def image (ty : Ty) (v : Int) : Nat :=
  let u := wrap v (tyBits ty)
  if tySigned ty then wrap (sext u (tyBits ty)) (max 32 (tyBits ty)) else u

/-- `Fit`: saturated or wrapped (10 R206). -/
def fit (ty : Ty) (sat : Bool) (v : Int) : Nat := image ty (if sat then clampInt v (tyMin ty) (tyMax ty) else v)

/-- An integer condition of SUB (08 R182). -/
def intCond (sub : Nat) (a b : Int) : Bool :=
  match sub with
  | 0 => a == b
  | 1 => a != b
  | 2 => decide (a < b)
  | 3 => decide (a ≤ b)
  | 4 => decide (b < a)
  | _ => decide (b ≤ a)

/-- The combination of an outcome with a predicate by OP2 (10 R219). -/
def combine (op2 : Nat) (v c : Bool) : Bool :=
  match op2 with
  | 1 => v && c
  | 2 => v || c
  | 3 => v != c
  | _ => v

/-- A value list indexed by selector bits (10 R214, R220). -/
def tableBit (table : Nat) (a b c : Bool) : Bool := table.testBit (boolNat a + 2 * boolNat b + 4 * boolNat c)

/-- Quotient and remainder with the cases of R21: division by zero gives all ones and the dividend. -/
def divInt (a b : Int) : Int := if b = 0 then -1 else a.tdiv b
def remInt (a b : Int) : Int := if b = 0 then a else a.tmod b

/-- An unsigned `k`-bit number built bit by bit. -/
def bitsBy (w : Nat) (b : Nat → Bool) : Nat := ((List.range w).map fun i => boolNat (b i) * 2 ^ i).sum

/-- An instruction that writes a predicate from its operands. -/
def computePred (row : OpRow) (f : Form) (v : Env → State → Bool) : Env → State → Act :=
  fun e s => .done (writePred s e row f f.d (v e s))

end Sys2Proof.Machine
end

