-- ==== Sys2Proof/Machine/Integer.lean ====
section
/-!
DEFINITION. The integer, move and predicate instructions (10 R208 to R224): opcodes 0x000 to 0x043.
-/
namespace Sys2Proof.Machine

/-- Operands as numbers of the MOD type, result fitted to it. -/
def intOp (row : OpRow) (f : Form) (s : State) (op : Int → Int → Int → Int) : Host.Outcome State Fault Refusal :=
  issue row f s (compute row f fun e s =>
    fit f.ty (f.op2 == 1) (op (asInt f.ty (e.A s row f)) (asInt f.ty (e.B s row f)) (asInt f.ty (e.C s row f))))

/-- Operands as w-bit numbers, result w bits. -/
def bitOp (row : OpRow) (f : Form) (s : State) (op : Nat → Nat → Nat → Nat → Nat) : Host.Outcome State Fault Refusal :=
  issue row f s (compute row f fun e s =>
    op (tyBits f.ty) (zext (e.A s row f) (tyBits f.ty)) (e.B s row f) (e.C s row f))

/-! ## Moves -/

/-- NOP (R209). -/
def execNop (f : Form) (s : State) : Host.Outcome State Fault Refusal := issue rowNop f s fun _ s => .done s

/-- MOV (R209). -/
def execMov (f : Form) (s : State) : Host.Outcome State Fault Refusal := bitOp rowMov f s fun _ a _ _ => a

/-- SEL (R209). -/
def execSel (f : Form) (s : State) : Host.Outcome State Fault Refusal :=
  bitOp rowSel f s fun _ a b c => if c = 1 then a else b

/-- XGET (R210); the index and the register that it selects have been checked at issue. -/
def execXget (f : Form) (s : State) : Host.Outcome State Fault Refusal :=
  issue rowXget f s (compute rowXget f fun e s => regsGet e.h.regs (e.A s rowXget f) (Width.typ.regs f.ty))

/-- XPUT (R210); with a DRAIN operand its register is pending until the value returns. -/
def execXput (f : Form) (s : State) : Host.Outcome State Fault Refusal :=
  issue rowXput f s fun e s =>
    let idx := e.A s rowXput f
    let k := Width.typ.regs f.ty
    let v := e.B s rowXput f
    .done (s.modHart e.r fun h =>
      if usesDrain f then h.addResult ((List.range k).map (idx + ·)) [] (some (BitVec.ofNat 128 v)) else h.setRegs idx k v)

/-- GGET (R211). -/
def execGget (f : Form) (s : State) : Host.Outcome State Fault Refusal :=
  issue rowGget f s (compute rowGget f fun e s => regsGet e.h.regs (e.A s rowGget f) (Width.typ.regs f.ty))

/-- GPUT (R211). -/
def execGput (f : Form) (s : State) : Host.Outcome State Fault Refusal :=
  issue rowGput f s fun e s =>
    .done (s.modHart e.r fun h => h.setRegs (e.A s rowGput f) (Width.typ.regs f.ty) (e.B s rowGput f))

/-! ## Arithmetic (R212, R213) -/

def execAdd (f : Form) (s : State) : Host.Outcome State Fault Refusal := intOp rowAdd f s fun a b _ => a + b
def execSub (f : Form) (s : State) : Host.Outcome State Fault Refusal := intOp rowSub f s fun a b _ => a - b
def execMul (f : Form) (s : State) : Host.Outcome State Fault Refusal := intOp rowMul f s fun a b _ => a * b
def execMulh (f : Form) (s : State) : Host.Outcome State Fault Refusal :=
  intOp rowMulh f s fun a b _ => a * b / ((2 ^ tyBits f.ty : Nat) : Int)
def execMad (f : Form) (s : State) : Host.Outcome State Fault Refusal := intOp rowMad f s fun a b c => a * b + c

/-- MADW: the pair type of the MOD type. -/
def execMadw (f : Form) (s : State) : Host.Outcome State Fault Refusal :=
  issue rowMadw f s (compute rowMadw f fun e s =>
    let wide : Ty := if f.ty == .i32 then .i64 else .n64
    let c := if f.c = .imm then asInt f.ty f.imm.toNat else asInt wide (e.C s rowMadw f)
    fit wide (f.op2 == 1) (asInt f.ty (e.A s rowMadw f) * asInt f.ty (e.B s rowMadw f) + c))

def execDiv (f : Form) (s : State) : Host.Outcome State Fault Refusal :=
  issue rowDiv f s (compute rowDiv f fun e s =>
    let b := asInt f.ty (e.B s rowDiv f)
    fit f.ty (f.op2 == 1 && b != 0) (divInt (asInt f.ty (e.A s rowDiv f)) b))
def execRem (f : Form) (s : State) : Host.Outcome State Fault Refusal := intOp rowRem f s fun a b _ => remInt a b
def execMin (f : Form) (s : State) : Host.Outcome State Fault Refusal := intOp rowMin f s fun a b _ => min a b
def execMax (f : Form) (s : State) : Host.Outcome State Fault Refusal := intOp rowMax f s fun a b _ => max a b
def execAbs (f : Form) (s : State) : Host.Outcome State Fault Refusal := intOp rowAbs f s fun a _ _ => (a.natAbs : Int)
def execClamp (f : Form) (s : State) : Host.Outcome State Fault Refusal := intOp rowClamp f s fun a b c => min (max a b) c

/-! ## Logic, shifts and bits (R214 to R218) -/

def execAnd (f : Form) (s : State) : Host.Outcome State Fault Refusal := bitOp rowAnd f s fun _ a b _ => a &&& b
def execOr (f : Form) (s : State) : Host.Outcome State Fault Refusal := bitOp rowOr f s fun _ a b _ => a ||| b
def execXor (f : Form) (s : State) : Host.Outcome State Fault Refusal := bitOp rowXor f s fun _ a b _ => a ^^^ b
def execAndn (f : Form) (s : State) : Host.Outcome State Fault Refusal :=
  bitOp rowAndn f s fun w a b _ => a &&& (2 ^ w - 1 - zext b w)
def execLogic3 (f : Form) (s : State) : Host.Outcome State Fault Refusal :=
  bitOp rowLogic3 f s fun w a b c => bitsBy w fun i => tableBit f.imm.toNat (a.testBit i) (b.testBit i) (c.testBit i)

def execShl (f : Form) (s : State) : Host.Outcome State Fault Refusal :=
  bitOp rowShl f s fun w a b _ => if w ≤ b then 0 else zext (a * 2 ^ b) w
def execShr (f : Form) (s : State) : Host.Outcome State Fault Refusal :=
  bitOp rowShr f s fun w a b _ => if w ≤ b then 0 else a / 2 ^ b
def execSar (f : Form) (s : State) : Host.Outcome State Fault Refusal :=
  bitOp rowSar f s fun w a b _ => wrap (sext a w / ((2 ^ (min b w) : Nat) : Int)) w
def execRol (f : Form) (s : State) : Host.Outcome State Fault Refusal :=
  bitOp rowRol f s fun w a b _ => let r := b % w; (a * 2 ^ r + a / 2 ^ (w - r)) % 2 ^ w
def execFshl (f : Form) (s : State) : Host.Outcome State Fault Refusal :=
  bitOp rowFshl f s fun w a b c => let r := c % w; if r = 0 then a else (a * 2 ^ r + zext b w / 2 ^ (w - r)) % 2 ^ w

/-- The field of BFX (R216). -/
def bfx (ty : Ty) (a b : Nat) : Nat :=
  let w := tyBits ty
  let pos := bitsOf b 0 8
  let len := min (bitsOf b 8 8) w
  let fld := wrap (asInt ty a / ((2 ^ pos : Nat) : Int)) len
  if len = 0 then 0 else if tySigned ty then wrap (sext fld len) w else fld

def execBfx (f : Form) (s : State) : Host.Outcome State Fault Refusal := bitOp rowBfx f s fun _ a b _ => bfx f.ty a b

/-- The insertion of BFI (R216). -/
def bfi (w a b c : Nat) : Nat :=
  let pos := bitsOf b 0 8
  let len := min (bitsOf b 8 8) w
  let mask := (2 ^ len - 1) * 2 ^ pos % 2 ^ w
  (zext c w &&& (2 ^ w - 1 - mask)) ||| (a * 2 ^ pos &&& mask)

def execBfi (f : Form) (s : State) : Host.Outcome State Fault Refusal := bitOp rowBfi f s bfi

def execBrev (f : Form) (s : State) : Host.Outcome State Fault Refusal :=
  bitOp rowBrev f s fun w a _ _ => bitsBy w fun i => a.testBit (w - 1 - i)
def execPopc (f : Form) (s : State) : Host.Outcome State Fault Refusal :=
  bitOp rowPopc f s fun w a _ _ => ((List.range w).map fun i => boolNat (a.testBit i)).sum
def execClz (f : Form) (s : State) : Host.Outcome State Fault Refusal :=
  bitOp rowClz f s fun w a _ _ => if a = 0 then w else w - 1 - Nat.log2 a
def execCtz (f : Form) (s : State) : Host.Outcome State Fault Refusal :=
  bitOp rowCtz f s fun w a _ _ => ((List.range w).takeWhile fun i => !a.testBit i).length

/-- PERM (R218): byte `i` of the result. -/
def permByte (pool c i : Nat) : Nat :=
  let chosen := bitsOf pool (8 * bitsOf c (3 * i) 3) 8
  if c.testBit (12 + i) then (if chosen.testBit 7 then 0xFF else 0) else chosen

def execPerm (f : Form) (s : State) : Host.Outcome State Fault Refusal :=
  bitOp rowPerm f s fun _ a b c => ((List.range 4).map fun i => permByte (a + b * 2 ^ 32) c i * 2 ^ (8 * i)).sum

/-! ## Predicates and addresses (R219 to R221) -/

def execCmp (f : Form) (s : State) : Host.Outcome State Fault Refusal :=
  issue rowCmp f s (computePred rowCmp f fun e s =>
    combine f.op2.toNat (intCond f.sub.toNat (asInt f.ty (e.A s rowCmp f)) (asInt f.ty (e.B s rowCmp f)))
      (operandValue s e f 0 f.c == 1))

def execPlop (f : Form) (s : State) : Host.Outcome State Fault Refusal :=
  issue rowPlop f s (computePred rowPlop f fun e s =>
    tableBit f.imm.toNat (e.A s rowPlop f == 1) (e.B s rowPlop f == 1) (e.C s rowPlop f == 1))

def execPset (f : Form) (s : State) : Host.Outcome State Fault Refusal :=
  issue rowPset f s (computePred rowPset f fun e s => e.A s rowPset f != 0)

/-- The bits of a number at the places of a list, the first lowest. -/
def bitsAt (a : Nat) (ks : List Nat) : Nat := (ks.zipIdx.map fun p => boolNat (a.testBit p.1) * 2 ^ p.2).sum

/-- PSET.BULK: the predicates that bits 0 to 6 of B name; with a DRAIN operand they are pending until they return. -/
def execPsetBulk (f : Form) (s : State) : Host.Outcome State Fault Refusal :=
  issue rowPsetBulk f s fun e s =>
    let a := e.A s rowPsetBulk f
    let ks := (List.range 7).filter fun k => (e.B s rowPsetBulk f).testBit k
    .done (s.modHart e.r fun h =>
      if usesDrain f then h.addResult [] ks (some (BitVec.ofNat 128 (bitsAt a ks))) else ks.foldl (fun h k => h.setPred k (a.testBit k)) h)

/-- PGET. -/
def execPget (f : Form) (s : State) : Host.Outcome State Fault Refusal :=
  issue rowPget f s (compute rowPget f fun e _ => 0x80 + e.h.preds.toNat)

def execLea (f : Form) (s : State) : Host.Outcome State Fault Refusal :=
  issue rowLea f s (compute rowLea f fun e s =>
    wrap ((e.A s rowLea f : Int) + sext (e.B s rowLea f) 32 * ((2 ^ f.sub.toNat : Nat) : Int) + sext f.imm.toNat 32)
      (tyBits f.ty))

/-! ## Conversion, packing, dot product (R222 to R224) -/

def execCvti (f : Form) (s : State) : Host.Outcome State Fault Refusal :=
  issue rowCvti f s (compute rowCvti f fun e s =>
    fit f.ty (f.op2 == 1) (asInt ((Ty.ofCode f.imm.toNat).getD .i32) (e.A s rowCvti f)))

/-- PACK (R223): elements of 2w bits of B:A narrowed to w bits. -/
def packElems (ty : Ty) (sat : Bool) (pool : Nat) : Nat :=
  let w := tyBits ty
  ((List.range (32 / w)).map fun i =>
    let v := sext (bitsOf pool (2 * w * i) (2 * w)) (2 * w)
    wrap (if sat then clampInt v (tyMin ty) (tyMax ty) else v) w * 2 ^ (w * i)).sum

def execPack (f : Form) (s : State) : Host.Outcome State Fault Refusal :=
  issue rowPack f s (compute rowPack f fun e s =>
    packElems f.ty (f.op2 == 1) (e.A s rowPack f + e.B s rowPack f * 2 ^ 32))

/-- UNPACK (R223): elements of w bits widened to 2w bits over a pair. -/
def unpackElems (ty : Ty) (a : Nat) : Nat :=
  let w := tyBits ty
  ((List.range (32 / w)).map fun i => wrap (asInt ty (bitsOf a (w * i) w)) (2 * w) * 2 ^ (2 * w * i)).sum

def execUnpack (f : Form) (s : State) : Host.Outcome State Fault Refusal :=
  issue rowUnpack f s (compute rowUnpack f fun e s => unpackElems f.ty (e.A s rowUnpack f))

/-- DP4 (R224). -/
def dotElems (ty : Ty) (mix : Bool) (a b : Nat) : Int :=
  let w := tyBits ty
  let el (sg : Bool) (v i : Nat) : Int := let u := bitsOf v (w * i) w; if sg then sext u w else (u : Int)
  ((List.range (32 / w)).map fun i => el (tySigned ty) a i * el (tySigned ty != mix) b i).sum

def execDp4 (f : Form) (s : State) : Host.Outcome State Fault Refusal :=
  issue rowDp4 f s (compute rowDp4 f fun e s =>
    let mix := f.op2.toNat.testBit 1
    let acc : Ty := if f.ty == .n8 && !mix then .n32 else .i32
    fit acc (f.op2.toNat.testBit 0) (dotElems f.ty mix (e.A s rowDp4 f) (e.B s rowDp4 f) + asInt acc (e.C s rowDp4 f)))

end Sys2Proof.Machine
end

