-- ==== Sys2Proof/Machine/Special.lean ====
section
/-!
DEFINITION. The special functions whose results the spec bounds and does not fix (01 R36, 11 R243, R244): exact results
where a rule gives them; elsewhere the free value `Config.specialPick` where it lies within the bound, and the correctly
rounded value where it does not (log 21). An exact real result is enclosed by fixed-point arithmetic of 512 bits.
-/
namespace Sys2Proof.Machine

/-- Fraction bits of the fixed-point numbers. -/
def fxBits : Nat := 512
def fxOne : Nat := 2 ^ fxBits
/-- What an enclosure may be off by, in units of its last place. -/
def fxErr : Nat := 2 ^ 24

/-- ⌊π · 2⁵¹²⌋. -/
def fxPi : Nat :=
  0x3243F6A8885A308D313198A2E03707344A4093822299F31D0082EFA98EC4E6C89452821E638D01377BE5466CF34E90C6CC0AC29B7C97C50DD3F84D5B5B5470917

/-- ⌊ln 2 · 2⁵¹²⌋. -/
def fxLn2 : Nat :=
  0xB17217F7D1CF79ABC9E3B39803F2F6AF40F343267298B62D8A0D175B8BAAFA2BE7B876206DEBAC98559552FB4AFA1B10ED2EAE35C138214427573B291169B825

def fxMul (a b : Nat) : Nat := (a * b) >>> fxBits
def fxDiv (a b : Nat) : Nat := (a <<< fxBits) / b

/-- The terms of `exp z` from the k-th on: `term` is z^k/k!. -/
def expTail (z : Nat) : Nat → Nat → Nat → Nat
  | 0, _, _ => 0
  | n + 1, k, term => term + expTail z n (k + 1) (fxMul term z / (k + 1))

/-- `exp z` for `0 ≤ z < 1`. -/
def fxExp (z : Nat) : Nat := expTail z 120 0 fxOne

/-- The terms of `sin` (from k = 1, the term z) or `cos` (from k = 0, the term 1), with alternating signs. -/
def trigTail (z2 : Nat) : Nat → Nat → Int → Nat → Int
  | 0, _, _, _ => 0
  | n + 1, k, sg, term => sg * (term : Int) + trigTail z2 n (k + 2) (-sg) (fxMul term z2 / ((k + 1) * (k + 2)))

/-- `sin z` and `cos z` for `0 ≤ z ≤ π/4`. -/
def fxSin (z : Nat) : Nat := (trigTail (fxMul z z) 70 1 1 z).toNat
def fxCos (z : Nat) : Nat := (trigTail (fxMul z z) 70 0 1 fxOne).toNat

/-- The terms of `atanh z` from the k-th on: `term` is z^k. -/
def atanhTail (z2 : Nat) : Nat → Nat → Nat → Nat
  | 0, _, _ => 0
  | n + 1, k, term => term / k + atanhTail z2 n (k + 2) (fxMul term z2)

/-- `ln m` for `1 ≤ m ≤ 2`. -/
def fxLn (m : Nat) : Nat :=
  let z := fxDiv (m - fxOne) (m + fxOne)
  2 * atanhTail (fxMul z z) 170 1 z

/-- An enclosed magnitude `m · 2^e`, off by at most `fxErr · 2^e`. -/
structure Encl where
  m : Nat
  e : Int
  deriving DecidableEq, Repr

/-- The finite magnitude `m · 2^e` in fixed point, rounded down, for magnitudes below 2^200. -/
def toFx (m : Nat) (e : Int) : Nat :=
  let s := e + fxBits
  if 0 ≤ s then m * 2 ^ s.toNat else m >>> (-s).toNat

/-- `2^y` for a signed `y` in fixed point. -/
def exp2Of (y : Int) : Encl :=
  let k := y / (fxOne : Int)
  let fr := (y % (fxOne : Int)).toNat
  { m := fxExp (fxMul fr fxLn2), e := k - fxBits }

/-- `e^x` for a signed `x` in fixed point. -/
def expOf (x : Int) : Encl := exp2Of (x * (fxOne : Int) / (fxLn2 : Int))

/-- An enclosure in fixed point. -/
def Encl.fx (c : Encl) : Nat := toFx c.m c.e

/-- The magnitude and sign of `sin` or `cos` of the magnitude `m · 2^e`: exact reduction by π/2 (R243). -/
def trigOf (wantCos : Bool) (m : Nat) (e : Int) : Bool × Encl :=
  -- π is known to 2^−512 and the quotient is below 2^130, so the remainder is known to 2^−382.
  let x := toFx m e
  let q := (x * 2) / fxPi
  let q := if x * 2 < q * fxPi then q - 1 else q
  let r := (x * 2 - q * fxPi) / 2
  let n := if wantCos then (q + 1) % 4 else q % 4
  let useCos := n % 2 == 1
  let quarter := fxPi / 4
  let v := if quarter < r then
      (let r' := fxPi / 2 - r; if useCos then fxSin r' else fxCos r')
    else (if useCos then fxCos r else fxSin r)
  (decide (2 ≤ n), { m := v >>> 150, e := 150 - fxBits })

/-- Whether the finite nonnegative pattern lies within `bound` ulp of an enclosed value (R36). -/
def withinUlp (f : Fmt) (bound : Nat) (c : Encl) (y : Nat) : Bool :=
  let top : Int := c.e + (Nat.log2 c.m : Nat) - (f.fbits : Nat)
  let q : Int := if c.m = 0 || top < f.qmin then f.qmin else top
  let (my, ey) := f.finite y
  let e := min (min q ey) c.e
  let diff := (shiftTo my ey e : Int) - (shiftTo c.m c.e e : Int)
  decide (y < f.infBits) && decide (diff.natAbs + shiftTo fxErr c.e e ≤ bound * shiftTo 1 q e)

/-- The free value where it is allowed, else the correctly rounded one. -/
def pickWithin (f : Fmt) (bound code fmtCode x : Nat) (top : Nat) (c : Encl) : Nat :=
  let y := Config.specialPick code fmtCode x
  if withinUlp f bound c y && decide (y ≤ top) then y else min (roundMag f 0 false c.m c.e) top

/-- The bound of a function: 1 ulp in F16 and BF16; in F32 1 ulp for FEXP2 and 2 for the others (R36, R243). -/
def ulpBound (f : Fmt) (isExp2 : Bool) : Nat := if f.fbits = 23 && !isExp2 then 2 else 1

/-- The threshold of R244 beyond which FTANH and FSIGM return ±1, as a pattern. -/
def bigTanh (f : Fmt) : Nat := if f.fbits = 23 then 0x41100000 else if f.fbits = 10 then 0x4480 else 0x4040
def bigSigm (f : Fmt) : Nat := if f.fbits = 23 then 0x41880000 else if f.fbits = 10 then 0x4880 else 0x40C0

/-- The nonzero finite pattern is an integer, with its value. -/
def integralValue (f : Fmt) (b : Nat) : Option Int :=
  let (m, e) := f.finite b
  let v := if 0 ≤ e then m * 2 ^ (min e 20).toNat else m >>> (-e).toNat
  if 0 ≤ e || m % 2 ^ (-e).toNat = 0 then some (if f.sign b then -(v : Int) else (v : Int)) else none

/-- FEXP2. -/
def fexp2 (f : Fmt) (fmtCode b : Nat) : Nat :=
  if f.isNan b then f.quiet b
  else if f.isInf b then (if f.sign b then 0 else b)
  else if f.isZero b then f.oneBits
  else
    match integralValue f b with
    | some v => if v < f.qmin then 0 else roundMag f 0 false 1 (min v 4096)
    | none =>
      let (m, e) := f.finite b
      let y := (toFx m e : Int)
      pickWithin f (ulpBound f true) 0x183 fmtCode b f.infBits (exp2Of (if f.sign b then -y else y))

/-- FLOG2: exact for powers of two, and bounded elsewhere. -/
def flog2 (f : Fmt) (fmtCode : Nat) (t : NanTag) (b : Nat) : Nat :=
  if f.isNan b then f.quiet b
  else if f.isZero b then f.withSign true f.infBits
  else if f.sign b then genNan f t 2
  else if f.isInf b then b
  else
    let (m, e) := f.finite b
    let k := Nat.log2 m
    let ex : Int := e + (k : Nat)
    if m = 2 ^ k then intToFloat f 0 ex
    else
      let fr := fxDiv (fxLn (m * 2 ^ (fxBits - k))) fxLn2
      let v : Int := ex * (fxOne : Int) + (fr : Int)
      f.withSign (v < 0)
        (pickWithin f (ulpBound f false) 0x184 fmtCode b f.maxBits { m := v.natAbs, e := -fxBits })

/-- FSIN and FCOS. -/
def ftrig (f : Fmt) (isCos : Bool) (fmtCode : Nat) (t : NanTag) (b : Nat) : Nat :=
  if f.isNan b then f.quiet b
  else if f.isInf b then genNan f t 4
  else if f.isZero b then (if isCos then f.oneBits else b)
  else
    let (m, e) := f.finite b
    let (neg, c) := trigOf isCos m e
    let y := pickWithin f (ulpBound f false) (if isCos then 0x186 else 0x185) fmtCode (f.mag b) f.oneBits c
    f.withSign (if isCos then neg else neg != f.sign b) y

/-- FTANH. -/
def ftanh (f : Fmt) (fmtCode b : Nat) : Nat :=
  if f.isNan b then f.quiet b
  else if f.isZero b then b
  else if bigTanh f ≤ f.mag b then f.withSign (f.sign b) f.oneBits
  else
    let (m, e) := f.finite b
    let x2 := 2 * toFx m e
    let ex := (expOf x2).fx
    let c : Encl := { m := fxDiv (ex - fxOne) (ex + fxOne), e := -fxBits }
    f.withSign (f.sign b) (pickWithin f (ulpBound f false) 0x187 fmtCode (f.mag b) f.oneBits c)

/-- FSIGM. -/
def fsigm (f : Fmt) (fmtCode b : Nat) : Nat :=
  if f.isNan b then f.quiet b
  else if f.isInf b then (if f.sign b then 0 else f.oneBits)
  else if f.isZero b then f.oneBits - 2 ^ f.fbits
  else if !f.sign b && bigSigm f ≤ f.mag b then f.oneBits
  else
    let (m, e) := f.finite b
    let x := if 16 < e then 2 ^ 16 * fxOne else min (toFx m e) (2 ^ 16 * fxOne)
    let en := (expOf (-(x : Int))).fx
    let c : Encl :=
      if f.sign b then { m := fxDiv en (fxOne + en), e := -fxBits }
      else { m := fxDiv fxOne (fxOne + en), e := -fxBits }
    pickWithin f (ulpBound f false) 0x188 fmtCode b f.oneBits c

end Sys2Proof.Machine
end

