-- ==== Sys2Proof/Machine/FloatOps.lean ====
section
/-!
DEFINITION. The floating-point instructions (11 R229 to R244): opcodes 0x100 to 0x188.
-/
namespace Sys2Proof.Machine

/-- The format of a float type, or of the elements of a packed one. -/
def fmtOf : Ty → Fmt
  | .f16 | .f16x2 => fF16
  | .bf16 | .bf16x2 => fBF16
  | _ => fF32

def isPacked (ty : Ty) : Bool := ty == .f16x2 || ty == .bf16x2

/-- The lane and PC of a generated NaN (01 R28). -/
def Env.tag (e : Env) : NanTag := { lane := if e.steward then 0 else e.h.lane, pc := e.h.pc.toNat }

/-- A scalar operand of the format: its low bits (R227). -/
def low (f : Fmt) (v : Nat) : Nat := v % 2 ^ (f.ebits + f.fbits + 1)

/-- An operation on scalar operands, with `.SAT` of OP2 bit 0. -/
def floatOp (row : OpRow) (f : Form) (s : State) (op : Fmt → Nat → NanTag → Nat → Nat → Nat → Nat) :
    Host.Outcome State Fault Refusal :=
  issue row f s (compute row f fun e s =>
    let t := fmtOf f.ty
    satFloat t (f.op2.toNat.testBit 0)
      (op t f.sub.toNat e.tag (low t (e.A s row f)) (low t (e.B s row f)) (low t (e.C s row f))))

/-- An operation on each element of packed operands; on the scalar for a scalar type. -/
def elemOp (row : OpRow) (f : Form) (s : State) (op : Fmt → NanTag → Nat → Nat → Nat → Nat) :
    Host.Outcome State Fault Refusal :=
  issue row f s (compute row f fun e s =>
    let t := fmtOf f.ty
    let a := e.A s row f
    let b := e.B s row f
    let c := e.C s row f
    if isPacked f.ty then
      op t e.tag (low t a) (low t b) (low t c)
        + 2 ^ 16 * op t e.tag (low t (a / 2 ^ 16)) (low t (b / 2 ^ 16)) (low t (c / 2 ^ 16))
    else op t e.tag (low t a) (low t b) (low t c))

/-! ## Arithmetic (R230 to R232) -/

def execFadd (f : Form) (s : State) : Host.Outcome State Fault Refusal := floatOp rowFadd f s fun t m g a b _ => fadd t m g a b
def execFsub (f : Form) (s : State) : Host.Outcome State Fault Refusal := floatOp rowFsub f s fun t m g a b _ => fsub t m g a b
def execFmul (f : Form) (s : State) : Host.Outcome State Fault Refusal := floatOp rowFmul f s fun t m g a b _ => fmul t m g a b
def execFfma (f : Form) (s : State) : Host.Outcome State Fault Refusal :=
  floatOp rowFfma f s fun t m g a b c => ffma t m g (f.op2.toNat.testBit 1) a b c

def execFadd2 (f : Form) (s : State) : Host.Outcome State Fault Refusal :=
  elemOp rowFadd2 f s fun t g a b _ => satFloat t (f.op2.toNat.testBit 0) (fadd t f.sub.toNat g a b)
def execFmul2 (f : Form) (s : State) : Host.Outcome State Fault Refusal :=
  elemOp rowFmul2 f s fun t g a b _ => satFloat t (f.op2.toNat.testBit 0) (fmul t f.sub.toNat g a b)
def execFfma2 (f : Form) (s : State) : Host.Outcome State Fault Refusal :=
  elemOp rowFfma2 f s fun t g a b c =>
    satFloat t (f.op2.toNat.testBit 0) (ffma t f.sub.toNat g (f.op2.toNat.testBit 1) a b c)

/-- The elements of a dot-product operand, lowest first. -/
def dotElemsOf (n v : Nat) : List Nat := (List.range n).map fun i => bitsOf v (16 * i) 16

/-- The exact product of two elements, in F32 by R34. -/
def dotProduct (t : Fmt) (g : NanTag) (a b : Nat) : Nat := fmul fF32 0 g (fconvert t fF32 0 a) (fconvert t fF32 0 b)

/-- FDOT2 and FDOT4 (R232): the first NaN of A, B, C wins; else the order of R34. -/
def fdot (t : Fmt) (g : NanTag) (n a b c : Nat) : Nat :=
  match (dotElemsOf n a ++ dotElemsOf n b).find? t.isNan with
  | some x => nanConvert t fF32 x
  | none =>
    if fF32.isNan c then fF32.quiet c
    else
      let p (i : Nat) : Nat := dotProduct t g (bitsOf a (16 * i) 16) (bitsOf b (16 * i) 16)
      let add := fadd fF32 0 g
      if n = 2 then add c (add (p 0) (p 1)) else add c (add (add (p 0) (p 2)) (add (p 1) (p 3)))

def execFdot2 (f : Form) (s : State) : Host.Outcome State Fault Refusal :=
  issue rowFdot2 f s (compute rowFdot2 f fun e s =>
    satFloat fF32 (f.op2 == 1) (fdot (fmtOf f.ty) e.tag 2 (e.A s rowFdot2 f) (e.B s rowFdot2 f) (e.C s rowFdot2 f)))
def execFdot4 (f : Form) (s : State) : Host.Outcome State Fault Refusal :=
  issue rowFdot4 f s (compute rowFdot4 f fun e s =>
    satFloat fF32 (f.op2 == 1) (fdot (fmtOf f.ty) e.tag 4 (e.A s rowFdot4 f) (e.B s rowFdot4 f) (e.C s rowFdot4 f)))

/-! ## Ordering, rounding, keys (R233 to R238) -/

def execFmin (f : Form) (s : State) : Host.Outcome State Fault Refusal :=
  elemOp rowFmin f s fun t _ a b _ => fminmax t false (f.op2 == 1) a b
def execFmax (f : Form) (s : State) : Host.Outcome State Fault Refusal :=
  elemOp rowFmax f s fun t _ a b _ => fminmax t true (f.op2 == 1) a b

def execFcmp (f : Form) (s : State) : Host.Outcome State Fault Refusal :=
  issue rowFcmp f s (computePred rowFcmp f fun e s =>
    let t := fmtOf f.ty
    combine f.op2.toNat (fcond t f.sub.toNat (low t (e.A s rowFcmp f)) (low t (e.B s rowFcmp f)))
      (operandValue s e f 0 f.c == 1))

def execFclass (f : Form) (s : State) : Host.Outcome State Fault Refusal :=
  elemOp rowFclass f s fun t _ a _ _ => fclass t a
def execFrnd (f : Form) (s : State) : Host.Outcome State Fault Refusal :=
  elemOp rowFrnd f s fun t _ a _ _ => frnd t f.sub.toNat a
def execFscale (f : Form) (s : State) : Host.Outcome State Fault Refusal :=
  floatOp rowFscale f s fun t m g a b _ => fscale t m g a b
def execFkey (f : Form) (s : State) : Host.Outcome State Fault Refusal :=
  elemOp rowFkey f s fun t _ a _ _ => if f.op2 = 3 then fkeyDec t a else fkey t f.op2.toNat a

/-! ## Quantisation (R239, R240) -/

/-- The product of two F32 numbers rounded to an integer and saturated (R239). -/
def quantNum (ty : Ty) (mode a b : Nat) : Int :=
  let neg := fF32.sign a != fF32.sign b
  let q : Int :=
    if fF32.isInf a || fF32.isInf b then (if neg then tyMin ty else tyMax ty)
    else
      let (ma, ea) := fF32.finite a
      let (mb, eb) := fF32.finite b
      let m : Nat := if 0 ≤ ea + eb then ma * mb * 2 ^ (ea + eb).toNat else roundShift mode neg (ma * mb) (-(ea + eb)).toNat false
      if neg then -(m : Int) else (m : Int)
  clampInt q (tyMin ty) (tyMax ty)

def fquant (ty : Ty) (mode : Nat) (mark : Bool) (g : NanTag) (a b : Nat) : Nat :=
  let nan := fF32.isNan a || fF32.isNan b
  let bad := (fF32.isZero a && fF32.isInf b) || (fF32.isInf a && fF32.isZero b)
  if nan || bad then
    (if mark then genNan fF32 g (if nan then 0x3F else 0x01) else image ty (tyMin ty))
  else
    let q := quantNum ty mode a b
    if mark then intToFloat fF32 0 q else image ty q

def execFquant (f : Form) (s : State) : Host.Outcome State Fault Refusal :=
  issue rowFquant f s (compute rowFquant f fun e s =>
    fquant f.ty f.sub.toNat (f.op2 == 1) e.tag (e.A s rowFquant f) (e.B s rowFquant f))

def execFdeq (f : Form) (s : State) : Host.Outcome State Fault Refusal :=
  issue rowFdeq f s (compute rowFdeq f fun e s =>
    let scale := e.B s rowFdeq f
    if fF32.isNan scale then genNan fF32 e.tag 5
    else mulIntF32 f.sub.toNat e.tag 5 (asInt f.ty (e.A s rowFdeq f)) scale)

/-! ## Conversions (R241, R242) -/

/-- One element or scalar converted, with `.SAT`. -/
def cvtOne (f : Form) (src dst : Fmt) (v : Nat) : Nat :=
  satFloat dst (f.op2.toNat.testBit 0) (fconvert src dst f.sub.toNat (low src v))

def fcvt (f : Form) (a b : Nat) : Nat :=
  let u : Ty := (Ty.ofCode f.imm.toNat).getD .f32
  let src := fmtOf u
  let dst := fmtOf f.ty
  if isPacked f.ty then
    if isPacked u then cvtOne f src dst a + 2 ^ 16 * cvtOne f src dst (a / 2 ^ 16)
    else cvtOne f src dst a + 2 ^ 16 * cvtOne f src dst b
  else if isPacked u then cvtOne f src dst (if f.op2.toNat.testBit 1 then a / 2 ^ 16 else a)
  else cvtOne f src dst a

def execFcvt (f : Form) (s : State) : Host.Outcome State Fault Refusal :=
  issue rowFcvt f s (compute rowFcvt f fun e s => fcvt f (e.A s rowFcvt f) (e.B s rowFcvt f))

def execF2i (f : Form) (s : State) : Host.Outcome State Fault Refusal :=
  issue rowF2i f s (compute rowF2i f fun e s =>
    let src := fmtOf ((Ty.ofCode f.imm.toNat).getD .f32)
    image f.ty (floatToInt src f.sub.toNat (tyMin f.ty) (tyMax f.ty) (low src (e.A s rowF2i f))))

def execI2f (f : Form) (s : State) : Host.Outcome State Fault Refusal :=
  issue rowI2f f s (compute rowI2f f fun e s =>
    intToFloat (fmtOf f.ty) f.sub.toNat (asInt ((Ty.ofCode f.imm.toNat).getD .i32) (e.A s rowI2f f)))

/-! ## Special functions (R243, R244) -/

def execFrcp (f : Form) (s : State) : Host.Outcome State Fault Refusal := elemOp rowFrcp f s fun t _ a _ _ => frcp t a
def execFrsq (f : Form) (s : State) : Host.Outcome State Fault Refusal := elemOp rowFrsq f s fun t g a _ _ => frsq t g a
def execFsqrt (f : Form) (s : State) : Host.Outcome State Fault Refusal := elemOp rowFsqrt f s fun t g a _ _ => fsqrt t g a
def execFexp2 (f : Form) (s : State) : Host.Outcome State Fault Refusal :=
  elemOp rowFexp2 f s fun t _ a _ _ => fexp2 t f.ty.code.toNat a
def execFlog2 (f : Form) (s : State) : Host.Outcome State Fault Refusal :=
  elemOp rowFlog2 f s fun t g a _ _ => flog2 t f.ty.code.toNat g a
def execFsin (f : Form) (s : State) : Host.Outcome State Fault Refusal :=
  elemOp rowFsin f s fun t g a _ _ => ftrig t false f.ty.code.toNat g a
def execFcos (f : Form) (s : State) : Host.Outcome State Fault Refusal :=
  elemOp rowFcos f s fun t g a _ _ => ftrig t true f.ty.code.toNat g a
def execFtanh (f : Form) (s : State) : Host.Outcome State Fault Refusal :=
  elemOp rowFtanh f s fun t _ a _ _ => ftanh t f.ty.code.toNat a
def execFsigm (f : Form) (s : State) : Host.Outcome State Fault Refusal :=
  elemOp rowFsigm f s fun t _ a _ _ => fsigm t f.ty.code.toNat a

end Sys2Proof.Machine
end

