-- ==== Sys2Proof/Machine/MemOps.lean ====
section
/-!
DEFINITION. The memory instructions (13 R273 to R289): opcodes 0x280 to 0x28A. A load reads when it issues; its result
returns by RESULT_RETURN. A store waits in its context until STORE_COMMIT. An atomic is performed when it issues, once
every earlier store of its context has committed (R288).
-/
namespace Sys2Proof.Machine

/-- A failed check: a trap, or the integrity event of a page-table walk (19 R398, 12 R271). -/
def failAccess (s : State) (e : Env) (a : Access) (c : Cause) : Act :=
  if c = .walkUe then .event (meetWalk s e.n (virtAddr e a.space a.addr.toNat)) c else .trap (a.trap e c)

/-- The register image of a loaded value (R274). -/
def loadExt (ty : Ty) : LoadExt :=
  match ty with
  | .i8 => .signed 8
  | .i16 => .signed 16
  | _ => .plain

/-- An operation sent over a link by a context; `dst` is the result that its answer fills, `lay` what is laid over it. -/
def sendFrom (s : State) (e : Env) (link : Nat) (chip : Bool) (a : Nat) (k : LinkKind) (dst : Option Nat)
    (ext : LoadExt := .plain) (lay : List OrdEntry := []) : State :=
  sendLink s
    { link := link, ctx := e.n, who := some e.r, ext := ext, chip := chip, addr := a, kind := k, dst := dst, sent := s.refNs, lay := lay }

/-- A store that has not committed writes bytes of a range, here or at a peer. -/
def Action.meets (peer : Option (Nat × Bool)) (a size : Nat) : Action → Bool
  | .bytes ws _ => peer.isNone && ws.any fun w => decide (a ≤ w.addr) && decide (w.addr < a + size)
  | .remote l chip p k => peer == some (l, chip) && decide (p < a + size) && decide (a < p + linkWritten k)

/-- The place of an access, as an ordered access and a store name it. -/
def Loc.split : Loc → Option (Nat × Bool) × Nat
  | .flat a _ => (none, a)
  | .peer l chip a => (some (l, chip), a)

/-- A store of the context has not committed and writes bytes of a range. -/
def Hart.storesMeet (h : Hart) (l : Loc) (size : Nat) : Bool := h.stores.any fun q => q.act.meets l.split.1 l.split.2 size

/-- The ordered accesses of a context to bytes of a range that are not applied (05 R137). -/
def Env.ordMeeting (e : Env) (l : Loc) (size : Nat) : List OrdEntry :=
  (e.g.pendingOrd e.r.who e.h).filter fun o => o.meets l.split.1 l.split.2 size

/-- A read that passes the checks: the value written as a pending result, or asked of the peer once the context's own writes to
those bytes have gone there (13 R290). -/
def loadAct (s : State) (e : Env) (row : OpRow) (f : Form) (a : Access) (ext : LoadExt) : Act :=
  let s := meetPath s e a
  match checkAccess s e a with
  | .error c => failAccess s e a c
  | .ok l =>
    if acquireHeld s e.r e.h then .hold
    else match l with
    | .flat p _ =>
      let r := readFlat s e f.sub.toNat p a.size
      (match r.2.2 with
      | some c => .event r.2.1 c
      | none => .done (writeDst r.2.1 e row f (ext.apply r.1)))
    | .peer k chip p =>
      if e.h.storesMeet l a.size then .hold
      else .done (sendFrom (markPending s e row f) e k chip p (.read a.size) (some e.h.nextId) ext (e.ordMeeting l a.size))

/-! ## LD, LDP, ST, PF -/

/-- LD (R278). -/
def execLd (f : Form) (s : State) : Host.Outcome State Fault Refusal :=
  issue rowLd f s fun e s =>
    let n := Ty.size f.ty
    loadAct s e rowLd f
      { space := f.op2.toNat, addr := memAddr s e rowLd f n (sext f.imm.toNat 32), size := n, write := false
        far := farBase s e rowLd f, need := needRead }
      (loadExt f.ty)

/-- LDP (R279). -/
def execLdp (f : Form) (s : State) : Host.Outcome State Fault Refusal :=
  issue rowLdp f s fun e s =>
    loadAct s e rowLdp f
      { space := f.op2.toNat, addr := memAddr s e rowLdp f 16 (sext f.imm.toNat 32), size := 16, write := false
        far := farBase s e rowLdp f, need := needRead }
      .plain

/-- The words of ordered accesses in the open batch of a group (05 R140). -/
def Group.batchWords (g : Group) : Nat := (g.harts.map fun p => (p.2.ord.map fun o => o.words).sum).sum

/-- The number of a group's spill slot in the spill area of its context (17 R361). -/
def spillSlot (s : State) (g : Group) : Nat := 128 * s.relCluster (s.ctx g.ctx).part g.cluster + 16 * g.core + g.stewardSlot

/-- The address of the place of entry `k` of a batch in the spill slot; none beyond SPILL_LEN. -/
def spillAddr (s : State) (g : Group) (k : Nat) : Option Nat :=
  if spillSlot s g < (s.ctx g.ctx).spillLen then some ((s.ctx g.ctx).spillBase + 65536 * spillSlot s g + 16 * k) else none

/-- An entry beyond the 256 of the buffer goes to the spill slot, in an internal form of 16 bytes (log 22). -/
def spillEntry (s : State) (g : Group) (k : Nat) : Option State :=
  (spillAddr s g k).bind fun a =>
    writePf { s with free := s.free + 1 } a 16 (natOfLe ((List.range 16).map (Config.imageByte s.free)))

/-- An ordered access placed in the buffer (05 R137, R140); a store is a region boundary there under IL1 and IL2. -/
def bufferOrd (s : State) (e : Env) (o : OrdEntry) : Act :=
  let words := e.g.batchWords + o.words
  let s1 := s.modHart e.r fun h => { h with ord := h.ord ++ [o] }
  let done (s : State) : Act := .done (if o.kind.isRight && e.gr.level != 0 then boundaryAfter s e else s)
  if 4096 < words then .raw (killGroup s1 e.r.group .ordOverflow e.h.pc.toNat 0 e.h.quad)
  else if words ≤ 256 || o.words = 0 then done s1
  else match spillEntry s1 e.g (words - 1) with
    | some s2 => done s2
    | none => .raw (killGroup s1 e.r.group .saveFault e.h.pc.toNat 0 e.h.quad)

/-- An ordered access of the context of the environment to a place. -/
def Env.ordEntry (e : Env) (a : Access) (l : Loc) (kind : AtomKind ⊕ Nat) : OrdEntry :=
  { space := a.space, addr := a.addr.toNat, size := a.size, mask := 0xFF, kind := kind, flat := l.split.2, peer := l.split.1
    dst := none, words := 1, lane := e.tag.lane, pc := e.h.pc, region := e.h.regionNo, rng := e.h.rng }

/-- A store that passes the checks: into the context's queue, or the ordered buffer. A steward has no space `p` (03 R78). -/
def storeAct (s : State) (e : Env) (sub : Nat) (ord : Bool) (a : Access) (v : Nat) (mask : Byte) : Act :=
  if ord && e.det && !e.steward && a.space == 0 then .trap (a.trap e .ordSpace)
  else
    let s := meetPath s e a
    match checkAccess s e a with
    | .error c => failAccess s e a c
    | .ok l =>
      if acquireHeld s e.r e.h then .hold
      else if ord && e.det then
        if (e.gr.level != 0 && !e.h.stores.isEmpty) || e.h.storesMeet l a.size then .hold
        else bufferOrd s e { e.ordEntry a l (.inr v) with mask := mask }
      else
        let act : Action := match l with
          | .flat p host =>
            .bytes (if mask = 0xFF then wholeBytes p (bytesOfNat a.size v) else [{ addr := p, val := BitVec.ofNat 8 v, mask := mask }])
              (storesHome a.space sub host)
          | .peer k chip p =>
            .remote k chip p (if mask = 0xFF then .write (bytesOfNat a.size v) else .nibble (BitVec.ofNat 8 v) mask)
        .done (pushStore s e.r e.gr.level a.space act)

/-- ST (R280, R281). -/
def execSt (f : Form) (s : State) : Host.Outcome State Fault Refusal :=
  issue rowSt f s fun e s =>
    let n := Ty.size f.ty
    storeAct s e f.sub.toNat (f.d == .x 1)
      { space := f.op2.toNat, addr := memAddr s e rowSt f n (sext f.imm.toNat 32), size := n, write := true
        far := farBase s e rowSt f, need := needWrite }
      (e.C s rowSt f) 0xFF

/-- PF (R282): the bounds and alignment checks, and nothing a program can see. -/
def execPf (f : Form) (s : State) : Host.Outcome State Fault Refusal :=
  issue rowPf f s fun e s =>
    let n := Ty.size f.ty
    let a : Access :=
      { space := f.op2.toNat, addr := memAddr s e rowPf f n (sext f.imm.toNat 32), size := n, write := false, need := needRead }
    if farBase s e rowPf f || !inBounds s e a.space a.addr then .trap (a.trap e .spaceBounds)
    else if a.addr.toNat % n != 0 then .trap (a.trap e .misalign)
    else .done s

/-! ## LDT, STT (R283, R284) -/

/-- The element that a tensor access names, its store with it; OUTSIDE; or the first failing check before R119. -/
inductive Element
  | at (store : BitVec 1024) (addr : Int) (odd : Bool) | outside (pad : Nat) | trap (c : Cause)
  deriving DecidableEq, Repr

def findElement (s : State) (e : Env) (f : Form) (tid : Nat) : Element :=
  if 255 < tid then .trap .tidInvalid
  else
    let c := s.ctx e.n
    let view := c.desc tid
    match storeOf c.desc view with
    | none => .trap .tidInvalid
    | some store =>
      let first := coordBase f.a
      let r := Desc.rank view
      let regs := (List.range r).map (first + ·)
      if !e.steward && decide (e.xregs < first + r) then .trap .regalloc
      else if e.steward && decide (128 < first + r) then .trap .illopnd
      else if !(f.ty.code.toNat == Desc.fmt store || (Desc.fmt store == 14 && f.ty == .n8)) then .trap .tensorGeom
      else
        match resolveTensor c.desc view (regs.map fun k => sext (regsGet e.h.regs k 1) 32) with
        | .at a odd => .at store a odd
        | .outside => .outside (Desc.pad view % 2 ^ elemBits (Desc.fmt store))
        | .trap c => .trap c

/-- The value of the element in a loaded byte or word (01 R20). -/
def elementExt (store : BitVec 1024) (ty : Ty) (odd : Bool) : LoadExt :=
  if Desc.fmt store = 14 then .nibble odd else loadExt ty

/-- LDT (R284). PAD has 32 bits; an OUTSIDE read takes as many low bits of it as the element has, 4 of an N4 read as N8, and extends it
with zeros for a 64-bit element (DESIGN CHOICE, log 83). -/
def execLdt (f : Form) (s : State) : Host.Outcome State Fault Refusal :=
  issue rowLdt f s fun e s =>
    match findElement s e f (e.B s rowLdt f) with
    | .trap c => .trap { cause := c, pc := 0 }
    | .outside pad => .done (writeDst s e rowLdt f ((loadExt f.ty).apply (pad % 2 ^ (8 * Ty.size f.ty))))
    | .at store a odd =>
      loadAct s e rowLdt f { space := Desc.space store, addr := a, size := Ty.size f.ty, write := false, need := needRead }
        (elementExt store f.ty odd)

/-- STT (R284). A trap that comes before an address exists carries WRITE = 0, since no access faults (DESIGN CHOICE, log 90). -/
def execStt (f : Form) (s : State) : Host.Outcome State Fault Refusal :=
  issue rowStt f s fun e s =>
    match findElement s e f (e.B s rowStt f) with
    | .trap c => .trap { cause := c, pc := 0 }
    | .outside _ => .done s
    | .at store a odd =>
      let v := e.C s rowStt f
      let nib := Desc.fmt store == 14
      storeAct s e f.sub.toNat (f.d == .x 1)
        { space := Desc.space store, addr := a, size := Ty.size f.ty, write := true, need := needWrite }
        (if !nib then v else if odd then v % 16 * 16 else v % 16) (if nib then (if odd then 0xF0 else 0x0F) else 0xFF)

/-! ## Atomics (R285 to R289) -/

/-- An atomic on host memory or on a peer is carried only where 20 R411 and R412 say so. -/
def atomNeed (red : Bool) (k : AtomKind) : Need :=
  let int (ty : Ty) : Bool := ty != .f32
  let host := match k with
    | .cas .. => true
    | .op code ty _ => int ty && (code == 0 || (!red && code == 6))
    | .signal => true
  let peer := red && (match k with | .cas .. => false | .op code ty _ => int ty || code == 0 | .signal => true)
  { perm := 3, host := host, peer := peer }

/-- ATOM, ACAS and RED once issued: the checks; then, when every earlier store of the context has committed, the
operation at its home, in the ordered buffer, or at the peer. One at a narrower scope follows the context's own ordered accesses
to its bytes (R290), outside the count of the buffer. -/
def atomAct (s : State) (e : Env) (row : OpRow) (f : Form) (k : AtomKind) : Act :=
  let n := Ty.size f.ty
  let red := row.opc == 0x28A
  let a : Access :=
    { space := f.op2.toNat, addr := memAddr s e row f n (sext f.imm.toNat 28), size := n, write := true, atomic := true
      far := farBase s e row f, need := atomNeed red k }
  let s := meetPath s e a
  match checkAccess s e a with
  | .error c => failAccess s e a c
  | .ok l =>
    if !e.h.stores.isEmpty || acquireHeld s e.r e.h then .hold
    else if e.det && (wideScope f.sub.toNat || !(e.ordMeeting l n).isEmpty) then
      let s1 := (if red then s else markPending s e row f).modHart e.r Hart.nextSerial
      let dst := if red then none else ((s1.hart? e.r).bind fun h => h.results.getLast?)
      bufferOrd s1 e { e.ordEntry a l (.inl k) with dst := dst, words := if wideScope f.sub.toNat then 1 else 0 }
    else
      match l with
      | .flat p host =>
        let m := meetMemory s e.n p
        (match m.2 with
        | some c => .event m.1 c
        | none =>
          let r := performAtomic m.1 e.g.coreNo k p (storesHome a.space f.sub.toNat host) e.tag
          .done (boundaryAfter (writeDst r.1 e row f r.2) e))
      | .peer link chip p =>
        let kind : LinkKind := match k with
          | .op code ty c => .red code ty (BitVec.ofNat 64 c) e.tag.lane e.h.pc.toNat
          | .signal => .signal
          | .cas .. => .read 0
        .done (boundaryAfter (sendFrom s e link chip p kind none) e)

/-- The operation of ATOM and RED, by IMM[31:28]. -/
def atomKind (s : State) (e : Env) (row : OpRow) (f : Form) : AtomKind :=
  .op (bitsOf f.imm.toNat 28 4) f.ty (e.C s row f)

def execAtom (f : Form) (s : State) : Host.Outcome State Fault Refusal :=
  issue rowAtom f s fun e s => atomAct s e rowAtom f (atomKind s e rowAtom f)

def execAcas (f : Form) (s : State) : Host.Outcome State Fault Refusal :=
  issue rowAcas f s fun e s => atomAct s e rowAcas f (.cas (Ty.size f.ty) (e.D s rowAcas f) (e.C s rowAcas f))

def execRed (f : Form) (s : State) : Host.Outcome State Fault Refusal :=
  issue rowRed f s fun e s => atomAct s e rowRed f (atomKind s e rowRed f)

end Sys2Proof.Machine
end

