-- ==== Sys2Proof/Machine/Control.lean ====
section
/-!
DEFINITION. Control instructions (12 R248 to R258): branches, the end of a context, yielding and sleeping, RECONV,
REGION, TRAP, BKPT and TRET; opcodes 0x200 to 0x20C.
-/
namespace Sys2Proof.Machine

/-! ## Branches (R248) -/

/-- The target of a PC-relative branch. -/
def relTarget (e : Env) (f : Form) : Word := e.h.pc + f.imm

def execBra (f : Form) (s : State) : Host.Outcome State Fault Refusal :=
  issue rowBra f s fun e s => .jump (relTarget e f) s

def execBrx (f : Form) (s : State) : Host.Outcome State Fault Refusal :=
  issue rowBrx f s fun e s => .jump (BitVec.ofNat 32 (e.A s rowBrx f) + f.imm) s

def execCall (f : Form) (s : State) : Host.Outcome State Fault Refusal :=
  issue rowCall f s fun e s => .jump (relTarget e f) (writeDst s e rowCall f (e.h.pc + 12).toNat)

def execRet (f : Form) (s : State) : Host.Outcome State Fault Refusal :=
  issue rowRet f s fun e s => .jump (BitVec.ofNat 32 (e.A s rowRet f)) s

def execBrdec (f : Form) (s : State) : Host.Outcome State Fault Refusal :=
  issue rowBrdec f s fun e s =>
    let v := e.A s rowBrdec f
    let s' := writeDst s e rowBrdec f (v - 1)
    if 1 < v then .jump (relTarget e f) s' else .done s'

/-! ## EXIT (R249; 02 R55, 03 R90) -/

/-- Members that wait in an instance leave it with a trap (04 R114), in the order in which they arrived, the arriving thread last: the
first whose trap kills the group gives the kill record its PC and cause (DESIGN CHOICE, log 107). -/
def trapMembers (s : State) (key : Nat) (cause : Cause) : List Nat → State
  | [] => s
  | t :: ts =>
    let r : CtxRef := { group := key, who := .thread t }
    let s := match s.hart? r with
      | some h => settlePeers (raiseTrap s r { cause := cause, pc := h.pc, insn := h.insn })
      | none => s
    trapMembers s key cause ts

/-- The instance faults and is dissolved. -/
def dissolve (s : State) (key : Nat) (cause : Cause) (i : Rdv) : State :=
  trapMembers (s.modGroup key fun g => { g with rdvs := g.rdvs.filter fun x => x != i }) key cause (i.arrivals.map fun a => a.tid)

def dissolveAll (s : State) (key : Nat) (cause : Cause) : List Rdv → State
  | [] => s
  | i :: is => dissolveAll (dissolve s key cause i) key cause is

/-- A member's RECONV wait ends with a value (04 R116): the predicate returns as a result. The member is present until the end
of this cycle. -/
def endReconv (s : State) (r : CtxRef) (now : Nat) (v : Bool) : State :=
  match s.hart? r with
  | some h =>
    (match h.wait with
    | .reconv _ _ pd =>
      completeWait (s.modHart r fun h =>
        { h.addResult [] (if pd = 7 then [] else [pd]) (some (BitVec.ofNat 128 (boolNat v))) with reconvAt := some (h.pc, now) }) r
    | _ => s)
  | none => s

/-- RECONV waiters of the group that name a thread that has exited; a wait does not outlast its limit. -/
def exitReconv (s : State) (key tid now : Nat) : List (Who × Hart) → State
  | [] => s
  | (w, h) :: rest =>
    let s := match w, h.wait with
      | .thread t, .reconv mask deadline _ =>
        if h.status = .blocked && t / 64 == tid / 64 && mask.toNat.testBit (tid % 64)
        then endReconv s { group := key, who := w } (min now deadline) false else s
      | _, _ => s
    exitReconv s key tid now rest

/-- Threads that wait in DQPOP when the steward exits (03 R83). -/
def drainQueue (s : State) (key : Nat) : List (Who × Hart) → State
  | [] => s
  | (w, h) :: rest =>
    let s := if h.status = .blocked && h.wait == .dqpop then
        settlePeers (raiseTrap s { group := key, who := w } { cause := .dqDrained, pc := h.pc, insn := h.insn })
      else s
    drainQueue s key rest

/-- Entries that every live thread has popped are freed; a steward held by a full queue goes on (03 R82, R83). -/
def freeEntries (g : Group) : Group :=
  let live := g.threads.filter fun h => h.status != .exited
  let low := match live with
    | [] => g.dqBase + g.dq.length
    | h :: hs => hs.foldl (fun m x => min m x.dqRead) h.dqRead
  let n := low - g.dqBase
  let g := { g with dq := g.dq.drop n, dqBase := g.dqBase + min n g.dq.length }
  if g.dq.length < 32 && g.steward.status == .blocked && g.steward.wait == .dqpush
  then { g with steward := wakeHart g.steward } else g

/-- Every context of the group has exited: it retires (03 R87). -/
def settleRetiring (s : State) (key : Nat) : State :=
  s.modGroup key fun g =>
    if (g.state == .resident || g.state == .waiting) && g.harts.all fun p => p.2.status == .exited
    then { g with state := .retiring, timer := none } else g

/-- An EXIT whose conditions hold is complete. -/
def completeExit (s : State) (r : CtxRef) : State :=
  match s.group? r.group with
  | none => s
  | some g =>
    let s := s.modHart r fun h => { h with status := .exited, exiting := false, wait := .none }
    let s := s.modGroup r.group fun g => { g with arrived := some (s.clusterCycles g.cluster) }
    let s := match s.grid? g.grid with
      | some gr => if 1 < Hdr.cgroup gr.header then flushL1 s g.coreNo else s
      | none => s
    let s := match r.who with
      | .thread t =>
        let hit := g.rdvs.filter fun i => i.set == t / 64 && i.mask.toNat.testBit (t % 64)
        let s := dissolveAll s r.group .rdvExited hit
        let s := match s.group? r.group with
          | some g => exitReconv s r.group t (s.clusterCycles g.cluster) g.harts
          | none => s
        settlePeers (s.modGroup r.group freeEntries)
      | .steward =>
        match s.group? r.group with
        | some g => drainQueue s r.group g.harts
        | none => s
    let s := settleMark s r.group
    let s := settleRetiring s r.group
    settleWaiting (settleSwitch s r.group) r.group

/-- The conditions of R55 and R90; an exit is a release too (04 R106), so that what went over a link has been answered. -/
def exitReady (s : State) (r : CtxRef) : Bool :=
  match s.group? r.group, s.hart? r with
  | some g, some h =>
    h.exiting && !g.rollback && g.image.isNone && h.results.isEmpty && h.stores.isEmpty && !linkBusy s r
      && (!Who.isSteward r.who || (s.cmdsOf r.group g).isEmpty)
  | _, _ => false

def tryExit (s : State) (r : CtxRef) : State := if exitReady s r then completeExit s r else s

def execExit (f : Form) (s : State) : Host.Outcome State Fault Refusal :=
  issue rowExit f s fun e s =>
    let s := s.modHart e.r fun h =>
      { h.issued f (s.clusterCycles e.g.cluster) with
        status := .parked, parkS := false, exiting := true, insn := wordOf rowExit f }
    let s := if e.det then settleSwitch s e.r.group else s
    .raw (tryExit s e.r)

/-! ## YIELD and SLEEP (R250, R251) -/

/-- YIELD: off the port for 8 cycles; in a `.det` kernel, parked until the group is next chosen to run. -/
def yieldAct (s : State) (e : Env) (f : Form) (w : IWord) (on : Wait) : Act :=
  if !e.det then .done (s.modHart e.r fun h => { h with yieldExcl := some (s.clusterCycles e.g.cluster) })
  else
    let s := s.modHart e.r fun h =>
      { afterIssue e f w (s.clusterCycles e.g.cluster) none h with status := .parked, yielded := true, wait := on }
    .raw (settleSwitch s e.r.group)

def execYield (f : Form) (s : State) : Host.Outcome State Fault Refusal :=
  issue rowYield f s fun e s => yieldAct s e f (wordOf rowYield f) .none

def execSleep (f : Form) (s : State) : Host.Outcome State Fault Refusal :=
  issue rowSleep f s fun e s =>
    let ns := e.A s rowSleep f
    if ns = 0 then yieldAct s e f (wordOf rowSleep f) .none else .block (.sleep (s.refNs + ns)) s

/-- OFLUSH (05 R141). -/
def execOflush (f : Form) (s : State) : Host.Outcome State Fault Refusal :=
  issue rowOflush f s fun e s => if e.det then yieldAct s e f (wordOf rowOflush f) .oflush else .done s

/-! ## RECONV (R252, 04 R116) and REGION (R253) -/

/-- A thread is present at the RECONV of a PC: it waits there, in time, or its wait has ended in this cycle. -/
def presentAt (s : State) (g : Group) (pc : Word) (set i : Nat) : Bool :=
  match g.threads[64 * set + i]? with
  | some h => h.reconvAt == some (pc, s.clusterCycles g.cluster) || (h.status == .blocked && h.pc == pc
      && (match h.wait with | .reconv _ d _ => decide (s.clusterCycles g.cluster ≤ d) | _ => false))
  | none => false

/-- Every other thread that a mask names is present, the arriving one included. -/
def reconvMet (s : State) (g : Group) (pc : Word) (set self arriving : Nat) (mask : BitVec 64) : Bool :=
  (List.range 64).all fun i => !mask.toNat.testBit i || i == self || i == arriving || presentAt s g pc set i

/-- Waiters whose mask an arrival satisfies. -/
def releaseReconv (s : State) (key : Nat) (g : Group) (pc : Word) (set arriving : Nat) : List (Who × Hart) → State
  | [] => s
  | (w, h) :: rest =>
    let s' := match w, h.wait with
      | .thread t, .reconv mask _ _ =>
        if t / 64 == set && presentAt s g pc set (t % 64) && reconvMet s g pc set (t % 64) arriving mask
        then endReconv s { group := key, who := w } (s.clusterCycles g.cluster) true else s
      | _, _ => s
    releaseReconv s' key g pc set arriving rest

def execReconv (f : Form) (s : State) : Host.Outcome State Fault Refusal :=
  issue rowReconv f s fun e s =>
    let mask := BitVec.ofNat 64 (e.A s rowReconv f)
    let self := e.tid % 64
    let set := e.tid / 64
    let gone := (List.range 64).any fun i => mask.toNat.testBit i
      && (decide (Hdr.threads e.hdr ≤ 64 * set + i) || (match e.g.threads[64 * set + i]? with
          | some h => h.status == .exited | none => true))
    if !mask.toNat.testBit self then .trap { cause := .rdvSelfOmitted, pc := 0 }
    else if e.det then .done (writePred s e rowReconv f f.d false)
    else
      let now := s.clusterCycles e.g.cluster
      let s' := releaseReconv s e.r.group e.g e.h.pc set self e.g.harts
      if gone || reconvMet s e.g e.h.pc set self self mask then
        .done ((writePred s' e rowReconv f f.d (!gone)).modHart e.r fun h => { h with reconvAt := some (e.h.pc, now) })
      else
        let pd := match f.d with | .p k => k.val | _ => 7
        .block (.reconv mask (now + f.imm.toNat) pd) s'

def execRegion (f : Form) (s : State) : Host.Outcome State Fault Refusal :=
  issue rowRegion f s fun e s => if e.h.stores.isEmpty then .done (boundaryAfter s e) else .hold

/-! ## Traps taken on purpose, and the return (R254, R258) -/

def execTrap (f : Form) (s : State) : Host.Outcome State Fault Refusal :=
  issue rowTrap f s fun _ _ => .trap { cause := .swtrap, pc := 0, aux := f.imm }

def execBkpt (f : Form) (s : State) : Host.Outcome State Fault Refusal :=
  issue rowBkpt f s fun _ _ => .trap { cause := .bkpt, pc := 0 }

/-- Chunks of 16 bytes of the frame, each with its number: of the device's memory, or as a peer has returned them; none where one
cannot be read. -/
def readChunks (s : State) (e : Env) : List (Loc × Nat) → State × Option (List Byte)
  | [] => (s, some [])
  | (.peer .., k) :: ls =>
    match (mapFind e.h.frame k).bind fun p => p.2, readChunks s e ls with
    | some v, (s', some bs) => (s', some (bytesOfNat 16 v.toNat ++ bs))
    | _, (s', _) => (s', none)
  | (.flat a _, _) :: ls =>
    let m := meetSpan s e.n a 16
    match m.2, readChunks m.1 e ls with
    | none, (s', some bs) => (s', some (memBytes (hartView s e.g e.r.who e.h true) a 16 ++ bs))
    | _, (s', _) => (s', none)

/-- The frame read back; none where it cannot be read. -/
def readFrame (s : State) (e : Env) (ls : List Loc) : State × Option (List Byte) := readChunks s e ls.zipIdx

/-- The chunks of the frame that lie at peers are asked of them, each as an outstanding result that no register takes. -/
def askFrame (s : State) (e : Env) (ls : List Loc) : State :=
  ls.zipIdx.foldl (fun s p => match p.1 with
    | .flat .. => s
    | .peer k chip a =>
      let id := match s.hart? e.r with | some h => h.nextId | none => 0
      let s := s.modHart e.r fun h => { h.addResult [] [] none with frame := mapPut h.frame p.2 (id, none) }
      sendFrom s e k chip a (.read 16) (some id) .plain (e.ordMeeting p.1 16)) s

/-- Some chunk of the frame lies at a peer. -/
def framePeers (ls : List Loc) : List Loc := ls.filter fun l => l matches .peer ..

/-- The context that a frame restores (R258). -/
def restoreFrame (xregs fr : Nat) (h : Hart) : Hart :=
  let h := (List.range 8).foldl (fun h i => if 56 + i < xregs then h.setRegs (56 + i) 1 (bitsOf fr (256 + 32 * i) 32) else h) h
  { h with preds := BitVec.ofNat 7 (bitsOf fr 512 7), handler := false, pc := BitVec.ofNat 32 (bitsOf fr 0 32) }

/-- TRET. It parks while results are outstanding, and is met again when they have returned; it reads what lies of the frame at a peer
over the link, parked until that has returned too (20 R412; log 47). It clears the spin detector, as a trap does (DESIGN CHOICE,
log 79). -/
def execTret (f : Form) (s : State) : Host.Outcome State Fault Refusal :=
  issue rowTret f s fun e s =>
    let w := wordOf rowTret f
    let fault (s : State) : Act := .raw (killGroup s e.r.group .frameFault e.h.pc.toNat 0 e.h.quad)
    let va := privBase e.gr e.g.index e.tid + Hdr.privBytes e.hdr
    let park (s : State) : Act :=
      let s := s.modHart e.r fun h => { h with status := .parked, parkS := true, insn := w }
      .raw (if e.det then settleSwitch s e.r.group else s)
    if !e.h.handler then .trap { cause := .tretState, pc := 0 }
    else if !e.h.results.isEmpty then park s
    else
      let s := walkFrame s e.g.coreNo e.n va 16
      match frameChunks s e.g va needRead 16 with
      | none => fault (meetFrame s e.n va 16)
      | some ls =>
        if e.h.frame.isEmpty && !(framePeers ls).isEmpty then
          (if (framePeers ls).any fun l => e.h.storesMeet l 16 then .hold else park (askFrame s e ls))
        else match readFrame s e ls with
        | (s', none) => fault s'
        | (s', some bs) =>
          let s' := s'.modHart e.r fun h =>
            restoreFrame e.xregs (natOfLe bs)
              { afterIssue e f w (s.clusterCycles e.g.cluster) none h with spin := { last := none, count := 0 }, frame := [] }
          match s'.hart? e.r with
          | some h => .raw (if e.gr.level < 2 then s' else recordOf s' e.r 3 [h.pc.toNat])
          | none => .raw s'

end Sys2Proof.Machine
end

