-- ==== Sys2Proof/Machine/Sync.lean ====
section
/-!
DEFINITION. Synchronisation (04 R102 to R117, 12 R259 to R266): rendezvous, barriers, FENCE, WAITA and TRIG; opcodes
0x210 to 0x222; and the happenings that complete rendezvous, barriers and bounded reconvergence.
-/
namespace Sys2Proof.Machine

/-! ## Rendezvous: arrival (R111, R112, R114, R259) -/

/-- The mask names a thread that does not exist or has exited. -/
def namesGone (e : Env) (mask : BitVec 64) : Bool :=
  (List.range 64).any fun i => mask.toNat.testBit i
    && (decide (Hdr.threads e.hdr ≤ 64 * (e.tid / 64) + i)
        || (match e.g.threads[64 * (e.tid / 64) + i]? with | some h => h.status == .exited | none => true))

/-- The instance that a first arrival opens. -/
def openRdv (e : Env) (row : OpRow) (f : Form) (mask : BitVec 64) : Rdv :=
  { set := e.tid / 64, opc := row.opc.toNat, ty := f.ty, sub := f.sub.toNat, op2 := f.op2.toNat, mask := mask, arrivals := [] }

/-- Equal keys (R112). -/
def Rdv.sameKey (i j : Rdv) : Bool :=
  i.opc == j.opc && i.ty == j.ty && i.sub == j.sub && i.op2 == j.op2 && i.mask == j.mask

def Rdv.overlaps (i j : Rdv) : Bool := i.set == j.set && i.mask &&& j.mask != 0

/-- Every named member has arrived. -/
def Rdv.complete (i : Rdv) : Bool :=
  (List.range 64).all fun k => !i.mask.toNat.testBit k || i.arrivals.any fun a => a.tid == 64 * i.set + k

/-- An arrival at a rendezvous instruction. An instance at which every member has arrived is not open: of two overlapping arrivals of
one cycle the lower TID's, where its mask names itself alone, completes (R112), and the other opens an instance (R117 row 8 has both
trap; DESIGN CHOICE, log 106). -/
def rdvAct (s : State) (e : Env) (row : OpRow) (f : Form) : Act :=
  let mask := BitVec.ofNat 64 (e.A s row f)
  if !mask.toNat.testBit (e.tid % 64) then .trap { cause := .rdvSelfOmitted, pc := 0 }
  else if namesGone e mask then .trap { cause := .rdvExited, pc := 0 }
  else
    let i := openRdv e row f mask
    let me : Arrival :=
      { tid := e.tid, b := e.B s row f, c := e.C s row f, p := e.B s row f == 1, form := f }
    let met := e.g.rdvs.filter fun j => i.overlaps j && !j.complete
    if met.isEmpty then
      .block .rdv (s.modGroup e.r.group fun g => { g with rdvs := g.rdvs ++ [{ i with arrivals := [me] }] })
    else if met.all i.sameKey then
      .block .rdv (s.modGroup e.r.group fun g =>
        { g with rdvs := g.rdvs.map fun j => if met.contains j then { j with arrivals := j.arrivals ++ [me] } else j })
    else
      .raw (raiseTrap (dissolveAll s e.r.group .rdvMaskMismatch met) e.r
        { cause := .rdvMaskMismatch, pc := e.h.pc, insn := wordOf row f })

def execRdv (f : Form) (s : State) : Host.Outcome State Fault Refusal := issue rowRdv f s fun e s => rdvAct s e rowRdv f
def execRshfl (f : Form) (s : State) : Host.Outcome State Fault Refusal := issue rowRshfl f s fun e s => rdvAct s e rowRshfl f
def execRvote (f : Form) (s : State) : Host.Outcome State Fault Refusal := issue rowRvote f s fun e s => rdvAct s e rowRvote f
def execRvoteBallot (f : Form) (s : State) : Host.Outcome State Fault Refusal :=
  issue rowRvoteBallot f s fun e s => rdvAct s e rowRvoteBallot f
def execRred (f : Form) (s : State) : Host.Outcome State Fault Refusal := issue rowRred f s fun e s => rdvAct s e rowRred f
def execRscan (f : Form) (s : State) : Host.Outcome State Fault Refusal := issue rowRscan f s fun e s => rdvAct s e rowRscan f
def execRrank (f : Form) (s : State) : Host.Outcome State Fault Refusal := issue rowRrank f s fun e s => rdvAct s e rowRrank f

/-! ## Rendezvous: completion (R113, R260 to R262) -/

/-- One step of a combination (R262). -/
def reduceOp (ty : Ty) (op : Nat) (tag : NanTag) (a b : Nat) : Nat :=
  let w := tyBits ty
  match op with
  | 0 => if ty == .f32 then fadd fF32 0 tag a b else (a + b) % 2 ^ w
  | 1 => if ty == .f32 then fminmax fF32 false false a b else if asInt ty b < asInt ty a then b else a
  | 2 => if ty == .f32 then fminmax fF32 true false a b else if asInt ty a < asInt ty b then b else a
  | 3 => a &&& b
  | 4 => a ||| b
  | _ => a ^^^ b

/-- What the member ranked 0 gets under .EXCL. -/
def reduceIdentity (ty : Ty) (op : Nat) : Nat :=
  match op with
  | 0 => if ty == .f32 then 0x80000000 else 0
  | 1 => if ty == .f32 then 0x7F800000 else wrap (tyMax ty) (tyBits ty)
  | 2 => if ty == .f32 then 0xFF800000 else wrap (tyMin ty) (tyBits ty)
  | 3 => 2 ^ tyBits ty - 1
  | _ => 0

/-- One round of the tree: neighbours combined. -/
def treeRound (op : Nat → Nat → Nat) : List Nat → List Nat
  | a :: b :: rest => op a b :: treeRound op rest
  | l => l

/-- The fixed tree over member rank; 64 members take at most six rounds. -/
def treeReduce (op : Nat → Nat → Nat) : Nat → List Nat → Nat
  | 0, l => l.headD 0
  | n + 1, l => treeReduce op n (treeRound op l)

/-- The values accumulated through each rank, left to right. -/
def scanList (op : Nat → Nat → Nat) : Nat → List Nat → List Nat
  | _, [] => []
  | acc, x :: xs => op acc x :: scanList op (op acc x) xs

/-- The members' arrivals in ascending TID. -/
def Rdv.members (i : Rdv) : List Arrival :=
  ((List.range 64).filterMap fun k => i.arrivals.find? fun a => a.tid == 64 * i.set + k)

/-- A member's result (R260 to R262). -/
def rdvValue (i : Rdv) (tag : NanTag) (a : Arrival) : Nat :=
  let ms := i.members
  let self := a.tid % 64
  let rank := ((List.range self).filter fun k => i.mask.toNat.testBit k).length
  let op := reduceOp i.ty (i.op2 % 8) tag
  if i.opc = 0x211 then
    let c : Int := zext a.c 32
    let p : Int := match i.op2 with
      | 0 => c
      | 1 => (self : Int) - c
      | 2 => (self : Int) + c
      | _ => (self ^^^ c.toNat : Nat)
    if p < 0 || 63 < p then a.b
    else match i.arrivals.find? fun m => m.tid == 64 * i.set + p.toNat with
      | some m => m.b
      | none => a.b
  else if i.opc = 0x212 then
    match i.op2 with
    | 0 => boolNat (ms.any fun m => m.p)
    | 1 => boolNat (ms.all fun m => m.p)
    | _ => (ms.map fun m => if m.p then 2 ^ (m.tid % 64) else 0).sum
  else if i.opc = 0x213 then treeReduce op 6 (ms.map fun m => m.b)
  else if i.opc = 0x214 then
    let vals := ms.map fun m => m.b
    let incl := match vals with | [] => [] | v :: vs => v :: scanList op v vs
    if i.op2 < 8 then incl.getD rank 0
    else if rank = 0 then reduceIdentity i.ty (i.op2 % 8)
    else incl.getD (rank - 1) 0
  else rank

/-- The row of a rendezvous opcode, for where its result goes. -/
def rdvRow (i : Rdv) : OpRow :=
  match i.opc with
  | 0x211 => rowRshfl
  | 0x212 => if i.op2 = 2 then rowRvoteBallot else rowRvote
  | 0x213 => rowRred
  | 0x214 => rowRscan
  | 0x215 => rowRrank
  | _ => rowRdv

/-- A member leaves with its result: an acquire, the result on its way, then the region boundary (R113). -/
def leaveRdv (s : State) (key : Nat) (i : Rdv) (tag : NanTag) (a : Arrival) : State :=
  let r : CtxRef := { group := key, who := .thread a.tid }
  let v := BitVec.ofNat 128 (rdvValue i tag a)
  let regs := writeRegs false a.form.fields (rdvRow i).d a.form.d
  let preds := (writePreds (rdvRow i).d a.form.d).filter fun k => k != 7
  let now := match s.group? key with | some g => s.clusterCycles g.cluster | none => 0
  completeWait (s.modHart r fun h =>
    { ((h.addResult regs preds (some v)).acquire).boundary (h.pc + 12) with rdvBack := some (now, h.regionPc, h.rngSnap, h.entryNo) }) r

def leaveAll (s : State) (key : Nat) (i : Rdv) (tag : NanTag) : List Arrival → State
  | [] => s
  | a :: rest => leaveAll (leaveRdv s key i tag a) key i tag rest

/-- Everything the context has written is performed: its stores have committed, and what went over a link is answered. -/
def released (s : State) (r : CtxRef) : Bool :=
  (match s.hart? r with | some h => h.stores.isEmpty | none => true) && !linkBusy s r

/-- Where the end of a rendezvous has cleared the rollback mark, the cycle is kept: a rollback of that cycle is taken first (04 R117). -/
def unmark (s : State) (key : Nat) (before : Group) : State :=
  s.modGroup key fun g => if before.mark && !g.mark then { g with unmarked := some (s.clusterCycles g.cluster) } else g

/-- RDV_INSTANCE_COMPLETE: instance `k` of the group, every member's stores committed. -/
def execRdvInstanceComplete (key k : Nat) (s : State) : Host.Outcome State Fault Refusal :=
  match s.group? key with
  | none => .next s
  | some g =>
    match g.rdvs[k]? with
    | none => .next s
    | some i =>
      let committed := i.arrivals.all fun a => released s { group := key, who := .thread a.tid }
      if !s.groupLive g || !i.complete || !committed then .next s
      else
        let tag : NanTag := match i.members with
          | a :: _ => (match g.threads[a.tid]? with | some h => { lane := h.lane, pc := h.pc.toNat } | none => { lane := 0, pc := 0 })
          | [] => { lane := 0, pc := 0 }
        let s := s.modGroup key fun g => { g with rdvs := listRemove g.rdvs k }
        let s := leaveAll s key i tag i.arrivals
        .next (unmark (settleMark s key) key g)

/-- RECONV_TIMEOUT: a bounded wait ends with its limit, once every arrival of that cycle has been seen (04 R116, R117). A group
whose image is being written goes on only after its relaunch (03 R100). -/
def execReconvTimeout (r : CtxRef) (s : State) : Host.Outcome State Fault Refusal :=
  match s.group? r.group, s.hart? r with
  | some g, some h =>
    (match h.wait with
    | .reconv _ deadline _ =>
      let now := s.clusterCycles g.cluster
      if h.status != .blocked || decide (now ≤ deadline) then .next s
      else if g.isEvicting then .next (settlePeers (s.setGroup r.group (wakeEvicted g)))
      else if s.groupLive g then .next (endReconv s r deadline false)
      else .next s
    | _ => .next s)
  | _, _ => .next s

/-! ## Barriers (R102 to R110, R263) -/

/-- A context's state at a barrier; cluster barriers stand from 16. -/
def Hart.barAt (h : Hart) (b : Nat) : BarState := h.bars.getD b .idle
def Hart.setBar (h : Hart) (b : Nat) (v : BarState) : Hart := { h with bars := h.bars.set b v }

/-- The checks of R107 before the transition, and the barrier's place in the list. -/
def barOf (e : Env) (cluster : Bool) (f : Form) : Except Cause Nat :=
  let n := f.imm.toNat
  if (if cluster then decide (7 < n) || Hdr.cgroup e.hdr == 1 else decide (15 < n)) then .error .barId
  else if e.steward && !Hdr.stewardMember e.hdr then .error .barMembership
  else .ok (if cluster then n + 16 else n)

/-- A completed wait: an acquire, and a region boundary (R106, R108). -/
def Hart.passBar (h : Hart) (b : Nat) : Hart := ({ h.setBar b .idle with taken := none }.acquire).boundary (h.pc + 12)

/-- The wait half: the wait of a context that has arrived. A region boundary comes after every earlier store of the context has
committed (R85, R108). -/
def waitHalf (s : State) (e : Env) (b : Nat) : Act :=
  match e.h.barAt b with
  | .idle => .trap { cause := .barSequence, pc := 0 }
  | .arrived => if e.h.stores.isEmpty then .block (.bar b) s else .hold
  | .done =>
    if e.h.stores.isEmpty then .done (settleMark (s.modHart e.r fun h => h.passBar b) e.r.group) else .hold

/-- BARRIVE and CBARRIVE: the arrival waits to be performed. -/
def arriveAct (s : State) (e : Env) (cluster : Bool) (f : Form) : Act :=
  match barOf e cluster f with
  | .error c => .trap { cause := c, pc := 0 }
  | .ok b =>
    if e.h.barAt b != .idle then .trap { cause := .barSequence, pc := 0 }
    else .done (s.modHart e.r fun h => { h with arrival := some (b, false, e.h.pc + 12) })

/-- BAR and CBAR; a restart with the arrival taken performs the wait half alone. -/
def barAct (s : State) (e : Env) (cluster : Bool) (f : Form) : Act :=
  match barOf e cluster f with
  | .error c => .trap { cause := c, pc := 0 }
  | .ok b =>
    if e.h.taken == some b && e.h.regionPc == e.h.pc then waitHalf s e b
    else if e.h.barAt b != .idle then .trap { cause := .barSequence, pc := 0 }
    else .block (.bar b) (s.modHart e.r fun h => { h with arrival := some (b, true, e.h.pc) })

def waitAct (s : State) (e : Env) (cluster : Bool) (f : Form) : Act :=
  match barOf e cluster f with
  | .error c => .trap { cause := c, pc := 0 }
  | .ok b => waitHalf s e b

def execBar (f : Form) (s : State) : Host.Outcome State Fault Refusal := issue rowBar f s fun e s => barAct s e false f
def execBarrive (f : Form) (s : State) : Host.Outcome State Fault Refusal := issue rowBarrive f s fun e s => arriveAct s e false f
def execBwait (f : Form) (s : State) : Host.Outcome State Fault Refusal := issue rowBwait f s fun e s => waitAct s e false f
def execCbar (f : Form) (s : State) : Host.Outcome State Fault Refusal := issue rowCbar f s fun e s => barAct s e true f
def execCbarrive (f : Form) (s : State) : Host.Outcome State Fault Refusal := issue rowCbarrive f s fun e s => arriveAct s e true f
def execCbwait (f : Form) (s : State) : Host.Outcome State Fault Refusal := issue rowCbwait f s fun e s => waitAct s e true f

/-- BTEST; OP2 = 1 tests a cluster barrier. -/
def execBtest (f : Form) (s : State) : Host.Outcome State Fault Refusal :=
  issue rowBtest f s fun e s =>
    match barOf e (f.op2 == 1) f with
    | .error c => .trap { cause := c, pc := 0 }
    | .ok b =>
      match e.h.barAt b with
      | .idle => .trap { cause := .barSequence, pc := 0 }
      | .arrived => .done (writePred s e rowBtest f f.d false)
      | .done => .done ((writePred s e rowBtest f f.d true).modHart e.r Hart.acquire)

/-- What was issued before a halt for pre-emption is still performed (02 R52), and an arrival in the cycle in which a rollback is
detected stands (04 R117). -/
def State.stillPerforms (s : State) (g : Group) : Bool :=
  s.groupLive g || (g.state == .halted && !g.rollback && (s.ctx g.ctx).state == .saving)
    || (s.runsOut g && g.detected == some (s.clusterCycles g.cluster))

/-- BARRIER_ARRIVAL_PERFORMED (R108): the context's stores have committed; the boundary stands behind BARRIVE, and at
the PC of BAR. An arrival at a cluster barrier releases at .CLU (R106). -/
def execBarrierArrivalPerformed (r : CtxRef) (s : State) : Host.Outcome State Fault Refusal :=
  match s.group? r.group, s.hart? r with
  | some g, some h =>
    (match h.arrival with
    | none => .next s
    | some (b, isBar, entry) =>
      if !s.stillPerforms g || !released s r then .next s
      else
        let s := s.modHart r fun h =>
          { (h.setBar b .arrived).boundary entry with arrival := none, taken := if isBar then some b else h.taken }
        let s := s.modGroup r.group fun g => { g with arrived := some (s.clusterCycles g.cluster) }
        let s := if 16 ≤ b then flushL1 s g.coreNo else s
        .next (settleWaiting (settleMark s r.group) r.group))
  | _, _ => .next s

/-- The member contexts of a barrier (R103). -/
def barMembers (s : State) (key b : Nat) : List CtxRef :=
  let keys := if b < 16 then [key] else s.peers key
  (keys.map fun k => match s.group? k with
    | none => []
    | some g =>
      let st := match s.grid? g.grid with | some gr => Hdr.stewardMember gr.header | none => false
      (g.harts.filter fun p => st || !Who.isSteward p.1).map fun p => { group := k, who := p.1 : CtxRef }).flatten

/-- A member of a completed phase: a waiter goes on, the others find DONE (R104). -/
def passBarrier (b : Nat) (s : State) (r : CtxRef) : State :=
  match s.hart? r with
  | none => s
  | some h =>
    if h.status = .exited || h.barAt b != .arrived then s
    else if h.status = .blocked && h.wait == .bar b then
      completeWait (s.modHart r fun h => h.passBar b) r
    else s.modHart r fun h => h.setBar b .done

/-- The phase of a barrier can complete: every member has arrived or exited, and one has arrived. -/
def phaseDue (s : State) (key b : Nat) : Bool :=
  let ms := barMembers s key b
  let arrived (r : CtxRef) : Bool := match s.hart? r with | some h => h.status != .exited && h.barAt b == .arrived | none => false
  (ms.all fun r => arrived r || (match s.hart? r with | some h => h.status == .exited | none => true)) && ms.any arrived

/-- A completed phase ends the batch of a `.det` group (05 R138). The phase of a cluster barrier counts as one of the barriers of
every group of the cluster-group (DESIGN CHOICE, log 80). -/
def endBatchOf (s : State) (key : Nat) : State :=
  match (s.group? key).bind s.gridOf with
  | some gr => if Hdr.det gr.header then s.modGroup key Group.endBatch else s
  | none => s

/-- BARRIER_PHASE_COMPLETE (R104), in a later cycle than the arrivals and exits of the groups concerned (R109, R117). -/
def execBarrierPhaseComplete (key b : Nat) (s : State) : Host.Outcome State Fault Refusal :=
  match s.group? key with
  | none => .next s
  | some g =>
    let ms := barMembers s key b
    let live := (s.peers key).all fun k => match s.group? k with
      | some p => s.groupLive p || p.state == .retiring || p.state == .retired | none => true
    let fresh := (ms.map fun r => r.group).any fun k => (s.group? k).any fun p => p.arrived == some (s.clusterCycles p.cluster)
    if !s.groupLive g || !live || fresh || !phaseDue s key b then .next s
    else
      let ks := (ms.map fun r => r.group).eraseDups
      .next (ks.foldl (fun s k => endBatchOf (settleMark s k) k) (ms.foldl (passBarrier b) s))

/-! ## FENCE, WAITA, TRIG (R264 to R266) -/

/-- FENCE (OP2 1 .ACQ, 2 .REL, 3 .AR): a release waits for the context's stores, and for the answers to what it has sent over a
link, and from .CLU on returns what the L1 holds to its home; after an acquire the context accesses memory only behind the reads
that it has sent. At .THR it has no further effect. A release waits for no ordered access that its context has in the buffer of a
`.det` kernel (DESIGN CHOICE, log 95). -/
def execFence (f : Form) (s : State) : Host.Outcome State Fault Refusal :=
  issue rowFence f s fun e s =>
    let rel := f.op2 == 2 || f.op2 == 3
    let acq := f.op2 == 1 || f.op2 == 3
    if f.sub == 0 then .done s
    else if rel && (!e.h.stores.isEmpty || linkBusy s e.r) then .hold
    else
      let s := if rel && wideScope f.sub.toNat then flushL1 s e.g.coreNo else s
      .done (if acq then s.modHart e.r Hart.acquire else s)

/-- WAITA: the value once it reaches the comparand; else the context waits for a write to the line. -/
def execWaita (f : Form) (s : State) : Host.Outcome State Fault Refusal :=
  issue rowWaita f s fun e s =>
    let n := Ty.size f.ty
    let a : Access :=
      { space := f.op2.toNat, addr := memAddr s e rowWaita f n (sext f.imm.toNat 32), size := n, write := false, atomic := true
        far := farBase s e rowWaita f, need := { perm := 1, host := false, peer := false } }
    let s := meetPath s e a
    match checkAccess s e a with
    | .error c => failAccess s e a c
    | .ok (.peer ..) => .trap (a.trap e .pagePerm)
    | .ok (.flat p _) =>
      if acquireHeld s e.r e.h then .hold
      else
        let v := readFlat s e f.sub.toNat p n
        let cmp := zext (e.C s rowWaita f) (8 * n)
        match v.2.2 with
        | some c => .event v.2.1 c
        | none =>
          if cmp ≤ v.1 then .done ((writeDst v.2.1 e rowWaita f v.1).modHart e.r Hart.acquire)
          else .block (.waita p f.sub.toNat n cmp (writeRegs e.steward f.fields rowWaita.d f.d)) v.2.1

/-- TRIG: a release at .DEV, and the group's trigger; it waits for no buffered ordered access (DESIGN CHOICE, log 95). -/
def execTrig (f : Form) (s : State) : Host.Outcome State Fault Refusal :=
  issue rowTrig f s fun e s =>
    if !e.h.stores.isEmpty || linkBusy s e.r then .hold else .done (countTrigger (flushL1 s e.g.coreNo) e.r.group)

end Sys2Proof.Machine
end

