-- ==== Sys2Proof/Machine/Engine.lean ====
section
/-!
DEFINITION. The engines (14 R295 to R310): what every command shares (its block, the checks, range locks of 05 R133 to
R136, start, end), the copy engine, and the matrix units with the residue accumulator (01 R37 to R42) and the drains. A
command reads and writes when its completion takes place, or some of it when its context is saved before; its writes go to their
homes (log 27).
-/
namespace Sys2Proof.Machine

/-! ## Accesses of an engine (05 R129, 14 R296) -/

/-- Why an engine access does not go on: an address outside its space or a failed translation; an integrity event, with the quadrant
of the tile or the unit where one is concerned; bytes at a peer that must be asked for. -/
inductive EngStop
  | page (addr : Int) | err (s : State) (c : Cause) (quad : Option Nat := none) | ask (link : Nat) (chip : Bool) (addr size : Nat)
  deriving DecidableEq, Repr

/-- The steward of a group as the agent of its commands. -/
def stewardEnv (s : State) (key : Nat) : Option Env :=
  match s.group? key with
  | none => none
  | some g => (s.grid? g.grid).map fun gr => { r := { group := key, who := .steward }, g := g, gr := gr, h := g.steward }

/-- A command as the agent of its accesses, with what it has read at a peer. -/
def cmdEnv (s : State) (c : Cmd) : Option Env := (stewardEnv s c.gid).map fun e => { e with fetched := c.fetched }

def engNeed (write : Bool) : Need := { perm := if write then 2 else 1, host := false }

/-- The walk of an engine access. -/
def engWalk (s : State) (e : Env) (space : Nat) (addr : Int) : State :=
  if (space == 0 || space == 4) && inBounds s e space addr then coreWalk s e.g.coreNo e.n (virtAddr e space addr.toNat) else s

/-- Where an engine access of `size` bytes lies. -/
def engLoc (s : State) (e : Env) (space : Nat) (addr : Int) (size : Nat) (write : Bool) : Except EngStop Loc :=
  if inBounds s e space addr && inBounds s e space (addr + (size : Int) - 1) then
    match place s e space addr.toNat (engNeed write) with
    | .ok l => .ok l
    | .error .walkUe => .error (.err (meetWalk s e.n (virtAddr e space addr.toNat)) .walkUe)
    | .error _ => .error (.page addr)
  else .error (.page addr)

/-- A byte of a place as an engine of the core sees it. -/
def engByte (s : State) (core a : Nat) : Byte := (l1Get (s.core core).l1 a).getD (memGet s.mem a)

def engBytes (s : State) (core a n : Nat) : List Byte := (List.range n).map fun i => engByte s core (a + i)

/-- A read of `size` bytes; those of a peer come over the link (20 R412). -/
def engRead (s : State) (e : Env) (space : Nat) (addr : Int) (size : Nat) : Except EngStop (Nat × State) :=
  let s := engWalk s e space addr
  match engLoc s e space addr size false with
  | .error x => .error x
  | .ok (.flat p _) =>
    let m := meetSpan s e.n p size
    (match m.2 with
    | some c => .error (.err m.1 c)
    | none => .ok (natOfLe (engBytes s e.g.coreNo p size), m.1))
  | .ok (.peer link chip p) =>
    match e.fetched.find? fun x => x.1 == link && x.2.1 == chip && x.2.2.1 == p && x.2.2.2.length == size with
    | some x => .ok (natOfLe x.2.2.2, s)
    | none => .error (.ask link chip p size)

/-- What an engine writes: bytes of the device, or an operation at a peer. -/
inductive EngWrite
  | bytes (ws : List WByte) | remote (link : Nat) (chip : Bool) (addr : Nat) (k : LinkKind)
  deriving DecidableEq, Repr

/-- A write of an element: `odd` tells the half of a 4-bit element. -/
def engWrite (s : State) (e : Env) (space : Nat) (addr : Int) (bits : Nat) (odd : Bool) (v : Nat) : Except EngStop (EngWrite × State) :=
  let s := engWalk s e space addr
  let nib := bits == 4
  let size := if nib then 1 else bits / 8
  let val : Nat := if nib then v % 16 * (if odd then 16 else 1) else v
  let mask : Byte := if odd then 0xF0 else 0x0F
  match engLoc s e space addr size true with
  | .error x => .error x
  | .ok (.flat p _) =>
    .ok (.bytes (if nib then [{ addr := p, val := BitVec.ofNat 8 val, mask := mask }] else wholeBytes p (bytesOfNat size val)), s)
  | .ok (.peer l chip p) =>
    .ok (.remote l chip p (if nib then .nibble (BitVec.ofNat 8 val) mask else .write (bytesOfNat size val)), s)

/-- Address and datum of a write, as the comparator compares them (18 R374). -/
def EngWrite.words : EngWrite → List Nat
  | .bytes ws => Action.words (.bytes ws true)
  | .remote l chip a k => Action.words (.remote l chip a k)

/-- Writes of a command performed at their homes, in order. `own` is the slot whose DLT writes. -/
def engPerform (e : Env) (own : Option (Nat × Nat)) (id : Nat) : State → List EngWrite → State
  | s, [] => s
  | s, .bytes ws :: rest =>
    let s := evictBytes s e.g.coreNo fun x => ws.any fun w => w.addr == x && w.mask != 0xFF
    let s := s.modCore e.g.coreNo fun c => { c with l1 := c.l1.filter fun x => !(ws.any fun w => w.addr == x.1) }
    engPerform e own id (writeHome s own ws) rest
  | s, .remote l chip a k :: rest =>
    engPerform e own id (sendLink s
      { link := l, ctx := e.n, who := some e.r, chip := chip, addr := a, kind := k, dst := none, sent := s.refNs, cmd := some id,
        own := own }) rest

/-- Things done one after another, each on the state the last one left. -/
def engFold {α β : Type} (f : State → α → Except EngStop (β × State)) : State → List α → Except EngStop (List β × State)
  | s, [] => .ok ([], s)
  | s, x :: xs =>
    match f s x with
    | .error e => .error e
    | .ok (y, s) =>
      match engFold f s xs with
      | .error e => .error e
      | .ok (ys, s) => .ok (y :: ys, s)

/-! ## Blocks, descriptors, locks (14 R295, R296; 05 R133, R134) -/

/-- Words of the command block, read at issue. -/
def blockWords (s : State) (e : Env) (row : OpRow) (f : Form) (n : Nat) : List Word :=
  (List.range n).map fun i => BitVec.ofNat 32 (bitsOf (e.A s row f) (32 * i) 32)

def blkWord (b : List Word) (i : Nat) : Nat := (b.getD i 0).toNat
def blkBits (b : List Word) (i lo len : Nat) : Nat := bitsOf (blkWord b i) lo len

/-- A lock that a command asks for, with the core whose table takes it. -/
structure LockAsk where
  table : Nat
  space : Nat
  first : Nat
  last  : Nat
  write : Bool
  deriving DecidableEq, Repr

/-- The lock of bytes of a group's own core memory. A footprint that reaches past the bound of its space locks the bytes that follow,
and is watched there; an access to them traps (DESIGN CHOICE, log 93). -/
def padLock (o : Group) (first last : Nat) (write : Bool) : LockAsk :=
  let base := coreBase + o.coreNo * corePadBytes + o.cbase
  { table := o.coreNo, space := 1, first := base + first, last := base + last, write := write }

/-- The part of a range of space `k` that lies in the core memory of a rank. -/
def rankLock (s : State) (e : Env) (a z : Nat) (write : Bool) (rank : Nat) : Option LockAsk :=
  let lo := max a (rank * 2 ^ 18)
  let hi := min z (rank * 2 ^ 18 + Hdr.cbytes e.hdr - 1)
  if hi < lo then none else (rankGroup s e rank).map fun o => padLock o (lo % 2 ^ 18) (hi % 2 ^ 18) write

/-- The locks of a byte range of a space: one entry, but for a range of space `k` one in the table of each rank whose core memory it
meets (05 R133; log 82). -/
def lockAsk (s : State) (e : Env) (space : Nat) (first last : Int) (write : Bool) : List LockAsk :=
  let a := first.toNat
  let z := last.toNat
  if last < 0 then []
  else if space = 1 then [padLock e.g a z write]
  else if space = 2 then (List.range 8).filterMap (rankLock s e a z write)
  else [{ table := e.g.coreNo, space := space, first := a, last := z, write := write }]

/-- The locks of a tensor's footprint, taken of its store; an empty footprint takes none (06 R154). A WINDOW locks the footprint of
its base even where an extent of its own is 0 (DESIGN CHOICE, log 83). -/
def lockOf (s : State) (e : Env) (store : BitVec 1024) (write : Bool) : List LockAsk :=
  match footprint store with
  | none => []
  | some (a, z) => lockAsk s e (Desc.space store) a z write

def LockAsk.meets (a b : LockAsk) : Bool :=
  a.space == b.space && decide (a.first ≤ b.last) && decide (b.first ≤ a.last)

/-- Every table has room for the locks it is asked for. -/
def locksFit (s : State) (asks : List LockAsk) : Bool :=
  asks.all fun a => decide ((s.core a.table).locks.length + (asks.filter fun b => b.table == a.table).length ≤ 32)

def takeLocks (n id : Nat) : State → List LockAsk → State
  | s, [] => s
  | s, a :: rest =>
    takeLocks n id (s.modCore a.table fun c => { c with locks := c.locks ++
      [{ cmd := id, ctx := n, space := a.space, first := a.first, last := a.last, write := a.write }] }) rest

/-- The opcode and the type of a command. -/
def CmdKind.words : CmdKind → List Nat
  | .mxz => [0x310]
  | .mx ty mix => [0x311, ty.code.toNat, boolNat mix]
  | .mxd z => [0x312, boolNat z]
  | .mxs z => [0x313, boolNat z]
  | .dlt => [0x318]
  | .cpy => [0x308]

/-- The command accepted: it waits for its locks and for the steward's earlier stores, the issue being a release (05 R124), then
stands in the core's list. Under IL2 it is performed once its record agrees (18 R374 row 4). -/
def acceptCmd (s : State) (e : Env) (kind : CmdKind) (b : List Word) (descs : Map (BitVec 1024)) (asks : List LockAsk)
    (claims : Bool) : Act :=
  if !locksFit s asks || !e.h.stores.isEmpty || linkBusy s e.r then .hold
  else
    let k := e.g.coreNo
    let id := k * 2 ^ 40 + (s.core k).nextCmd
    let slot := (s.ctx e.n).slot (blkBits b 0 0 6)
    let c : Cmd :=
      { id := id, gid := e.r.group, pc := e.h.pc, kind := kind, block := b, descs := descs, region := e.h.regionNo
        issued := s.clusterCycles e.g.cluster, ready := decide (e.gr.level < 2), started := false, progress := 0, asked := 0
        matched := 0, rows := []
        reads := match kind with
          | .mxd _ => mapGet (List.replicate 32 0) (s.core k).resume (e.r.group * 16 + blkBits b 0 16 4)
          | _ => []
        snapshot := [], slotRec := if kind == .dlt then slot.bits else 0
        version := if kind == .dlt then Desc.version ((s.ctx e.n).desc (Slot.wTid slot.bits)) else 0, event := none }
    let s := s.modCore k fun q =>
      { q with cmds := q.cmds ++ [c], nextCmd := q.nextCmd + 1
               claim := if claims then some e.r.group else q.claim
               resume := match kind with
                 | .mxd _ => mapDrop q.resume (e.r.group * 16 + blkBits b 0 16 4)
                 | _ => q.resume }
    let s := takeLocks e.n id s asks
    let s := if e.gr.level < 2 then s
      else recordOf s e.r 4 (b.map BitVec.toNat ++ kind.words ++ descs.map fun p => p.2.toNat) (some id)
    .done (if kind == .cpy then s else s.modHart e.r Hart.nextSerial)

/-- A matrix command: another group's claim on the tiles holds the steward, which counts as BLOCKED (14 R297). -/
def withClaim (s : State) (e : Env) (a : Act) : Act :=
  match (s.core e.g.coreNo).claim with
  | some k => if k = e.r.group then a else .block .claim s
  | none => a

/-! ## Starting and ending (14 R296 to R298) -/

def CmdKind.isMatrix : CmdKind → Bool
  | .cpy => false
  | _ => true

/-- The quadrants a matrix command occupies. -/
def Cmd.quads (c : Cmd) : List Nat :=
  match c.kind with
  | .mxz | .mx .. => (List.range 4).filter fun q => (blkBits c.block 0 24 4).testBit q
  | .mxd _ | .mxs _ => [blkBits c.block 0 5 2]
  | .dlt => [blkBits c.block 0 24 2]
  | .cpy => []

/-- The two commands use one engine. -/
def Cmd.sharesUnit (a b : Cmd) : Bool :=
  if a.kind == .cpy || b.kind == .cpy then a.kind == .cpy && b.kind == .cpy else a.quads.any b.quads.contains

/-- The locks of a command, over all tables of the cluster. -/
def locksOf (s : State) (id : Nat) : List Lock :=
  (s.cores.map fun p => p.2.locks.filter fun l => l.cmd == id).flatten

/-- Two locks that order their commands (05 R135). -/
def Lock.conflicts (a b : Lock) : Bool :=
  a.ctx == b.ctx && a.space == b.space && decide (a.first ≤ b.last) && decide (b.first ≤ a.last) && (a.write || b.write)

/-- The group of a command lets its engines run: it is on its core, or halted for a rollback (14 R298). A pre-emption stops them
(17 R357 step 3). -/
def State.engineLive (s : State) (g : Group) : Bool :=
  ((g.state == .resident || g.state == .waiting) && (s.ctx g.ctx).state == .running) || (g.state == .halted && g.rollback)

/-- The command of a core at a place of its list, with its group. -/
def cmdAt (s : State) (core k : Nat) : Option (Cmd × Group) :=
  match (s.core core).cmds[k]? with
  | none => none
  | some c =>
    match s.group? c.gid with
    | some g => if s.engineLive g then some (c, g) else none
    | none => none

/-- The locks of a command, those too that it takes again when it starts again. -/
def lockedBy (s : State) (c : Cmd) : List Lock := locksOf s c.id ++ c.relock.map fun p => p.2

/-- An abandoned command can start again: its group has restarted, and its locks have room (log 88). -/
def againReady (s : State) (c : Cmd) : Bool :=
  !c.again || ((s.group? c.gid).any fun g => !g.rollback)
    && c.relock.all fun p => decide ((s.core p.1).locks.length + (c.relock.filter fun q => q.1 == p.1).length ≤ 32)

/-- A command can start: those before it leave its units and locks free. One that names a retired quadrant runs there (DESIGN CHOICE, log
111). -/
def canStart (s : State) (core : Nat) (c : Cmd) : Bool :=
  let earlier := (s.core core).cmds.filter fun x => decide (x.id < c.id)
  c.ready && !c.started && againReady s c
    && !(earlier.any fun x => x.sharesUnit c)
    && !(earlier.any fun x => (lockedBy s x).any fun l => (lockedBy s c).any l.conflicts)

/-- The locks of an abandoned command taken again. -/
def takeAgain (s : State) (c : Cmd) : State :=
  c.relock.foldl (fun s p => s.modCore p.1 fun k => { k with locks := k.locks ++ [p.2] }) s

def putCmd (s : State) (core : Nat) (c : Cmd) : State :=
  s.modCore core fun q => { q with cmds := q.cmds.map fun x => if x.id = c.id then c else x }

/-- A steward's region entry moves past a completed command, unless a later boundary stands already (14 R298). -/
def pastCmd (s : State) (c : Cmd) : State :=
  s.modGroup c.gid fun g => { g with steward := g.steward.lateBoundary c.region (c.pc + 12) g.steward.rng }

/-- The comparator is given what a command is about to write (18 R374 row 5). -/
def askWrites (s : State) (e : Env) (core : Nat) (c : Cmd) (words : List Nat) : State :=
  recordOf (putCmd s core { c with asked := c.asked + 1 }) e.r 5 words (some c.id)

/-- A command that is complete leaves; a steward that waits to exit may go on. -/
def endCmd (s : State) (core : Nat) (c : Cmd) : State :=
  let s := removeCmd s core c.id
  let s := if c.kind == .cpy then s else settleMark (pastCmd s c) c.gid
  settleWaiting (tryExit s { group := c.gid, who := .steward }) c.gid

/-- The region entry stands at a command that is abandoned, where a rollback had moved it past. -/
def entryAt (c : Cmd) (h : Hart) : Hart :=
  if h.entryNo = c.region + 1 && h.regionPc == c.pc + 12 then { h with entryNo := c.region, regionPc := c.pc } else h

/-- The region entry stands at a command, or can stand there again: a rollback issues it again. Behind a later boundary it does not,
since that boundary is not performed twice (03 R85). -/
def reissues (c : Cmd) (h : Hart) : Bool := decide (h.entryNo ≤ c.region) || (h.entryNo == c.region + 1 && h.regionPc == c.pc + 12)

/-- A command abandoned behind a later boundary: it stands again as it was issued, without its locks, and starts again (DESIGN
CHOICE, log 88). -/
def restartCmd (s : State) (core : Nat) (c : Cmd) : State :=
  let mine := (s.cores.map fun p => (p.2.locks.filter fun l => l.cmd == c.id).map fun l => (p.1, l)).flatten
  let s := dropLocks s (core / 8) c.id
  putCmd s core { c with started := false, progress := 0, asked := 0, matched := 0, rows := [], snapshot := [], event := none
                         fetched := [], again := true, relock := c.relock ++ mine }

/-- A command abandoned (14 R298, 07 R175): a DLT leaves its slot STALE, a drain remembers what each reader has read, an MX its
tiles as they were. -/
def abandonCmd (s : State) (core : Nat) (g : Group) (c : Cmd) : State :=
  let again := !reissues c g.steward
  let s := if again then restartCmd s core c
    else (removeCmd s core c.id).modGroup c.gid fun p => { p with steward := entryAt c p.steward }
  match c.kind with
  | .dlt => if c.started then abandonSlot s g c else s
  | .mxd _ =>
    if again then s
    else s.modCore core fun q => { q with resume := mapPut q.resume (c.gid * 16 + blkBits c.block 0 16 4) c.reads }
  | .mx .. => s.modCore core fun q => { q with acc := c.snapshot.foldl (fun m p => mapPut m p.1 p.2) q.acc }
  | _ => s

/-- A command abandoned for an event of its own. The region entry stays at it, so that the matrix commands behind it in its region
are abandoned with it, and issued again (log 49). -/
def abandonFrom (s : State) (core : Nat) (g : Group) (c : Cmd) : State :=
  let later := (s.cmdsOf c.gid g).filter fun x => decide (c.id < x.id) && x.kind != .cpy && decide (g.steward.entryNo ≤ c.region)
  later.foldl (fun s x => abandonCmd s core g x) (abandonCmd s core g c)

/-- A command asks a peer for bytes, once (20 R412); what it has met before it meets again. -/
def askPeer (s : State) (g : Group) (c : Cmd) (link : Nat) (chip : Bool) (addr size : Nat) : State :=
  if s.tovor.outbound.any fun o => o.cmd == some c.id && o.kind matches .read _ then s
  else sendLink s { link := link, ctx := g.ctx, who := some { group := c.gid, who := .steward }, chip := chip, addr := addr
                    kind := .read size, dst := none, sent := s.refNs, cmd := some c.id }

/-- What a failed access of a command does. -/
def engFail (s : State) (core : Nat) (g : Group) (c : Cmd) : EngStop → State
  | .ask link chip addr size => askPeer s g c link chip addr size
  | .page a => killGroup s c.gid .enginePage c.pc.toNat (wrap a 32) (c.quads.headD 0)
  | .err s' cause quad =>
    (integrityEvent (abandonFrom s' core g c)
      { key := c.gid, cause := cause, pc := c.pc.toNat, part := unitOf g quad cause }).modHart { group := c.gid, who := .steward } haltHart

/-! ## The residue accumulator (01 R37 to R40) -/

def resA (w : BitVec 40) : Nat := field w 0 10
def resB (w : BitVec 40) : Nat := field w 10 10
def resC (w : BitVec 40) : Nat := field w 20 11
def resChk (w : BitVec 40) : Nat := field w 31 9

def accWord (a b c k : Nat) : BitVec 40 := BitVec.ofNat 40 (a + b * 2 ^ 10 + c * 2 ^ 20 + k * 2 ^ 31)

/-- A channel after a signed value is added. -/
def addMod (r : Nat) (v : Int) (m : Nat) : Nat := (((r : Int) + v) % (m : Int)).toNat

/-- The word after a signed sum of products is added, channel by channel (R38). -/
def accAdd (w : BitVec 40) (v : Int) : BitVec 40 :=
  accWord (addMod (resA w) v 1023) (addMod (resB w) v 1024) (addMod (resC w) v 1025) (addMod (resChk w) v 511)

/-- The value of a word at drain; none where the check fails (R40). -/
def accValue (w : BitVec 40) : Option Int :=
  let a := resA w
  let c := resC w
  let k := resChk w
  if 1022 < a || 1024 < c || 510 < k then none
  else
    let digB := (((a : Int) - resB w) % 1024).toNat
    let digC := (((digB : Int) + 513 * ((c : Int) - a)) % 1025).toNat
    let u := a + 1023 * digB + 1047552 * digC
    let v : Int := if 536870400 ≤ u then (u : Int) - 1073740800 else u
    if (v % 511).toNat = k then some v else none

/-! ## Tiles -/

/-- The tiles a command writes whole or adds to, with what becomes of their depth (01 R39): added to, or 0. -/
def Cmd.depths (c : Cmd) : List (Nat × Option Nat) :=
  let tile := blkBits c.block 0 0 5
  match c.kind with
  | .mxz => c.quads.map fun q => (q * 24 + blkBits c.block 0 16 5, none)
  | .mx .. => c.quads.map fun q => (q * 24 + blkBits c.block 0 16 5, some (64 * blkBits c.block 3 0 9))
  | .mxd z | .mxs z => if z then c.quads.map fun q => (q * 24 + tile, none) else []
  | .dlt =>
    let cnt := ceilDiv (Slot.rows c.slotRec) 32 * ceilDiv (Slot.cols c.slotRec) 32
    (List.range cnt).map fun i => (blkBits c.block 0 24 2 * 24 + blkBits c.block 0 16 5 + i, none)
  | .cpy => []

/-- The depth a tile will have when every issued command has completed. -/
def depthAhead (s : State) (core key : Nat) : Nat :=
  (s.core core).cmds.foldl
    (fun d c => c.depths.foldl (fun d p => if p.1 = key then (match p.2 with | some n => d + n | none => 0) else d) d)
    (mapGet 0 (s.core core).depth key)

/-- A tile written whole: its depth is 0, its provenance the given one, and an error in it is gone. -/
def putTile (s : State) (core q t : Nat) (ws : List (BitVec 40)) (p : Option Prov) : State :=
  let k := q * 24 + t
  s.modCore core fun c =>
    { (c.setTile q t ws).setDepth q t 0 with
      prov := match p with | some p => mapPut c.prov k p | none => mapDrop c.prov k
      accUe := c.accUe.filter fun x => x != k }

def zeroTiles (core t : Nat) : State → List Nat → State
  | s, [] => s
  | s, q :: qs => zeroTiles core t (putTile s core q t zeroTile none) qs

/-! ## BLOCKED operands (06 R152) -/

/-- An element of a BLOCKED operand at (k, v); 0 beyond its extents. -/
def engElem (e : Env) (d : BitVec 1024) (s : State) (p : Nat × Nat) : Except EngStop (Int × State) :=
  if Desc.size d 0 ≤ p.1 ∨ Desc.size d 1 ≤ p.2 then .ok (0, s)
  else
    match elementAt d [(p.1 : Int), (p.2 : Int)] with
    | .at a odd =>
      (match engRead s e (Desc.space d) a 1 with
      | .error x => .error x
      | .ok (v, s) =>
        if Desc.fmt d = 13 then .ok (sext (if odd then v / 16 else v % 16) 4, s) else .ok (sext v 8, s))
    | _ => .ok (0, s)

/-- Vector v of an operand over a run of k. -/
def engVec (e : Env) (d : BitVec 1024) (k0 n : Nat) (s : State) (v : Nat) : Except EngStop (List Int × State) :=
  engFold (engElem e d) s ((List.range n).map fun k => (k0 + k, v))

def dotInt (a b : List Int) : Int := ((a.zip b).map fun p => p.1 * p.2).sum

/-! ## MXZ and MX (14 R304, R305) -/

def trapAct (c : Cause) : Act := .trap { cause := c, pc := 0 }

def execMxz (f : Form) (s : State) : Host.Outcome State Fault Refusal :=
  issue rowMxz f s fun e s =>
    let b := blockWords s e rowMxz f 1
    if blkBits b 0 28 4 != 0 || blkBits b 0 21 3 != 0 then trapAct .tensorGeom
    else if blkBits b 0 24 4 = 0 then trapAct .mxQuad
    else if 23 < blkBits b 0 16 5 then trapAct .accTile
    else withClaim s e (acceptCmd s e .mxz b [] [] true)

/-- The operand is a valid BLOCKED tensor of this role and format. -/
def operandOk (d : BitVec 1024) (role : Bool) (fmt : Nat) : Bool :=
  Desc.kind d == 2 && Desc.role d == role && Desc.fmt d == fmt

def execMx (f : Form) (s : State) : Host.Outcome State Fault Refusal :=
  issue rowMx f s fun e s =>
    let b := blockWords s e rowMx f 4
    let mix := f.op2 == 1
    let fa := if f.ty == .i8 then 9 else 13
    let fb := if mix then 22 - fa else fa
    let steps := blkBits b 3 0 9
    let c := s.ctx e.n
    let da := c.desc (blkBits b 0 0 8)
    let db := c.desc (blkBits b 0 8 8)
    let quads := (List.range 4).filter fun q => (blkBits b 0 24 4).testBit q
    if blkBits b 0 28 4 != 0 || blkBits b 0 21 3 != 0 || blkBits b 3 9 23 != 0 then trapAct .tensorGeom
    else if blkBits b 0 24 4 = 0 then trapAct .mxQuad
    else if 23 < blkBits b 0 16 5 then trapAct .accTile
    else if blkWord b 1 % 64 != 0 || steps = 0 then trapAct .tensorGeom
    else if (storeOf c.desc da).isNone || (storeOf c.desc db).isNone then trapAct .tidInvalid
    else if !operandOk da false fa || !operandOk db true fb || Desc.size da 0 != Desc.size db 0 then trapAct .tensorGeom
    else withClaim s e
      (if quads.any fun q => decide (32767 < depthAhead s e.g.coreNo (q * 24 + blkBits b 0 16 5) + 64 * steps) then trapAct .mxKlimit
       else acceptCmd s e (.mx f.ty mix) b [(0, da), (1, db)] (lockOf s e da false ++ lockOf s e db false) true)

/-- The rows of A of quadrant number `j` of the command, for the K-steps from its progress up to `n`. -/
def mxRows (e : Env) (c : Cmd) (n : Nat) (s : State) (j : Nat) : Except EngStop (List (List Int) × State) :=
  engFold (engVec e (mapGet 0 c.descs 0) (blkWord c.block 1 + 64 * c.progress) (64 * (n - c.progress))) s
    ((List.range 32).map fun i => 32 * (blkBits c.block 2 0 16 + j) + i)

def mxCols (e : Env) (c : Cmd) (n : Nat) (s : State) : Except EngStop (List (List Int) × State) :=
  engFold (engVec e (mapGet 0 c.descs 1) (blkWord c.block 1 + 64 * c.progress) (64 * (n - c.progress))) s
    ((List.range 32).map fun i => 32 * blkBits c.block 2 16 16 + i)

/-- A tile after a product is added. -/
def mxTile (old : List (BitVec 40)) (rows cols : List (List Int)) : List (BitVec 40) :=
  let sums := (rows.map fun r => cols.map fun k => dotInt r k).flatten
  (old.zip sums).map fun p => accAdd p.1 p.2

/-- The tile of each quadrant of MX, all read before any is written. -/
def mxApply (core : Nat) (c : Cmd) (rows : List (List (List Int))) (cols : List (List Int)) (s : State) : State :=
  let t := blkBits c.block 0 16 5
  (c.quads.zip rows).foldl
    (fun s p => s.modCore core fun q =>
      { q.setTile p.1 t (mxTile (q.tile p.1 t) p.2 cols) with prov := mapDrop q.prov (p.1 * 24 + t) }) s

/-- The K-steps of an MX from its progress up to `n`; an error in a tile is met by its quadrant. -/
def mxMove (e : Env) (core : Nat) (c : Cmd) (n : Nat) (s : State) : Except EngStop State :=
  match c.quads.find? fun q => (s.core core).accUe.contains (q * 24 + blkBits c.block 0 16 5) with
  | some q => .error (.err s .accUe (some q))
  | none =>
    match mxCols e c n s with
    | .error x => .error x
    | .ok (cols, s1) =>
      match engFold (mxRows e c n) s1 (List.range c.quads.length) with
      | .error x => .error x
      | .ok (rows, s2) => .ok (putCmd (mxApply core c rows cols s2) core { c with progress := n, fetched := [] })

/-- The depth of the tiles of a completed MX (01 R39). -/
def mxDepth (core : Nat) (c : Cmd) (s : State) : State :=
  let t := blkBits c.block 0 16 5
  c.quads.foldl (fun s q => s.modCore core fun k => k.setDepth q t (k.depthOf q t + 64 * blkBits c.block 3 0 9)) s

/-- MX_COMPLETE: MXZ or MX ends (R305). -/
def execMxComplete (core k : Nat) (s : State) : Host.Outcome State Fault Refusal :=
  match cmdAt s core k with
  | none => .next s
  | some (c, g) =>
    if !c.started then .next s
    else
      match c.kind with
      | .mxz => .next (endCmd (zeroTiles core (blkBits c.block 0 16 5) s c.quads) core c)
      | .mx .. =>
        (match cmdEnv s c with
        | none => .next s
        | some e =>
          match mxMove e core c (blkBits c.block 3 0 9) s with
          | .error x => .next (engFail s core g c x)
          | .ok s => .next (endCmd (mxDepth core c s) core c))
      | _ => .next s

/-- MXW (R310): it returns as an acquire. -/
def execMxw (f : Form) (s : State) : Host.Outcome State Fault Refusal :=
  issue rowMxw f s fun e s => if (s.cmdsOf e.r.group e.g).any fun c => c.kind.isMatrix then .hold else .done (s.modHart e.r Hart.acquire)

/-! ## Drains (14 R306 to R309, 01 R42) -/

/-- The checks that MXD and MXS share: reserved bits, OFMT, ACT, TILE, the epilogue descriptor. -/
def drainCheck (s : State) (e : Env) (b : List Word) (mxs : Bool) : Option Cause :=
  if blkBits b 0 28 4 != 0 || blkBits b 0 7 1 != 0 || (mxs && blkBits b 5 8 24 != 0) then some .tensorGeom
  else if 3 < blkBits b 0 23 3 || blkBits b 0 21 2 = 3 then some .tensorGeom
  else if 23 < blkBits b 0 0 5 then some .accTile
  else if !mxs && decide (Hdr.threads e.hdr ≤ 64 * blkBits b 0 16 4) then some .tensorGeom
  else if !mxs && (s.cmdsOf e.r.group e.g).any fun c =>
      c.kind matches .mxd _ && blkBits c.block 0 16 4 == blkBits b 0 16 4 then some .drainBusy
  else none

/-- The store of the epilogue descriptor, if the command names one: a WINDOW takes the epilogue fields of its base (06 R150). -/
def epiDesc (s : State) (e : Env) (b : List Word) : Except Cause (Option (BitVec 1024)) :=
  if blkBits b 0 26 1 = 0 then .ok none
  else
    match storeOf (s.ctx e.n).desc ((s.ctx e.n).desc (blkBits b 0 8 8)) with
    | none => .error .tidInvalid
    | some d => .ok (some d)

def epiMap : Option (BitVec 1024) → Map (BitVec 1024)
  | none => []
  | some d => [(0, d)]

def execMxd (f : Form) (s : State) : Host.Outcome State Fault Refusal :=
  issue rowMxd f s fun e s =>
    let b := blockWords s e rowMxd f 5
    match drainCheck s e b false with
    | some c => trapAct c
    | none =>
      match epiDesc s e b with
      | .error c => trapAct c
      | .ok d => withClaim s e (acceptCmd s e (.mxd (f.op2 == 1)) b (epiMap d) [] true)

/-- The FMT of an output format (R309). -/
def drainFmt (ofmt : Nat) : Nat :=
  match ofmt with
  | 0 => 4
  | 1 => 6
  | 2 => 5
  | _ => 9

/-- The coordinates of element (m, n) of an MXS. -/
def mxsCoord (b : List Word) (m n : Nat) : List Int :=
  let d0 := sext (blkWord b 6) 32
  let d1 := sext (blkWord b 7) 32
  if blkBits b 0 27 1 = 1 then [d0 + m, d1 + n] else [d0 + n, d1 + m]

/-- Elements of a tile in ascending m, then n. -/
def tilePoints : List (Nat × Nat) := ((List.range 32).map fun m => (List.range 32).map fun n => (m, n)).flatten

/-- The locks of an MXS on the vectors of its epilogue: 32 elements each. -/
def vectorLocks (s : State) (e : Env) (b : List Word) (d : BitVec 1024) : List LockAsk :=
  let one (en : Bool) (space base idx : Nat) : List LockAsk :=
    if en then lockAsk s e space ((base + 4 * idx : Nat) : Int) ((base + 4 * idx + 127 : Nat) : Int) false else []
  one (Desc.rsEn d) (Desc.rsSpace d) (Desc.rowScale d) (blkWord b 1)
    ++ one (Desc.csEn d) (Desc.csSpace d) (Desc.colScale d) (blkWord b 2)
    ++ one (Desc.biasEn d) (Desc.biasSpace d) (Desc.bias d) (blkWord b 1)

def execMxs (f : Form) (s : State) : Host.Outcome State Fault Refusal :=
  issue rowMxs f s fun e s =>
    let b := blockWords s e rowMxs f 8
    match drainCheck s e b true with
    | some c => trapAct c
    | none =>
      match epiDesc s e b with
      | .error c => trapAct c
      | .ok epi =>
        let look := (s.ctx e.n).desc
        let d := look (blkBits b 5 0 8)
        if (storeOf look d).isNone then trapAct .tidInvalid
        else if Desc.kind d = 1 || Desc.rank d != 2 || Desc.fmt d != drainFmt (blkBits b 0 23 3) then trapAct .tensorGeom
        else if tilePoints.any fun p => resolveTensor look d (mxsCoord b p.1 p.2) matches .trap _ then trapAct .tensorBounds
        else
          let asks := (match epi with | some x => vectorLocks s e b x | none => []) ++ lockOf s e d true
          withClaim s e (acceptCmd s e (.mxs (f.op2 == 1)) b (epiMap epi ++ [(1, d)]) asks true)

/-- An element of an epilogue vector. -/
def epiElem (e : Env) (en : Bool) (space base idx dflt : Nat) (s : State) : Except EngStop (Nat × State) :=
  if en then engRead s e space ((base + 4 * idx : Nat) : Int) 4 else .ok (dflt, s)

/-- The epilogue of 01 R42 in F32 and the conversion to the output format. A clamp takes −0 below +0, as FMAX and FMIN do, while
its bounds are compared as numbers (DESIGN CHOICE, log 81). -/
def epilogue (v : Int) (rs cs bias act lo hi ofmt : Nat) (tag : NanTag) : Nat :=
  let f := fF32
  let t := if f.isNan rs then genNan f tag 3 else mulIntF32 0 tag 1 v rs
  let t := if f.isNan t then t else if f.isNan cs then genNan f tag 3 else fmul f 0 tag t cs
  let t := if f.isNan t then t else if f.isNan bias then genNan f tag 3 else fadd f 0 tag t bias
  let t := match act with
    | 1 => if f.isNan t then t else if f.sign t then 0 else t
    | 2 =>
      if f.isNan lo || f.isNan hi || decide (0 < fcompare f lo hi) then genNan f tag 6
      else if f.isNan t then t
      else fminmax f false false (fminmax f true false t lo) hi
    | _ => t
  match ofmt with
  | 0 => t
  | 1 => fconvert f fBF16 0 t
  | 2 => fconvert f fF16 0 t
  | _ => wrap (floatToInt f 0 (-128) 127 t) 8

/-- A mark widens the range of columns to recompute (R171). -/
def markColumns (r : BitVec 512) (lo hi : Nat) : BitVec 512 :=
  let (a, z) := if Slot.pcolHi r ≤ Slot.pcolLo r then (lo, hi) else (min (Slot.pcolLo r) lo, max (Slot.pcolHi r) hi)
  let r := Slot.put (Slot.put r 112 16 a) 128 16 z
  if Slot.state r = 2 then Slot.setState r 4 else r

/-- The mark that a failed check puts on the slot the tile comes from (07 R171), by a drain of the slot's own context (R159). The
provenance of a tile outlives the claim of the group that delivered it (DESIGN CHOICE, log 84). -/
def markSlot (s : State) (core q t n ctx : Nat) : State :=
  match mapFind (s.core core).prov (q * 24 + t) with
  | none => s
  | some p =>
    if p.ctx != ctx then s
    else s.modCtx p.ctx fun c =>
      let v := c.slot p.slot
      let col := 32 * ((t - p.t0) % p.cols) + n
      if v.serial != p.serial || Slot.state v.bits = 0 then c
      else { c with slots := mapPut c.slots p.slot { v with bits := markColumns v.bits col (col + 1) } }

/-- Element (m, n) of a drain; a failed check is RNS_CHECK. -/
def drainElem (e : Env) (core : Nat) (c : Cmd) (s : State) (p : Nat × Nat) : Except EngStop (Nat × State) :=
  let b := c.block
  let q := blkBits b 0 5 2
  let t := blkBits b 0 0 5
  if (s.core core).accUe.contains (q * 24 + t) then .error (.err s .accUe (some q))
  else
    match accValue (((s.core core).tile q t).getD (p.1 * 32 + p.2) 0) with
    | none => .error (.err (markSlot s core q t p.2 e.n) .rnsCheck (some q))
    | some v =>
      let d := mapGet 0 c.descs 0
      let row := blkWord b 1 + p.1
      match epiElem e (Desc.rsEn d) (Desc.rsSpace d) (Desc.rowScale d) row fF32.oneBits s with
      | .error x => .error x
      | .ok (rs, s) =>
        match epiElem e (Desc.csEn d) (Desc.csSpace d) (Desc.colScale d) (blkWord b 2 + p.2) fF32.oneBits s with
        | .error x => .error x
        | .ok (cs, s) =>
          match epiElem e (Desc.biasEn d) (Desc.biasSpace d) (Desc.bias d) row 0 s with
          | .error x => .error x
          | .ok (bias, s) =>
            .ok (epilogue v rs cs bias (blkBits b 0 21 2) (blkWord b 3) (blkWord b 4) (blkBits b 0 23 3)
              { lane := p.2, pc := c.pc.toNat }, s)

/-- Rows that every reader has read, has left by exiting, or does not exist for (R308). -/
def rowsFreed (s : State) (e : Env) (c : Cmd) : Nat :=
  let first := 64 * blkBits c.block 0 16 4 + 32 * blkBits c.block 0 20 1
  (List.range 32).foldl
    (fun m r => match (s.group? e.r.group).bind fun g => g.threads[first + r]? with
      | some h => if h.status = .exited then m else min m (c.reads.getD r 0)
      | none => m) 32

/-- Readers whose row is there go on. -/
def wakeReaders (s : State) (c : Cmd) : State :=
  let first := 64 * blkBits c.block 0 16 4 + 32 * blkBits c.block 0 20 1
  settlePeers (s.modGroup c.gid fun g => g.eachHart fun w h => match w with
    | .thread t =>
      if h.status = .blocked && h.wait == .drain && decide (first ≤ t) && decide (t < first + 32)
        && decide (c.reads.getD (t - first) 0 < c.rows.length) then wakeHart h else h
    | .steward => h)

/-- DRAIN_ROW_CONVERT: the next row of an MXD (R307). With row f the oldest not freed, rows f to f + 7 may stand converted (R308; DESIGN
CHOICE, log 99). -/
def execDrainRowConvert (core k : Nat) (s : State) : Host.Outcome State Fault Refusal :=
  match cmdAt s core k with
  | none => .next s
  | some (c, g) =>
    match c.kind, cmdEnv s c with
    | .mxd _, some e =>
      let m := c.rows.length
      if !c.started || decide (32 ≤ m) || decide (rowsFreed s e c + 8 ≤ m) then .next s
      else
        (match engFold (drainElem e core c) s ((List.range 32).map fun n => (m, n)) with
        | .error x => .next (engFail s core g c x)
        | .ok (vs, s) =>
          let out (v : Nat) : Word := BitVec.ofNat 32 (if blkBits c.block 0 23 3 = 3 then wrap (sext v 8) 32 else v)
          let c := { c with rows := c.rows ++ [vs.map out], progress := m + 1, fetched := [] }
          .next (wakeReaders (putCmd s core c) c))
    | _, _ => .next s

/-- .Z: the tile is Fwd(0) when the drain completes. -/
def drainZero (s : State) (core : Nat) (z : Bool) (c : Cmd) : State :=
  if z then putTile s core (blkBits c.block 0 5 2) (blkBits c.block 0 0 5) zeroTile none else s

/-- MXD_COMPLETE: row 31 is freed (R308). -/
def execMxdComplete (core k : Nat) (s : State) : Host.Outcome State Fault Refusal :=
  match cmdAt s core k with
  | none => .next s
  | some (c, _) =>
    match c.kind, cmdEnv s c with
    | .mxd z, some e =>
      if !c.started || c.rows.length != 32 || rowsFreed s e c != 32 then .next s
      else .next (endCmd (drainZero s core z c) core c)
    | _, _ => .next s

/-- Elements drained in order until one fails. -/
def drainUntil (e : Env) (core : Nat) (c : Cmd) (d : BitVec 1024) : State → List (Nat × Nat) → List EngWrite × State × Option EngStop
  | s, [] => ([], s, none)
  | s, p :: ps =>
    match drainElem e core c s p with
    | .error x => ([], s, some x)
    | .ok (v, s) =>
      match resolveTensor (fun _ => 0) d (mxsCoord c.block p.1 p.2) with
      | .at a _ =>
        (match engWrite s e (Desc.space d) a (elemBits (Desc.fmt d)) false v with
        | .error x => ([], s, some x)
        | .ok (w, s) =>
          let r := drainUntil e core c d s ps
          (w :: r.1, r.2.1, r.2.2))
      | _ => drainUntil e core c d s ps

/-- The points of the rows of an MXS from its progress up to `n`. -/
def mxsPoints (c : Cmd) (n : Nat) : List (Nat × Nat) := (tilePoints.drop (32 * c.progress)).take (32 * (n - c.progress))

/-- The rows of an MXS from its progress up to `n` written, up to an element that fails. -/
def mxsMove (e : Env) (core : Nat) (c : Cmd) (n : Nat) (s : State) : State × Option EngStop :=
  let r := drainUntil e core c (mapGet 0 c.descs 1) s (mxsPoints c n)
  match r.2.2 with
  | some (.err s' cause q) => (s, some (.err (engPerform e none c.id s' r.1) cause q))
  | some (.page a) => (engPerform e none c.id r.2.1 r.1, some (.page a))
  | some (.ask link chip a size) => (s, some (.ask link chip a size))
  | none => (putCmd (engPerform e none c.id r.2.1 r.1) core { c with progress := n, fetched := [] }, none)

/-- What an MXS is about to write goes to the comparator first: every element, or those before the one that fails (18 R374 row 5). -/
def mxsAsks (level : Nat) (c : Cmd) (r : List EngWrite × State × Option EngStop) : Bool :=
  decide (2 ≤ level) && c.asked == 0 && (r.2.2.isNone || !r.1.isEmpty) && !(r.2.2 matches some (.ask ..))

/-- MXS_COMPLETE (R309): what is left is written, under IL2 once the comparator has matched it; and it completes once its writes
over a link are performed. -/
def execMxsComplete (core k : Nat) (s : State) : Host.Outcome State Fault Refusal :=
  match cmdAt s core k with
  | none => .next s
  | some (c, g) =>
    match c.kind, cmdEnv s c with
    | .mxs z, some e =>
      if !c.started then .next s
      else
        let r := drainUntil e core c (mapGet 0 c.descs 1) s (mxsPoints c 32)
        if mxsAsks e.gr.level c r then .next (askWrites (if r.2.2.isNone then r.2.1 else s) e core c (r.1.map EngWrite.words).flatten)
        else if 2 ≤ e.gr.level && c.matched < c.asked then .next s
        else
          match mxsMove e core c 32 s with
          | (s, some x) => .next (engFail s core g c x)
          | (s, none) => .next (if engReleased s c.id then endCmd (drainZero s core z c) core c else s)
    | _, _ => .next s

/-! ## The copy engine (06 R158, 14 R300 to R303) -/

/-- Every vector below the extents, in order. -/
def extentPoints : List Nat → List (List Int)
  | [] => [[]]
  | n :: ns => ((extentPoints ns).map fun e => (List.range n).map fun (x : Nat) => (x : Int) :: e).flatten

/-- π(i) of a CPY block. -/
def cpyPerm (b : List Word) (i : Nat) : Nat := blkBits b 1 (3 * i) 3

def cpySource (b : List Word) (rank : Nat) (e : List Int) : List Int :=
  (List.range rank).map fun i => (if i < 4 then sext (blkWord b (4 + i)) 32 else 0) + e.getD (cpyPerm b i) 0

def cpyExtents (d : BitVec 1024) : List Nat := (List.range (Desc.rank d)).map (Desc.size d)

/-- Destination elements of a CPY. -/
def cpyCount (d : BitVec 1024) : Nat := (cpyExtents d).foldl (· * ·) 1

def overlapAsks (a b : List LockAsk) : Bool := a.any fun x => b.any x.meets

def execCpy (f : Form) (s : State) : Host.Outcome State Fault Refusal :=
  issue rowCpy f s fun e s =>
    let b := blockWords s e rowCpy f 8
    let look := (s.ctx e.n).desc
    let src := look (blkBits b 0 0 8)
    let dst := look (blkBits b 0 8 8)
    let r := Desc.rank dst
    if blkBits b 0 19 13 != 0 || blkBits b 1 21 11 != 0 then trapAct .tensorGeom
    else if blkWord b 2 % 4 != 0 || decide (Hdr.cbytes e.hdr < blkWord b 2 + 4) then trapAct .cpyCompletion
    else
      match storeOf look src, storeOf look dst with
      | some st, some _ =>
        let perm := (List.range r).map (cpyPerm b)
        if Desc.kind dst = 1 || Desc.rank src != r || Desc.fmt st != Desc.fmt dst
            || blkWord b 1 / 2 ^ (3 * r) != 0 || !decide perm.Nodup || perm.any fun p => decide (r ≤ p) then trapAct .tensorGeom
        else if (extentPoints (cpyExtents dst)).any fun p => resolveTensor look src (cpySource b r p) matches .trap _ then trapAct .cpyRange
        else
          let la := lockOf s e st false
          let lb := lockOf s e dst true
          if overlapAsks la lb then trapAct .cpyRange
          else if decide (16 ≤ ((s.core e.g.coreNo).cmds.filter fun c => c.kind == .cpy).length) then .hold
          else acceptCmd s e .cpy b [(0, src), (1, dst), (2, st)] (la ++ lb) false
      | _, _ => trapAct .tidInvalid

/-- One element of a copy: read with the source's clipping, written with the destination's. -/
def cpyElem (e : Env) (c : Cmd) (s : State) (p : List Int) : Except EngStop (List EngWrite × State) :=
  let src := mapGet 0 c.descs 0
  let dst := mapGet 0 c.descs 1
  let st := mapGet 0 c.descs 2
  let bits := elemBits (Desc.fmt dst)
  let got : Except EngStop (Nat × State) :=
    match resolveTensor (fun _ => st) src (cpySource c.block (Desc.rank dst) p) with
    | .at a odd =>
      (match engRead s e (Desc.space st) a (if bits = 4 then 1 else bits / 8) with
      | .error x => .error x
      | .ok (v, s) => .ok (if bits = 4 then (if odd then v / 16 else v % 16) else v, s))
    | _ => .ok (Desc.pad src, s)
  match got with
  | .error x => .error x
  | .ok (v, s) =>
    match resolveTensor (fun _ => 0) dst p with
    | .at a odd =>
      (match engWrite s e (Desc.space dst) a bits odd v with
      | .error x => .error x
      | .ok (w, s) => .ok ([w], s))
    | _ => .ok ([], s)

/-- The elements of a CPY from its progress up to `n` moved. -/
def cpyMove (e : Env) (core : Nat) (c : Cmd) (n : Nat) (s : State) : Except EngStop State :=
  match engFold (cpyElem e c) s (((extentPoints (cpyExtents (mapGet 0 c.descs 1))).drop c.progress).take (n - c.progress)) with
  | .error x => .error x
  | .ok (ws, s) => .ok (putCmd (engPerform e none c.id s ws.flatten) core { c with progress := n, fetched := [] })

/-- CPY_COMPLETE: every element moved; then, once what went over a link is performed, and under IL2 once the comparator has matched
it, the completion word. -/
def execCpyComplete (core k : Nat) (s : State) : Host.Outcome State Fault Refusal :=
  match cmdAt s core k with
  | none => .next s
  | some (c, g) =>
    if !c.started || c.kind != .cpy then .next s
    else
      match cmdEnv s c with
      | none => .next s
      | some e =>
        match cpyMove e core c (cpyCount (mapGet 0 c.descs 1)) s with
        | .error x => .next (engFail s core g c x)
        | .ok s =>
          if !engReleased s c.id then .next s
          else if 2 ≤ e.gr.level && c.asked = 0 then
            .next (askWrites s e core { c with progress := cpyCount (mapGet 0 c.descs 1) } [blkWord c.block 2, blkWord c.block 3])
          else if 2 ≤ e.gr.level && c.matched = 0 then .next s
          else .next (endCmd (writeDue s (cpyDue g c 0)) core c)

/-- How far a command has come when its context is halted: at least as far as it was (17 R357, R358; log 27). -/
def reached (s : State) (c : Cmd) (total : Nat) : Nat := max c.progress (min total (Config.engineProgress s.free))

/-- A started command stopped by a pre-emption, behind a K-step, a row or an element, with an integrity event that it meets on its
way (17 R365). Where a write waits for the comparator, or a next access has no page or asks a peer, it stops where it is. -/
def moveCmd (s : State) (core : Nat) (c : Cmd) : State × Option EngStop :=
  match cmdEnv s c with
  | none => (s, none)
  | some e =>
    let s1 := { s with free := s.free + 1 }
    let event : EngStop → Option EngStop
      | .err s' cause q => some (.err s' cause q)
      | _ => none
    let moved : Except EngStop State → State × Option EngStop
      | .ok s2 => (s2, none)
      | .error x => (s1, event x)
    if !c.started then (s, none)
    else match c.kind with
      | .cpy => moved (cpyMove e core c (reached s c (cpyCount (mapGet 0 c.descs 1))) s1)
      | .mx .. => moved (mxMove e core c (reached s c (blkBits c.block 3 0 9)) s1)
      | .mxs _ =>
        if 2 ≤ e.gr.level then (s, none)
        else (match mxsMove e core c (reached s c 32) s1 with
          | (s2, none) => (s2, none)
          | (_, some x) => (s1, event x))
      | _ => (s, none)

/-- The oldest CPY of the group with a completion offset. -/
def findCpy (s : State) (e : Env) (cdone : Nat) : Option Cmd :=
  (s.cmdsOf e.r.group e.g).find? fun c => c.kind == .cpy && blkWord c.block 2 == cdone

def execCpyq (f : Form) (s : State) : Host.Outcome State Fault Refusal :=
  issue rowCpyq f s fun e s =>
    let n := match findCpy s e (zext (e.A s rowCpyq f) 32) with
      | some c => (cpyCount (mapGet 0 c.descs 1) - c.progress) % 2 ^ 32
      | none => 0xFFFFFFFF
    .done (writeDst s e rowCpyq f n)

def execCpyc (f : Form) (s : State) : Host.Outcome State Fault Refusal :=
  issue rowCpyc f s fun e s =>
    match findCpy s e (zext (e.A s rowCpyc f) 32) with
    | none => .done s
    | some c => .done (cancelCpy (removeCmd s e.g.coreNo c.id) e.g c)

end Sys2Proof.Machine
end

