-- ==== Sys2Proof/Machine/Slots.lean ====
section
/-!
DEFINITION. Reuse slots (07 R159 to R176, 14 R311, R312): their instructions, opcodes 0x318 to 0x31D, and the happenings
of a DLT in flight; and the start of every engine command (14 R296). While a DLT runs, FULL_RUN stands in its command;
RSQ sees the record's own (R168).
-/
namespace Sys2Proof.Machine

/-! ## Records -/

/-- A DLT holds the slot (R174). -/
def slotHeld (s : State) (n k : Nat) : Bool :=
  s.cores.any fun p => p.2.cmds.any fun c =>
    c.kind == .dlt && blkBits c.block 0 0 6 == k
      && (match s.group? c.gid with | some g => g.ctx == n | none => false)

/-- The turns of the stewards of a context that wait for a slot, in the order of their arrival (R174). -/
def slotWaiters (s : State) (n k : Nat) : List Nat :=
  s.groups.filterMap fun p =>
    if p.2.ctx == n && s.groupLive p.2 then
      (match p.2.steward.slotAt with | some (j, t) => if j = k then some t else none | none => none)
    else none

/-- A slot instruction waits while a DLT holds its slot, and behind the stewards that have waited longer (R174). -/
def slotTurn (s : State) (e : Env) (k : Nat) (go : Act) : Act :=
  match e.h.slotAt with
  | some (j, t) =>
    if j = k && (slotHeld s e.n k || (slotWaiters s e.n k).any fun x => decide (x < t)) then .hold else go
  | none =>
    if slotHeld s e.n k || !(slotWaiters s e.n k).isEmpty then
      .raw ({ s with free := s.free + 1 }.modHart e.r fun h => { h with slotAt := some (k, s.free) })
    else go

/-- No binding, or an invocation saved: what RSINV, RSREF and DLT do not accept (R166). -/
def slotUnfit (r : BitVec 512) : Bool := Slot.state r == 0 || Slot.state r == 5

/-- STATE as RSQ and DLT take it, for a current version of the weight descriptor (R165). -/
def effectiveState (r : BitVec 512) (version : Nat) : Nat :=
  let st := Slot.state r
  if (st = 2 || st = 4) && (version != Slot.wVersion r || version == 0xFFFFFFFF || Slot.wVersion r == 0xFFFFFFFF) then 3 else st

/-- A slot's record written. -/
def State.setSlot (s : State) (n k : Nat) (bits : BitVec 512) : State :=
  s.modCtx n fun c => { c with slots := mapPut c.slots k { c.slot k with bits := bits } }

/-- The weight descriptor serves the record: BLOCKED, ROLE A, I8, K × M (R163). -/
def weightOk (d : BitVec 1024) (kb m : Nat) : Bool :=
  operandOk d false 9 && Desc.size d 0 == 16 * kb && Desc.size d 1 == m

def rangesMeet (sa la ha sb lb hb : Nat) : Bool := sa == sb && decide (la ≤ hb) && decide (lb ≤ ha)

/-- The geometry of a binding (R163 check 4). -/
def bindOk (d : BitVec 1024) (r : BitVec 512) : Bool :=
  let m := Slot.rows r
  let n := Slot.cols r
  let kb := Slot.kb r
  let refHi := Slot.refBase r + Slot.refBytes r - 1
  let resHi := Slot.resBase r + Slot.resBytes r - 1
  weightOk d kb m
  && m % 32 == 0 && decide (32 ≤ m) && decide (m ≤ 768) && decide (1 ≤ n) && decide (n ≤ 768) && decide (1 ≤ kb)
  && decide (kb ≤ 2047) && decide (ceilDiv m 32 * ceilDiv n 32 ≤ 24)
  && decide (3 ≤ Slot.refSpace r) && decide (Slot.refSpace r ≤ 4) && decide (3 ≤ Slot.resSpace r) && decide (Slot.resSpace r ≤ 4)
  && Slot.refBase r % 128 == 0 && Slot.resBase r % 128 == 0
  && !rangesMeet (Slot.refSpace r) (Slot.refBase r) refHi (Slot.resSpace r) (Slot.resBase r) resHi
  && (match footprint d with
      | none => true
      | some (a, z) =>
        !rangesMeet (Slot.refSpace r) (Slot.refBase r) refHi (Desc.space d) a.toNat z.toNat
        && !rangesMeet (Slot.resSpace r) (Slot.resBase r) resHi (Desc.space d) a.toNat z.toNat)

/-! ## The slot instructions -/

/-- The record that an RSBIND block and a version set up (R163). -/
def bindRecord (b : List Word) (version : Nat) : BitVec 512 :=
  let put := Slot.put
  let r := put (put (put 0 32 7 (blkBits b 0 16 7)) 56 8 (blkBits b 0 8 8)) 40 8 (blkBits b 1 8 8)
  let r := put (put (put r 48 8 (blkBits b 1 0 8)) 29 3 (blkBits b 1 16 3)) 26 3 (blkBits b 1 19 3)
  let r := put (put (put r 96 16 (blkBits b 2 0 16)) 80 16 (blkBits b 2 16 16)) 64 16 (blkBits b 3 0 16)
  let r := put (put r 192 64 (blkWord b 4 + 2 ^ 32 * blkWord b 5)) 256 64 (blkWord b 6 + 2 ^ 32 * blkWord b 7)
  Slot.setState (put r 160 32 version) 1

def execRsbind (f : Form) (s : State) : Host.Outcome State Fault Refusal :=
  issue rowRsbind f s fun e s =>
    let b := blockWords s e rowRsbind f 8
    let k := blkBits b 0 0 6
    let c := s.ctx e.n
    let d := c.desc (blkBits b 0 8 8)
    let r := bindRecord b (Desc.version d)
    if blkBits b 0 24 8 != 0 || blkBits b 0 6 2 != 0 || blkBits b 1 22 10 != 0 || blkBits b 3 16 16 != 0 then trapAct .tensorGeom
    else slotTurn s e k <|
    if Slot.state (c.slot k).bits != 0 || 127 < blkBits b 0 16 8 then trapAct .rslotState
    else if (storeOf c.desc d).isNone then trapAct .tidInvalid
    else if !Desc.watch d then trapAct .rslotVersion
    else if !bindOk d r then trapAct .tensorGeom
    else .done (s.modCtx e.n fun c => { c with slots := mapPut c.slots k { bits := r, serial := (c.slot k).serial + 1 } })

def execRsparam (f : Form) (s : State) : Host.Outcome State Fault Refusal :=
  issue rowRsparam f s fun e s =>
    let b := blockWords s e rowRsparam f 2
    let k := blkBits b 0 0 6
    let r := ((s.ctx e.n).slot k).bits
    if blkBits b 0 24 8 != 0 || blkBits b 0 6 2 != 0 || blkBits b 1 22 10 != 0 then trapAct .tensorGeom
    else slotTurn s e k <|
    if Slot.state r = 0 || 127 < blkBits b 0 16 8 then trapAct .rslotState
    else .done (s.setSlot e.n k
      (Slot.put (Slot.put (Slot.put r 32 7 (blkBits b 0 16 7)) 40 8 (blkBits b 1 8 8)) 48 8 (blkBits b 1 0 8)))

/-- RSINV, the invalidate form (R166). -/
def execRsinv (f : Form) (s : State) : Host.Outcome State Fault Refusal :=
  issue rowRsinv f s fun e s =>
    let k := zext (e.A s rowRsinv f) 32
    let r := ((s.ctx e.n).slot k).bits
    if 63 < k then trapAct .rslotState
    else slotTurn s e k <|
    if slotUnfit r then trapAct .rslotState
    else .done (s.setSlot e.n k (Slot.setState (Slot.put (Slot.put (Slot.put r 112 16 0) 128 16 0) 144 16 0) 1))

/-- RSINV.REL (R166). -/
def execRsinvRel (f : Form) (s : State) : Host.Outcome State Fault Refusal :=
  issue rowRsinvRel f s fun e s =>
    let k := zext (e.A s rowRsinvRel f) 32
    if 63 < k then trapAct .rslotState
    else slotTurn s e k (.done (s.setSlot e.n k 0))

def execRsref (f : Form) (s : State) : Host.Outcome State Fault Refusal :=
  issue rowRsref f s fun e s =>
    let k := zext (e.A s rowRsref f) 32
    let lo := zext (e.B s rowRsref f) 32
    let hi := zext (e.C s rowRsref f) 32
    let r := ((s.ctx e.n).slot k).bits
    if 63 < k then trapAct .rslotState
    else slotTurn s e k <|
    if slotUnfit r || decide (hi ≤ lo) || decide (Slot.cols r < hi) then trapAct .rslotState
    else .done (s.setSlot e.n k (markColumns r lo hi))

/-- RSQ: one word of the record, STATE as R165 has it. -/
def execRsq (f : Form) (s : State) : Host.Outcome State Fault Refusal :=
  issue rowRsq f s fun e s =>
    let k := zext (e.A s rowRsq f) 32
    let w := zext (e.B s rowRsq f) 32
    if 63 < k || 7 < w then trapAct .rslotState
    else
      let c := s.ctx e.n
      let r := (c.slot k).bits
      let r := Slot.setState r (effectiveState r (Desc.version (c.desc (Slot.wTid r))))
      .done (writeDst s e rowRsq f (field r (64 * w) 64))

/-! ## DLT (R167) -/

/-- The lock of one of a slot's buffers. -/
def bufferLock (s : State) (e : Env) (space base bytes : Nat) : List LockAsk :=
  lockAsk s e space (base : Int) ((base + bytes : Nat) - 1 : Int) true

def execDlt (f : Form) (s : State) : Host.Outcome State Fault Refusal :=
  issue rowDlt f s fun e s =>
    let b := blockWords s e rowDlt f 1
    let k := blkBits b 0 0 6
    let c := s.ctx e.n
    let r := (c.slot k).bits
    let w := c.desc (Slot.wTid r)
    let x := c.desc (blkBits b 0 8 8)
    let asks := lockOf s e w false ++ lockOf s e x false
      ++ bufferLock s e (Slot.refSpace r) (Slot.refBase r) (Slot.refBytes r)
      ++ bufferLock s e (Slot.resSpace r) (Slot.resBase r) (Slot.resBytes r)
    if blkBits b 0 26 6 != 0 || blkBits b 0 21 3 != 0 || blkBits b 0 6 2 != 0 then trapAct .tensorGeom
    else if !e.h.stores.isEmpty || linkBusy s e.r then .hold
    else slotTurn s e k <|
    if slotUnfit r then trapAct .rslotState
    else if (storeOf c.desc w).isNone || (storeOf c.desc x).isNone then trapAct .tidInvalid
    else if !Desc.watch w then trapAct .rslotVersion
    else if !bindOk w r || !(operandOk x true 9 && Desc.size x 0 == 16 * Slot.kb r && Desc.size x 1 == Slot.cols r) then trapAct .tensorGeom
    else if 24 < blkBits b 0 16 5 + ceilDiv (Slot.rows r) 32 * ceilDiv (Slot.cols r) 32 then trapAct .accTile
    else withClaim s e (acceptCmd s e .dlt b [(0, w), (1, x)] asks true)

/-- The matrix unit keeps the tiles of an MX as they were at its start (14 R298). -/
def startTiles (s : State) (core : Nat) (c : Cmd) : Map (List (BitVec 40)) :=
  match c.kind with
  | .mx .. => c.depths.map fun p => (p.1, mapGet zeroTile (s.core core).acc p.1)
  | _ => []

/-- ENGINE_COMMAND_START (14 R296): a fresh DLT decides whether it computes fully (R167), and takes the range of columns of its slot
to recompute. A mark that a drain makes later serves none of its block steps, and its completion clears it: the pseudocode names the
record at each step, R171 speaks of earlier marks (DESIGN CHOICE, log 94). -/
def execEngineCommandStart (core k : Nat) (s : State) : Host.Outcome State Fault Refusal :=
  match cmdAt s core k with
  | none => .next s
  | some (c, _) =>
    if !canStart s core c then .next s
    else
      let s := takeAgain s c
      let c := { c with started := true, snapshot := startTiles s core c, again := false, relock := [] }
      let c := match c.kind, s.group? c.gid with
        | .dlt, some g =>
          if c.progress = 0 then
            let r := ((s.ctx g.ctx).slot (blkBits c.block 0 0 6)).bits
            let st := effectiveState r c.version
            let full := st = 1 || st = 3 || decide (Slot.slotMax c.slotRec ≤ Slot.age r)
            { c with slotRec := Slot.put (Slot.put (Slot.put c.slotRec 22 1 (boolNat full)) 112 16 (Slot.pcolLo r)) 128 16 (Slot.pcolHi r) }
          else c
        | _, _ => c
      .next (putCmd s core c)

/-- The place of element (k, n) of the reference input (R161). -/
def refAddr (r : BitVec 512) (k n : Nat) : Nat :=
  Slot.refBase r + ((n / 32) * ceilDiv (Slot.kb r) 4 + k / 64) * 2048 + n % 32 * 64 + k % 64

def ageAddr (r : BitVec 512) (b n : Nat) : Nat := Slot.refBase r + Slot.xBytes r + n * Slot.kb r + b

/-- The place of word (m, n) of the reference result. -/
def resAddr (r : BitVec 512) (m n : Nat) : Nat :=
  Slot.resBase r + 8 * ((m / 32 * ceilDiv (Slot.cols r) 32 + n / 32) * 1024 + m % 32 * 32 + n % 32)

/-- Products of a column-block with W, row by row. -/
def rowProducts (e : Env) (w : BitVec 1024) (b : Nat) (v : List Int) (s : State) (m : Nat) : Except EngStop (Int × State) :=
  match engVec e w (16 * b) 16 s m with
  | .error x => .error x
  | .ok (ws, s) => .ok (dotInt ws v, s)

/-- The new word (m, n) of the reference result. -/
def resWord (e : Env) (r : BitVec 512) (fresh : Bool) (n : Nat) (s : State) (p : Int × Nat) : Except EngStop (BitVec 40 × State) :=
  if fresh then .ok (accAdd 0 p.1, s)
  else match engRead s e (Slot.resSpace r) (resAddr r p.2 n) 8 with
    | .error x => .error x
    | .ok (v, s) => .ok (accAdd (BitVec.ofNat 40 v) p.1, s)

/-- An element of the reference input. -/
def refElem (e : Env) (r : BitVec 512) (n : Nat) (s : State) (k : Nat) : Except EngStop (Int × State) :=
  match engRead s e (Slot.refSpace r) (refAddr r k n) 1 with
  | .error x => .error x
  | .ok (v, s) => .ok (sext v 8, s)

/-- The writes of an updated column-block: the words of Y_ref, the elements of X_ref, the age 0. -/
def blockWrites (s : State) (e : Env) (r : BitVec 512) (b n : Nat) (ys : List (BitVec 40)) (xs : List Int) :
    Except EngStop (List EngWrite × State) :=
  engFold (fun s (p : Nat × Nat × Nat × Nat) => engWrite s e p.1 (p.2.1 : Int) p.2.2.1 false p.2.2.2) s
    ((ys.zipIdx.map fun p => (Slot.resSpace r, resAddr r p.2 n, 64, p.1.toNat))
      ++ (xs.zipIdx.map fun p => (Slot.refSpace r, refAddr r (16 * b + p.2) n, 8, wrap p.1 8))
      ++ [(Slot.refSpace r, ageAddr r b n, 8, 0)])

/-- What one block step computes: its writes, and whether it updated; a column that is computed fully reads no age (R167). -/
def blockStep (s : State) (e : Env) (c : Cmd) (b n : Nat) : Except EngStop ((List EngWrite × Bool) × State) :=
  let r := c.slotRec
  let w := mapGet 0 c.descs 0
  let x := mapGet 0 c.descs 1
  match engVec e x (16 * b) 16 s n with
  | .error z => .error z
  | .ok (ins, s) =>
    match engFold (refElem e r n) s ((List.range 16).map fun i => 16 * b + i) with
    | .error z => .error z
    | .ok (refs, s) =>
      let full := Slot.fullRun r || (decide (Slot.pcolLo r ≤ n) && decide (n < Slot.pcolHi r))
      match if full then .ok (0, s) else engRead s e (Slot.refSpace r) (ageAddr r b n) 1 with
      | .error z => .error z
      | .ok (age, s) =>
        let d := (ins.zip refs).map fun p => p.1 - p.2
        let big := d.any fun v => decide (Slot.tau r ≤ v.natAbs)
        if full || big || Slot.tau r = 0 || decide (Slot.blkMax r ≤ age) then
          match engFold (rowProducts e w b (if full then ins else d)) s (List.range (Slot.rows r)) with
          | .error z => .error z
          | .ok (sums, s) =>
            match engFold (resWord e r (full && b == 0) n) s sums.zipIdx with
            | .error z => .error z
            | .ok (ys, s) =>
              match blockWrites s e r b n ys ins with
              | .error z => .error z
              | .ok (ws, s) => .ok ((ws, true), s)
        else
          match engWrite s e (Slot.refSpace r) (ageAddr r b n) 8 false (age + 1) with
          | .error z => .error z
          | .ok (w, s) => .ok (([w], false), s)

/-- DLT_BLOCK_STEP: one column-block, indivisibly (R168); under IL2 once the comparator has matched its writes. -/
def execDltBlockStep (core k : Nat) (s : State) : Host.Outcome State Fault Refusal :=
  match cmdAt s core k with
  | none => .next s
  | some (c, g) =>
    match cmdEnv s c with
    | none => .next s
    | some e =>
      let r := c.slotRec
      let k := blkBits c.block 0 0 6
      if c.kind != .dlt || !c.started || decide (Slot.cols r * Slot.kb r ≤ c.progress) then .next s
      else
        match blockStep s e c (c.progress % Slot.kb r) (c.progress / Slot.kb r) with
        | .error x => .next (engFail s core g c x)
        | .ok ((ws, updated), s) =>
          if 2 ≤ e.gr.level && c.asked ≤ c.progress then .next (askWrites s e core c (ws.map EngWrite.words).flatten)
          else if 2 ≤ e.gr.level && c.matched ≤ c.progress then .next s
          else
          let s := engPerform e (some (g.ctx, k)) c.id s ws
          let rec0 := ((s.ctx g.ctx).slot k).bits
          let rec1 := Slot.put rec0 0 21 (c.progress + 1)
          let rec1 := if updated then Slot.put rec1 384 64 (Slot.updated rec1 + 1) else Slot.put rec1 448 64 (Slot.skipped rec1 + 1)
          .next (putCmd (s.setSlot g.ctx k rec1) core { c with progress := c.progress + 1, fetched := [] })

/-- The tile word (m, n) that a DLT delivers. -/
def deliverWord (e : Env) (r : BitVec 512) (s : State) (p : Nat × Nat) : Except EngStop (BitVec 40 × State) :=
  if Slot.cols r ≤ p.2 then .ok (0, s)
  else match engRead s e (Slot.resSpace r) (resAddr r p.1 p.2) 8 with
    | .error x => .error x
    | .ok (v, s) => .ok (BitVec.ofNat 40 v, s)

/-- One tile of the result: its 1,024 words in row order. -/
def deliverTile (e : Env) (r : BitVec 512) (s : State) (i : Nat) : Except EngStop (List (BitVec 40) × State) :=
  let nt := ceilDiv (Slot.cols r) 32
  engFold (deliverWord e r) s (tilePoints.map fun p => (32 * (i / nt) + p.1, 32 * (i % nt) + p.2))

/-- The record after a completed invocation (R167). -/
def doneRecord (r : BitVec 512) (c : Cmd) : BitVec 512 :=
  let full := Slot.fullRun c.slotRec
  let r := Slot.put r 320 32 (Slot.invocations r + 1)
  let r := if full then Slot.put (Slot.put r 352 32 (Slot.fullCount r + 1)) 144 16 0 else Slot.put r 144 16 (Slot.age r + 1)
  let r := Slot.put (Slot.put (Slot.put r 160 32 c.version) 112 16 0) 128 16 0
  Slot.setState (Slot.put (Slot.put r 0 21 0) 22 1 0) 2

/-- DLT_COMPLETE (R167). -/
def execDltComplete (core k : Nat) (s : State) : Host.Outcome State Fault Refusal :=
  match cmdAt s core k with
  | none => .next s
  | some (c, g) =>
    match cmdEnv s c with
    | none => .next s
    | some e =>
      let r := c.slotRec
      let k := blkBits c.block 0 0 6
      let q := blkBits c.block 0 24 2
      let t0 := blkBits c.block 0 16 5
      let nt := ceilDiv (Slot.cols r) 32
      if c.kind != .dlt || !c.started || c.progress != Slot.cols r * Slot.kb r || !engReleased s c.id then .next s
      else
        match engFold (deliverTile e r) s (List.range (ceilDiv (Slot.rows r) 32 * nt)) with
        | .error x => .next (engFail s core g c x)
        | .ok (tiles, s) =>
          let prov : Prov := { ctx := g.ctx, slot := k, serial := ((s.ctx g.ctx).slot k).serial, t0 := t0, cols := nt }
          let s := tiles.zipIdx.foldl (fun s p => putTile s core q (t0 + p.2) p.1 (some prov)) s
          .next (endCmd (s.setSlot g.ctx k (doneRecord ((s.ctx g.ctx).slot k).bits c)) core c)

end Sys2Proof.Machine
end

