-- ==== Sys2Proof/Machine/Steward.lean ====
section
/-!
DEFINITION. The decision queue (03 R82 to R86, 14 R299), descriptors (14 R313, R314; 06 R146, R157), LAUNCH with the
checks of launch records (14 R315, 15 R326, 16 R334 to R337), SIGNAL (14 R316), random numbers (14 R317, R318) and system
registers (14 R319, R320).
-/
namespace Sys2Proof.Machine

/-! ## The decision queue -/

/-- The entry that a thread pops next, once every result that the steward had outstanding at the push is written (03 R84). -/
def Group.nextEntry (g : Group) (h : Hart) : Option DqEntry :=
  (g.dq[h.dqRead - g.dqBase]?).filter fun en => !(g.steward.results.any fun q => en.after.contains q.id)

/-- The context waits in DQPOP for an entry that can be popped. -/
def Group.popsNow (g : Group) (h : Hart) : Bool := h.status == .blocked && h.wait == .dqpop && (g.nextEntry h).isSome

/-- Threads that wait in DQPOP for an entry that can be popped go on; a group whose image is being written, after its relaunch
(03 R100). -/
def wakePoppers (g : Group) : Group :=
  if g.isEvicting then (if g.harts.any fun p => g.popsNow p.2 then wakeEvicted g else g)
  else g.eachHart fun _ h => if g.popsNow h then wakeHart h else h

/-- Some thread of the group has not exited. -/
def Group.threadLive (g : Group) : Bool := g.threads.any fun h => h.status != .exited

/-- DQPUSH: a release at .GRP and a region boundary. -/
def execDqpush (f : Form) (s : State) : Host.Outcome State Fault Refusal :=
  issue rowDqpush f s fun e s =>
    if !e.h.stores.isEmpty || linkBusy s e.r then .hold
    else if !e.g.threadLive then .done (boundaryAfter s e)
    else if 32 ≤ e.g.dq.length then .block .dqpush s
    else
      let en : DqEntry := { word := BitVec.ofNat 64 (e.A s rowDqpush f), after := e.h.results.map fun q => q.id }
      .done (boundaryAfter (settlePeers (s.modGroup e.r.group fun g => wakePoppers { g with dq := g.dq ++ [en] })) e)

/-- DQPOP: an acquire at .GRP and a region boundary. -/
def execDqpop (f : Form) (s : State) : Host.Outcome State Fault Refusal :=
  issue rowDqpop f s fun e s =>
    if !e.h.stores.isEmpty then .hold
    else match e.g.nextEntry e.h with
      | some en =>
        let s := (writeDst s e rowDqpop f en.word.toNat).modHart e.r fun h => { h.acquire with dqRead := h.dqRead + 1 }
        .done (boundaryAfter (settlePeers (s.modGroup e.r.group freeEntries)) e)
      | none => if e.g.steward.status = .exited then trapAct .dqDrained else .block .dqpop s

def execDqlen (f : Form) (s : State) : Host.Outcome State Fault Refusal :=
  issue rowDqlen f s fun e s =>
    let n := if e.steward then (if e.g.threadLive then e.g.dq.length else 0) else e.g.dqBase + e.g.dq.length - e.h.dqRead
    .done (writeDst s e rowDqlen f n)

/-! ## Descriptors -/

/-- Descriptors of a context that are VALID and WATCHED, but for one TID. -/
def watchCount (c : Ctx) (but : Nat) : Nat :=
  (c.descs.filter fun p => p.1 != but && Desc.valid p.2 && Desc.watch p.2).length

def execTdw (f : Form) (s : State) : Host.Outcome State Fault Refusal :=
  issue rowTdw f s fun e s =>
    let d : BitVec 1024 := BitVec.ofNat 1024 (e.A s rowTdw f)
    let t := zext (e.B s rowTdw f) 32
    let c := s.ctx e.n
    let v := Desc.version (c.desc t)
    if 255 < t then trapAct .tidInvalid
    else if !tdwOk d then trapAct .tensorGeom
    else if Desc.valid d && Desc.watch d && decide (64 ≤ watchCount c t) then trapAct .watchLimit
    else .done (s.modCtx e.n fun c =>
      { c with descs := mapPut c.descs t (Desc.withVersion d (if v = 0xFFFFFFFF then v else v + 1)) })

def execTdr (f : Form) (s : State) : Host.Outcome State Fault Refusal :=
  issue rowTdr f s fun e s =>
    let t := zext (e.A s rowTdr f) 32
    let w := zext (e.B s rowTdr f) 32
    if 255 < t then trapAct .tidInvalid
    else if 15 < w then trapAct .tensorGeom
    else .done (writeDst s e rowTdr f (field ((s.ctx e.n).desc t) (64 * w) 64))

/-! ## Launch records and queues -/

/-- The record checks of 15 R326. -/
def recordOk (r : BitVec 1024) : Bool :=
  let n := Rec.nwaits r
  field r 832 192 == 0 && field r 359 25 == 0
  && Rec.integrity r != 3 && n != 3
  && Rec.gx r != 0 && Rec.gy r != 0 && Rec.gz r != 0
  && Rec.trigEvent r % 8 == 0 && Rec.statusAddr r % 8 == 0 && Rec.signalEvent r % 8 == 0
  && Rec.waitAddr r 0 % 8 == 0 && Rec.waitAddr r 1 % 8 == 0 && Rec.param r % 8 == 0 && Rec.privBase r % 256 == 0
  && Rec.code r != 0 && Rec.code r % 256 == 0
  && (decide (1 ≤ n) || (Rec.waitAddr r 0 == 0 && Rec.waitValue r 0 == 0))
  && (decide (2 ≤ n) || (Rec.waitAddr r 1 == 0 && Rec.waitValue r 1 == 0))

/-- Records written and not dispatched (16 R334). -/
def Queue.occupancy (q : Queue) : Nat := (q.writeIdx - q.readIdx).toNat

def Queue.full (q : Queue) : Bool := decide (2 ^ q.log2 ≤ q.occupancy)

/-- The `g` address of a queue's record slot. -/
def Queue.slotAddr (q : Queue) (i : Word) : Nat := q.qbase.toNat / 128 * 128 + 128 * (i.toNat % 2 ^ q.log2)

/-- A steward of the context may launch into the queue (16 R336). -/
def Queue.launchable (q : Queue) (n : Nat) : Bool :=
  q.enable && q.launchOk && q.ctx == n && !q.held && (q.state == .idle || q.state == .active || q.state == .headWait)

/-- A queue enters ERROR (16 R337). -/
def Queue.fail (q : Queue) (c : Cause) : Queue := { q with state := .error, faultCause := BitVec.ofNat 8 (Cause.code c) }

/-- Step 5 of R315: the record into the next slot, the write index on; none where the slot cannot be written. -/
def appendRecord (s : State) (n p k : Nat) (r : BitVec 1024) : Option State :=
  let q := s.queue p k
  match walked s n (q.slotAddr q.writeIdx) needWrite with
  | (s, .ok (.flat a _)) =>
    some ((writeNat s a 128 r.toNat).modQueue p k fun q =>
      { q with writeIdx := q.writeIdx + 1, state := if q.state = .idle then .active else q.state })
  | _ => none

/-- The 128 bytes of a record at a `g` address, as a scoped read, with the errors it meets, and the reader's own ordered accesses laid
over it (05 R137); none where it cannot complete. -/
def readRecord (s : State) (n va : Nat) (lay : List OrdEntry := []) : State × Option (BitVec 1024) :=
  if 2 ^ 48 ≤ va + 127 then (s, none)
  else match walked s n va needRead with
    | (s, .ok (.flat a _)) =>
      let m := meetSpan s n a 128
      (m.1, if m.2.isSome then none else some (BitVec.ofNat 1024 (memNat (lay.foldl ordOn m.1.mem) a 128)))
    | (s, _) => (s, none)

/-- The stewards held at a queue that leaves ACTIVE or HEAD_WAIT trap with LAUNCH_DENIED (16 R340). -/
def denyLaunchers (s : State) (p k : Nat) : State :=
  s.groups.foldl (fun s x =>
    match x.2.steward.wait with
    | .launch p' k' _ =>
      if p' = p && k' == k && (x.2.steward.status == .blocked || x.2.steward.status == .evicted) then
        raiseTrap s { group := x.1, who := .steward }
          { cause := .launchDenied, pc := x.2.steward.pc, insn := x.2.steward.insn }
      else s
    | _ => s) s

/-- A queue enters ERROR (16 R337). -/
def failQueue (s : State) (p k : Nat) (c : Cause) : State :=
  denyLaunchers (s.modQueue p k fun q => { q.fail c with head := none }) p k

/-- A slot that cannot be written puts the queue in ERROR and kills the group. -/
def launchFault (s : State) (key : Nat) (p k : Nat) (pc : Nat) : State :=
  let q := s.queue p k
  failQueue (killGroup (meetWalk s q.ctx (q.slotAddr q.writeIdx)) key .launchFault pc 0 0) p k .launchFault

/-- The ordered accesses of the context to this device that are not applied. -/
def Env.ownOrd (e : Env) : List OrdEntry := (e.g.pendingOrd e.r.who e.h).filter fun o => o.peer.isNone

/-- The read of a record by LAUNCH. -/
def launchRead (va : Nat) : Access := { space := 4, addr := va, size := 128, write := false, far := decide (2 ^ 48 ≤ va), need := needRead }

/-- LAUNCH (14 R315): its read is an access of the steward, which a range lock stops (05 R133). -/
def execLaunch (f : Form) (s : State) : Host.Outcome State Fault Refusal :=
  issue rowLaunch f s fun e s =>
    let va := e.A s rowLaunch f
    let k := zext (e.B s rowLaunch f) 32
    let c := s.ctx e.n
    if va % 128 != 0 then .trap { cause := .misalign, pc := 0, addr := BitVec.ofNat 64 va, space := 4 }
    else if !e.h.stores.isEmpty || linkBusy s e.r then .hold
    else
      let s := flushL1 s e.g.coreNo
      if checkAccess s e (launchRead va) matches .error .rangeLock then .trap ((launchRead va).trap e .rangeLock)
      else match readRecord s e.n va e.ownOrd with
      | (s, none) => .raw (killGroup s e.r.group .launchFault e.h.pc.toNat 0 0)
      | (s, some r) =>
        if !recordOk r then trapAct .launchRecord
        else if 63 < k || !(s.queue c.part k).launchable e.n || decide (c.ilMax < Rec.integrity r) then trapAct .launchDenied
        else if (s.queue c.part k).full then .block (.launch c.part k r) s
        else match appendRecord s e.n c.part k r with
          | none => .raw (launchFault s e.r.group c.part k e.h.pc.toNat)
          | some s => .done (boundaryAfter s e)

/-- LAUNCH_HELD_PERFORM: a slot of the full queue has freed (14 R315); a group whose image is being written performs it after its
relaunch (03 R100). -/
def execLaunchHeldPerform (r : CtxRef) (s : State) : Host.Outcome State Fault Refusal :=
  match s.group? r.group, s.hart? r with
  | some g, some h =>
    (match h.wait with
    | .launch p k record =>
      if !s.groupLive g || g.isEvicting || h.status != .blocked || (s.queue p k).full || !(s.queue p k).launchable g.ctx then .next s
      else match appendRecord s g.ctx p k record with
        | none => .next (launchFault s r.group p k h.pc.toNat)
        | some s => .next (settleMark (completeWait (s.modHart r fun h => h.boundary (h.pc + 12)) r) r.group)
    | _ => .next s)
  | _, _ => .next s

/-! ## SIGNAL -/

/-- SIGNAL (14 R316). One on a word that the steward's own ordered accesses write follows them: it joins the ordered buffer behind
them, outside its count (05 R123, 13 R290; log 34). -/
def execSignal (f : Form) (s : State) : Host.Outcome State Fault Refusal :=
  issue rowSignal f s fun e s =>
    let a : Access :=
      { space := f.op2.toNat, addr := memAddr s e rowSignal f 8 (sext f.imm.toNat 32), size := 8, write := true
        far := farBase s e rowSignal f, need := needReadWrite }
    let s := meetPath s e a
    match checkAccess s e a with
    | .error c => failAccess s e a c
    | .ok l =>
      if !e.h.stores.isEmpty || linkBusy s e.r then .hold
      else if e.det && !(e.ordMeeting l 8).isEmpty then
        bufferOrd ((flushL1 s e.g.coreNo).modHart e.r Hart.nextSerial) e { e.ordEntry a l (.inl .signal) with words := 0 }
      else
        let s := flushL1 s e.g.coreNo
        match l with
        | .flat p _ =>
          let m := meetMemory s e.n p
          (match m.2 with
          | some c => .event m.1 c
          | none => .done (boundaryAfter
              (signalFlat m.1 e.n p (placeEntry e.g { kind := 2, cause := .eventOverflow, pc := e.h.pc.toNat, quad := e.h.quad })) e))
        | .peer link chip p => .done (boundaryAfter (sendFrom s e link chip p .signal none) e)

/-! ## Random numbers -/

/-- The state after one advance. -/
def randNext (v : BitVec 64) : BitVec 64 := v + 0x9E3779B97F4A7C15

/-- The value that an advanced state gives. -/
def randValue (v : BitVec 64) : BitVec 64 :=
  let z := (v ^^^ (v >>> 30)) * 0xBF58476D1CE4E5B9
  let z := (z ^^^ (z >>> 27)) * 0x94D049BB133111EB
  z ^^^ (z >>> 31)

def execRand (f : Form) (s : State) : Host.Outcome State Fault Refusal :=
  issue rowRand f s fun e s =>
    let st := randNext e.h.rng
    let z := (randValue st).toNat
    let v := match f.ty with
      | .n64 => z
      | .f32 => if z >>> 40 = 0 then 0 else roundMag fF32 0 false (z >>> 40) (-24)
      | _ => z >>> 32
    .done (writeDst (s.modHart e.r fun h => { h with rng := st }) e rowRand f v)

/-- The seed rule of R318. -/
def seedOf (seed : BitVec 64) (index threads tid : Nat) : BitVec 64 :=
  seed ^^^ (BitVec.ofNat 64 (index * threads + tid) * 0xD1B54A32D192ED03)

def execRseed (f : Form) (s : State) : Host.Outcome State Fault Refusal :=
  issue rowRseed f s fun e s =>
    let v := BitVec.ofNat 64 (e.A s rowRseed f)
    let st := if f.op2 = 1 then v else seedOf v e.g.index (Hdr.threads e.hdr) e.tid
    .done (s.modHart e.r fun h => { h with rng := st })

/-! ## System registers -/

/-- The value of an implemented system register (R320). -/
def sysRead (s : State) (e : Env) (n : Nat) : Option Nat :=
  let c := s.ctx e.n
  let own := s.partClusters c.part
  match n with
  | 0x000 => some 0x4A160100
  | 0x001 => some (e.n % 2 ^ 16 + c.func * 2 ^ 16)
  | 0x002 => some (c.part + own.length * 2 ^ 8)
  | 0x003 => some (boolNat (s.isFixed e.g.cluster) + 2 * boolNat s.tovor.degraded + 4 * boolNat (s.pair (e.g.cluster / 2)).formed
      + 16 * e.gr.level)
  | 0x004 => some ((Rec.seed e.gr.record).toNat % 2 ^ 32)
  | 0x005 => some ((Rec.seed e.gr.record).toNat / 2 ^ 32)
  | 0x810 => some c.dbgctl.toNat
  | 0x811 => some c.ibrk.toNat
  | _ =>
    if 0x840 ≤ n ∧ n ≤ 0x84F then
      some (match own[n - 0x840]? with | some k => 2 ^ 31 + k | none => 0)
    else none

def execSysr (f : Form) (s : State) : Host.Outcome State Fault Refusal :=
  issue rowSysr f s fun e s =>
    match sysRead s e f.imm.toNat with
    | none => trapAct .sysreg
    | some v => .done (writeDst s e rowSysr f v)

def execSysw (f : Form) (s : State) : Host.Outcome State Fault Refusal :=
  issue rowSysw f s fun e s =>
    let n := f.imm.toNat
    let v := BitVec.ofNat 32 (e.A s rowSysw f)
    if n = 0x810 then .done (s.modCtx e.n fun c => { c with dbgctl := BitVec.ofNat 2 v.toNat })
    else if n = 0x811 then .done (s.modCtx e.n fun c => { c with ibrk := v &&& 0xFFFFFFFC })
    else if (sysRead s e n).isSome then trapAct .sysregRo
    else trapAct .sysreg

end Sys2Proof.Machine
end

