-- ==== Sys2Proof/Machine/Vote.lean ====
section
/-!
DEFINITION. Which context may issue: fetch and its checks (08 R190, 12 R255), the ports of a quadrant (02 R56 to R60, R67,
R68) and of the stewards (03 R79), and the passage of time. One context issues in a turn (log 2); the contexts that issue in one
cycle are elected together, when the first of them issues.
-/
namespace Sys2Proof.Machine

/-- What runs a decoded instruction. -/
abbrev Runner := Instr → State → Host.Outcome State Fault Refusal

/-! ## Fetch -/

/-- What fetching gives: the word; a trap; an integrity event. -/
inductive Fetched
  | word (w : IWord) (s : State) | trap (s : State) (t : TrapInfo) | event (s : State) (c : Cause)
  deriving DecidableEq, Repr

/-- The stream of a context: its place in the code object and its length. -/
def streamOf (e : Env) : Nat × Nat :=
  if e.steward then (Hdr.sOff e.hdr, Hdr.sLen e.hdr) else (Hdr.tOff e.hdr, Hdr.tLen e.hdr)

/-- A trap of a fetch: the address is the PC, and no space applies (12 R256). -/
def fetchTrap (e : Env) (c : Cause) : TrapInfo := { cause := c, pc := e.h.pc, addr := e.h.pc.zeroExtend 64 }

/-- The 4-byte words of an instruction from a virtual address, each translated by itself. -/
def fetchWords (s : State) (e : Env) (va : Nat) : Nat → Except Fetched (List Byte × State)
  | 0 => .ok ([], s)
  | k + 1 =>
    let s := coreWalk s e.g.coreNo e.n va
    match translate s e.g.coreNo e.n va needFetch with
    | .error .walkUe => .error (.event (meetWalk s e.n va) .walkUe)
    | .error c => .error (.trap s (fetchTrap e c))
    | .ok (.peer ..) => .error (.trap s (fetchTrap e .fetchPerm))
    | .ok (.flat a _) =>
      let m := meetMemory s e.n a
      match m.2 with
      | some .memUe => .error (.event m.1 .fetchUe)
      | some c => .error (.event m.1 c)
      | none =>
        match fetchWords m.1 e (va + 4) k with
        | .error x => .error x
        | .ok (bs, s') => .ok (memBytes s.mem a 4 ++ bs, s')

/-- The instruction breakpoint (12 R255). -/
def breaks (s : State) (e : Env) : Bool :=
  let c := s.ctx e.n
  !e.steward && !e.h.handler && c.dbgctl.toNat.testBit 1 && c.ibrk == e.h.pc

/-- Fetch with its checks; IBREAK comes first. What a group executes once its streams were rewritten is undefined: a free word (08
R190, log 73). -/
def fetch (s : State) (e : Env) : Fetched :=
  let pc := e.h.pc
  let (off, len) := streamOf e
  if breaks s e then .trap s { cause := .ibreak, pc := pc }
  else if pc.toNat % 4 != 0 then .trap s (fetchTrap e .misalign)
  else if len < pc.toNat + 12 then .trap s (fetchTrap e .spaceBounds)
  else
    match fetchWords s e ((Rec.code e.gr.record + off + pc.toNat) % 2 ^ 48) 3 with
    | .error x => x
    | .ok (bs, s) =>
      if e.g.tainted then .word (Config.rewrittenWord s.free) { s with free := s.free + 1 }
      else .word (BitVec.ofNat 96 (natOfBytes bs)) s

/-! ## The ports of a quadrant -/

/-- The quadrant-wide units that an instruction word needs: 1 special functions, 2 memory, 3 synchronisation (R57). One that reads DRAIN
needs the memory unit beside its own. A word of an opcode that the table does not assign uses its lane alone (DESIGN CHOICE, log 79). -/
def unitsOfWord (w : IWord) : List Nat :=
  let o := wordOpc w
  let drain := match wordFields w with | some f => decide (0 < f.drains) | none => false
  let own :=
    if 0x180 ≤ o && o ≤ 0x188 then [1]
    else if (0x280 ≤ o && o ≤ 0x285) || (0x288 ≤ o && o ≤ 0x28A) || o = 0x221 || o = 0x329 || o = 0x321 || o = 0x31C then [2]
    else if (0x204 ≤ o && o ≤ 0x20A) || o = 0x20C || (0x210 ≤ o && o ≤ 0x215) || (0x218 ≤ o && o ≤ 0x21E)
        || (0x220 ≤ o && o ≤ 0x223) || o = 0x301 || o = 0x302 || o = 0x3C0 || o = 0x3C1 then [3]
    else []
  if drain && (instrOf o (wordOp2 w)).isSome then 2 :: own else own

/-- The spin detector has reached its count (R68). -/
def Hart.spinning (h : Hart) : Bool := decide (4 ≤ h.spin.count)

/-- The instruction would leave its context as it is: the context is held at issue, and is not eligible (02 R51, R71). -/
def heldBy (run : Runner) (s : State) (e : Env) : Bool :=
  match fetch s e with
  | .word w s1 =>
    (match decode w with
    | .ok i =>
      (match run i { s1 with cur := e.r } with
      | .next s2 => e.h.fault.isNone && s2.hart? e.r == some e.h
      | _ => false)
    | .error _ => false)
  | _ => false

/-- The context of a reference, if it is eligible in this cycle. One that waits for, or has had, the second execution of its
instruction has issued it. -/
def eligible (run : Runner) (s : State) (r : CtxRef) : Option Env :=
  (envOf s r).filter fun e => e.h.dup.isNone && !heldBy run s e

/-- A context that takes part in the vote. -/
structure Cand where
  r    : CtxRef
  h    : Hart
  code : Nat × Nat
  units : List Nat
  fuse : Bool
  deriving DecidableEq, Repr

/-- Eligible threads of a quadrant of a core. -/
def quadCands (run : Runner) (s : State) (core quad : Nat) : List Cand :=
  (s.groups.map fun p =>
    if p.2.coreNo = core then
      p.2.harts.filterMap fun q =>
        if Who.isSteward q.1 || q.2.quad != quad then none
        else (eligible run s { group := p.1, who := q.1 }).map fun e =>
          let w := match fetch s e with | .word w _ => some w | _ => none
          { r := e.r, h := e.h, code := (e.n, Rec.code e.gr.record)
            units := match w with | some w => unitsOfWord w | none => []
            fuse := match w with | some w => w.toNat.testBit 16 | none => false }
    else []).flatten

/-- What a comparison puts first. -/
def firstBy {α : Type} (before : α → α → Bool) : List α → Option α
  | [] => none
  | c :: cs => match firstBy before cs with | some d => if before d c then some d else some c | none => some c

/-- A yield excludes the context from its port, for the 8 cycles after its issue (R59). -/
def Hart.excluded (h : Hart) (now : Nat) : Bool := h.yieldExcl.any fun t => decide (now ≤ t + 8)

/-- A thread that counts as urgent (R60). -/
def Hart.isUrgent (h : Hart) : Bool := h.urgent || (decide (48 ≤ h.starve) && !h.spinning)

/-- An instruction with the fuse hint has waited long enough (R59). -/
def Hart.fused (h : Hart) : Bool := h.fuseWaited || decide (16 ≤ h.starve)

/-- The candidates that issue together with a leader: at its PC, of its code, one per home lane, the leader on its own and else the
lowest slot. -/
def issueGroup (cs : List Cand) (l : Cand) : List Cand :=
  let same := cs.filter fun c => c.h.pc == l.h.pc && c.code == l.code
  same.filter fun c => c.r == l.r
    || (c.h.lane != l.h.lane && same.all fun d => d.h.lane != c.h.lane || decide (c.h.slot ≤ d.h.slot))

/-- Lowest PC first, then lowest slot. -/
def lowFirst (a b : Cand) : Bool := decide (a.h.pc < b.h.pc) || (a.h.pc == b.h.pc && decide (a.h.slot < b.h.slot))

/-- The highest count first, then the lowest slot (R60). -/
def hungryFirst (a b : Cand) : Bool := decide (b.h.starve < a.h.starve) || (a.h.starve == b.h.starve && decide (a.h.slot < b.h.slot))

/-- The two issue groups of a quadrant (R56 to R60, R68). A full replay queue stops the first port (18 R370), an occupied
special-function unit a port whose instruction needs it. The second port takes another PC than the first, the urgent group's too,
and passes over a PC whose threads all wait with (fuse) (DESIGN CHOICE, log 79). -/
def ports (s : State) (core quad now : Nat) (sfuBusy : Bool) (all : List Cand) : List Cand × List Cand :=
  let calm := all.filter fun c => !c.h.spinning
  let pool := if calm.isEmpty then all else calm
  let urgent := pool.filter fun c => c.h.isUrgent
  let open_ := if urgent.isEmpty then pool.filter fun c => !c.h.excluded now else urgent
  let lead := if urgent.isEmpty then firstBy lowFirst open_ else firstBy hungryFirst open_
  let stopped (l : Cand) : Bool := decide (16 ≤ (replaysOf s core quad).length) || (sfuBusy && l.units.contains 1)
  let first := match lead with
    | some l => if stopped l then [] else issueGroup open_ l
    | none => []
  let freeLane (l : Nat) : Bool := !first.any fun d => d.h.lane == l
  let rest := pool.filter fun c => (lead.all fun l => l.h.pc != c.h.pc) && (!c.fuse || c.h.fused)
  let there := rest.filter fun c => freeLane c.h.lane && (firstBy lowFirst rest).all fun l => l.h.pc == c.h.pc
  let second := match firstBy lowFirst there with
    | some l =>
      if (first.any fun a => a.units.any l.units.contains) || (sfuBusy && l.units.contains 1) then [] else issueGroup there l
    | none => []
  (first, second)

/-- The vote of a quadrant (R56). An issue group of n special functions occupies their unit for ⌈n/8⌉ cycles (R57). -/
def electThreads (run : Runner) (s : State) (core quad : Nat) : Vote :=
  let now := s.clusterCycles (core / 8)
  let sfuUntil := (mapGet initVote (s.core core).votes quad).sfuUntil
  let p := ports s core quad now (decide (now < sfuUntil)) (quadCands run s core quad)
  let ballot := (p.1 ++ p.2).map fun c => c.r
  let special := ((p.1 ++ p.2).filter fun c => c.units.contains 1).length
  { cycle := some now, ballot := ballot, left := ballot
    sfuUntil := if special = 0 then sfuUntil else now + ceilDiv special 8 }

/-! ## The stewards' port -/

/-- It issued before the other; one that has not issued yet stands first. -/
def issuedBefore (a b : Env) : Bool :=
  match a.h.lastIssue, b.h.lastIssue with
  | none, some _ => true
  | some x, some y => decide (x < y)
  | _, none => false

/-- The vote of the stewards of a core (R68, R79; 08 R180): not a spinning one if another is eligible, then not one that a yield
excludes, then the one that issued least recently, of spinning ones too. Where a yield excludes every one that is left, the one
that issued least recently issues, before a spinning one; of those that have never issued, or not since a restore, the one of the lowest
group key (DESIGN CHOICE, log 79). -/
def electSteward (run : Runner) (s : State) (core : Nat) : Vote :=
  let now := s.clusterCycles (core / 8)
  let all := (s.groups.filter fun p => p.2.coreNo == core).filterMap fun p => eligible run s { group := p.1, who := .steward }
  let calm := all.filter fun e => !e.h.spinning
  let pool := if calm.isEmpty then all else calm
  let awake := pool.filter fun e => !e.h.excluded now
  let ballot := match firstBy issuedBefore (if awake.isEmpty then pool else awake) with | some e => [e.r] | none => []
  { cycle := some now, ballot := ballot, left := ballot, sfuUntil := 0 }

/-! ## The vote of a cycle -/

/-- The port pair that a context issues through: its quadrant, or 4. -/
def Env.port (e : Env) : Nat := if e.steward then 4 else e.h.quad

/-- The vote of this cycle, held when the first of its contexts issues. -/
def voteOf (run : Runner) (s : State) (core port : Nat) : Vote :=
  match s.voteNow core port with
  | some v => v
  | none => if port = 4 then electSteward run s core else electThreads run s core port

/-- The vote of this cycle held: what comes after it meets the contexts elected. -/
def holdVote (run : Runner) (s : State) (core port : Nat) : State :=
  s.modCore core fun c => { c with votes := mapPut c.votes port (voteOf run s core port) }

/-- A context elected in this cycle takes its port; it issues once in the cycle. One whose second execution has agreed has issued:
it completes without a port. -/
def takePort (run : Runner) (s : State) (e : Env) : Option State :=
  let v := voteOf run s e.g.coreNo e.port
  if e.h.dup.isSome then (if heldBy run s e then none else some s)
  else if v.left.contains e.r then
    some (s.modCore e.g.coreNo fun c => { c with votes := mapPut c.votes e.port { v with left := v.left.filter fun x => x != e.r } })
  else none

/-! ## Time -/

/-- The cycles by which a cluster's clock advances: fixed-timing clusters all alike (02 R48). -/
def cyclesOf (s : State) (cycles : Nat) (elastic : Map Nat) (k : Nat) : Nat :=
  if s.isFixed k then cycles else mapGet cycles elastic k

/-- The cycles in which a thread was eligible and did not issue: not the one of its issue (R60). -/
def starved (now n : Nat) (h : Hart) : Hart :=
  { h with starve := h.starve + if h.lastIssue == some now then n - 1 else n }

/-- The clocks of the clusters and Tovor's clock advance (02 R48); those of a compute domain in reset stand (00 R4). -/
def advanceTime (run : Runner) (s : State) (cycles : Nat) (elastic : Map Nat) (ns : Nat) : State :=
  let clocks := if (cycles = 0 && elastic.isEmpty) || !s.tovor.released then s.cycles
    else (List.range 16).map fun k => (k, s.clusterCycles k + cyclesOf s cycles elastic k)
  let groups := mapEach s.groups fun key g =>
    let n := cyclesOf s cycles elastic g.cluster
    if n = 0 || !s.groupLive g then g
    else g.eachHart fun w h =>
      if !Who.isSteward w && (eligible run s { group := key, who := w }).isSome then starved (s.clusterCycles g.cluster) n h else h
  settleFaultN { s with refNs := s.refNs + ns, cycles := clocks, groups := groups }

end Sys2Proof.Machine
end

