-- ==== Sys2Proof/Machine/Threads.lean ====
section
/-!
DEFINITION. Happenings of a context: results return (02 R62), stores commit (18 R367), traps are entered (02 R53), waits
and hints run out (02 R59, R60; 12 R250, R251), ordered batches are applied (05 R137 to R140), and the words outside the
assigned opcodes (09 R200, R201). A happening whose condition does not hold leaves the state as it is (log 28).
-/
namespace Sys2Proof.Machine


/-- A context parked by S whose last result has returned goes on: its instruction is complete, and STEP follows under
single-stepping (12 R255). -/
def endPark (s : State) (r : CtxRef) : State :=
  match s.group? r.group, s.hart? r with
  | some g, some h =>
    if h.status = .parked && h.results.isEmpty && h.parkS && h.trapping.isNone && !h.exiting && !h.yielded then
      stepAfter (s.modHart r fun h => { h with status := .ready, parkS := false }) r (stepsOn s g r.who h)
    else s
  | _, _ => s

/-- A result of the steward has been written: entries of the decision queue may become poppable (03 R84). -/
def stewardWrote (s : State) (r : CtxRef) : State :=
  if Who.isSteward r.who then settlePeers (s.modGroup r.group wakePoppers) else s

/-- RESULT_RETURN: result `k` of a context, its value known. -/
def execResultReturn (r : CtxRef) (k : Nat) (s : State) : Host.Outcome State Fault Refusal :=
  match s.group? r.group, s.hart? r with
  | some g, some h =>
    (match h.results[k]? with
    | none => .next s
    | some q =>
      match q.value with
      | none => .next s
      | some v =>
        if !g.present then .next s
        else .next (tryExit (endPark (stewardWrote (s.modHart r fun h => h.returnResult q v.toNat) r) r) r))
  | _, _ => .next s

/-! ## Stores -/

/-- A committed store as an ordered access: it writes the place that it had at issue. -/
def Action.entry (h : Hart) (a : Action) : OrdEntry :=
  let at_ (peer : Option (Nat × Bool)) (flat size v : Nat) (mask : Byte) : OrdEntry :=
    { space := 4, addr := 0, size := size, mask := mask, kind := .inr v, flat := flat, peer := peer, dst := none, words := 0
      lane := h.lane, pc := h.pc, region := 0, rng := h.rng }
  match a with
  | .bytes ws _ =>
    at_ none ((ws.map WByte.addr).headD 0) ws.length (natOfLe (ws.map WByte.val)) (if ws.length = 1 then (ws.map WByte.mask).headD 0xFF else 0xFF)
  | .remote l chip p (.nibble v m) => at_ (some (l, chip)) p 1 v.toNat m
  | .remote l chip p (.write bs) => at_ (some (l, chip)) p bs.length (natOfLe bs) 0xFF
  | .remote l chip p _ => at_ (some (l, chip)) p 0 0 0xFF

/-- The oldest store of a context performed. One that writes bytes of the context's own ordered accesses follows them: it joins
the ordered buffer behind them (13 R290, log 34). -/
def commitStore (s : State) (g : Group) (r : CtxRef) (h : Hart) (st : Store) : State :=
  if (g.pendingOrd r.who h).any fun o => st.act.meets o.peer o.flat o.size then
    s.modHart r fun h => { h with ord := h.ord ++ [st.act.entry h] }
  else match st.act with
  | .bytes ws home => performBytes s g.coreNo ws home
  | .remote l chip a k =>
    sendLink s { link := l, ctx := g.ctx, who := some r, chip := chip, addr := a, kind := k, dst := none, sent := s.refNs }

/-- STORE_COMMIT (18 R367); none between an integrity event and the halt. -/
def execStoreCommit (r : CtxRef) (s : State) : Host.Outcome State Fault Refusal :=
  match s.group? r.group, s.hart? r with
  | some g, some h =>
    (match h.stores with
    | [] => .next s
    | st :: rest =>
      if !g.present || !st.agreed || g.halting.isSome then .next s
      else .next (tryExit (commitStore (s.modHart r fun h => { h with stores := rest }) g r h st) r))
  | _, _ => .next s

/-! ## Traps, waits and hints -/

/-- TRAP_ENTRY: the results of a trapping thread have returned (02 R53, R54). -/
def execTrapEntry (r : CtxRef) (s : State) : Host.Outcome State Fault Refusal :=
  match s.group? r.group, s.hart? r with
  | some g, some h =>
    (match h.trapping with
    | some t => if s.groupLive g && h.results.isEmpty then .next (raiseTrap s r t) else .next s
    | none => .next s)
  | _, _ => .next s

/-- SLEEP_EXPIRY (12 R251): the wait ends, or its evicted group wakes (03 R98). -/
def execSleepExpiry (r : CtxRef) (s : State) : Host.Outcome State Fault Refusal :=
  match s.group? r.group, s.hart? r with
  | some g, some h =>
    (match h.wait with
    | .sleep wake =>
      if s.refNs < wake then .next s
      else if g.isEvicting then .next (settlePeers (s.setGroup r.group (wakeEvicted g)))
      else if s.groupLive g && h.status == .blocked then .next (completeWait s r)
      else .next s
    | _ => .next s)
  | _, _ => .next s

/-- URGENT_THREAD (02 R60). -/
def execUrgentThread (r : CtxRef) (s : State) : Host.Outcome State Fault Refusal :=
  match envOf s r with
  | some e =>
    if !e.steward && decide (48 ≤ e.h.starve) && !e.h.spinning then .next (s.modHart r fun h => { h with urgent := true }) else .next s
  | none => .next s

/-- FUSE_WAIT_EXPIRY (02 R59). -/
def execFuseWaitExpiry (r : CtxRef) (s : State) : Host.Outcome State Fault Refusal :=
  match envOf s r with
  | some e =>
    if !e.steward && decide (16 ≤ e.h.starve) then .next (s.modHart r fun h => { h with fuseWaited := true }) else .next s
  | none => .next s

/-- YIELD_EXCLUSION_EXPIRY (02 R59, 12 R250): 8 cycles after the cycle of the issue. -/
def execYieldExclusionExpiry (r : CtxRef) (s : State) : Host.Outcome State Fault Refusal :=
  match s.group? r.group, s.hart? r with
  | some g, some h =>
    if h.yieldExcl.isSome && !h.excluded (s.clusterCycles g.cluster)
    then .next (s.modHart r fun h => { h with yieldExcl := none }) else .next s
  | _, _ => .next s

/-- UNASSIGNED_OPCODE: ILLOP, or EMU in the emulation space; no guard, no hazard, no field counts (09 R200, R201). -/
def execUnassignedOpcode (w : IWord) (s : State) : Host.Outcome State Fault Refusal :=
  match envOf s s.cur with
  | none => .next s
  | some e =>
    match e.h.fault with
    | some c => .next (raiseOn (s.modHart e.r fun h => { h with fault := none }) e.r c)
    | none =>
      let o := wordOpc w
      let c : Cause := if 0x380 ≤ o && o ≤ 0x3BF then .emu else .illop
      .next (raiseTrap s s.cur { cause := c, pc := e.h.pc, insn := w })

/-! ## Ordered batches -/

/-- What an ordered access ends in: performed; a page gone; an event. -/
inductive OrdStop
  | done (s : State) | page (s : State) | event (s : State) (c : Cause)
  deriving DecidableEq, Repr

/-- The place of an ordered access: translated again, or kept from its issue where it had committed (13 R281). -/
def OrdEntry.place (s : State) (e : Env) (o : OrdEntry) : Except Cause Loc :=
  let need : Need := match o.kind with | .inl k => atomNeed o.dst.isNone k | .inr _ => needWrite
  if o.region = 0 then
    .ok (match o.peer with | some (l, chip) => .peer l chip o.flat | none => .flat o.flat false)
  else Machine.place s e o.space o.addr need

/-- What an ordered store or reduction asks of a peer. -/
def OrdEntry.kindAt (o : OrdEntry) : Option LinkKind :=
  match o.kind with
  | .inr v => some (if o.mask = 0xFF then .write (bytesOfNat o.size v) else .nibble (BitVec.ofNat 8 v) o.mask)
  | .inl (.op code ty c) => some (.red code ty (BitVec.ofNat 64 c) o.lane o.pc.toNat)
  | .inl .signal => some .signal
  | .inl (.cas ..) => none

/-- An ordered atomic performed: its result, and the region boundary behind it (13 R288). -/
def ordDone (s : State) (e : Env) (o : OrdEntry) (v : Nat) : State :=
  settleMark (s.modHart e.r fun h =>
    (match o.dst with | some q => h.fillResult q.id v | none => h).lateBoundary o.region (o.pc + 12) o.rng) e.r.group

/-- One ordered access performed (05 R138, 13 R281). -/
def applyOrd (s : State) (key : Nat) (g : Group) (gr : Grid) (who : Who) (o : OrdEntry) : OrdStop :=
  match g.hart? who with
  | none => .done s
  | some h =>
    let e : Env := { r := { group := key, who := who }, g := g, gr := gr, h := h }
    let s := if o.region != 0 && (o.space == 0 || o.space == 4) then coreWalk s g.coreNo e.n (virtAddr e o.space o.addr) else s
    match o.place s e with
    | .error .walkUe => .event (meetWalk s e.n (virtAddr e o.space o.addr)) .walkUe
    | .error _ => .page s
    | .ok (.peer l chip a) =>
      (match o.kindAt with
      | none => .page s
      | some k =>
        let s := sendFrom s e l chip a k none
        .done (if o.kind.isLeft then ordDone s e o 0 else s))
    | .ok (.flat a _) =>
      match o.kind with
      | .inr v =>
        .done (performBytes s g.coreNo
          (if o.mask = 0xFF then wholeBytes a (bytesOfNat o.size v) else [{ addr := a, val := BitVec.ofNat 8 v, mask := o.mask }]) true)
      | .inl k =>
        let m := meetMemory s e.n a
        match m.2 with
        | some c => .event m.1 c
        | none =>
          let r := performAtomic m.1 g.coreNo k a true { lane := o.lane, pc := o.pc.toNat }
          let s := if k = .signal && !k.writes r.2 then signalFull r.1 e.n (placeEntry g { kind := 2, cause := .eventOverflow, pc := o.pc.toNat, quad := h.quad })
            else r.1
          .done (ordDone s e o r.2)

/-- A batch applied entry by entry; an entry that meets an event stays, with those behind it. -/
def applyBatch (key : Nat) (g : Group) (gr : Grid) : State → List (Who × OrdEntry) → State × List (Who × OrdEntry) × Option (CtxRef × Cause × Word)
  | s, [] => (s, [], none)
  | s, (w, o) :: rest =>
    match applyOrd s key g gr w o with
    | .done s => applyBatch key g gr s rest
    | .page s => (s, [], some ({ group := key, who := w }, .enginePage, o.pc))
    | .event s c => (s, (w, o) :: rest, some ({ group := key, who := w }, c, o.pc))

/-- The commit token goes on to the next group, or to the next round. -/
def nextToken (gr : Grid) : Grid :=
  if gr.tokenIndex + 1 < gr.total then { gr with tokenIndex := gr.tokenIndex + 1 }
  else { gr with tokenIndex := 0, tokenRound := gr.tokenRound + 1 }

/-- Everything that the contexts of a group have written is performed. -/
def groupReleased (s : State) (key : Nat) (g : Group) : Bool :=
  g.harts.all fun p => released s { group := key, who := p.1 }

/-- The application of a batch ends with a release at .DEV: the token goes on once what the group has sent over a link, the batch's
own writes too, is performed there. -/
def closeBatch (s : State) (grid key : Nat) (g : Group) (gr : Grid) : State :=
  if !groupReleased s key g then s
  else
    let s := s.modGroup key fun g => { g with batches := g.batches.drop 1, rounds := g.rounds + 1 }
    (flushL1 s g.coreNo).setGrid grid (nextToken gr)

/-- ORDERED_BATCH_APPLY: the token at a group whose batch has ended, once the group's stores are performed; an ended group is passed
over (05 R138, R139). -/
def execOrderedBatchApply (grid : Nat) (s : State) : Host.Outcome State Fault Refusal :=
  match s.grid? grid with
  | none => .next s
  | some gr =>
    let key := groupKey grid gr.tokenIndex
    match s.group? key with
    | none => .next s
    | some g =>
      if !Hdr.det gr.header then .next s
      else
        match g.batches with
        | [] =>
          if g.state == .retired || g.state == .killed || g.state == .retiring then .next (s.setGrid grid (nextToken gr)) else .next s
        | b :: rest =>
          if !g.present || g.halting.isSome || !groupReleased s key g then .next s
          else
            let r := applyBatch key g gr s b
            match r.2.2 with
            | some (_, .enginePage, pc) => .next (killGroup r.1 key .enginePage pc.toNat 0 0)
            | some (x, c, _) => .next (raiseOn (r.1.modGroup key fun g => { g with batches := r.2.1 :: rest }) x c)
            | none => .next (closeBatch (r.1.modGroup key fun g => { g with batches := [] :: rest }) grid key g gr)

end Sys2Proof.Machine
end

