-- ==== Sys2Proof/Machine/Pairs.lean ====
section
/-!
DEFINITION. The redundant executions and what follows a disagreement (18 R369 to R379): clones and the replay queue, the
comparator of a pair, its timeout, the restart of a rollback; and the errors of the silicon as they arise.
-/
namespace Sys2Proof.Machine

/-! ## Clones (R369 to R371) -/

/-- The clone has executed: the two agree, or CLONE_MISMATCH. -/
def compareClone (s : State) (r : CtxRef) (d : Dup) : State :=
  if d.first = d.second then s.modHart r fun h => { h with dup := some { d with agreed := true, queued := false } }
  else raiseOn (s.modHart r fun h => { h with dup := none }) r .cloneMismatch

/-- CLONE_EXECUTE: on lane h XOR 16 in the cycle of the issue; a steward's after it (R371). -/
def execCloneExecute (r : CtxRef) (s : State) : Host.Outcome State Fault Refusal :=
  match s.group? r.group, (s.hart? r).bind fun h => h.dup with
  | some g, some d => .next (if d.row != 0 || d.agreed || d.queued || !s.groupLive g then s else compareClone s r d)
  | _, _ => .next s

/-- The clones of a cycle that are not in a replay queue execute in it: they have done so when the cycle ends (R370). -/
def settleClones (s : State) : State :=
  let due := (s.groups.map fun p => p.2.harts.filterMap fun q =>
    match q.2.dup with
    | some d => if !Who.isSteward q.1 && d.row = 0 && !d.agreed && !d.queued && s.groupLive p.2 then some ({ group := p.1, who := q.1 : CtxRef }, d) else none
    | none => none).flatten
  due.foldl (fun s p => if (s.hart? p.1).any fun h => h.dup == some p.2 then compareClone s p.1 p.2 else s) s

/-- A lane that a clone of this cycle may still take: that of a context elected under IL1 which has not issued. -/
def cloneComes (s : State) (core quad lane : Nat) : Bool :=
  (s.voteNow core quad).any fun v => v.left.any fun r =>
    ((s.group? r.group).bind s.gridOf).any (fun gr => gr.level == 1) && (s.hart? r).any fun h => h.lane ^^^ 16 == lane

/-- The lanes that the clones of an entry take. -/
def replayLanes (s : State) (q : Replay) : List Nat := q.refs.filterMap fun r => (s.hart? r).map fun h => h.lane ^^^ 16

/-- Every lane that the clones of an entry take is free in this cycle. -/
def cloneLanesFree (s : State) (core : Nat) (q : Replay) : Bool :=
  (replayLanes s q).all fun l => !laneTaken s core q.quad l && !cloneComes s core q.quad l

/-- A clone that has left the replay queue. -/
def replayClone (s : State) (r : CtxRef) : State :=
  match (s.hart? r).bind fun h => h.dup with
  | some d => if d.row = 0 && d.queued then compareClone s r d else s
  | none => s

/-- An entry leaves the queue and its clones execute. -/
def replayEntry (s : State) (core : Nat) (q : Replay) : State :=
  let s := s.modCore core fun c => { c with replay := c.replay.erase q }
  q.refs.foldl replayClone ((replayLanes s q).foldl (fun s l => useLane s core q.quad l) s)

/-- CLONE_REPLAY: the oldest entry of a quadrant's replay queue, in a later cycle than its issue group's (R370). -/
def execCloneReplay (core quad : Nat) (s : State) : Host.Outcome State Fault Refusal :=
  match (replaysOf s core quad).head? with
  | none => .next s
  | some q =>
    if decide (s.clusterCycles (core / 8) ≤ q.cycle) || !cloneLanesFree s core q then .next s
    else .next (replayEntry s core q)

/-- The entries of a quadrant's queue that have executed when its cluster's clock has advanced by some cycles: in the first of them the
oldest ones whose lanes no port and no clone has taken, in the others every one. -/
def settleReplays (core quad cycles : Nat) : Nat → State → State
  | 0, s => s
  | fuel + 1, s =>
    match (replaysOf s core quad).head? with
    | none => s
    | some q =>
      let now := s.clusterCycles (core / 8)
      let open_ := decide (q.cycle < now) && (replayLanes s q).all fun l => !laneTaken s core quad l
      if cycles = 0 || !(open_ || 2 ≤ cycles) then s else settleReplays core quad cycles fuel (replayEntry s core q)

/-- The replay queues of every core as a cluster's clock advances (R370). -/
def settleQueues (s : State) (cycles : Nat → Nat) : State :=
  s.cores.foldl (fun s p => if p.2.replay.isEmpty then s
    else (List.range 4).foldl (fun s q => settleReplays p.1 q (cycles (p.1 / 8)) 16 s) s) s

/-! ## The comparator (R374, R375) -/

/-- Every group on the two clusters of a pair. -/
def pairGroups (s : State) (j : Nat) : List Nat :=
  (s.groups.filter fun p => p.2.cluster / 2 == j && p.2.present).map fun p => p.1

/-- The quadrant of a thread whose record disagrees; none for a steward's. -/
def recordQuad (s : State) (r : CtxRef) : Option Nat :=
  if Who.isSteward r.who then none else (s.hart? r).map fun h => h.quad

/-- Both clusters of a pair send records again: what was held back has gone with the halt of all their groups (log 16). -/
def wakePair (s : State) (j : Nat) : State :=
  if (s.pair j).silent || (s.pair j).mute then s.setPair j { s.pair j with silent := false, mute := false } else s

/-- An event that halts a whole pair; a quadrant applies only to a thread's record that disagrees (R376). -/
def pairEvent (s : State) (j : Nat) (r : CtxRef) (pc : Nat) (cause : Cause) (inj : Bool) : State :=
  integrityEvent (wakePair s j)
    { key := r.group, cause := cause, pc := pc, part := .pair j, inj := inj, also := pairGroups s j
      quad := if cause = .pairMismatch then recordQuad s r else none }

/-- The row of R374 that a kind of injection names (R387). -/
def injectRow (kind : Nat) : Nat :=
  match kind with
  | 0 => 1
  | 1 => 3
  | _ => 4

/-- The record under the pair's armed injection: the N-th of its kind is altered, and the register disarms. -/
def injectInto (p : Pair) (d : Dup) : Pair × Dup :=
  match p.inj with
  | none => (p, d)
  | some i =>
    if injectRow i.kind != d.row then (p, d)
    else if 1 < i.count then ({ p with inj := some { i with count := i.count - 1 } }, d)
    else ({ p with inj := none },
      { d with inj := true
               second := match d.second with | [] => [] | v :: vs => (v ^^^ i.mask.toNat) :: vs })

/-- The shadow's record of a place of a core's queue arrives: an armed injection alters it, and the register disarms (R387). -/
def meetRecord (core : Nat) (s : State) (k : Nat) : State :=
  match (s.core core).records[k]? with
  | none => s
  | some (r, d) =>
    let j := core / 16
    if d.met || (s.pair j).silent then s
    else
      let x := injectInto (s.pair j) d
      (s.setPair j x.1).modCore core fun c => { c with records := c.records.set k (r, { x.2 with met := true }) }

/-- The shadow's records of a core that are due: 8 cycles after the primary's (R373). -/
def meetRecords (s : State) (core : Nat) : State :=
  (List.range (s.core core).records.length).foldl (fun s k => match (s.core core).records[k]? with
    | some x => if x.2.since + 8 ≤ s.clusterCycles (core / 8) then meetRecord core s k else s
    | none => s) s

/-- The shadows' records that are due. -/
def settleRecords (s : State) : State := (s.cores.map fun p => p.1).foldl meetRecords s

/-- The first store that has not agreed does. -/
def agreeStore : List Store → List Store
  | [] => []
  | st :: rest => if st.agreed then st :: agreeStore rest else { st with agreed := true } :: rest

/-- The context is held by a record of its ordered store. -/
def Hart.holdsOrdered (h : Hart) : Bool := h.dup.any fun q => q.row == 1 && !q.agreed

/-- The instruction that a record holds can be performed. -/
def agreeDup (h : Hart) : Hart := { h with dup := h.dup.map fun q => { q with agreed := true } }

/-- A matched record releases the primary's action: a store, a command, a write of a command, or the instruction held. -/
def releaseRecord (s : State) (core : Nat) (r : CtxRef) (d : Dup) : State :=
  let cmd (f : Cmd → Cmd) : State :=
    s.modCore core fun c => { c with cmds := c.cmds.map fun x => if some x.id = d.cmd then f x else x }
  match d.row with
  | 1 => s.modHart r fun h => if h.holdsOrdered then agreeDup h else { h with stores := agreeStore h.stores }
  | 3 => s
  | 4 => cmd fun x => { x with ready := true }
  | 5 => if d.cmd.isSome then cmd fun x => { x with matched := x.matched + 1 } else s.modHart r agreeDup
  | _ => s.modHart r agreeDup

/-- COMPARATOR_COMPARE: the oldest record of a core of a primary, whose partner has arrived by then. -/
def execComparatorCompare (core : Nat) (s : State) : Host.Outcome State Fault Refusal :=
  let j := core / 16
  let s1 := meetRecord core s 0
  match (s1.core core).records with
  | [] => .next s
  | (r, d) :: rest =>
    if !d.met || d.lost then .next s
    else
      let s := s1.modCore core fun c => { c with records := rest }
      .next (if d.first = d.second then releaseRecord s core r d else pairEvent s j r d.pc .pairMismatch d.inj)

/-- A record has waited 64 cycles without its partner: the primary's from its making, where the shadow's has not arrived, or the
shadow's, which comes 8 cycles later, where the primary's is lost. -/
def Dup.timedOut (d : Dup) (now : Nat) : Bool :=
  if d.lost then d.met && decide (d.since + 72 ≤ now) else !d.met && decide (d.since + 64 ≤ now)

/-- A record of a pair that has waited 64 cycles for its partner. -/
def waitingRecord (s : State) (j : Nat) : Option (CtxRef × Dup) :=
  ((List.range 8).filterMap fun k => (s.core (16 * j + k)).records.find? fun p => p.2.timedOut (s.clusterCycles (2 * j))).head?

/-- SHADOW_TIMEOUT: a record of either cluster has waited for a partner that does not come (R375). -/
def execShadowTimeout (j : Nat) (s : State) : Host.Outcome State Fault Refusal :=
  match waitingRecord s j with
  | none => .next s
  | some (r, d) => .next (pairEvent s j r d.pc .shadowTimeout false)

/-- A pair whose 64 cycles are over takes the event as they end. -/
def settleTimeout (s : State) (j : Nat) : State :=
  match waitingRecord s j with
  | none => s
  | some (r, d) => pairEvent s j r d.pc .shadowTimeout false

/-- The pairs whose records have waited 64 cycles. -/
def settleTimeouts (s : State) : State :=
  s.cores.foldl (fun s p => if p.2.records.isEmpty then s else settleTimeout s (p.1 / 16)) s

/-! ## Rollback (R377, R378) -/

/-- A result of an ordered access: it returns with the batch, and is saved with the ordered buffer. -/
def Group.resultOrdered (g : Group) (who : Who) (h : Hart) (q : Result) : Bool :=
  (g.pendingOrd who h).any fun o => o.dst.any fun d => d.id == q.id

/-- The commit token can leave a group for the n-th time, as far as the batches go that have ended (05 R139). -/
def Group.letsToken (n : Nat) (g : Group) : Bool :=
  g.state == .retired || g.state == .killed || g.state == .retiring || decide (n ≤ g.rounds)
    || (g.present && decide (n ≤ g.rounds + g.batches.length))

/-- The token comes to the i-th ended batch of a group without any context issuing: the groups before it in the round let it pass. -/
def batchComes (s : State) (g : Group) (i : Nat) : Bool :=
  ((s.gridOf g).any fun gr => gr.next == gr.total) && s.groups.all fun p =>
    p.2.grid != g.grid || p.2.letsToken (g.rounds + i + boolNat (decide (p.2.index ≤ g.index)))

/-- The results that a rollback or a save awaits have returned (02 R52): all but those of ordered accesses, and of these the ones in a
batch that is still applied before any context goes on. -/
def Group.resultsBack (s : State) (g : Group) : Bool :=
  (g.harts.all fun p => p.2.results.all (g.resultOrdered p.1 p.2))
    && !(g.batches.zipIdx.any fun b => (b.1.any fun x => x.2.dst.isSome) && batchComes s g b.2)

/-- One group at its region entries; one whose context is being saved stays HALTED (17 R365). -/
def restartGroup (s : State) (key : Nat) : State :=
  match s.group? key with
  | none => s
  | some g =>
    if !g.rollback then s
    else
      let stay := (s.ctx g.ctx).state != .running
      let s := s.setGroup key
        { g.eachHart fun _ h => restartHart stay h with
          rollback := false, image := none, woken := false, state := if stay then .halted else .resident }
      settleRetiring s key

/-- ROLLBACK_RESTART: the awaited results have returned; every context starts again at its region entry, and the shadow with
it. -/
def execRollbackRestart (key : Nat) (s : State) : Host.Outcome State Fault Refusal :=
  match s.group? key with
  | none => .next s
  | some g =>
    if !g.rollback || g.state == .killed || s.anyPeer key fun p => p.rollback && (p.halting.isSome || !Group.resultsBack s p) then .next s
    else .next ((s.peers key).foldl restartGroup s)

/-! ## Errors of the silicon (R376, R381, R382; 12 R271) -/

/-- Causes that a context meets in its own state. -/
def ownCause : Cause → Bool
  | .xregUe | .gregUe | .pregUe | .opcacheUe | .fwdUe | .sysvalUe | .replayUe | .dqUe | .barUe | .rdvUe | .cloneMismatch => true
  | _ => false

/-- Causes that the engines and the fetch of a core raise. -/
def coreCause : Cause → Bool
  | .accUe | .rnsCheck | .engineUe | .fetchUe => true
  | _ => false

/-- The unit of the shadow's cluster that stands for the one of its primary. -/
def shadowUnit (g : Group) (quad : Option Nat) (cause : Cause) : HwUnit :=
  match unitOf g quad cause with
  | .quad q => .quad (q + 32)
  | u => u

/-- The command of a core in whose engine an error can show: its group runs, is halted for a rollback, or waits for a save (17 R365). -/
def engineCmd (s : State) (core k : Nat) : Option (Cmd × Group) :=
  ((s.core core).cmds[k]?).bind fun c => ((s.group? c.gid).filter fun g =>
    s.engineLive g || (g.present && (s.ctx g.ctx).state == .saving)).map fun g => (c, g)

/-- HARDWARE_FAULT: an error arises; it shows when something meets it. -/
def execHardwareFault (f : HwFault) (s : State) : Host.Outcome State Fault Refusal :=
  match f with
  | .memory a correctable =>
    if memTop ≤ a || s.tovor.poison.contains (a / 64) then .next s
    else .next (s.modTovor fun t => { t with latent := putError t.latent (errUnit a) correctable })
  | .cleanCopy a =>
    if memTop ≤ a || isCorePad a then .next s
    else .next (s.modTovor fun t => { t with badCopies := (a / 8 :: t.badCopies).eraseDups })
  | .context r cause =>
    (match s.group? r.group with
    | none => .next s
    | some g =>
      let halted := g.present && (g.rollback || (g.state == .halted && (s.ctx g.ctx).state == .saving))
      if !s.groupLive g && !halted then .next s
      else if cause = .pairMismatch then
        (if (s.pair (g.cluster / 2)).formed then .next (pairEvent s (g.cluster / 2) r (match s.hart? r with | some h => h.pc.toNat | none => 0) .pairMismatch false) else .next s)
      else if halted && ownCause cause then
        -- Detected in a unit that is halted, for a rollback or for a save (R392; 17 R365).
        .next (match s.hart? r with | some h => if h.status = .exited then s else raiseOn s r cause | none => s)
      else if ownCause cause then .next (s.modHart r fun h => if h.status = .exited then h else { h with fault := some cause })
      else .next s)
  | .sharedCorrected copies => .next (correctedIn s (if copies then 1 else 4))
  | .fabric met =>
    -- What no access meets is only counted.
    let cause := if met.any fun p => p.2 then Cause.walkUe else .memUe
    let live := met.filter fun p => (s.group? p.1.group).any (fun g => s.groupLive g) && (s.hart? p.1).any fun h => h.status != .exited
    let n := (live.bind fun p => s.group? p.1.group).map fun g => g.ctx
    let s := countUeShared s n 4 cause
    .next (match live with | some p => raiseOn s p.1 cause | none => s)
  | .corrected r =>
    (match s.group? r.group with
    | some g => if g.present then .next (correctedCtx s g.ctx (some g)) else .next s
    | none => .next s)
  | .accumulator core tile elem mask =>
    if 128 ≤ core || 96 ≤ tile || 1024 ≤ elem then .next s
    else .next (s.modCore core fun c =>
      let ws := mapGet zeroTile c.acc tile
      { c with acc := mapPut c.acc tile (ws.set elem (ws.getD elem 0 ^^^ mask)) })
  | .accumulatorUe core tile =>
    if 128 ≤ core || 96 ≤ tile then .next s
    else .next (s.modCore core fun c => { c with accUe := (tile :: c.accUe).eraseDups })
  | .duplicate r mask => .next (s.modHart r fun h => { h with flip := mask })
  | .shadowSilent j => if (s.pair j).formed then .next (s.setPair j { s.pair j with silent := true }) else .next s
  | .primarySilent j => if (s.pair j).formed then .next (s.setPair j { s.pair j with mute := true }) else .next s
  | .shadow r cause quad =>
    (match s.group? r.group, s.hart? r with
    | some g, some h =>
      if !(s.pair (g.cluster / 2)).formed || !g.present || h.status = .exited || cause = .cloneMismatch || !(ownCause cause || coreCause cause)
      then .next s
      else .next (integrityEvent (if cause = .fetchUe then countUeShared s (some g.ctx) 1 cause else s)
        { key := r.group, cause := cause, pc := h.pc.toNat, part := shadowUnit g (quad.orElse fun _ => if Who.isSteward r.who then none else some h.quad) cause
          cluster := some (g.cluster + 1) })
    | _, _ => .next s)
  | .engine core k quad =>
    match engineCmd s core k with
    | some (c, g) => if quad.all c.quads.contains then .next (engFail s core g c (.err s .engineUe quad)) else .next s
    | none => .next s

end Sys2Proof.Machine
end

