-- ==== Sys2Proof/Machine/Place.lean ====
section
/-!
DEFINITION. Placement of groups on cores (02 R49, R50; 03 R75, R76; 16 R341, R342; 18 R372, R389, R391), the group as it
starts (02 R43, 03 R77), and the image of a group as it leaves and returns (03 R97, R98; 15 R324; 17 R357 to R360).
-/
namespace Sys2Proof.Machine

/-! ## Room on a core -/

/-- The group takes room on its core: a saved one does not (17 R357). -/
def State.occupies (_s : State) (g : Group) : Bool := g.present

/-- The groups that take room on a core. -/
def coreGroups (s : State) (core : Nat) : List Group :=
  (s.groups.filter fun p => p.2.coreNo == core && s.occupies p.2).map fun p => p.2

/-- Quadrants of a core that are not retired, ascending (18 R391). -/
def openQuads (s : State) (core : Nat) : List Nat := (List.range 4).filter fun q => !s.retiredQuads.contains (core * 4 + q)

/-- A cluster that takes groups of a context at a level: owned, in the right mode, no shadow, not retired. -/
def clusterOpen (s : State) (c : Ctx) (level k : Nat) : Bool :=
  let p := s.pair (k / 2)
  (Part.clusters (s.part c.part)).testBit k && !s.retiredPairs.contains (k / 2)
    && (if p.formed then k % 2 == 0 && c.isFixedMode else level != 2)

/-- Threads of a block, by its number. -/
def blockOf (h : Nat) : Nat := h / 32

/-- The quadrant of block `b`: the quadrants in use in turn from the first one (R49). -/
def quadOf (quads : List Nat) (first b : Nat) : Nat := quads.getD ((quads.idxOf first + b) % quads.length) 0

/-- Rows of 32 slots of a quadrant that hold a block. -/
def usedRows (gs : List Group) (quad : Nat) : List Nat :=
  ((gs.map fun g => (g.threads.filter fun h => h.quad == quad).map fun h => h.slot / 32).flatten).eraseDups

/-- Registers of a quadrant in use. -/
def usedRegs (gs : List Group) (quad : Nat) : Nat :=
  (gs.map fun g => ((g.threads.filter fun h => h.quad == quad && h.lane == 0).map fun h => 32 * h.regs.length).sum).sum

/-- The places of the blocks: quadrant and row of each; none where one does not fit. -/
def placeBlocks (gs : List Group) (quads : List Nat) (first regs : Nat) : Nat → Option (List (Nat × Nat))
  | 0 => some []
  | n + 1 =>
    match placeBlocks gs quads first regs n with
    | none => none
    | some done =>
      let q := quadOf quads first n
      let mine := (done.filter fun p => p.1 == q).map fun p => p.2
      let taken := usedRows gs q ++ mine
      match (List.range 16).find? fun r => !taken.contains r with
      | none => none
      | some r =>
        if 16384 < usedRegs gs q + 32 * regs * (mine.length + 1) then none else some (done ++ [(q, r)])

/-- The lowest free place of the scratchpad for an allocation, in steps of 1,024 bytes; none over a completion word that a cancelled
CPY still writes. -/
def placePad (s : State) (core : Nat) (gs : List Group) (cbytes : Nat) : Option Nat :=
  let used := gs.map fun g => (g.cbase, match s.gridOf g with | some gr => Hdr.cbytes gr.header | none => 0)
  ((List.range 257).map fun k => 1024 * k).find? fun a =>
    decide (a + cbytes ≤ corePadBytes) && !padDue s core a cbytes && used.all fun u => decide (a + cbytes ≤ u.1) || decide (u.1 + u.2 ≤ a)

def placeSteward (gs : List Group) : Option Nat :=
  (List.range 16).find? fun k => !(gs.any fun g => g.stewardSlot == k)

/-- Where a group would stand on a core. -/
structure Spot where
  blocks  : List (Nat × Nat)
  cbase   : Nat
  steward : Nat
  deriving DecidableEq, Repr

/-- Whether and where a group of a header fits on a core, its first block in a quadrant (R50, R75). -/
def fitsAt (s : State) (hdr : BitVec 1024) (core quad : Nat) (wantsTiles : Bool) : Option Spot :=
  let gs := coreGroups s core
  let quads := openQuads s core
  if !quads.contains quad || (wantsTiles && (s.core core).claim.isSome) then none
  else
    match placeBlocks gs quads quad (Hdr.regs hdr) (ceilDiv (Hdr.threads hdr) 32), placePad s core gs (Hdr.cbytes hdr), placeSteward gs with
    | some b, some a, some k => some { blocks := b, cbase := a, steward := k }
    | _, _, _ => none

/-- Groups of a header that a core holds when it is empty (R50, R75). -/
def coreRoom (s : State) (h : BitVec 1024) (core : Nat) : Nat :=
  let u := (openQuads s core).length
  let rows := min 16 (512 / Hdr.regs h)
  let blocks := u * rows / ceilDiv (Hdr.threads h) 32
  let pads := if Hdr.cbytes h = 0 then 16 else corePadBytes / Hdr.cbytes h
  min 16 (min blocks pads)

/-! ## The group as it starts -/

/-- A context at launch, at PC 0 of its stream (log 7). -/
def newHart (regs : List Word) (rng : BitVec 64) (quad lane slot : Nat) : Hart :=
  { pc := 0, regs := regs, preds := 0, status := .ready, wait := .none, insn := 0, parkS := false, handler := false
    regionPc := 0, rng := rng, rngSnap := rng, cycLatch := 0, results := [], nextId := 0, stores := []
    spin := { last := none, count := 0 }, arrival := none, taken := none, bars := List.replicate 24 .idle, dqRead := 0
    trapping := none, exiting := false, yieldExcl := none, fuseWaited := false, starve := 0, urgent := false
    lastIssue := none, reconvAt := none, acqId := 0, rdvBack := none, frame := [], yielded := false, ord := [], bounded := false, regionNo := 1, entryNo := 1
    dead := [], dup := none, flip := 0, fault := none, slotAt := none, lane := lane, quad := quad, slot := slot }

def newThread (gr : Grid) (index : Nat) (spot : Spot) (t : Nat) : Hart :=
  let b := spot.blocks.getD (t / 32) (0, 0)
  newHart (List.replicate (Hdr.regs gr.header) 0) (seedOf (Rec.seed gr.record) index (Hdr.threads gr.header) t)
    b.1 (t % 32) (b.2 * 32 + t % 32)

def newSteward (gr : Grid) : Hart :=
  let p := Rec.param gr.record
  newHart (BitVec.ofNat 32 p :: BitVec.ofNat 32 (p / 2 ^ 32) :: List.replicate 126 0) 0 0 0 0

def newGroup (gr : Grid) (grid index cluster core : Nat) (spot : Spot) : Group :=
  { grid := grid, index := index, ctx := gr.ctx, state := .resident, cluster := cluster, core := core
    stewardSlot := spot.steward, cbase := spot.cbase
    threads := (List.range (Hdr.threads gr.header)).map (newThread gr index spot), steward := newSteward gr, dq := []
    dqBase := 0, rdvs := [], batches := [], rounds := 0, triggered := false, mark := false, rollback := false, event := none, halting := none
    detected := none, unmarked := none, arrived := none
    timer := none, woken := false, tainted := false, image := none, savedMem := [], hadClaim := false
    savedAcc := [], savedDepth := [], savedProv := [], savedCmds := [], savedLocks := [] }

/-! ## The image of a group -/

/-- The entry of the live-register table at a context's PC (15 R324): its address and bytes; none where the stream has no instruction
there (log 92). -/
def liveEntry (gr : Grid) (w : Who) (pc : Nat) : Option (Nat × Nat) :=
  let h := gr.header
  let base := Rec.code gr.record + Hdr.liveOff h
  match w with
  | .thread _ => if pc < Hdr.tLen h then some (base + 8 * (pc / 12), 8) else none
  | .steward => if pc < Hdr.sLen h then some (base + 8 * (Hdr.tLen h / 12) + 16 * (pc / 12), 16) else none

/-- The errors that the reading of a group's entries meets, at its restore (19 R404). -/
def meetLive (s : State) (g : Group) (gr : Grid) : State :=
  let places := (g.harts.map fun p => match if p.2.status = .exited then none else liveEntry gr p.1 p.2.pc.toNat with
    | some (a, n) => (List.range n).map (a + ·)
    | none => []).flatten
  if s.tovor.latent.isEmpty && s.tovor.badCopies.isEmpty then s
  else places.foldl (fun s a => match walked s g.ctx a needRead with
    | (s, .ok (.flat p _)) => (meetMemory s g.ctx p).1
    | (s, _) => s) s

/-- The bits of the live-register table at a context's PC; none where they cannot be read. -/
def liveBits (s : State) (g : Group) (gr : Grid) (w : Who) (pc : Nat) : Option Nat :=
  (liveEntry gr w pc).bind fun (at_, n) =>
  let word (k : Nat) : Option Nat :=
    let a := at_ + 4 * k
    let byte (i : Nat) : Option Nat :=
      match translateDirect s g.ctx (a + i) needRead with
      | .ok (.flat p _) => if poisoned s p then none else some (memNat s.mem p 1)
      | _ => none
    if a % 65536 ≤ 65532 then
      match translateDirect s g.ctx a needRead with
      | .ok (.flat p _) => if poisoned s p || poisoned s (p + 3) then none else some (memNat s.mem p 4)
      | _ => none
    else (List.range 4).foldr (fun i acc => match byte i, acc with | some v, some r => some (v * 2 ^ (8 * i) + r) | _, _ => none) (some 0)
  (List.range (n / 4)).foldr (fun k acc => match word k, acc with | some v, some r => some (v * 2 ^ (32 * k) + r) | _, _ => none) (some 0)

/-- A context as its image gives it back: the registers that are not live are dead; a wait is met again, but a sleep, a
barrier whose arrival is taken and a rendezvous go on (02 R52, 03 R98, 04 R115). -/
def reviveHart (live : Nat) (w : Who) (h : Hart) : Hart :=
  if h.status = .exited then h
  else
    let keep (i : Nat) : Bool := live.testBit i || (Who.isSteward w && decide (i < 2))
    let dead := ((List.range h.regs.length).filter fun i => !keep i) ++ h.dead
    let h := { h with dead := dead.eraseDups, rdvBack := none, flip := 0, spin := { last := none, count := 0 }, yieldExcl := none, fuseWaited := false
                      starve := 0, urgent := false, lastIssue := none, reconvAt := none, slotAt := none, frame := [] }
    match h.wait with
    | .sleep _ | .bar _ | .rdv => { h with status := .blocked }
    | _ =>
      if h.yielded || h.trapping.isSome || h.exiting || (h.wait == .none && h.parkS) then { h with status := .parked }
      else { h with status := .ready, wait := .none }

/-- Every context of a group given back; none where the table cannot be read. -/
def reviveGroup (s : State) (g : Group) (gr : Grid) : Option Group :=
  let bits (w : Who) (h : Hart) : Option Nat := if h.status = .exited then some 0 else liveBits s g gr w h.pc.toNat
  if g.harts.all fun p => (bits p.1 p.2).isSome then
    some (g.eachHart fun w h => reviveHart ((bits w h).getD 0) w h)
  else none

/-- Stored bytes of a section of an image (17 R359): its map of one bit per block, and the blocks that are not zero. -/
def sectionBytes (blocks stored : Nat) : Nat := ceilDiv blocks 8 + 64 * stored

/-- The blocks stored of a section whose contents are internal to the JK16: a free value within it (log 22). -/
def someBlocks (s : State) (part blocks : Nat) : Nat := min blocks (Config.imageBlocks s.free part)

/-- Blocks of 64 bytes of a range of memory that are not zero. -/
def usedBlocks (s : State) (base len : Nat) : Nat :=
  ((s.mem.filter fun c => decide (base ≤ c.1) && decide (c.1 < base + len) && c.2 != 0).map fun c =>
    (c.1 - base) / 64).eraseDups.length

/-- Stored bytes of a group's sections. -/
def groupBytes (s : State) (key : Nat) (g : Group) (gr : Grid) : Nat :=
  let live (w : Who) (h : Hart) : Nat :=
    let b := (liveBits s g gr w h.pc.toNat).getD 0
    ((List.range h.regs.length).filter fun i => b.testBit i).length
  let core := s.core g.coreNo
  let threads := ceilDiv (((g.harts.filter fun p => !Who.isSteward p.1).map fun p => 48 + 4 * live p.1 p.2).sum) 64
  let cbytes := Hdr.cbytes gr.header
  let tiles := (core.acc.filter fun p => p.2 != zeroTile).length
  let snap := 80 * ((s.cmdsOf key g).map fun c => if c.started && c.kind matches .mx .. then c.quads.length else 0).sum
  let ord := ceilDiv (16 * ((g.harts.map fun p => p.2.ord.length).sum + (g.batches.map List.length).sum)) 64
  sectionBytes 16 (someBlocks s 0 16) + sectionBytes threads (someBlocks s 1 threads)
    + sectionBytes (ceilDiv cbytes 64) (usedBlocks s (coreBase + g.coreNo * corePadBytes + g.cbase) cbytes)
    + (if core.claim = some key then sectionBytes 7680 (someBlocks s 2 (80 * tiles)) else 0)
    + sectionBytes snap (someBlocks s 3 snap) + sectionBytes ord (someBlocks s 4 ord)

/-! ### The save area (03 R97, 17 R359) -/

/-- A piece of memory, base and length. -/
abbrev Piece := Nat × Nat

/-- What is left of a piece outside another. -/
def cutPiece (u p : Piece) : List Piece :=
  let hi := p.1 + p.2
  [(p.1, min hi (max p.1 u.1) - p.1), (max p.1 (min hi (u.1 + u.2)), hi - max p.1 (min hi (u.1 + u.2)))].filter fun q => q.2 != 0

/-- The pieces of a context's save area that images hold. -/
def usedPieces (s : State) (n : Nat) : List Piece :=
  (match (s.ctx n).image with | some i => i.pieces | none => [])
    ++ (s.groups.map fun p => if p.2.ctx = n then (match p.2.image with | some i => i.pieces | none => []) else []).flatten

/-- The free pieces of a context's save area, which lies in local DRAM (log 25), from a place that the device chooses. -/
def freePieces (s : State) (n : Nat) : List Piece :=
  let c := s.ctx n
  let len := c.saveLen * 4096
  if len = 0 || decide (dramBytes < c.saveBase + len) then []
  else
    let free := (usedPieces s n).foldl (fun fs u => (fs.map (cutPiece u)).flatten) [(c.saveBase, len)]
    let at_ := c.saveBase + Config.imagePlace s.free % len
    (free.map (cutPiece (0, at_))).flatten ++ (free.map (cutPiece (at_, dramBytes))).flatten

/-- The first bytes of some pieces; none where they are too few. -/
def takePieces : List Piece → Nat → Option (List Piece)
  | _, 0 => some []
  | [], _ + 1 => none
  | p :: ps, n + 1 => if n < p.2 then some [(p.1, n + 1)] else (takePieces ps (n + 1 - p.2)).map fun qs => p :: qs

/-- An image of some bytes in the save area of a context, where it fits; the device alone knows what the bytes say (R359). -/
def newImage (s : State) (n count : Nat) (writing : Bool) : Option Image :=
  (takePieces (freePieces s n) count).map fun ps =>
    { pieces := ps, bytes := (List.range count).map (Config.imageByte s.free), writing := writing }

/-- The bytes of an image written to its pieces. -/
def writePieces : State → List Piece → List Byte → State
  | s, [], _ => s
  | s, p :: ps, bs => writePieces (writeHome s none (wholeBytes (dramBase + p.1) (bs.take p.2))) ps (bs.drop p.2)

/-- An image written. -/
def writeImage (s : State) (i : Image) : State := writePieces s i.pieces i.bytes

/-- A read of some places, and whether it meets no error that cannot be corrected. -/
def meetAll (n : Nat) (s : State) (as : List Nat) : State × Bool :=
  let r := meetEach (fun s a => meetMemory s n a) s as
  (r.1, r.2.isNone)

/-! ### The bytes of an access without a core: the host window, a status record -/

/-- The places of `k` bytes; none where one faults. -/
def bytePlaces (s : State) (n va : Nat) (need : Need) : Nat → Option (List Loc)
  | 0 => some []
  | k + 1 =>
    match translateDirect s n va need, bytePlaces s n (va + 1) need k with
    | .ok l, some ls => some (l :: ls)
    | _, _ => none

/-- Bytes that follow one another at a peer: the link, the space, the address, where they stand in the access, how many. -/
structure PeerRun where
  link : Nat
  chip : Bool
  addr : Nat
  off  : Nat
  len  : Nat
  deriving DecidableEq, Repr

/-- The runs at peers among places that begin at an offset of an access. -/
def peerRuns : List Loc → Nat → List PeerRun
  | [], _ => []
  | .flat .. :: ls, off => peerRuns ls (off + 1)
  | .peer k c a :: ls, off =>
    match peerRuns ls (off + 1) with
    | r :: rs =>
      if r.link == k && r.chip == c && r.addr == a + 1 && r.off == off + 1 then { r with addr := a, off := off, len := r.len + 1 } :: rs
      else { link := k, chip := c, addr := a, off := off, len := 1 } :: r :: rs
    | [] => [{ link := k, chip := c, addr := a, off := off, len := 1 }]

/-- The bytes of an access that lie in the device or in host memory. -/
def flatPlaces (ls : List Loc) : List Nat := ls.filterMap fun l => match l with | .flat a _ => some a | .peer .. => none

/-- An image read back: no block of it has an uncorrectable error, and its check value holds, which it does where it is as it was
written (17 R359). -/
def readImage (s : State) (n : Nat) (i : Image) : State × Bool :=
  let places := (i.pieces.map fun p => (List.range (p.2 / 64 + 2)).map fun k => dramBase + min (p.1 + 64 * k) (p.1 + p.2 - 1)).flatten
  let r := meetAll n s places
  (r.1, r.2 && (i.pieces.map fun p => memBytes r.1.mem (dramBase + p.1) p.2).flatten == i.bytes)

/-! ### Off the core and back -/

/-- The results that the ordered buffer keeps leave the pending set (02 R43, 05 R140). -/
def Group.shelveResults (g : Group) : Group :=
  g.eachHart fun w h => { h with results := h.results.filter fun q => !g.resultOrdered w h q }

/-- They stand in it again. -/
def Group.unshelveResults (g : Group) : Group :=
  g.eachHart fun w h => { h with results := h.results ++ (g.pendingOrd w h).filterMap fun o => o.dst }

/-- A lock of core memory named by the rank that holds it, in the form of an address of space `k`. -/
def relativeLock (s : State) (key : Nat) (l : Lock) : Lock :=
  let inside (p : Group) : Bool :=
    decide (coreBase + p.coreNo * corePadBytes + p.cbase ≤ l.first)
      && decide (l.first < coreBase + p.coreNo * corePadBytes + p.cbase + (match s.gridOf p with | some gr => Hdr.cbytes gr.header | none => 0))
  if l.space != 1 then l
  else match (s.peers key).find? fun k => (s.group? k).any inside with
    | none => l
    | some k =>
      match s.group? k, (s.group? k).bind s.gridOf with
      | some p, some gr =>
        let base := coreBase + p.coreNo * corePadBytes + p.cbase
        let rank := rankOf (Hdr.cgroup gr.header) p
        { l with space := 2, first := rank * 2 ^ 18 + (l.first - base), last := rank * 2 ^ 18 + (l.last - base) }
      | _, _ => l

/-- The scratchpad, the tiles and the claim of a group go into its image; its room is free. -/
def leaveCore (s : State) (key : Nat) (g : Group) (gr : Grid) : State :=
  let c := s.core g.coreNo
  let claimed := c.claim == some key
  let base := coreBase + g.coreNo * corePadBytes + g.cbase
  let cmds := s.cmdsOf key g
  let locks := (cmds.map fun x => locksOf s x.id).flatten.map (relativeLock s key)
  let saved := cmds.map fun x => { x with fetched := [], relock := x.relock.map fun p => (p.1, relativeLock s key p.2) }
  let s := s.setGroup key
    { g.shelveResults with
      savedMem := memBytes s.mem base (Hdr.cbytes gr.header), hadClaim := claimed
      savedAcc := if claimed then c.acc else [], savedDepth := if claimed then c.depth else []
      savedProv := if claimed then c.prov else [], savedCmds := saved, savedLocks := locks }
  let s := removeCmds s g.coreNo cmds
  let s := if claimed then s.modCore g.coreNo fun c => { c with claim := none } else s
  let s := s.modCore g.coreNo fun c => { c with running := if c.running = some key then none else c.running }
  if claimed then wakeClaim s g.coreNo else s

/-- The numbers that a saved group's commands take on a core. -/
def renumber (s : State) (core i : Nat) : Nat := core * 2 ^ 40 + i % 2 ^ 40 + (s.core core).nextCmd

/-- The drains that a group has left unfinished, moved with it (14 R308). -/
def moveResume (s : State) (key old new : Nat) : State :=
  let mine := (s.core old).resume.filter fun p => p.1 / 16 == key
  let s := s.modCore old fun c => { c with resume := c.resume.filter fun p => p.1 / 16 != key }
  s.modCore new fun c => { c with resume := mine.foldl (fun m p => mapPut m p.1 p.2) c.resume }

/-- A thread in its slot of a spot. -/
def moveHart (spot : Spot) (t : Nat) (h : Hart) : Hart :=
  let b := spot.blocks.getD (t / 32) (0, 0)
  { h with quad := b.1, lane := t % 32, slot := b.2 * 32 + t % 32 }

/-- The image back on a core: scratchpad and tiles, whose words are written afresh (18 R382), claim, commands with what they have
sent over a link, and results; `relock` brings the locks. -/
def enterCore (s : State) (key : Nat) (g : Group) (gr : Grid) (cluster core : Nat) (spot : Spot) : State :=
  let k := cluster * 8 + core
  let newPad := coreBase + k * corePadBytes + spot.cbase
  let locks := g.savedLocks.map fun (l : Lock) => { l with cmd := renumber s k l.cmd }
  let g1 := g.unshelveResults
  let g' : Group :=
    { g1 with
      threads := g1.threads.zipIdx.map fun p => moveHart spot p.2 p.1
      cluster := cluster, core := core, cbase := spot.cbase, stewardSlot := spot.steward, savedMem := [], savedAcc := []
      savedDepth := [], savedProv := [], savedCmds := [], savedLocks := locks, hadClaim := false, image := none }
  let again (p : Nat × Lock) : Nat × Lock := (p.1, { p.2 with cmd := renumber s k p.2.cmd })
  let cmds := g.savedCmds.map fun x => { x with id := renumber s k x.id, issued := none, relock := x.relock.map again }
  let sent (o : OutOp) : OutOp :=
    if o.cmd.any fun i => g.savedCmds.any fun x => x.id == i then { o with cmd := o.cmd.map (renumber s k) } else o
  let s := s.modTovor fun t => { t with outbound := t.outbound.map sent }
  let s := moveResume (s.setGroup key g') key g.coreNo k
  let s := { s with
    mem := memSetBytes (memZero s.mem newPad (Hdr.cbytes gr.header)) newPad g.savedMem
    tovor := s.tovor.rewritten (hitsRange newPad (Hdr.cbytes gr.header)) }
  let s := if g.hadClaim then
      s.modCore k fun c => { c with claim := some key, acc := g.savedAcc, depth := g.savedDepth, prov := g.savedProv, accUe := [] }
    else s
  -- The shadow is loaded from the same image (17 R365), unless a record on the pair still waits for its partner.
  let quiet := (List.range 8).all fun i => (s.core (16 * (cluster / 2) + i)).records.isEmpty
  let s := if quiet then wakePair s (cluster / 2) else s
  s.modCore k fun c =>
    { c with cmds := c.cmds ++ cmds, nextCmd := c.nextCmd + 1 + (g.savedCmds.map fun x => x.id % 2 ^ 40).foldl max 0 }

/-- The table of a saved lock, and the lock as it stands there: that of the core, or for core memory that of the rank's core, at the
rank's new place. -/
def lockHome (s : State) (key : Nat) (g : Group) (l : Lock) : Option (Nat × Lock) :=
  if l.space != 2 then some (g.coreNo, l)
  else
    let rank := l.first / 2 ^ 18
    match (s.peers key).findSome? fun k => (s.group? k).filter fun p => (s.gridOf p).any fun gr => rankOf (Hdr.cgroup gr.header) p == rank with
    | none => none
    | some p =>
      let base := coreBase + p.coreNo * corePadBytes + p.cbase
      some (p.coreNo, { l with space := 1, first := base + (l.first - rank * 2 ^ 18), last := base + (l.last - rank * 2 ^ 18) })

/-- A saved lock back in its table. -/
def placeLock (s : State) (key : Nat) (g : Group) (l : Lock) : State :=
  match lockHome s key g l with
  | none => s
  | some (core, l) => s.modCore core fun c => { c with locks := c.locks ++ [l] }

/-- The locks of a restored group taken again, once every rank has its place (05 R136); those that an abandoned command takes when it
starts again follow the ranks too. -/
def relock (s : State) (key : Nat) : State :=
  match s.group? key with
  | none => s
  | some g =>
    let home (c : Cmd) : Cmd := if c.gid = key then { c with relock := c.relock.filterMap fun p => lockHome s key g p.2 } else c
    let s := s.modCore g.coreNo fun c => { c with cmds := c.cmds.map home }
    (g.savedLocks.foldl (fun s l => placeLock s key g l) s).modGroup key fun g => { g with savedLocks := [] }

/-- A completion word is still to be written in the group's core memory. -/
def Group.padWaits (s : State) (g : Group) : Bool :=
  (s.gridOf g).any fun gr => padDue s g.coreNo g.cbase (Hdr.cbytes gr.header)

/-- The group of a context is at rest: its results have returned but for those of ordered accesses that are not applied before it
goes on, its stores, arrivals and completion words are performed, and nothing of it waits to be compared (02 R43, R52; 17 R357). -/
def Group.atRest (s : State) (key : Nat) (g : Group) : Bool :=
  !g.rollback && Group.resultsBack s g && !g.padWaits s && (g.harts.all fun p => p.2.stores.isEmpty && p.2.arrival.isNone)
    && !((s.core g.coreNo).records.any fun r => r.1.group == key)
    && !((s.core g.coreNo).replay.any fun r => r.refs.any fun x => x.group == key)

/-- An error in the state of a context of some groups that nothing has met: their save meets it (17 R365). -/
def pendingFault (s : State) (keys : List Nat) : Option (CtxRef × Cause) :=
  keys.findSome? fun k => (s.group? k).bind fun g => g.harts.findSome? fun p => p.2.fault.map fun c => ({ group := k, who := p.1 }, c)

/-- The error is met. -/
def meetFault (s : State) (p : CtxRef × Cause) : State := raiseOn (s.modHart p.1 fun h => { h with fault := none }) p.1 p.2

/-- An error in the tiles that a group has claimed: their save reads them (17 R365). -/
def tileFault (s : State) (keys : List Nat) : Option Event :=
  keys.findSome? fun k => (s.group? k).bind fun g =>
    let c := s.core g.coreNo
    if c.claim = some k then c.accUe.head?.map fun t =>
      { key := k, cause := .accUe, pc := g.steward.pc.toNat, part := unitOf g (some (t / 24)) .accUe }
    else none

/-- The bad blocks of a group's scratchpad, as flat addresses. -/
def padBlocks (s : State) (g : Group) (gr : Grid) : List Nat :=
  let base := coreBase + g.coreNo * corePadBytes + g.cbase
  let bad := (s.tovor.latent.map fun p => (8 * p.1, unitBytes (8 * p.1))) ++ (s.tovor.badCopies.map fun w => (8 * w, 8))
    ++ s.tovor.poison.map fun b => (64 * b, 64)
  (bad.filter fun b => hitsRange base (Hdr.cbytes gr.header) b.1 b.2).map fun b => max base b.1

/-- The errors that the save of a group's scratchpad meets, up to one that it cannot correct. -/
def meetPad (n : Nat) (s : State) (as : List Nat) : State × Option Cause := meetEach (fun s a => meetMemory s n a) s as

/-- The scratchpads of some groups read by their save: the state behind it, and whether it has raised an event, which the steward of
the group bears (log 98). -/
def padFault : State → List Nat → State × Bool
  | s, [] => (s, false)
  | s, k :: ks =>
    match s.group? k, (s.group? k).bind s.gridOf with
    | some g, some gr =>
      (match meetPad g.ctx s (padBlocks s g gr) with
      | (s, none) => padFault s ks
      | (s, some c) => (integrityEvent s { key := k, cause := c, pc := g.steward.pc.toNat, part := .none }, true))
    | _, _ => padFault s ks

/-- What the save of some groups meets (17 R365): the state in which it raises an event, or the one behind its corrections. -/
def saveFault (s : State) (keys : List Nat) : Except State State :=
  match pendingFault s keys with
  | some f => .error (meetFault s f)
  | none => match tileFault s keys with
    | some e => .error (integrityEvent s e)
    | none => match padFault s keys with
      | (s, true) => .error s
      | (s, false) => .ok s

/-- A group that has come back: an exit that has become complete takes place, and the group retires or waits as it stands. -/
def resettle (s : State) (key : Nat) : State :=
  match s.group? key with
  | none => s
  | some g =>
    settleWaiting (settleRetiring (g.harts.foldl (fun s p => tryExit s { group := key, who := p.1 }) s) key) key

/-! ## Candidates (16 R341, R342) -/

/-- A group, or a cluster-group by the key of its rank 0, that waits to be placed. -/
structure PlaceCand where
  key     : Nat
  grid    : Nat
  queue   : Nat
  prio    : Nat
  recPrio : Nat
  order   : Nat
  index   : Nat
  again   : Bool
  deriving DecidableEq, Repr

def candOf (s : State) (gid : Nat) (gr : Grid) (index : Nat) (again : Bool) : PlaceCand :=
  { key := groupKey gid index, grid := gid, queue := gr.queue, prio := (s.queue gr.part gr.queue).prio
    recPrio := Rec.priority gr.record, order := gr.order, index := index, again := again }

def ctxPlaces (s : State) (n : Nat) : Bool := (s.ctx n).state == .idle || (s.ctx n).state == .running

/-- The candidates of a partition. -/
def placeCands (s : State) (part : Nat) : List PlaceCand :=
  let news := s.grids.filterMap fun p =>
    if p.2.part = part && !p.2.aborted && decide (p.2.next < p.2.total) && ctxPlaces s p.2.ctx
    then some (candOf s p.1 p.2 p.2.next false) else none
  let back := s.groups.filterMap fun p =>
    if p.2.state = .pending && ctxPlaces s p.2.ctx then
      match s.gridOf p.2 with
      | some gr =>
        let n := Hdr.cgroup gr.header
        let base := p.2.index / n * n
        let first := (List.range (p.2.index - base)).all fun r => (s.group? (groupKey p.2.grid (base + r))).all fun g => g.state != .pending
        if gr.part = part && first then some (candOf s p.2.grid gr base true) else none
      | none => none
    else none
  news ++ back

/-- The order of R341, of which the round-robin that 16 R343 bounds is the fourth key (DESIGN CHOICE, log 103). -/
def placeBefore (s : State) (part : Nat) (a b : PlaceCand) : Bool :=
  let turn (c : PlaceCand) : Nat := (c.queue + 63 - mapGet 63 s.served (part * 8 + c.prio)) % 64
  let ka := [7 - a.prio, boolNat (!a.again), 7 - a.recPrio, turn a, a.order, a.index]
  let kb := [7 - b.prio, boolNat (!b.again), 7 - b.recPrio, turn b, b.order, b.index]
  decide (ka < kb)

/-- A group that takes room stands on the cluster. -/
def clusterTaken (s : State) (k : Nat) : Bool := s.groups.any fun p => p.2.cluster == k && s.occupies p.2

/-- The cluster has a descriptor store for the context (06 R145). -/
def storeFree (s : State) (n k : Nat) : Bool :=
  decide ((((s.groups.filter fun p => p.2.cluster == k && p.2.ctx != n && s.occupies p.2).map fun p => p.2.ctx).eraseDups).length < 4)

/-- The clusters a candidate may stand on: one of its mode, or an empty one, which takes its mode (18 R389). -/
def candCluster (s : State) (gr : Grid) (k : Nat) : Bool :=
  let c := s.ctx gr.ctx
  clusterOpen s c gr.level k && storeFree s gr.ctx k && (s.isFixed k == c.isFixedMode || !clusterTaken s k)

/-- The ranks of a candidate, each with the core it takes. -/
def ranksOf (gr : Grid) (c : PlaceCand) (cluster core : Nat) : List (Nat × Nat) :=
  let n := Hdr.cgroup gr.header
  if n = 1 then [(c.index, cluster * 8 + core)] else (List.range n).map fun r => (c.index + r, cluster * 8 + r)

/-- Whether a candidate fits with its first blocks in a quadrant. -/
def candFits (s : State) (c : PlaceCand) (cluster core quad : Nat) : Bool :=
  match s.grid? c.grid with
  | none => false
  | some gr =>
    candCluster s gr cluster && decide (core < 8) && (Hdr.cgroup gr.header == 1 || core == 0)
      && (ranksOf gr c cluster core).all fun p =>
        let at_ (claims : Bool) : Bool :=
          (fitsAt s gr.header p.2 (if (openQuads s p.2).contains quad then quad else (openQuads s p.2).headD 0) claims).isSome
        match s.group? (groupKey c.grid p.1) with
        | some g => g.state != .pending || at_ g.hadClaim
        | none => at_ false

/-- A reserving candidate could use the core once its residents leave (R342). -/
def couldUse (s : State) (c : PlaceCand) (core : Nat) : Bool :=
  match s.grid? c.grid with
  | some gr =>
    let n := Hdr.cgroup gr.header
    let room (k : Nat) : Bool := decide (0 < coreRoom s gr.header k)
    clusterOpen s (s.ctx gr.ctx) gr.level (core / 8)
      && (if n = 1 then room core else decide (core % 8 < n) && (List.range n).all fun r => room (core / 8 * 8 + r))
  | none => false

/-- Whether a candidate can be placed here: it fits, and no reserving candidate of its priority or a higher one holds the cores. Two
reserving ones are served in the order in which they became so: only the one before it stops the other, whatever their priorities
(DESIGN CHOICE, log 86). -/
def candTakes (s : State) (cs : List PlaceCand) (c : PlaceCand) (cluster core quad : Nat) : Bool :=
  let resv := s.reserving.filterMap fun k => cs.find? fun d => d.key == k
  let older := resv.takeWhile fun d => d.key != c.key
  candFits s c cluster core quad
    && (match s.grid? c.grid with
      | some gr => (ranksOf gr c cluster core).all fun p => older.all fun d =>
        (decide (d.prio < c.prio) && !resv.contains c) || !couldUse s d p.2
      | none => false)

/-- Whether it can be placed anywhere. -/
def candAnywhere (s : State) (cs : List PlaceCand) (c : PlaceCand) : Bool :=
  (List.range 16).any fun k => (List.range 8).any fun r => (List.range 4).any fun q => candTakes s cs c k r q

/-! ## Restore (17 R358) -/

/-- Clusters of a partition enter fixed timing: the counters of its fixed clusters are aligned to their maximum (02 R48). -/
def enterFixed (s : State) (part : Nat) (clusters : List Nat) : State :=
  let s := { s with fixed := clusters.foldl (fun m k => mapPut m k true) s.fixed }
  let ks := (s.partClusters part).filter s.isFixed
  let top := (ks.map s.clusterCycles).foldl max 0
  { s with cycles := ks.foldl (fun m k => mapPut m k top) s.cycles }

/-- An empty cluster takes the mode of the context it accepts (18 R389). The counters of a fixed context's clusters are aligned also
where they were fixed before (02 R48). -/
def adoptMode (s : State) (c : Ctx) (cluster : Nat) : State :=
  if s.isFixed cluster = c.isFixedMode then (if c.isFixedMode then enterFixed s c.part [] else s)
  else if c.isFixedMode then enterFixed s c.part [cluster] else { s with fixed := mapPut s.fixed cluster false }

/-- A group as its image gives it back; none, and so RESTORE_FAULT, where the image cannot be read, and where its entry of the
live-register table cannot (DESIGN CHOICE, log 92). -/
def returned (s : State) (g : Group) (gr : Grid) : State × Option Group :=
  match g.image with
  | none => let s := meetLive s g gr; (s, reviveGroup s g gr)
  | some i =>
    let r := readImage s g.ctx i
    let s := if r.2 then meetLive r.1 g gr else r.1
    (s, if r.2 then reviveGroup s g gr else none)

/-- The groups of a context that a save takes: those on their cores. -/
def savedKeys (s : State) (n : Nat) : List Nat :=
  (s.groups.filter fun p => p.2.ctx == n && (p.2.state == .halted || p.2.state == .retiring)).map fun p => p.1

/-- A DLT restored gives its slot the state it had at issue, unless a write has made it STALE. -/
def resumeSlots (s : State) (g : Group) : List Cmd → State
  | [] => s
  | c :: cs =>
    let k := blkBits c.block 0 0 6
    let r := ((s.ctx g.ctx).slot k).bits
    let r := if Slot.state r = 5 then Slot.setState r (Slot.state c.slotRec) else r
    resumeSlots (if c.kind = .dlt then s.setSlot g.ctx k (Slot.put r 22 1 0) else s) g cs

/-- Where the blocks of a saved group go on a core: each in its own quadrant. -/
def blockRows (gs : List Group) (regs : Nat) : List Nat → Option (List (Nat × Nat))
  | [] => some []
  | q :: qs =>
    match blockRows gs regs qs with
    | none => none
    | some done =>
      let mine := (done.filter fun p => p.1 == q).map fun p => p.2
      match (List.range 16).find? fun r => !(usedRows gs q ++ mine).contains r with
      | none => none
      | some r => if 16384 < usedRegs gs q + 32 * regs * (mine.length + 1) then none else some ((q, r) :: done)

/-- The place of a saved group on a core. -/
def restoreAt (s : State) (g : Group) (gr : Grid) (core : Nat) : Option Spot :=
  let gs := coreGroups s core
  let quads := (List.range (ceilDiv (Hdr.threads gr.header) 32)).map fun b => match g.threads[32 * b]? with | some h => h.quad | none => 0
  let locks := if Hdr.cgroup gr.header = 1 then g.savedLocks.length else 0
  if (g.hadClaim && (s.core core).claim.isSome) || !(quads.all (openQuads s core).contains)
      || decide (32 < (s.core core).locks.length + locks) then none
  else match blockRows gs (Hdr.regs gr.header) quads, placePad s core gs (Hdr.cbytes gr.header), placeSteward gs with
    | some b, some a, some k => some { blocks := b, cbase := a, steward := k }
    | _, _, _ => none

/-- The cores a saved group may take: its own first. -/
def restoreCores (s : State) (g : Group) (gr : Grid) : List Nat :=
  let all := g.coreNo :: (List.range 128)
  all.filter fun k => candCluster s gr (k / 8) && (Hdr.cgroup gr.header == 1 || k % 8 == rankOf (Hdr.cgroup gr.header) g)

/-- A group reinstated on a core of a list, the ranks of its cluster-group in one cluster. -/
def restoreOne (s : State) (key : Nat) (cores : List Nat) : Option State :=
  match s.group? key with
  | none => some s
  | some g =>
    if g.state == .killed then some s
    else match s.gridOf g with
    | none => none
    | some gr =>
      match cores.find? fun k => (restoreAt s g gr k).isSome with
      | none => none
      | some k =>
        match restoreAt s g gr k with
        | none => none
        | some spot =>
          some (match returned s g gr with
            | (s, some g') =>
              resumeSlots (enterCore (adoptMode s (s.ctx g.ctx) (k / 8)) key
                { g' with state := if g.state = .halted then .resident else g.state } gr (k / 8) (k % 8) spot) g g.savedCmds
            | (s, none) => killGroup s key .restoreFault 0 0 0)

/-- The ranks of a cluster-group that were saved, in one cluster; none where they do not fit there. -/
def restoreRanks (cluster : Nat) : State → List Nat → Option State
  | s, [] => some s
  | s, k :: ks =>
    match s.group? k with
    | none => restoreRanks cluster s ks
    | some g =>
      match s.gridOf g with
      | none => none
      | some gr =>
        match restoreOne s k ((restoreCores s g gr).filter fun c => c / 8 == cluster) with
        | none => none
        | some s => restoreRanks cluster s ks

/-- The locks of restored groups in the tables, which hold 32 entries each (05 R133); none where one has too few free. -/
def relockAll (s : State) (ks : List Nat) : Option State :=
  let s := ks.foldl relock s
  if s.cores.all fun p => decide (p.2.locks.length ≤ 32) then some s else none

/-- The clusters a saved group may take, its own first. -/
def restoreCluster (s : State) (ks : List Nat) (g : Group) : Option State :=
  (g.cluster :: List.range 16).findSome? fun c => (restoreRanks c s ks).bind fun s => relockAll s ks

/-- Every saved group of a context reinstated; none where they do not all fit. -/
def restoreAll : State → List Nat → Option State
  | s, [] => some s
  | s, k :: ks =>
    match s.group? k with
    | none => restoreAll s ks
    | some g =>
      if (g.state == .halted || g.state == .retiring) && g.image.isSome then
        match restoreCluster s ((s.peers k).filter (k :: ks).contains) g with
        | none => none
        | some s => restoreAll s ks
      else restoreAll s ks

/-- The context section of an image; where it does not read back, every saved group of the context is killed. -/
def restoreSection (s : State) (n : Nat) : State :=
  match (s.ctx n).image with
  | none => s
  | some i =>
    let r := readImage s n i
    let s := r.1.modCtx n fun c => { c with image := none }
    if r.2 then s else (savedKeys s n).foldl (fun s k => killGroup s k .restoreFault 0 0 0) s

/-- A SAVED context whose groups all fit while it takes room. -/
def restored (s : State) (n : Nat) : Option State :=
  let s := restoreSection (s.modCtx n fun c => { c with state := .restoring }) n
  restoreAll s (savedKeys s n)

/-! ## Placement -/

/-- A candidate put into a list that stands in the order of R341. -/
def insertCand (s : State) (part : Nat) (c : PlaceCand) : List PlaceCand → List PlaceCand
  | [] => [c]
  | d :: ds => if placeBefore s part c d then c :: d :: ds else d :: insertCand s part c ds

/-- The candidate to place, of those that can be placed: the first in the order of R341; where that one is reserving, the one that
became so first (R342; log 86). -/
def firstCand (s : State) (part : Nat) (cs : List PlaceCand) (live : PlaceCand → Bool) : Option PlaceCand :=
  match (cs.foldr (insertCand s part) []).find? live with
  | none => none
  | some c =>
    if s.reserving.contains c.key then (s.reserving.filterMap fun k => cs.find? fun d => d.key == k).find? live else some c

/-- The context of a candidate. -/
def PlaceCand.ctx (s : State) (c : PlaceCand) : Nat := match s.grid? c.grid with | some gr => gr.ctx | none => 0

/-- The distance of a context from the one of its partition that was pre-empted last, by number (17 R356). -/
def turnOrder (s : State) (n : Nat) : Nat := (n + 1023 - mapGet 1023 s.turn (s.ctx n).part) % 1024

/-- After a pre-emption in the partition, the context whose turn it is goes first: the next by number that can be restored or that
has a candidate that can be placed (17 R356). -/
def hasTurn (s : State) (part n : Nat) : Bool :=
  let cs := placeCands s part
  let ready (m : Nat) (c : Ctx) : Bool :=
    (c.state == .saved && c.part == part && (restored s m).isSome) || cs.any fun d => d.ctx s == m && candAnywhere s cs d
  !s.sliceDue.contains part || !(s.ctxs.any fun x => x.1 != n && decide (turnOrder s x.1 < turnOrder s n) && ready x.1 x.2)

/-- The candidate is the one to place, at this place: its context has its turn, or, where no turn is due, no SAVED context of the
partition fits (17 R356); and it is the first of those that can be placed, where a turn is due of its own context. -/
def placesNow (s : State) (part : Nat) (c : PlaceCand) (cluster core quad : Nat) : Bool :=
  let cs := placeCands s part
  let due := s.sliceDue.contains part
  candTakes s cs c cluster core quad
    && (if due then hasTurn s part (c.ctx s) else !(s.ctxs.any fun x => x.2.state == .saved && x.2.part == part && (restored s x.1).isSome))
    && firstCand s part cs (fun d => (!due || d.ctx s == c.ctx s) && candAnywhere s cs d) == some c

/-- Candidates before the placed one have been passed over once more; the sixteenth time makes one reserving (R342). -/
def passOver (s : State) (part : Nat) (c : PlaceCand) : State :=
  let s := ((placeCands s part).filter fun d => d != c && placeBefore s part d c).foldl
    (fun s d =>
      let n := mapGet 0 s.passed d.key + 1
      { s with passed := mapPut s.passed d.key n
               reserving := if n = 16 then s.reserving ++ [d.key] else s.reserving }) s
  { s with passed := mapDrop s.passed c.key, reserving := s.reserving.filter fun k => k != c.key
           served := mapPut s.served (part * 8 + c.prio) c.queue }

/-- One group on its core: new, or from its image; an image that cannot be read kills it, its cluster-group with it (17 R359). -/
def placeOne (gid : Nat) (gr : Grid) (cluster quad : Nat) (s : State) (p : Nat × Nat) : State :=
  let key := groupKey gid p.1
  let q := if (openQuads s p.2).contains quad then quad else (openQuads s p.2).headD 0
  match s.group? key with
  | none =>
    (match fitsAt s gr.header p.2 q false with
    | some spot => s.setGroup key (newGroup gr gid p.1 cluster (p.2 % 8) spot)
    | none => s)
  | some g =>
    if g.state != .pending then s
    else match fitsAt s gr.header p.2 q g.hadClaim with
    | none => s
    | some spot =>
      match returned s g gr with
      | (s, some g') => enterCore s key { g' with state := .resident, woken := false } gr cluster (p.2 % 8) spot
      | (s, none) => killGroup s key .restoreFault 0 0 0

/-- The slice clock of a context that is placed or restored: it starts afresh after a pre-emption in the partition (17 R356). -/
def startSlice (s : State) (n : Nat) (again : Bool) : State :=
  let p := (s.ctx n).part
  let fresh := again || s.sliceDue.contains p
  { s.modCtx n fun c =>
      { c with state := .running, sliceAt := if fresh then some (s.refNs, c.sliceUs) else some (c.sliceAt.getD (s.refNs, c.sliceUs)) } with
    sliceDue := s.sliceDue.filter fun q => q != p }

/-- GROUP_PLACEMENT: a group, or a cluster-group named by its rank 0, takes its place (R341). -/
def execGroupPlacement (key cluster core quad : Nat) (s : State) : Host.Outcome State Fault Refusal :=
  match s.grid? (key / 2 ^ 64) with
  | none => .next s
  | some gr =>
    match (placeCands s gr.part).find? fun c => c.key == key with
    | none => .next s
    | some c =>
      if !placesNow s gr.part c cluster core quad then .next s
      else
        let n := Hdr.cgroup gr.header
        let ranks := ranksOf gr c cluster core
        let s1 := adoptMode (passOver s gr.part c) (s.ctx gr.ctx) cluster
        let s1 := ranks.foldl (placeOne c.grid gr cluster quad) s1
        let s1 := if c.again then s1 else s1.modGrid c.grid fun gr => { gr with next := gr.next + n }
        .next ((ranks.map fun p => groupKey c.grid p.1).foldl resettle (startSlice s1 gr.ctx false))

/-- CLUSTER_MODE_CHANGE: an empty cluster (18 R389); entry to fixed timing aligns the counters of the partition's fixed
clusters to their maximum (02 R48). A paired cluster stays fixed. -/
def execClusterModeChange (cluster : Nat) (fixed : Bool) (s : State) : Host.Outcome State Fault Refusal :=
  if !s.tovor.released || 16 ≤ cluster || s.isFixed cluster == fixed || (s.groups.any fun p => p.2.cluster == cluster && s.occupies p.2)
      || ((s.pair (cluster / 2)).formed && !fixed) then .next s
  else
    match fixed, s.partOf cluster with
    | true, some p => .next (enterFixed s p [cluster])
    | _, _ => .next { s with fixed := mapPut s.fixed cluster fixed }

end Sys2Proof.Machine
end

