-- ==== Sys2Proof/Machine/Groups.lean ====
section
/-!
DEFINITION. Groups and grids as a whole: eviction (03 R95 to R99), retirement (03 R88), completion (15 R330, R331), and the
dispatch of launch records (15 R322 to R328, 16 R338 to R340).
-/
namespace Sys2Proof.Machine

/-! ## Eviction -/

/-- The object of a wait can be reached from outside the group (R95). -/
def waitExternal : Wait → Bool
  | .waita a _ _ _ _ => !isCorePad a
  | .sleep _ | .claim | .launch .. => true
  | _ => false

/-- Some context of the group is about to leave BLOCKED, or an arrival is on its way (R100). -/
def wakeDue (s : State) (key : Nat) (g : Group) : Bool :=
  (g.harts.any fun p => p.2.arrival.isSome || (match p.2.wait with
    | .sleep wake => decide (wake ≤ s.refNs)
    | .bar b => phaseDue s key b
    | .launch p k _ => !(s.queue p k).full
    | .reconv _ deadline _ => decide (deadline < s.clusterCycles g.cluster)
    | _ => false))
  || g.rdvs.any Rdv.complete

/-- The contexts of a group that are BLOCKED, threads first. -/
def Group.waiters (g : Group) : List (Who × Hart) := g.harts.filter fun p => p.2.status == .blocked

/-- The image of a group takes its place; SAVE_FAULT where it does not fit (R97, 17 R360). -/
def beginImage (s : State) (key : Nat) : State :=
  match s.group? key with
  | none => s
  | some g =>
    match s.gridOf g with
    | none => s
    | some gr =>
      if g.image.isSome || g.state != .waiting then s
      else match newImage s g.ctx (256 + groupBytes s key g gr) true with
        | some i => { s with free := s.free + 1 }.setGroup key { g with image := some i, timer := none }
        | none => killGroup { s with free := s.free + 1 } key .saveFault 0 0 0

/-- The WATCHDOG kill of a group, and a record for each BLOCKED context (R97). -/
def watchdogOne (s : State) (key : Nat) : State :=
  match s.group? key with
  | none => s
  | some g =>
    let quad (w : Who) (h : Hart) : Nat := if Who.isSteward w then 0 else h.quad
    let first := match g.waiters with | p :: _ => (p.2.pc.toNat, quad p.1 p.2) | [] => (0, 0)
    let s := killOne s key .watchdog first.1 0 first.2 false
    g.waiters.foldl (fun s p =>
      logEvent s g.ctx (placeEntry g { kind := 2, cause := .watchdog, pc := p.2.pc.toNat, quad := quad p.1 p.2 })) s

/-- The time of a group's threshold has passed (R96): what wakes it at the threshold itself comes first (R100). -/
def timerDue (s : State) (g : Group) : Bool :=
  match g.timer with
  | some (t, ns) => decide (t + ns < s.refNs)
  | none => false

/-- EVICTION_TIMER_EXPIRY: a WAITING group, or cluster-group, begins its eviction, or is killed (R97). -/
def execEvictionTimerExpiry (key : Nat) (s : State) : Host.Outcome State Fault Refusal :=
  match s.group? key with
  | none => .next s
  | some g =>
    let ks := s.peers key
    let calm (k : Nat) : Bool := match s.group? k with
      | some p => p.state == .retiring || p.state == .retired || (p.state == .waiting && p.image.isNone && !wakeDue s k p)
      | none => true
    let external (k : Nat) : Bool := match s.group? k with
      | some p => p.state == .waiting && p.waiters.any fun q => waitExternal q.2.wait
      | none => false
    if !s.groupLive g || g.state != .waiting || !timerDue s g || !ks.all calm then .next s
    else if ks.any external then .next (ks.foldl beginImage s)
    else .next (ks.foldl watchdogOne s)

/-- The image of a group written, and its L1 with it: writes that may wake the group itself. -/
def writeOut (s : State) (key : Nat) : State :=
  match s.group? key with
  | none => s
  | some g => match g.image with
    | some i => flushL1 (writeImage s i) g.coreNo
    | none => s

/-- One group leaves its core, its image written; a wake that came meanwhile takes effect (R98, R99). -/
def leaveOne (s : State) (key : Nat) : State :=
  let s := writeOut s key
  match s.group? key with
  | none => s
  | some g =>
    match s.gridOf g, g.image with
    | some gr, some i =>
      let s := leaveCore s key g gr
      s.modGroup key fun g =>
        { g.eachHart fun _ h => if h.status = .exited then h else { h with status := .evicted } with
          image := some { i with writing := false }, woken := false
          state := if g.woken then .pending else .evicted }
    | _, _ => s

/-- EVICTION_COMPLETE: the image is written (R97, R99); a wake of one group of a cluster-group makes all of it PENDING. -/
def execEvictionComplete (key : Nat) (s : State) : Host.Outcome State Fault Refusal :=
  match s.group? key with
  | none => .next s
  | some g =>
    let ks := (s.peers key).filter fun k => (s.group? k).any fun p => p.image.any fun i => i.writing
    let rest := ks.all fun k => (s.group? k).all fun p => p.atRest s k
    if !ks.contains key || (g.state != .waiting && g.state != .resident) || !rest then .next s
    else match saveFault s ks with
      | .error s => .next s
      | .ok s => .next (settleCtx (settlePeers (ks.foldl leaveOne s)) g.ctx)

/-! ## Retirement (R88) -/

/-- GROUP_RETIRE: commands complete, the ordered buffer applied, what was written performed. -/
def execGroupRetire (key : Nat) (s : State) : Host.Outcome State Fault Refusal :=
  match s.group? key with
  | none => .next s
  | some g =>
    if g.state != .retiring || g.rollback || (s.ctx g.ctx).state != .running || !(s.cmdsOf key g).isEmpty || !g.batches.isEmpty
        || !groupReleased s key g || g.padWaits s || g.harts.any fun p => !p.2.ord.isEmpty then .next s
    else
      let s := releaseClaim (flushL1 s g.coreNo) key g
      let s := s.modCore g.coreNo fun c => { c with running := if c.running = some key then none else c.running }
      let s := s.modGroup key fun g => { g with state := .retired, rdvs := [], dq := [] }
      let s := s.modGrid g.grid fun gr => { gr with retired := gr.retired + 1 }
      .next (settleCtx (countTrigger s key) g.ctx)

/-! ## Completion (R330, R331) -/

/-- The places of the 16 bytes of a status record, where its write goes through: translations that hold and memory without an
uncorrectable error. -/
def statusPlaces (s : State) (n va : Nat) : State × Option (List Loc) :=
  let s := walkRange s n va 16 needWrite
  match bytePlaces s n va needWrite 16 with
  | none => (s, none)
  | some ls =>
    let m := meetAll n s ((flatPlaces ls).map fun a => a / 8 * 8).eraseDups
    (m.1, if m.2 then some ls else none)

/-- Bytes of the device itself, of address `va` of a record, written at their places, those at a peer over its link. -/
def putPlaces (s : State) (n va : Nat) (ls : List Loc) (data : List Byte) : State :=
  let here : List WByte := (ls.zip data).filterMap fun p => match p.1 with
    | .flat a _ => some { addr := a, val := p.2, mask := 0xFF }
    | .peer .. => none
  (peerRuns ls 0).foldl (fun s r => sendLink s
    { link := r.link, ctx := n, who := none, chip := r.chip, addr := r.addr, kind := .write ((data.drop r.off).take r.len)
      dst := none, sent := s.refNs, va := some va }) (writeHome s none here)

/-- The status record; a write that faults or meets an uncorrectable error is dropped and logged. The record of a launch that was
refused at step 1 may stand at any address. -/
def writeStatus (s : State) (n va v : Nat) : State :=
  if va = 0 then s
  else match statusPlaces s n va with
    | (s, none) => dropWrite s n va
    | (s, some ls) => putPlaces s n va ls (bytesOfNat 16 v)

/-- What a launch ends with. -/
structure Ending where
  status   : Nat
  cause    : Nat := 0
  killed   : Nat := 0
  first    : Option Nat := none
  trigDone : Bool := false
  deriving DecidableEq, Repr

def Ending.bits (e : Ending) : Nat :=
  e.status % 256 + (e.cause % 256) * 2 ^ 8 + min e.killed (2 ^ 32 - 1) * 2 ^ 32
    + (e.first.getD allOnes64 % 2 ^ 64) * 2 ^ 64

/-- DONE_IDX past every record that is complete (16 R335). -/
def advanceDone : Nat → Queue → Queue
  | 0, q => q
  | k + 1, q =>
    if q.doneOut.contains q.doneIdx then
      advanceDone k { q with doneOut := q.doneOut.filter fun i => i != q.doneIdx, doneIdx := q.doneIdx + 1 }
    else q

/-- Where a queue goes when nothing is left to do (16 R340). -/
def Queue.settle (q : Queue) : Queue :=
  if q.inflight != 0 then q
  else match q.state with
    | .active => if q.occupancy = 0 then { q with state := .idle } else q
    | .draining => { q with state := .disabled }
    | _ => q

/-- A record of a queue is complete; one of a queue that a reset holds is discarded (17 R362). -/
def completeRecord (i : Word) (wasInflight : Bool) (q : Queue) : Queue :=
  if q.held then q
  else
    let q := { q with doneOut := q.doneOut ++ [i], inflight := if wasInflight then q.inflight - 1 else q.inflight }
    (advanceDone q.doneOut.length q).settle

/-- How a grid ends, or a launch that was refused. -/
def Grid.ending (gr : Grid) : Ending :=
  let code (c : Option Cause) : Nat := match c with | some c => Cause.code c | none => 0
  match gr.refused with
  | some (status, c) => { status := status, cause := code c }
  | none =>
    { status := if gr.aborted then 7 else if gr.killed = 0 then 0 else 1, killed := gr.killed, first := gr.firstGroup
      cause := if !gr.aborted && gr.killed = 0 then 0 else code gr.cause, trigDone := gr.trigDone }

/-- What the groups of a grid have written over a link is performed there, and its status record too (05 R124, 20 R414). -/
def gridReleased (s : State) (id n : Nat) : Bool :=
  s.tovor.outbound.all fun o => match o.who with
    | some r => r.group / 2 ^ 64 != id
    | none => o.ctx != n

/-- A grid ends (R331): the status record, the release, TRIG_EVENT, SIGNAL_EVENT; then its record of the queue is complete. -/
def finishGrid (s : State) (id : Nat) (gr : Grid) : State :=
  let mine := s.groups.filter fun p => p.2.grid == id
  let s := if gr.ended then s
    else
      let s := (mine.map fun p => p.2.coreNo).eraseDups.foldl flushL1 s
      (writeStatus s gr.ctx (Rec.statusAddr gr.record) gr.ending.bits).setGrid id { gr with ended := true }
  if !gridReleased s id gr.ctx then s
  else
    let s := if gr.trigDone then s else bumpEvent s gr.ctx (Rec.trigEvent gr.record)
    let s := bumpEvent s gr.ctx (Rec.signalEvent gr.record)
    let s := if gr.owed then s.modQueue gr.part gr.queue (completeRecord (BitVec.ofNat 32 gr.recIdx) gr.refused.isNone) else s
    settleCtx { s with grids := mapDrop s.grids id, groups := s.groups.filter fun p => p.2.grid != id } gr.ctx

/-- GRID_COMPLETE: the last group has ended, or the grid was stopped (R329, R331). -/
def execGridComplete (grid : Nat) (s : State) : Host.Outcome State Fault Refusal :=
  match s.grid? grid with
  | none => .next s
  | some gr =>
    let busy := s.cores.any fun c => c.2.cmds.any fun x => x.gid / 2 ^ 64 == grid
    if busy || !(gr.aborted || gr.refused.isSome || gr.retired + gr.killed == gr.total) then .next s
    else .next (finishGrid s grid gr)

/-! ## Dispatch (R327) -/

/-- A part of the code object lies inside it. -/
def partOk (h : BitVec 1024) (off len : Nat) : Bool := decide (off + len ≤ Hdr.totalLen h)

/-- The header checks of step 4. -/
def headerOk (h : BitVec 1024) : Bool :=
  field h 0 32 == 0x314B4C4F && field h 32 16 == 1 && field h 48 16 == 0 && field h 102 26 == 0
  && decide (Hdr.privBytes h ≤ 1024) && decide (Hdr.cbytes h ≤ 262144) && Hdr.integrity h != 3
  && decide (Hdr.threads h ≤ 1024)
  && Hdr.tOff h % 4 == 0 && Hdr.sOff h % 4 == 0 && Hdr.tLen h % 12 == 0 && Hdr.sLen h % 12 == 0
  && partOk h (Hdr.tOff h) (Hdr.tLen h) && partOk h (Hdr.sOff h) (Hdr.sLen h)
  && partOk h (Hdr.liveOff h) (8 * (Hdr.tLen h / 12) + 16 * (Hdr.sLen h / 12))
  && partOk h (Hdr.regionOff h) (Hdr.regionLen h) && partOk h (Hdr.paramOff h) (Hdr.paramLen h)
  && (!Hdr.trapEn h || decide (Hdr.trapPc h < Hdr.tLen h))

/-- Groups of a `.det` grid that a cluster holds when it is empty (R50, R75, R139). -/
def clusterRoom (s : State) (h : BitVec 1024) (k : Nat) : Nat :=
  let n := Hdr.cgroup h
  let per := (List.range 8).map fun c => coreRoom s h (8 * k + c)
  if n = 1 then per.sum else n * (per.take n).foldl min 16

def detFits (s : State) (n : Nat) (h : BitVec 1024) (level total : Nat) : Bool :=
  let ks := (List.range 16).filter fun k => clusterOpen s (s.ctx n) level k
  decide (total ≤ (ks.map (clusterRoom s h)).sum)

/-- The waits of a record: which are met; or a word that cannot be read. -/
inductive WaitRead
  | known (s : State) (met : List Nat) | fault (s : State)
  deriving DecidableEq, Repr

/-- The waits read again, but for those that have been met; an address 0 means none (R326). A word that cannot be read ends the
launch even behind one that is not met. -/
def readWaits (n : Nat) (r : BitVec 1024) (met : List Nat) : State → List Nat → WaitRead
  | s, [] => .known s []
  | s, k :: ks =>
    let go (s : State) (yes : Bool) : WaitRead := match readWaits n r met s ks with
      | .known s m => .known s (if yes then k :: m else m)
      | .fault s => .fault s
    let va := Rec.waitAddr r k
    if met.contains k || va = 0 then go s true
    else match walked s n va needRead with
      | (s, .ok (.flat a _)) =>
        (match meetMemory s n a with
        | (s, some _) => .fault s
        | (s, none) => go s (decide (Rec.waitValue r k ≤ memNat s.mem a 8)))
      | (s, _) => .fault s

/-- The partition holds a pair that runs IL2. -/
def hasPair (s : State) (part : Nat) : Bool :=
  (s.partClusters part).any fun k => (s.pair (k / 2)).formed && !s.retiredPairs.contains (k / 2)

/-- Steps 4 to 8 on the header of a record's code object: the level, or the status of the refusal with the cause it logs. -/
def judgeHeader (s : State) (n : Nat) (r h : BitVec 1024) : Except (Nat × Option Cause) Nat :=
  let c := s.ctx n
  let total := Rec.gx r * Rec.gy r * Rec.gz r
  let level := max (Rec.integrity r) (Hdr.integrity h)
  if !headerOk h then .error (3, none)
  else if Rec.privBase r = 0 && (Hdr.privBytes h != 0 || Hdr.trapEn h) then .error (2, none)
  else if 2 ^ 64 ≤ total || total % Hdr.cgroup h != 0 then .error (4, none)
  else if c.ilMax < level || (level == 2 && !(c.isFixedMode && hasPair s c.part)) then .error (6, none)
  else if c.isFixedMode && decide (65536 < Hdr.tLen h + Hdr.sLen h) then .error (9, none)
  else if Hdr.det h && !detFits s n h level total then .error (10, some .detResidency)
  else .ok level

/-- Steps 3 to 8 on a record whose waits are met: the header and the level, or the refusal. -/
def judgeRecord (s : State) (n : Nat) (r : BitVec 1024) : State × Except (Nat × Option Cause) (BitVec 1024 × Nat) :=
  if !((s.ctx n).code.any fun x => x.addr == Rec.code r && !x.stale) then (s, .error (5, some .codeMeasure))
  else match readRecord s n (Rec.code r) with
    | (s, none) => (s, .error (3, none))
    | (s, some h) => (s, (judgeHeader s n r h).map fun level => (h, level))

/-- The event-log record of a queue or a grid. -/
def logQueue (s : State) (n : Nat) (c : Cause) (aux : Nat) : State := logEvent s n { kind := 3, cause := c, aux := aux }

/-- The evicted groups that a slot of a queue wakes (R98). -/
def wakeLaunchers (s : State) (part k : Nat) : State :=
  let waits (g : Group) : Bool := g.harts.any fun p => match p.2.wait with
    | .launch p' k' _ => p' == part && k' == k
    | _ => false
  settlePeers { s with groups := mapEach s.groups fun _ g => if g.isEvicting && waits g then wakeEvicted g else g }

/-- READ_IDX past the head: its slot is free. -/
def takeHead (s : State) (part k : Nat) (inflight : Bool) : State :=
  wakeLaunchers (s.modQueue part k fun q =>
    { q with readIdx := q.readIdx + 1, head := none, met := [], state := .active
             inflight := if inflight then q.inflight + 1 else q.inflight }) part k

/-- The flat pieces of a virtual range, page by page. -/
def virtualPieces (s : State) (n hi : Nat) : Nat → Nat → List (Nat × Nat)
  | 0, _ => []
  | fuel + 1, a =>
    if hi < a then []
    else
      let pageEnd := min hi (a / 65536 * 65536 + 65535)
      (match translateDirect s n a { perm := 0 } with
        | .ok (.flat f _) => [(f, f + (pageEnd - a))]
        | _ => []) ++ virtualPieces s n hi fuel (pageEnd + 1)

/-- The bytes of the two streams of a code object, where they lie (08 R190). -/
def streamPieces (s : State) (n : Nat) (r h : BitVec 1024) : List (Nat × Nat) :=
  let one (off len : Nat) : List (Nat × Nat) :=
    if len = 0 then [] else virtualPieces s n (Rec.code r + off + len - 1) (len / 65536 + 2) (Rec.code r + off)
  one (Hdr.tOff h) (Hdr.tLen h) ++ one (Hdr.sOff h) (Hdr.sLen h)

/-- A grid of a record at the head of a queue. -/
def newGrid (s : State) (part k n : Nat) (r h : BitVec 1024) (level total : Nat) : Grid :=
  { ctx := n, part := part, queue := k, recIdx := (s.queue part k).readIdx.toNat, order := s.gridSeq, record := r, header := h
    level := level, total := total, next := 0, retired := 0, killed := 0, trig := 0, trigDone := false, tokenRound := 0
    tokenIndex := 0, firstGroup := none, cause := none, aborted := false, streams := streamPieces s n r h, ended := false
    refused := none }

/-- A refused launch completes as a grid does, with no group (R327). -/
def refuse (s : State) (part k n : Nat) (r : BitVec 1024) (status : Nat) (c : Option Cause) : State :=
  let s := match c with | some c => logQueue s n c 0 | none => s
  let id := s.gridSeq
  let gr : Grid := { newGrid s part k n r 0 0 0 with streams := [], refused := some (status, c) }
  let s := takeHead s part k false
  finishGrid { s with grids := mapPut s.grids id gr, gridSeq := id + 1 } id gr

/-- The grid of a record that passes every step. -/
def startGrid (s : State) (part k n : Nat) (r h : BitVec 1024) (level : Nat) : State :=
  let gr := newGrid s part k n r h level (Rec.gx r * Rec.gy r * Rec.gz r)
  let s := takeHead s part k true
  let s := { s with grids := mapPut s.grids s.gridSeq gr, gridSeq := s.gridSeq + 1 }
  s.modCtx n fun c => if c.state = .idle then { c with state := .running } else c

/-- The record at the head: the copy taken before, or the slot read now. -/
def headRecord (s : State) (q : Queue) : State × Option (BitVec 1024) :=
  match q.head with
  | some r => (s, some r)
  | none => readRecord s q.ctx (q.slotAddr q.readIdx)

/-- A record whose waits have been read: held, refused or started. -/
def dispatch (s : State) (part k n : Nat) (r : BitVec 1024) (met : List Nat) : State :=
  if !((List.range (Rec.nwaits r)).all met.contains) then
    s.modQueue part k fun q => { q with state := .headWait, head := some r, met := met }
  else match judgeRecord s n r with
    | (s, .error (status, c)) => refuse s part k n r status c
    | (s, .ok (h, level)) => startGrid s part k n r h level

/-- QUEUE_DISPATCH: the head record of a queue (R327, 16 R338). -/
def execQueueDispatch (part k : Nat) (s : State) : Host.Outcome State Fault Refusal :=
  let q := s.queue part k
  let n := q.ctx
  let st := (s.ctx n).state
  if !(q.state == .active || q.state == .headWait) || q.held || q.occupancy == 0 || decide (8 ≤ q.inflight)
      || st == .free || st == .resetting then .next s
  else match headRecord s q with
    | (s, none) => .next (logQueue (failQueue s part k .launchFault) n .launchFault 0)
    | (s, some r) =>
      if !recordOk r then .next (refuse s part k n r 2 none)
      else match readWaits n r q.met s (List.range (Rec.nwaits r)) with
        | .fault s => .next (refuse s part k n r 8 (some .eventWaitFault))
        | .known s met => .next (dispatch s part k n r met)

end Sys2Proof.Machine
end

