-- ==== Sys2Proof/Machine/Queues.lean ====
section
/-!
DEFINITION. Host writes to queue control blocks (16 R333, R336, R337, R340). A failed device answers nothing (00 R4).
-/
namespace Sys2Proof.Machine

/-- A queue as it is disabled: no grid in flight, or draining (R340). -/
def Queue.stop (q : Queue) : Queue :=
  { q with enable := false, head := none, met := [], faultCause := 0, state := if q.inflight = 0 then .disabled else .draining }

/-- A function reaches a queue of a partition: the physical one every queue, a virtual one those that are bound to its context, in the
context's partition (17 R351, 20 R409). -/
def queueReached (s : State) (func part : Nat) (q : Queue) : Bool :=
  func == 0 || ((s.ctx q.ctx).func == func && (s.ctx q.ctx).state != .free && (s.ctx q.ctx).part == part)

/-- The host's write does not come to a queue: the device is in reset, there is no such queue, the function does not reach it. -/
def noQueue (s : State) (p : Reach) (k : Nat) : Bool :=
  !s.tovor.released || decide (12 ≤ p.part) || decide (64 ≤ k) || !queueReached s p.func p.part (s.queue p.part k)

/-- The write comes through the function of a context that is RESETTING, which completes no request (17 R362). -/
def queueResets (s : State) (p : Reach) (q : Queue) : Bool := p.func != 0 && (s.ctx q.ctx).state == .resetting

/-- What a write to a queue answers that is not taken: the function of a RESETTING context completes it with Unsupported Request. -/
def unserved (s : State) (p : Reach) (q : Queue) : State := if queueResets s p q then answerHost s .unsupported else s

/-- A reset of the queue's context holds it, even one that nothing has been written to yet (17 R362). -/
def queueHeld (s : State) (q : Queue) : Bool := q.held || (s.ctx q.ctx).reset.any fun r => r.queuesHeld

/-- A write of the host through its window has not been acknowledged by a peer, or something waits behind one: what the host sends
next is behind it in PCIe order (20 R410). -/
def hostBusy (s : State) : Bool := (s.tovor.outbound.any fun o => o.win == some .write) || !s.tovor.posted.isEmpty

/-- It waits. -/
def postHost (s : State) (x : HostPost) : State := s.modTovor fun t => { t with posted := t.posted ++ [x] }

/-- WRITE_IDX takes the value, and the queue what follows from it (R336, R337). -/
def ringDoorbell (s : State) (part k : Nat) (value : Word) : State :=
  let q := s.queue part k
  let s1 := s.modQueue part k fun q => { q with writeIdx := value }
  match q.state with
  | .disabled | .draining | .error => s1
  | _ =>
    if 2 ^ 31 ≤ (value - q.writeIdx).toNat || 2 ^ q.log2 < (value - q.readIdx).toNat then failQueue s1 part k .launchRecord
    else s1.modQueue part k fun q => if q.state = .idle && q.occupancy != 0 then { q with state := .active } else q

/-- A queue that is enabled anew awaits no record of before: a launch that was refused, and whose writes a peer has yet to answer, moves
DONE_IDX no more (R335). -/
def disown (s : State) (part k : Nat) : State :=
  { s with grids := mapEach s.grids fun _ g => if g.part = part && g.queue = k then { g with owed := false } else g }

/-- ENABLE written 1 (R340). -/
def enableQueue (s : State) (part k : Nat) : State :=
  let q := s.queue part k
  match q.state with
  | .disabled =>
    (disown s part k).modQueue part k fun q =>
      { q with enable := true, state := .idle, readIdx := q.writeIdx, doneIdx := q.writeIdx, doneOut := [], head := none, met := [] }
  | .draining => denyCtx s q.ctx 3
  | _ => s

/-- ENABLE written 0 (R340); a held LAUNCH traps. -/
def disableQueue (s : State) (part k : Nat) : State :=
  if (s.queue part k).enable then denyLaunchers (s.modQueue part k Queue.stop) part k else s

/-- QBASE, LAUNCH_OK, LOG2SIZE, PRIORITY and CTX, while DISABLED (R333). -/
def configQueue (s : State) (part k : Nat) (block : BitVec 512) : State :=
  let q := s.queue part k
  let log2 := field block 65 4
  if 12 < log2 || q.state != .disabled then denyCtx s q.ctx 3
  else s.modQueue part k fun q =>
    { q with qbase := BitVec.ofNat 64 (field block 7 57 * 128), launchOk := flag block 64, log2 := log2
             prio := field block 69 3, ctx := field block 80 16 }

/-- A write to a queue that is taken. -/
def takeQueueWrite (s : State) (part k : Nat) : QueueWrite → State
  | .doorbell v => ringDoorbell s part k v
  | .enable => enableQueue s part k
  | .disable => disableQueue s part k
  | .config b => configQueue s part k b

/-- A write to a queue performed; one to a queue that a reset holds is discarded, a doorbell without a record (17 R362). -/
def queueWrite (s : State) (p : Reach) (k : Nat) (w : QueueWrite) : State :=
  let q := s.queue p.part k
  if noQueue s p k then s
  else if queueHeld s q then
    unserved (match w with | .doorbell _ => s | _ => denyDevice s (some q.ctx)) p q
  else if queueResets s p q then answerHost s .unsupported
  else takeQueueWrite s p.part k w

/-- A write of the host to a queue. It is behind what the host has written before it, and waits for the peers that have not acknowledged
a window write (R336, R340; 20 R410). -/
def sendQueue (s : State) (p : Reach) (k : Nat) (w : QueueWrite) : Host.Outcome State Fault Refusal :=
  let q := s.queue p.part k
  .next (if hostBusy s && !noQueue s p k && !queueHeld s q && !queueResets s p q then postHost s (.queue p k w) else queueWrite s p k w)

/-- DOORBELL: a host write of WRITE_IDX, a release of the host's earlier window writes (R336). -/
def execDoorbell (p : Reach) (k : Nat) (value : Word) (s : State) : Host.Outcome State Fault Refusal := sendQueue s p k (.doorbell value)

/-- QUEUE_ENABLE. -/
def execQueueEnable (p : Reach) (k : Nat) (s : State) : Host.Outcome State Fault Refusal := sendQueue s p k .enable

/-- QUEUE_DISABLE. -/
def execQueueDisable (p : Reach) (k : Nat) (s : State) : Host.Outcome State Fault Refusal := sendQueue s p k .disable

/-- QUEUE_CONFIG_WRITE. -/
def execQueueConfigWrite (p : Reach) (k : Nat) (block : BitVec 512) (s : State) : Host.Outcome State Fault Refusal :=
  sendQueue s p k (.config block)

end Sys2Proof.Machine
end

