-- ==== Sys2Proof/Machine/Contexts.lean ====
section
/-!
DEFINITION. Contexts (17 R351 to R365): creation and its checks, field writes, pre-emption, save and restore, the reset of a
context, of a virtual function and of all of them; and what the status block reports of a group (R354).
-/
namespace Sys2Proof.Machine

/-! ## The control block (R351) -/

/-- The fields of the control block that can be written, and the two that can be written at any time. -/
def ctlMask : BitVec 512 := BitVec.ofNat 512 ((2 ^ 352 - 1) * 2 ^ 160 + (2 ^ 16 - 1) * 2 ^ 144 + 15 * 2 ^ 128 + (2 ^ 18 - 1) * 2 ^ 54)
def timerMask : BitVec 512 := BitVec.ofNat 512 ((2 ^ 32 - 1) * 2 ^ 176)

/-- CONTEXT_FIELD_WRITE: every field while FREE; else only EVICT_US and SLICE_US may differ. -/
def execContextFieldWrite (n : Nat) (block : BitVec 512) (s : State) : Host.Outcome State Fault Refusal :=
  if !s.tovor.released || 1024 ≤ n then .next s
  else
    let new := block &&& ctlMask
    let old := (s.ctx n).ctl
    if (s.ctx n).state = .free || (new ^^^ old) &&& ~~~timerMask = 0 then .next (s.modCtx n fun c => { c with ctl := new })
    else .next (denyDevice s (some n))

/-- The status block as RESET and CREATE leave it (R354). -/
def clearStatus (c : Ctx) : Ctx :=
  { c with rollbacks := 0, corrected := 0, integ := 0, kills := 0, logIdx := 0, saves := 0, lastSaveNs := 0
           lastSaveBlk := 0, grpSel := 0 }

/-- CREATE is refused. -/
def createDenied (s : State) (n : Nat) : Bool :=
  let c := s.ctx n
  let p := s.part c.part
  c.state != .free || !Part.valid p
    || (c.func != 0 && s.ctxs.any fun x => x.1 != n && x.2.state != .free && x.2.func == c.func)
    || (c.isFixedMode && (s.partClusters c.part).all fun k => s.retiredPairs.contains (k / 2))
    || decide (Part.scrUnits p < c.scrOff + c.scrLen) || decide (c.logSize < 4)

/-- CREATE. -/
def execCreate (n : Nat) (s : State) : Host.Outcome State Fault Refusal :=
  if !s.tovor.released || 1024 ≤ n then .next s
  else if createDenied s n then .next (denyDevice s (some n))
  else .next (s.modCtx n fun c => { clearStatus c with state := .idle })

/-! ## Reset (R362, R363) -/

def ctxQueues (s : State) (n : Nat) (f : Queue → Queue) : State :=
  { s with queues := mapEach s.queues fun _ q => if q.ctx = n then f q else q }

/-- The tiles that groups of the context claim are cleared. -/
def clearTiles (s : State) (n : Nat) : State :=
  { s with cores := mapEach s.cores fun _ c =>
      match c.claim.bind s.group? with
      | some g => if g.ctx = n then { c with acc := [], depth := [], prov := [], accUe := [] } else c
      | none => c }

/-- The kill records of the groups of a grid that were never placed, all of them PENDING. -/
def killUnplaced (s : State) (n : Nat) (cause : Cause) (next : Nat) : Nat → State
  | 0 => s
  | k + 1 =>
    let s := killUnplaced s n cause next k
    (deviceLog s (some n) 0 { kind := 0, cause := cause, group := some (next + k) }).modCtx n
      fun c => { c with kills := satInc c.kills }

/-- A grid stopped with its context: its unplaced groups are killed with the others. -/
def abortGrid (cause : Cause) (s : State) (p : Nat × Grid) : State :=
  match s.grid? p.1 with
  | none => s
  | some gr =>
    let rest := gr.total - gr.next
    (killUnplaced s gr.ctx cause gr.next rest).setGrid p.1
      { gr with aborted := true, cause := some cause, killed := gr.killed + rest, next := gr.total
                firstGroup := if rest = 0 then gr.firstGroup else some (gr.firstGroup.getD gr.next) }

/-- A queue whose context is reset: DRAINING, or DISABLED where it holds nothing. -/
def Queue.resetStop (q : Queue) : Queue :=
  let state : QState := if q.state = .disabled || (q.inflight = 0 && q.occupancy = 0) then .disabled else .draining
  { q.stop with held := true, state := state }

/-- The context whose window an access uses that waits; whether the access has an answer. -/
def HostPost.ctx : HostPost → Option Nat
  | .write n .. | .read n .. | .atomic n .. => some n
  | .queue .. => none

def HostPost.answers : HostPost → Bool
  | .read .. | .atomic .. => true
  | .write .. | .queue .. => false

/-- It is the WRITE_IDX of some queue; it clears ENABLE of a queue. -/
def HostPost.rings : HostPost → Bool
  | .queue _ _ (.doorbell _) => true
  | _ => false

def HostPost.disables (part k : Nat) : HostPost → Bool
  | .queue p j .disable => p.part == part && j == k
  | _ => false

/-- Window accesses of a context that wait, for a peer or behind one, end as every request to its function does. -/
def dropReads (s : State) (n : Nat) : State :=
  let ks := s.tovor.outbound.filterMap fun o => match o.win with | some (.read k _) => if o.ctx = n then some k else none | _ => none
  let asked := !ks.isEmpty || s.tovor.posted.any fun x => x.ctx == some n && x.answers
  let s := s.modTovor fun t =>
    { t with winReads := t.winReads.filter fun p => !ks.contains p.1, posted := t.posted.filter fun x => x.ctx != some n }
  if asked then answerHost s .unsupported else s

/-- Steps 1 to 4 of R362: the queues held, every group killed, link operations ended, the grids stopped. -/
def startReset (s : State) (n : Nat) (cause : Cause) (outcome : Nat) : State :=
  let s := ctxQueues s n Queue.resetStop
  let s := s.modCtx n fun c =>
    { c with state := .resetting, sliceAt := none, haltAt := none, image := none
             reset := some { start := s.refNs, cause := cause, queuesHeld := true } }
  let s := clearTiles s n
  let s := ((s.groups.filter fun p => p.2.ctx == n).map fun p => p.1).foldl (fun s k => killOne s k cause 0 0 0 true) s
  let s := dropReads (report s { cause := cause, outcome := outcome, ctx := some n, part := (s.ctx n).part }) n
  let s := s.modTovor fun t =>
    { t with outbound := t.outbound.filter fun o => o.ctx != n
             linkReply := if t.outbound.any fun o => o.ctx == n then some .aborted else t.linkReply }
  (s.grids.filter fun p => p.2.ctx == n).foldl (abortGrid cause) (settleDue s)

/-- RESET written to the control block. -/
def execReset (n : Nat) (s : State) : Host.Outcome State Fault Refusal :=
  if !s.tovor.released || 1024 ≤ n then .next s
  else match (s.ctx n).state with
    | .free | .resetting => .next (denyDevice s (some n))
    | _ => .next (startReset s n .contextKill 6)

/-- DESTROY: the same sequence, from IDLE and RUNNING (R352). -/
def execDestroy (n : Nat) (s : State) : Host.Outcome State Fault Refusal :=
  if !s.tovor.released || 1024 ≤ n then .next s
  else match (s.ctx n).state with
    | .idle | .running => .next (startReset s n .contextKill 6)
    | _ => .next (denyDevice s (some n))

/-- The contexts bound to virtual functions that a reset can take. -/
def boundContexts (s : State) : List (Nat × Nat) :=
  (s.ctxs.filter fun p => p.2.func != 0 && p.2.state != .free && p.2.state != .resetting).map fun p => (p.1, p.2.func)

/-- FUNCTION_LEVEL_RESET of virtual function `vf`. -/
def execFunctionLevelReset (vf : Nat) (s : State) : Host.Outcome State Fault Refusal :=
  if !s.tovor.released then .next s
  else .next (((boundContexts s).filter fun p => p.2 == vf + 1).foldl (fun s p => startReset s p.1 .vfReset 6) s)

/-- VF_ENABLE_CLEAR: every bound context at once (R363). -/
def execVfEnableClear (s : State) : Host.Outcome State Fault Refusal :=
  if !s.tovor.released then .next s
  else .next ((boundContexts s).foldl (fun s p => startReset s p.1 .vfDisable 7) s)

/-- RESET_QUEUE_HOLD_EXPIRY: 20 µs after step 1, the context's grids complete (R362 steps 4 and 5). -/
def execResetQueueHoldExpiry (n : Nat) (s : State) : Host.Outcome State Fault Refusal :=
  match (s.ctx n).reset with
  | none => .next s
  | some r =>
    if !r.queuesHeld || decide (s.refNs < r.start + 20000) || (s.grids.any fun p => p.2.ctx == n) then .next s
    else
      let s := ctxQueues s n fun q =>
        if q.held then { q with held := false, enable := false, state := .disabled, inflight := 0, doneOut := [], head := none, met := [] } else q
      .next (s.modCtx n fun c => { c with reset := some { r with queuesHeld := false } })

/-- A range of the flat address space zeroed, with all a write brings; what an L1 still holds of it is gone. -/
def zeroRange (s : State) (a n : Nat) : State :=
  if n = 0 then s
  else
    let inside (x : Nat) : Bool := decide (a ≤ x) && decide (x < a + n)
    let s := { s with
      mem := memZero s.mem a n
      cores := mapEach s.cores fun _ c => { c with l1 := c.l1.filter fun x => !inside x.1 }
      tovor := s.tovor.rewritten (hitsRange a n) }
    touch s none [(a, a + n - 1)]

/-- The leaves of a stage-2 table at a level (19 R394). -/
def exclLeaves (s : State) : Nat → Nat → Nat → List (Nat × Nat)
  | 0, _, _ => []
  | fuel + 1, level, tab =>
    ((List.range (if level = 0 then 64 else 8192)).map fun i =>
      match readEntry s (tab + 8 * i) with
      | .error _ => []
      | .ok e =>
        if !pteValid e || pteMalformed true level e then []
        else if pteLeaf level e then
          (if pteExcl e && pteAttr e = 0 then [(pteAddr e, if level = 1 then 2 ^ 29 else 2 ^ 16)] else [])
        else exclLeaves s fuel (level + 1) (pteAddr e)).flatten

/-- The entries of the stage-2 tables of a context, as a reset reads them: flat addresses and the number of entries. -/
def stageTables (s : State) : Nat → Nat → Nat → List (Nat × Nat)
  | 0, _, _ => []
  | fuel + 1, level, tab =>
    let n := if level = 0 then 64 else 8192
    (dramBase + tab, n) :: ((List.range n).map fun i =>
      match readEntry s (tab + 8 * i) with
      | .error _ => []
      | .ok e => if !pteValid e || pteMalformed true level e || pteLeaf level e then [] else stageTables s fuel (level + 1) (pteAddr e)).flatten

/-- The errors that the reading of these tables meets: corrected, or counted and entered in the device log (R355). -/
def meetTables (s : State) (n : Nat) : State :=
  let bad := (s.tovor.latent.map fun p => (8 * p.1, unitBytes (8 * p.1))) ++ s.tovor.badCopies.map fun w => (8 * w, 8)
  if bad.isEmpty then s
  else
    let tabs := stageTables s 3 0 (s.ctx n).s2Root
    (bad.filter fun b => tabs.any fun t => hitsRange t.1 (8 * t.2) b.1 b.2).foldl (fun s b => (meetMemory s n b.1).1) s

/-- What a reset zeroes, as flat ranges (R362 step 6): the `s` range, the save and spill areas, the exclusive pages. -/
def resetRanges (s : State) (n : Nat) : List (Nat × Nat) :=
  let c := s.ctx n
  let cut (p : Nat × Nat) : Nat × Nat := (p.1, min p.2 (dramBytes - p.1))
  let scr := scrRange s c
  [scr, cut (c.saveBase, c.saveLen * 4096), cut (c.spillBase, c.spillLen * 65536)] ++ exclLeaves s 3 0 c.s2Root

/-- RESET_ZEROING_COMPLETE: descriptors INVALID, slots EMPTY, memory zeroed, and the context FREE (R362 steps 6 and 7). -/
def execResetZeroingComplete (n : Nat) (s : State) : Host.Outcome State Fault Refusal :=
  match (s.ctx n).reset with
  | none => .next s
  | some r =>
    if r.queuesHeld || (s.grids.any fun p => p.2.ctx == n) then .next s
    else
      let s := meetTables s n
      let ranges := resetRanges s n
      let s := s.modCtx n fun c => { c with descs := [], slots := mapEach c.slots fun _ v => { v with bits := 0 } }
      let s := ranges.foldl (fun s p => zeroRange s p.1 p.2) s
      let s := s.modCtx n fun c => { clearStatus c with state := .free, reset := none }
      .next (s.modTovor fun t => { t with irqs := t.irqs ++ [1] })

/-! ## Pre-emption and save (R356 to R360) -/

/-- A group of a context that is halted; one whose eviction is under way goes on (R364). -/
def haltForSave (g : Group) : Group :=
  if (g.state == .resident || g.state == .waiting) && g.image.isNone then { g with state := .halted, timer := none } else g

/-- Every group of a context HALTED (R357 step 1). -/
def preemptCtx (s : State) (n : Nat) : State :=
  let s := s.modCtx n fun c => { c with state := .saving, haltAt := some s.refNs, sliceAt := none }
  let p := (s.ctx n).part
  { s with
    sliceDue := (p :: s.sliceDue).eraseDups
    groups := mapEach s.groups fun _ g => if g.ctx = n then haltForSave g else g
    turn := mapPut s.turn p n }

/-- PREEMPT. -/
def execPreempt (n : Nat) (s : State) : Host.Outcome State Fault Refusal :=
  if !s.tovor.released || 1024 ≤ n then .next s
  else if (s.ctx n).state = .running then .next (preemptCtx s n)
  else .next (denyDevice s (some n))

/-- Another context of the partition waits for its turn (R356). -/
def turnWanted (s : State) (n : Nat) : Bool :=
  let p := (s.ctx n).part
  (s.ctxs.any fun x => x.1 != n && x.2.part == p && x.2.state == .saved)
    || (placeCands s p).any fun c =>
        (match s.grid? c.grid with | some gr => gr.ctx != n | none => false) && !candAnywhere s (placeCands s p) c

/-- SLICE_EXPIRY. -/
def execSliceExpiry (n : Nat) (s : State) : Host.Outcome State Fault Refusal :=
  match (s.ctx n).sliceAt with
  | none => .next s
  | some (t, us) =>
    if (s.ctx n).state = .running && us != 0 && decide (t + us * 1000 ≤ s.refNs) && turnWanted s n then .next (preemptCtx s n)
    else .next s

/-- The group has come to rest (R357 steps 1 and 2). -/
def saveReady (s : State) (key : Nat) (g : Group) : Bool := !g.rollback && !(g.image.any fun i => i.writing) && g.atRest s key

/-- A DLT in flight keeps the state that its slot has come to since its issue (07 R165, R175). -/
def Cmd.keepState (s : State) (n : Nat) (c : Cmd) : Cmd :=
  if c.kind = .dlt then { c with slotRec := Slot.setState c.slotRec (Slot.state ((s.ctx n).slot (blkBits c.block 0 0 6)).bits) } else c

/-- The commands of a group with the states of their slots. -/
def keepStates (s : State) (key : Nat) (g : Group) : State :=
  s.modCore g.coreNo fun q => { q with cmds := q.cmds.map fun c => if c.gid = key then c.keepState s g.ctx else c }

/-- A DLT in flight leaves its slot SUSPENDED, FULL_RUN in the record (07 R173). -/
def suspendSlots (s : State) (g : Group) : List Cmd → State
  | [] => s
  | c :: cs =>
    let k := blkBits c.block 0 0 6
    let r := ((s.ctx g.ctx).slot k).bits
    suspendSlots (if c.kind = .dlt then
      s.setSlot g.ctx k (Slot.put (Slot.setState r 5) 22 1 (boolNat (Slot.fullRun c.slotRec))) else s) g cs

/-- Stored bytes of the header and of the context section (R359). -/
def contextBytes (s : State) (n : Nat) : Nat :=
  let c := s.ctx n
  let halves := (c.descs.map fun d => boolNat (field d.2 0 512 != 0) + boolNat (field d.2 512 512 != 0)).sum
  let slots := (c.slots.filter fun v => v.2.bits != 0).length
  let cmds := (s.cores.map fun p => (p.2.cmds.filter fun c =>
    match s.group? c.gid with | some g => g.ctx == n | none => false).length).sum
  256 + sectionBytes (576 + cmds) (halves + slots + someBlocks s 5 cmds)

/-- The commands of some groups come to rest behind a K-step, a row or an element, up to one that meets an integrity event (R357 step
3, R365). -/
def moveCmds (s : State) : List (Nat × Group × Cmd) → State × Bool
  | [] => (s, true)
  | (core, g, c) :: rest =>
    match moveCmd s core c with
    | (s, none) => moveCmds s rest
    | (s, some x) => (engFail s core g c x, false)

/-- The commands of the groups that a save takes. -/
def cmdsToMove (s : State) (keys : List Nat) : List (Nat × Group × Cmd) :=
  (keys.filterMap fun k => (s.group? k).map fun g => (s.cmdsOf k g).map fun c => (g.coreNo, g, c)).flatten

/-- The comparator's records of a group's commands go. -/
def restCmds (s : State) (key : Nat) (g : Group) : State :=
  s.modCore g.coreNo fun q => { q with cmds := q.cmds.map fun c => if c.gid = key then { c with asked := c.matched } else c }

/-- A context of a saved group: HALTED; an instruction whose second execution is still out is executed twice again. -/
def savedHart (h : Hart) : Hart :=
  if h.status = .exited then h
  else { h with status := .halted, spin := { last := none, count := 0 }, slotAt := none, reconvAt := none
                dup := h.dup.filter fun d => d.agreed }

/-- One group saved, or killed where its image does not fit (R360). -/
def saveOne (n : Nat) (s : State) (key : Nat) : State :=
  match s.group? key with
  | none => s
  | some g =>
    match s.gridOf g with
    | none => s
    | some gr =>
      if g.state != .halted && g.state != .retiring then s
      else
        let s := restCmds s key g
        let image := newImage s n (groupBytes s key g gr) false
        let s := { s with free := s.free + 1 }
        match image with
        | none => killGroup s key .saveFault 0 0 0
        | some i =>
          let s := flushL1 (writeImage s i) g.coreNo
          match s.group? key with
          | none => s
          | some g =>
            let s := keepStates s key g
            let cmds := s.cmdsOf key g
            let s := suspendSlots (leaveCore s key g gr) g cmds
            s.modGroup key fun g => { g.eachHart fun _ h => savedHart h with image := some i }

/-- The header and the context section of an image written, where they fit. -/
def saveSection (s : State) (n : Nat) : State :=
  let image := newImage s n (contextBytes s n) false
  let s := { s with free := s.free + 1 }
  match image with
  | none => s
  | some i => (writeImage s i).modCtx n fun c => { c with image := some i }

/-- The bytes that a context's save has written. -/
def savedBytes (s : State) (n : Nat) : Nat :=
  let size (i : Option Image) : Nat := match i with | some i => i.bytes.length | none => 0
  size (s.ctx n).image + ((savedKeys s n).map fun k => size ((s.group? k).bind fun g => g.image)).sum

/-- The groups of a context saved: none of them where the context section does not fit. -/
def saveGroups (s : State) (n : Nat) : State :=
  let s1 := saveSection s n
  if (s1.ctx n).image.isSome then (savedKeys s1 n).foldl (saveOne n) s1
  else (savedKeys s1 n).foldl (fun s k => killGroup s k .saveFault 0 0 0) s1

/-- CONTEXT_SAVE: every group of a SAVING context saved at once; an error that the save meets comes first (R365). -/
def execContextSave (n : Nat) (s : State) : Host.Outcome State Fault Refusal :=
  let ready := s.groups.all fun p => p.2.ctx != n
    || !(p.2.state == .halted || p.2.state == .retiring || p.2.state == .resident || p.2.state == .waiting) || saveReady s p.1 p.2
  if (s.ctx n).state != .saving || !ready then .next s
  else match saveFault s (savedKeys s n) with
  | .error s => .next s
  | .ok s =>
    match moveCmds s (cmdsToMove s (savedKeys s n)) with
    | (s1, false) => .next s1
    | (s1, true) =>
      let s2 := saveGroups s1 n
      let ns := s.refNs - (s.ctx n).haltAt.getD s.refNs
      .next (s2.modCtx n fun c =>
        { c with state := .saved, haltAt := none, saves := satInc c.saves
                 lastSaveNs := BitVec.ofNat 32 (min (2 ^ 32 - 1) ns)
                 lastSaveBlk := BitVec.ofNat 32 (min (2 ^ 32 - 1) (ceilDiv (savedBytes s2 n) 64)) })

/-! ## Restore (R358) -/

/-- CONTEXT_RESTORE: the SAVED context of the partition whose turn it is. -/
def execContextRestore (n : Nat) (s : State) : Host.Outcome State Fault Refusal :=
  if (s.ctx n).state != .saved then .next s
  else match restored s n with
    | none => .next s
    | some s1 =>
      let earlier := s.ctxs.any fun x =>
        x.1 != n && x.2.state == .saved && x.2.part == (s.ctx n).part && decide (turnOrder s x.1 < turnOrder s n) && (restored s x.1).isSome
      if earlier || !hasTurn s (s.ctx n).part n then .next s
      else .next (settleCtx ((savedKeys s n).foldl resettle (startSlice s1 n true)) n)

/-! ## The status block (R354) -/

/-- GRP_SEL_WRITE, by the physical function; a virtual function finds the status block read-only (20 R409). -/
def execGrpSelWrite (reach : CtxReach) (value : Word) (s : State) : Host.Outcome State Fault Refusal :=
  .next (ctxWrite s reach.ctx reach.phys fun s => if reach.phys then s.modCtx reach.ctx fun c => { c with grpSel := value } else s)

/-- A group of the context that has not ended. -/
def Group.countsIn (g : Group) (n : Nat) : Bool := g.ctx == n && g.state != .retired && g.state != .killed

/-- The groups of a context that come before a logical index of a grid: those that exist, and those that were never placed, all of
them PENDING. -/
def groupsBefore (s : State) (n index grid : Nat) : Nat :=
  let here := (s.groups.filter fun p =>
    p.2.countsIn n && (decide (p.2.index < index) || (p.2.index == index && decide (p.2.grid < grid)))).length
  let coming := (s.grids.filter fun p => p.2.ctx == n).map fun p =>
    min p.2.total (index + boolNat (decide (p.1 < grid))) - p.2.next
  here + coming.sum

/-- The groups of a context that have not ended. -/
def groupCount (s : State) (n : Nat) : Nat :=
  (s.groups.filter fun p => p.2.countsIn n).length
    + ((s.grids.filter fun p => p.2.ctx == n).map fun p => p.2.total - p.2.next).sum

/-- The group that GRP_SEL selects, by ascending logical index, where it has been placed. -/
def grpSelected (s : State) (n : Nat) : Option Group :=
  ((s.groups.map fun p => p.2).filter fun g => g.countsIn n).find? fun g => groupsBefore s n g.index g.grid == (s.ctx n).grpSel.toNat

/-- GRP_INFO and GRP_TIMER_US. -/
def grpInfo (s : State) (n : Nat) : Nat :=
  match grpSelected s n with
  | none => if (s.ctx n).grpSel.toNat < groupCount s n then GState.pending.ctorIdx + 8 else 0
  | some g =>
    let waits := g.harts.filter fun p => p.2.status == .blocked || p.2.status == .evicted
    let ext := (waits.filter fun p => waitExternal p.2.wait).length
    let int := (waits.filter fun p => p.2.wait != .none && !waitExternal p.2.wait).length
    g.state.ctorIdx + 8 + g.dq.length * 2 ^ 4 + ext * 2 ^ 10 + int * 2 ^ 21

def grpTimer (s : State) (n : Nat) : Nat :=
  match (grpSelected s n).bind fun g => g.timer with
  | some (t, _) => (s.refNs - t) / 1000
  | none => 0

end Sys2Proof.Machine
end

