-- ==== Sys2Proof/Machine/Paging.lean ====
section
/-!
DEFINITION. The happenings of translation and of memory integrity: invalidation commands (19 R396, R397), page walks (19
R398, R401), the patrol and the spare rows (19 R405, R406).
-/
namespace Sys2Proof.Machine

/-! ## Invalidation -/

/-- An invalidation command taken; a virtual function may not give commands 3 to 5. -/
def takeInv (n : Nat) (phys : Bool) (cmd page : Nat) (s : State) : State :=
  if !phys && decide (3 ≤ cmd) then denyCtx s n 2
  else s.modCtx n fun c => { c with invCmds := c.invCmds ++ [(cmd, page)] }

/-- An invalidation command written. -/
def invWrite (n : Nat) (phys : Bool) (cmd page : Nat) (s : State) : State := ctxWrite s n phys (takeInv n phys cmd page)

/-- INV_STAGE1_PAGE: the page at INV_VA. -/
def execInvStage1Page (n : Nat) (phys : Bool) (s : State) : Host.Outcome State Fault Refusal :=
  .next (invWrite n phys 1 ((s.ctx n).invVa.toNat % 2 ^ 48 / 65536) s)

/-- INV_STAGE1_ALL. -/
def execInvStage1All (n : Nat) (phys : Bool) (s : State) : Host.Outcome State Fault Refusal := .next (invWrite n phys 2 0 s)

/-- INV_STAGE2_PAGE: the page at INV_IPA. -/
def execInvStage2Page (n : Nat) (phys : Bool) (s : State) : Host.Outcome State Fault Refusal :=
  .next (invWrite n phys 3 ((s.ctx n).invIpa.toNat % 2 ^ 48 / 65536) s)

/-- INV_STAGE2_ALL. -/
def execInvStage2All (n : Nat) (phys : Bool) (s : State) : Host.Outcome State Fault Refusal := .next (invWrite n phys 4 0 s)

/-- INV_BOTH. -/
def execInvBoth (n : Nat) (phys : Bool) (s : State) : Host.Outcome State Fault Refusal := .next (invWrite n phys 5 0 s)

/-- S1_ROOT_WRITE: the root, and command 2. -/
def execS1RootWrite (reach : CtxReach) (value : BitVec 64) (s : State) : Host.Outcome State Fault Refusal :=
  .next (ctxWrite s reach.ctx reach.phys fun s =>
    takeInv reach.ctx reach.phys 2 0 (s.modCtx reach.ctx fun c => { c with s1Root := value }))

/-- A TLB entry is one that a command of its context covers. -/
def TlbEntry.covered (e : TlbEntry) (cmd page : Nat) : Bool :=
  let k := e.size / 65536
  match cmd with
  | 1 => page / k == e.page
  | 3 => decide (e.ipa ≤ page * 65536) && decide (page * 65536 < e.ipa + e.size)
  | _ => true

def dropTlb (n cmd page : Nat) (tlb : List TlbEntry) : List TlbEntry := tlb.filter fun e => !(e.ctx == n && e.covered cmd page)

/-- An ordered access that keeps the translation of its issue, since it had committed before it came to the buffer. -/
def OrdEntry.translated (o : OrdEntry) : Bool := o.region == 0 && (o.space == 0 || o.space == 4)

/-- Every access of the context that has taken a translation is performed: its stores, those in the ordered buffer that keep their
place, and what it sent to peers. -/
def accessesDone (s : State) (n : Nat) : Bool :=
  (s.groups.all fun p => p.2.ctx != n || p.2.harts.all fun q =>
      q.2.stores.isEmpty && !((p.2.pendingOrd q.1 q.2).any OrdEntry.translated))
    && (s.tovor.outbound.all fun o => o.ctx != n) && s.tovor.posted.all fun x => x.ctx != some n

/-- The WAITA of a word that the tables place. -/
def waitsByTables : Wait → Bool
  | .waita a _ _ _ _ => decide (a < scrBase) || decide (hostBase ≤ a)
  | _ => false

/-- The contexts that wait in WAITA meet it again: they read their word by the tables as they are (R397). A group in memory, or on
its way there, is woken for it (03 R98). -/
def renewGroup (g : Group) : Group :=
  if g.isEvicting then (if g.harts.any fun p => waitsByTables p.2.wait then wakeEvicted g else g)
  else if g.state == .resident || g.state == .waiting then
    g.eachHart fun _ h => match h.wait with | .waita .. => wakeHart h | _ => h
  else g

def renewWaits (s : State) (n : Nat) : State :=
  settlePeers { s with groups := mapEach s.groups fun _ g => if g.ctx = n then renewGroup g else g }

/-- INVALIDATION_COMPLETE: the oldest command of a context (R397); no walk of before it serves another miss (R403). -/
def execInvalidationComplete (n : Nat) (s : State) : Host.Outcome State Fault Refusal :=
  match (s.ctx n).invCmds with
  | [] => .next s
  | (cmd, page) :: rest =>
    if !accessesDone s n then .next s
    else .next (renewWaits
      { s.modCtx n fun c => { c with invCmds := rest, invSeq := c.invSeq + 1 } with
        cores := mapEach s.cores fun _ c => { c with tlb := dropTlb n cmd page c.tlb, walks := c.walks.filter fun w => w.ctx != n }
        tlb2 := mapEach s.tlb2 fun _ t => dropTlb n cmd page t } n)

/-! ## Walks -/

/-- A TLB with an entry more; at its capacity the oldest leaves. -/
def fillTlb (cap : Nat) (e : TlbEntry) (tlb : List TlbEntry) : List TlbEntry := (tlb ++ [e]).drop (tlb.length + 1 - cap)

/-- PAGE_WALK: a miss of a core, answered by the L2 TLB of its cluster or by a walk; a walk that faults leaves nothing. -/
def execPageWalk (core n : Nat) (va : BitVec 48) (s : State) : Host.Outcome State Fault Refusal :=
  let a := va.toNat
  let cluster := core / 8
  let l2 := mapGet [] s.tlb2 cluster
  if 128 ≤ core || 1024 ≤ n || !((s.partClusters (s.ctx n).part).contains cluster) || (tlbHit (s.core core).tlb n a).isSome then .next s
  else match tlbHit l2 n a with
    | some e => .next (s.modCore core fun c => { c with tlb := fillTlb 256 e c.tlb })
    | none =>
      let s := coreWalk s core n a
      match (sharedWalk s core n a).map fun w => w.result with
      | none | some (Sum.inl _) | some (Sum.inr (_, Sum.inl _)) => .next s
      | some (Sum.inr (_, Sum.inr e)) =>
        .next { s.modCore core fun c => { c with tlb := fillTlb 256 e c.tlb } with
                tlb2 := mapPut s.tlb2 cluster (fillTlb 4096 e l2) }

/-! ## Patrol and spare rows -/

/-- What the patrol makes of a block of 64 bytes: an error that nothing has met is corrected, or poisons the block. -/
def patrolBlock (s : State) (block : Nat) : State :=
  match mapFind s.tovor.latent (8 * block) with
  | none => s
  | some true => correctedShared (s.modTovor fun t => { t with latent := mapDrop t.latent (8 * block) }) (64 * block)
  | some false => countUeShared (poisonBlock s block) none 2 .patrolUe

/-- The channel of a block. -/
def blockChannel (block : Nat) : Nat := rowChannel (rowOf (64 * block))

/-- The channel's patrol has visited the block in this pass. -/
def markSeen (s : State) (channel block : Nat) : State :=
  let c := s.channel channel
  s.modTovor fun t => { t with channels := mapPut t.channels channel { c with seen := block :: c.seen } }

/-- PATROL_BLOCK_VISIT: a block of 64 bytes of DRAM (R405), once in a pass. -/
def execPatrolBlockVisit (block : Nat) (s : State) : Host.Outcome State Fault Refusal :=
  let k := blockChannel block
  if !s.tovor.released || dramBytes ≤ 64 * block || !(s.channel k).patrolEn || (s.channel k).seen.contains block then .next s
  else .next (markSeen (patrolBlock s block) k block)

/-- The blocks of a channel with an error that the pass has not visited yet: it visits them, and every other block, before it
completes (R405). -/
def patrolRest (s : State) (channel : Nat) : List Nat :=
  (s.tovor.latent.map fun p => p.1 / 8).filter fun b =>
    decide (64 * b < dramBytes) && blockChannel b == channel && !(s.channel channel).seen.contains b

/-- PATROL_PASS_COMPLETE: every counter of the channel's rows falls; a pass beyond its period overruns (R406, R407). No patrol runs
in a compute domain that is kept in reset (00 R4). -/
def execPatrolPassComplete (channel : Nat) (s : State) : Host.Outcome State Fault Refusal :=
  if !s.tovor.released || 32 ≤ channel || !(s.channel channel).patrolEn then .next s
  else
    let s := (patrolRest s channel).foldl patrolBlock s
    let c := s.channel channel
    let period := max 1 c.passMs.toNat * 1000000
    let c := { c with passes := c.passes + 1, passAt := s.refNs, seen := []
                      overruns := if c.passAt + period < s.refNs then satInc c.overruns else c.overruns }
    .next (s.modTovor fun t =>
      { t with channels := mapPut t.channels channel c
               rowCount := mapEach t.rowCount fun r n => if rowChannel r = channel then n - 1 else n })

/-- The errors of a line of a row that its copy meets: correctable blocks are corrected, the others carry poison across, count and
enter the device log (17 R355). -/
def settleLine (row line : Nat) (s : State) : List (Nat × Bool) → State
  | [] => s
  | (u, ok) :: rest =>
    let a := 8 * u
    let s :=
      if dramBytes ≤ a || rowOf a != row || lineInRow a != line then s
      else if ok then correctedShared (s.modTovor fun t => { t with latent := mapDrop t.latent u }) a
      else countUeShared (poisonBlock s (a / 64)) none 2 .memUe
    settleLine row line s rest

/-- SPARE_ROW_COPY: the next line of a row under copy; after the 32nd, the metadata line, the remap entry is written (R406). A row
that has an entry keeps it until then. -/
def execSpareRowCopy (row : Nat) (s : State) : Host.Outcome State Fault Refusal :=
  match (mapFind s.tovor.spares row).bind fun x => x.copy.map fun c => (x, c) with
  | none => .next s
  | some (x, spare, lines) =>
    if lines < 31 then
      .next ((settleLine row lines s s.tovor.latent).modTovor fun t =>
        { t with spares := mapPut t.spares row { x with copy := some (spare, lines + 1) } })
    else
      .next ((s.modBlock fun b => { b with spareRemaps := satInc b.spareRemaps }).modTovor fun t =>
        { t with spares := mapPut t.spares row { entry := some spare, copy := none }, rowCount := mapDrop t.rowCount row })

/-- MI_STATUS of a channel (R407): passes, overruns, and the fewest free spare rows of a bank. -/
def miStatus (s : State) (channel : Nat) : Nat :=
  let c := s.channel channel
  let free (b : Nat) : Nat := 64 - (mapGet [] s.tovor.spareUsed (channel + 32 * b)).length
  ((List.range 32).map free).foldl min 64 + c.overruns.toNat * 2 ^ 8 + c.passes.toNat * 2 ^ 16

end Sys2Proof.Machine
end

