-- ==== Sys2Proof/Machine/Links.lean ====
section
/-!
DEFINITION. The links (20 R408 to R416): the host window, the plain registers of BAR0, operations that arrive over a Jarkin
link and answers to those sent, and the vehicle-network ports.
-/
namespace Sys2Proof.Machine

/-! ## The host window (R410) -/

/-- The context a function's window reaches: its bound one, or WCTX. -/
def windowCtx (s : State) (func : Nat) : Option Nat :=
  if func = 0 then
    let n := (mapGet 0 s.tovor.winBase 0).toNat % 1024
    if (s.ctx n).state = .free then none else some n
  else (s.ctxs.find? fun p => p.2.func == func && p.2.state != .free).map fun p => p.1

/-- The virtual address of an offset of the window. -/
def windowAddr (s : State) (func off : Nat) : Nat := field (mapGet 0 s.tovor.winBase func) 32 16 * 2 ^ 32 + off

/-- A window access that faults (R410): counted, and reported through AER as non-fatal. -/
def windowFault (s : State) : State :=
  (s.modBlock fun b => { b with windowFaults := satInc b.windowFaults }).modTovor fun t => { t with nonFatal := t.nonFatal + 1 }

/-- A read that ends with Completer Abort. -/
def windowAbort (s : State) : State := answerHost (windowFault s) .completerAbort

/-- What the window sends over a link for an access. -/
def sendWindow (s : State) (n : Nat) (r : PeerRun) (k : LinkKind) (w : HostPart) : State :=
  sendLink s { link := r.link, ctx := n, who := none, chip := r.chip, addr := r.addr, kind := k, dst := none, sent := s.refNs, win := some w }

/-- A read whose places are known: its bytes, or those that are here while the others are asked of peers (log 62). -/
def windowRead (s : State) (n : Nat) (ls : List Loc) : State :=
  match meetAll n s (flatPlaces ls) with
  | (s, false) => windowAbort s
  | (s, true) =>
    match peerRuns ls 0 with
    | [] => answerHost s (.data ((flatPlaces ls).map (memGet s.mem)))
    | runs =>
      let k := s.tovor.winNext
      let here := ls.map fun l => match l with | .flat a _ => some (memGet s.mem a) | .peer .. => none
      let s := s.modTovor fun t => { t with winReads := mapPut t.winReads k here, winNext := k + 1 }
      runs.foldl (fun s r => sendWindow s n r (.read r.len) (.read k r.off)) s

/-- The context that a window access reaches: none, one that is RESETTING, or one that serves it. -/
inductive WindowReach
  | fault | unsupported | ctx (n : Nat)
  deriving DecidableEq, Repr

def windowReach (s : State) (func : Nat) : WindowReach :=
  match windowCtx s func with
  | none => .fault
  | some n => if (s.ctx n).state = .resetting then .unsupported else .ctx n

/-- HOST_WINDOW_READ. -/
def execHostWindowRead (func off len : Nat) (s : State) : Host.Outcome State Fault Refusal :=
  if !s.tovor.released || 2 ^ 32 < off + len || 512 < func then .next s
  else match windowReach s func with
    | .fault => .next (windowAbort s)
    | .unsupported => .next (answerHost s .unsupported)
    | .ctx n =>
      let va := windowAddr s func off
      let s := walkRange s n va len needRead
      match bytePlaces s n va needRead len with
      | none => .next (windowAbort s)
      | some ls => .next (if hostBusy s then postHost s (.read n ls) else windowRead s n ls)

/-- The bytes of a window write at their places. -/
def windowWrite (s : State) (n : Nat) (ls : List Loc) (data : List Byte) : State :=
  let here : List WByte := (ls.zip data).filterMap fun p => match p.1 with
    | .flat a _ => some { addr := a, val := p.2, mask := 0xFF }
    | .peer .. => none
  (peerRuns ls 0).foldl (fun s r => sendWindow s n r (.write ((data.drop r.off).take r.len)) .write) (writeHome s none here)

/-- The bytes that a host write or an AtomicOp takes. -/
def hostSize : HostWrite → Nat
  | .bytes data => data.length
  | .fetchAdd n _ | .swap n _ | .cas n _ _ => n

/-- The new value that an AtomicOp writes for an old one; none where CAS fails (R408). -/
def hostNew (old : Nat) : HostWrite → Option Nat
  | .bytes _ => none
  | .fetchAdd n v => some ((old + v.toNat) % 2 ^ (8 * n))
  | .swap n v => some (v.toNat % 2 ^ (8 * n))
  | .cas n expected v => if old = expected.toNat % 2 ^ (8 * n) then some (v.toNat % 2 ^ (8 * n)) else none

/-- An AtomicOp of the host at its place: the old value is its completion (R408). -/
def windowAtomic (s : State) (n a : Nat) (w : HostWrite) : State :=
  match meetMemory s n a with
  | (s, some _) => windowAbort s
  | (s, none) =>
    let old := memNat s.mem a (hostSize w)
    let s := match hostNew old w with | some v => writeNat s a (hostSize w) v | none => s
    answerHost s (.data (bytesOfNat (hostSize w) old))

/-- An AtomicOp has 4 or 8 bytes, aligned (R408). -/
def atomicFit (off size : Nat) : Bool := (size == 4 || size == 8) && off % size == 0

/-- A page that an AtomicOp needs; no link carries it (R412). -/
def needAtomic : Need := { perm := 3, peer := false }

/-- HOST_WINDOW_WRITE: bytes, or an AtomicOp, which the device completes with the old value (R408, R410). -/
def execHostWindowWrite (func off : Nat) (w : HostWrite) (s : State) : Host.Outcome State Fault Refusal :=
  if !s.tovor.released || 2 ^ 32 < off + hostSize w || 512 < func then .next s
  else match windowReach s func with
    | .fault => .next (match w with | .bytes _ => windowFault s | _ => windowAbort s)
    | .unsupported => .next (answerHost s .unsupported)
    | .ctx n =>
      let va := windowAddr s func off
      match w with
      | .bytes data =>
        let s := walkRange s n va data.length needWrite
        (match bytePlaces s n va needWrite data.length with
        | none => .next (windowFault s)
        | some ls => .next (if hostBusy s then postHost s (.write n ls data) else windowWrite s n ls data))
      | w =>
        if !atomicFit off (hostSize w) then .next (answerHost s .unsupported)
        else match walked s n va needAtomic with
          | (s, .ok (.flat a _)) => .next (if hostBusy s then postHost s (.atomic n a w) else windowAtomic s n a w)
          | (s, _) => .next (windowAbort s)

/-- What has waited behind a window write is performed. -/
def performPost (s : State) : HostPost → State
  | .write n ls data => windowWrite s n ls data
  | .read n ls => windowRead s n ls
  | .atomic n a w => windowAtomic s n a w
  | .queue p k w => queueWrite s p k w

/-- Once the peers have acknowledged the host's window writes, what waits behind them is performed in the order in which it came, up to
the next write that goes to a peer (R410, 16 R336). -/
def drainPosted : Nat → State → State
  | 0, s => s
  | n + 1, s =>
    match s.tovor.posted with
    | [] => s
    | x :: xs =>
      if s.tovor.outbound.any fun o => o.win == some .write then s
      else drainPosted n (performPost (s.modTovor fun t => { t with posted := xs }) x)

def settlePosted (s : State) : State := drainPosted s.tovor.posted.length s

/-! ## Registers (R409) -/

/-- Bits of a link binding that can be written (R413). -/
def bindingMask : BitVec 128 := BitVec.ofNat 128 (2 ^ 80 + (2 ^ 10 - 1) * 2 ^ 64 + (2 ^ 64 - 1))

/-- The function is that of a context which is RESETTING: it completes no request (17 R362). -/
def funcResets (s : State) (func : Nat) : Bool := func != 0 && s.ctxs.any fun p => p.2.func == func && p.2.state == .resetting

/-- The function reaches the blocks of a context (R409). -/
def funcReaches (s : State) (func n : Nat) : Bool := func == 0 || ((s.ctx n).func == func && (s.ctx n).state != .free)

/-! The blocks as they read. -/

/-- Context control block (17 R351); CMD is write-only. -/
def controlBits (s : State) (n : Nat) : Nat := (s.ctx n).ctl.toNat + (s.ctx n).state.ctorIdx

/-- Context status block (17 R354). -/
def statusBits (s : State) (n : Nat) : Nat :=
  let c := s.ctx n
  c.grpSel.toNat + grpInfo s n % 2 ^ 32 * 2 ^ 64 + grpTimer s n % 2 ^ 32 * 2 ^ 96 + c.lastSaveBlk.toNat * 2 ^ 128
    + c.lastSaveNs.toNat * 2 ^ 160 + c.saves.toNat * 2 ^ 192 + c.logIdx.toNat * 2 ^ 224 + c.kills.toNat * 2 ^ 256
    + c.integ.toNat * 2 ^ 320 + c.corrected.toNat * 2 ^ 384 + c.rollbacks.toNat * 2 ^ 448

/-- Translation block (19 R396); INV_CMD is write-only. -/
def translationBits (s : State) (n : Nat) : Nat :=
  let c := s.ctx n
  c.invSeq.toNat * 2 ^ 288 + c.s1Root.toNat * 2 ^ 320 + c.invVa.toNat * 2 ^ 384 + c.invIpa.toNat * 2 ^ 448

/-- Device block (17 R355). -/
def deviceBits (s : State) : Nat :=
  let b := s.tovor.block
  b.dlogBase.toNat * 2 ^ 128 + b.dlogSize.toNat * 2 ^ 192 + b.dlogIdx.toNat * 2 ^ 544 + b.corrCtx.toNat * 2 ^ 576
    + b.ueCtx.toNat * 2 ^ 640 + b.corrShared.toNat * 2 ^ 704 + b.ueShared.toNat * 2 ^ 768 + b.poisoned.toNat * 2 ^ 832
    + b.spareRemaps.toNat * 2 ^ 896 + b.windowFaults.toNat * 2 ^ 960

/-- MI_CTL and MI_STATUS of a channel (19 R407). -/
def channelBits (s : State) (c : Nat) : Nat :=
  (s.channel c).passMs.toNat + boolNat (s.channel c).patrolEn * 2 ^ 16 + miStatus s c * 2 ^ 32

/-- Queue control block (16 R333). -/
def queueBits (s : State) (p k : Nat) : Nat :=
  let q := s.queue p k
  boolNat q.enable + q.qbase.toNat + boolNat q.launchOk * 2 ^ 64 + q.log2 * 2 ^ 65 + q.prio * 2 ^ 69 + q.ctx * 2 ^ 80
    + q.writeIdx.toNat * 2 ^ 96 + q.readIdx.toNat * 2 ^ 128 + q.doneIdx.toNat * 2 ^ 160 + q.inflight * 2 ^ 192
    + q.state.ctorIdx * 2 ^ 205 + q.faultCause.toNat * 2 ^ 216

/-- NET_CTL and NET_STATUS of a port (R416). -/
def portBits (s : State) (k : Nat) : Nat :=
  match s.tovor.ports[k]? with
  | some p => p.ctl.toNat + p.bad.toNat * 2 ^ 64 + p.frames.toNat * 2 ^ 96
  | none => 0

/-- A block of BAR0 of some bytes at a base: the bits of the word at an offset. -/
def wordAt (bits off : Nat) : Word := BitVec.ofNat 32 (bits / 2 ^ (8 * off))

/-- A word of BAR0 of the physical function (R409). The request of the mailbox is write-only. -/
def physWord (s : State) (o : Nat) : Word :=
  if 0x40 ≤ o && o < 0x80 then wordAt s.tovor.response.toNat (o - 0x40)
  else if 0x80 ≤ o && o < 0x88 then wordAt (mapGet 0 s.tovor.winBase 0).toNat (o - 0x80)
  else if 0x100 ≤ o && o < 0x180 then wordAt (deviceBits s) (o - 0x100)
  else if 0x10000 ≤ o && o < 0x20000 then wordAt (controlBits s (o % 0x10000 / 64)) (o % 64)
  else if 0x20000 ≤ o && o < 0x30000 then wordAt (statusBits s (o % 0x10000 / 64)) (o % 64)
  else if 0x30000 ≤ o && o < 0x40000 then wordAt (translationBits s (o % 0x10000 / 64)) (o % 64)
  else if 0x40000 ≤ o && o < 0x40200 && o % 16 < 8 then wordAt (channelBits s (o % 0x200 / 16)) (o % 16)
  else if 0x50000 ≤ o && o < 0x58000 then wordAt (mapGet 0 s.tovor.bindings (o % 0x8000 / 16)).toNat (o % 16)
  else if 0x60000 ≤ o && o < 0x60040 then wordAt (portBits s (o % 0x40 / 16)) (o % 16)
  else if 0x100000 ≤ o && o < 0x106000 then wordAt (queueBits s (o % 0x8000 / 2048) (o % 2048 / 32)) (o % 32)
  else 0

/-- A word of BAR0 of a virtual function, whose bound context is `n` (R409). -/
def virtWord (s : State) (func n : Nat) (o : Nat) : Word :=
  let p := (s.ctx n).part
  if o < 0x40 then wordAt (translationBits s n) o
  else if 0x800 ≤ o && o < 0x840 then wordAt (statusBits s n) (o - 0x800)
  else if 0x840 ≤ o && o < 0x848 then wordAt (mapGet 0 s.tovor.winBase func).toNat (o - 0x840)
  else if 0x1000 ≤ o && o < 0x1800 && (s.queue p ((o - 0x1000) / 32)).ctx == n then wordAt (queueBits s p ((o - 0x1000) / 32)) (o % 32)
  else 0

/-- What a read of a word of BAR0 gives; a function without a bound context has no block but its WIN_BASE. -/
def readWord (s : State) (func o : Nat) : Word :=
  if func = 0 then physWord s o
  else match windowCtx s func with
    | some n => virtWord s func n o
    | none => if 0x840 ≤ o && o < 0x848 then wordAt (mapGet 0 s.tovor.winBase func).toNat (o - 0x840) else 0

/-- REGISTER_WRITE: a register without behaviour of its own; reserved fields stay 0 (00 R12). A read answers the host. The function of
a context that is RESETTING completes nothing (17 R362). -/
def execRegisterWrite (w : RegWrite) (s : State) : Host.Outcome State Fault Refusal :=
  if !s.tovor.released then .next s
  else match w with
    | .deviceBlock base size => .next (s.modBlock fun b => { b with dlogBase := base, dlogSize := size })
    | .miCtl c v =>
      if 32 ≤ c then .next s
      else
        let new : Channel := { s.channel c with passMs := BitVec.ofNat 16 v.toNat, patrolEn := flag v 16 }
        .next (s.modTovor fun t => { t with channels := mapPut t.channels c new })
    | .winBase func v =>
      if 512 < func then .next s
      else if funcResets s func then .next (answerHost s .unsupported)
      else
        let new := BitVec.ofNat 64 (field v 32 16 * 2 ^ 32 + if func = 0 then field v 0 10 else 0)
        .next (s.modTovor fun t => { t with winBase := mapPut t.winBase func new })
    | .linkBinding link n v =>
      if 2 ≤ link || 1024 ≤ n then .next s
      else .next (s.modTovor fun t => { t with bindings := mapPut t.bindings (1024 * link + n) (v &&& bindingMask) })
    | .translation func n ipa va =>
      if 1024 ≤ n || 512 < func then .next s
      else if funcResets s func then .next (answerHost s .unsupported)
      else if !funcReaches s func n then .next s
      else .next (s.modCtx n fun c => { c with invIpa := ipa, invVa := va })
    | .unlisted func _ _ => if funcResets s func then .next (answerHost s .unsupported) else .next s
    | .read func off =>
      if 512 < func || off % 4 != 0 then .next s
      else if funcResets s func then .next (answerHost s .unsupported)
      else .next (answerHost s (.data (bytesOfNat 4 (readWord s func off).toNat)))

/-! ## Jarkin links (R412 to R414) -/

def answerPeer (s : State) (r : LinkReply) : State := s.modTovor fun t => { t with linkReply := some r }

def LinkKind.size : LinkKind → Nat
  | .read n => n
  | .write bs => bs.length
  | .nibble _ _ => 1
  | .red _ ty _ _ _ => Ty.size ty
  | .signal => 8
  | .abort => 0

/-- What an inbound operation needs of its page: a peer's link does not pass it on, and host memory takes the reductions that R411
carries. -/
def LinkKind.need : LinkKind → Need
  | .read _ | .abort => { perm := 1, peer := false }
  | .write _ | .nibble _ _ => { perm := 2, peer := false }
  | .red code ty _ _ _ => { atomNeed true (.op code ty 0) with peer := false }
  | .signal => { perm := 3, peer := false }

/-- Where an inbound operation lands: `g` by the context's tables, `s` within its range. -/
def inboundPlace (s : State) (op : LinkOp) : State × Option Nat :=
  if op.chip then
    let r := scrRange s (s.ctx op.ctx)
    (s, if op.addr + LinkKind.size op.kind ≤ r.2 then some (r.1 + op.addr) else none)
  else match walked s op.ctx op.addr (LinkKind.need op.kind) with
    | (s, .ok (.flat a _)) => (s, some a)
    | (s, _) => (s, none)

/-- An inbound operation performed at its home; a NaN that a RED makes bears the tag of the issuing context (01 R28). -/
def inboundPerform (s : State) (op : LinkOp) (a : Nat) : State :=
  match op.kind with
  | .read n =>
    (match meetSpan s op.ctx a n with
    | (s, some _) => answerPeer s .refused
    | (s, none) => answerPeer s (.ok (memBytes s.mem a n)))
  | .write bs => answerPeer (writeHome s none (wholeBytes a bs)) (.ok [])
  | .nibble v m => answerPeer (writeHome s none [{ addr := a, val := v, mask := m }]) (.ok [])
  | .red code ty v lane pc =>
    (match meetMemory s op.ctx a with
    | (s, some _) => answerPeer s .refused
    | (s, none) =>
      let n := Ty.size ty
      let new := atomNew (.op code ty v.toNat) (memNat s.mem a n) { lane := lane, pc := pc }
      answerPeer (writeHome s none (wholeBytes a (bytesOfNat n new))) (.ok []))
  | .signal =>
    (match meetMemory s op.ctx a with
    | (s, some _) => answerPeer s .refused
    | (s, none) => answerPeer (signalFlat s op.ctx a { kind := 2, cause := .eventOverflow }) (.ok []))
  | .abort => s

/-- An operation between a context and its peer has ended as ABORTED (R413): bit 63 of the LSTAT word set, its count up, LINK_ABORT
logged. A word that cannot be read keeps what it holds (log 98). Where LSTAT is no multiple of 8, the 8 bytes from the place of its first
byte are the word (DESIGN CHOICE, log 116). -/
def linkAborted (s : State) (link n : Nat) : State :=
  let s := match walked s n (field (s.binding link n) 0 64) needReadWrite with
    | (s, .ok (.flat a _)) =>
      (match meetSpan s n a 8 with
      | (s, some _) => s
      | (s, none) =>
        let old := memNat s.mem a 8
        writeNat s a 8 (2 ^ 63 + bitsOf old 32 31 * 2 ^ 32 + min (2 ^ 32 - 1) (old % 2 ^ 32 + 1)))
    | (s, _) => s
  logEvent s n { kind := 2, cause := .linkAbort }

/-- LINK_INBOUND_OPERATION (R413): accepted under a binding that names the sender; ABORTED at a RESETTING context. The reset of the
sending context ends what it had sent as ABORTED here (17 R362 step 3). -/
def execLinkInboundOperation (op : LinkOp) (s : State) : Host.Outcome State Fault Refusal :=
  let b := s.binding op.link op.ctx
  if 2 ≤ op.link || 1024 ≤ op.ctx || !(s.tovor.linkUp.getD op.link false) || !s.tovor.released then .next s
  else if (s.ctx op.ctx).state = .resetting then .next (answerPeer s .aborted)
  else if !(flag b 80 && field b 64 10 == op.peer) then .next (answerPeer s .refused)
  else if op.kind = .abort then .next (linkAborted s op.link op.ctx)
  else match inboundPlace s op with
    | (s, none) => .next (answerPeer s .refused)
    | (s, some a) => .next (inboundPerform s op a)

/-- What a read over a link returns to its sender: the peer's bytes, with the sender's own ordered accesses laid over them (05
R137). -/
def OutOp.value (op : OutOp) (v : Nat) : Nat :=
  match op.kind with
  | .read n => op.ext.apply (memNat (op.lay.foldl ordOn (memSetBytes [] op.addr (bytesOfNat n v))) op.addr n)
  | _ => v

/-- Bytes of a window read that a peer has returned; the read is answered when all of them are there. -/
def fillWindow (s : State) (k off : Nat) (bs : List Byte) : State :=
  match mapFind s.tovor.winReads k with
  | none => s
  | some old =>
    let new := old.zipIdx.map fun p => if off ≤ p.2 && p.2 < off + bs.length then some (bs.getD (p.2 - off) 0) else p.1
    if new.all Option.isSome then
      answerHost (s.modTovor fun t => { t with winReads := mapDrop t.winReads k }) (.data (new.map fun b => b.getD 0))
    else s.modTovor fun t => { t with winReads := mapPut t.winReads k new }

/-- What an engine command has read at a peer. -/
def fillCmd (s : State) (id : Nat) (op : OutOp) (bs : List Byte) : State :=
  { s with cores := mapEach s.cores fun _ c =>
      { c with cmds := c.cmds.map fun x => if x.id = id then { x with fetched := x.fetched ++ [(op.link, op.chip, op.addr, bs)] } else x } }

/-- The answer to an operation fills its result, the command that asked or the host's read, and a sender that has waited for it to
exit goes on. -/
def answered (s : State) (op : OutOp) (v : Nat) : State :=
  let bs := bytesOfNat (LinkKind.size op.kind) v
  match op.win, op.who with
  | some (.read k off), _ => fillWindow s k off bs
  | some .write, _ => s
  | none, none => s
  | none, some r =>
    let s := match op.cmd, op.kind with
      | some id, .read _ => fillCmd s id op bs
      | _, _ => s
    let s := match op.dst with
      | some id => s.modHart r fun h => h.fillResult id (op.value v)
      | none => s
    tryExit s r

/-- A part of a window access that a peer refuses: the access faults (R410; log 62). -/
def refuseWindow (s : State) : HostPart → State
  | .write => windowFault s
  | .read k _ =>
    if (mapFind s.tovor.winReads k).isSome then windowAbort (s.modTovor fun t => { t with winReads := mapDrop t.winReads k }) else s

/-- The peer refuses: the issuing group is killed with LINK_FAULT; a write of the device itself is dropped (15 R331). -/
def refuseOp (s : State) (op : OutOp) : State :=
  match op.win, op.who with
  | some w, _ => refuseWindow s w
  | none, none => dropWrite s op.ctx (op.va.getD op.addr)
  | none, some r =>
    match s.hart? r with
    | some h => killGroup s r.group .linkFault h.pc.toNat (op.addr % 2 ^ 32) (if Who.isSteward r.who then 0 else h.quad)
    | none => s

/-- A completion as ABORTED; the value of a read is open (log 26). -/
def abortOp (s : State) (op : OutOp) : State :=
  let s := linkAborted s op.link op.ctx
  match op.kind with
  | .read n =>
    let v := natOfLe ((List.range n).map fun i => Config.peerByte s.free (op.addr + i))
    answered { s with free := s.free + 1 } op v
  | _ => answered s op 0

def takeOp (s : State) (k : Nat) : State := s.modTovor fun t => { t with outbound := listRemove t.outbound k }

/-- An earlier operation of the same agent over the link on the same location: the two are performed in issue order
(R414). -/
def orderedBehind (s : State) (k : Nat) (op : OutOp) : Bool :=
  (s.tovor.outbound.take k).any fun o =>
    o.who == op.who && o.ctx == op.ctx && o.link == op.link
      && ((op.kind == .signal && !(o.kind matches .read _))
          || (o.chip == op.chip && decide (o.addr < op.addr + LinkKind.size op.kind) && decide (op.addr < o.addr + LinkKind.size o.kind)))

/-- LINK_ACKNOWLEDGEMENT of operation `k`; an answer later than 10 µs is none, which counts as a refusal (R413). -/
def execLinkAcknowledgement (k : Nat) (reply : LinkReply) (s : State) : Host.Outcome State Fault Refusal :=
  match s.tovor.outbound[k]? with
  | none => .next s
  | some op =>
    if !(s.tovor.linkUp.getD op.link false) || orderedBehind s k op then .next s
    else
      let reply : LinkReply := if op.sent + 10000 < s.refNs then .refused else reply
      let s := takeOp s k
      match reply with
      | .ok bs => .next (settleDue (answered (peerWritten s op) op (natOfLe bs)))
      | .aborted => .next (settleDue (abortOp s op))
      | .refused => .next (settleDue (refuseOp s op))

/-- LINK_ACK_TIMEOUT: 10 µs without an answer, or a link that is down (R413). -/
def execLinkAckTimeout (k : Nat) (s : State) : Host.Outcome State Fault Refusal :=
  match s.tovor.outbound[k]? with
  | none => .next s
  | some op =>
    if s.refNs < op.sent + 10000 && s.tovor.linkUp.getD op.link false then .next s
    else .next (settleDue (refuseOp (takeOp s k) op))

/-- LINK_DOWN: every operation that waits on the link is refused. -/
def execLinkDown (link : Nat) (s : State) : Host.Outcome State Fault Refusal :=
  if 2 ≤ link then .next s
  else
    let ops := s.tovor.outbound.filter fun o => o.link == link
    let s := s.modTovor fun t => { t with linkUp := t.linkUp.set link false, outbound := t.outbound.filter fun o => o.link != link }
    .next (settleDue (ops.foldl refuseOp s))

/-! ## Vehicle network (R415, R416) -/

/-- One bit of the CRC-32 of IEEE 802.3. -/
def crcBit (c : Nat) : Nat := if c % 2 = 1 then (c / 2) ^^^ 0xEDB88320 else c / 2
def crcBits : Nat → Nat → Nat
  | 0, c => c
  | k + 1, c => crcBits k (crcBit c)
def crcBytes : List Byte → Nat → Nat
  | [], c => c
  | b :: bs, c => crcBytes bs (crcBits 8 (c ^^^ b.toNat))

/-- The frame check sequence of a frame (log 31). -/
def fcs (bs : List Byte) : Nat := crcBytes bs 0xFFFFFFFF ^^^ 0xFFFFFFFF

/-- The frame has an accepted length and a correct FCS, its last four bytes. -/
def frameOk (frame : List Byte) : Bool :=
  decide (64 ≤ frame.length) && decide (frame.length ≤ 1522)
    && natOfLe (frame.drop (frame.length - 4)) == fcs (frame.take (frame.length - 4))

namespace NetCtl
def enabled (v : BitVec 64) : Bool := flag v 0
def part (v : BitVec 64) : Nat := field v 20 4
def log2 (v : BitVec 64) : Nat := field v 24 4
def off (v : BitVec 64) : Nat := field v 32 16
end NetCtl

/-- The ring of a port lies in its partition's range (R416). -/
def ringOk (s : State) (v : BitVec 64) : Bool :=
  let p := s.part (NetCtl.part v)
  decide (NetCtl.part v < 12) && decide (4 ≤ NetCtl.log2 v) && decide (NetCtl.log2 v ≤ 12)
    && decide (NetCtl.off v * 65536 + 64 + 2048 * 2 ^ NetCtl.log2 v ≤ Part.scrUnits p * 65536)

/-- The flat address of the ring. -/
def ringBase (s : State) (v : BitVec 64) : Nat :=
  scrBase + (Part.scrBaseUnits (s.part (NetCtl.part v)) + NetCtl.off v) * 65536

def State.setPort (s : State) (k : Nat) (p : Port) : State := s.modTovor fun t => { t with ports := t.ports.set k p }

/-- The indices of a ring, read with the errors they meet; none where one cannot be read. -/
def ringIndices (s : State) (base : Nat) : State × Option (Nat × Nat) :=
  match meetEach (fun s a => meetShared s none a) s [base, base + 8] with
  | (s, some _) => (s, none)
  | (s, none) => (s, some (memNat s.mem base 8, memNat s.mem (base + 8) 8))

/-- A frame that is dropped: DROPS counts it, if it can be read. -/
def dropFrame (s : State) (base : Nat) : State :=
  match meetShared s none (base + 16) with
  | (s, some _) => s
  | (s, none) => writeNat s (base + 16) 8 (memNat s.mem (base + 16) 8 + 1)

/-- FRAME_ARRIVAL at an enabled port: the slot, then WR_IDX; or DROPS; or BAD. A ring whose indices cannot be read takes no frame (log
98). -/
def execFrameArrival (port : Nat) (frame : List Byte) (s : State) : Host.Outcome State Fault Refusal :=
  match s.tovor.ports[port]? with
  | none => .next s
  | some p =>
    if !NetCtl.enabled p.ctl then .next s
    else if !frameOk frame then .next (s.setPort port { p with bad := satInc p.bad })
    else
      let base := ringBase s p.ctl
      let size := 2 ^ NetCtl.log2 p.ctl
      match ringIndices s base with
      | (s, none) => .next (dropFrame s base)
      | (s, some (wr, rd)) =>
        if (wr + 2 ^ 64 - rd) % 2 ^ 64 < size then
          let body := frame.take (frame.length - 4)
          let header := bytesOfNat 2 body.length ++ [BitVec.ofNat 8 port] ++ bytesOfNat 5 0 ++ bytesOfNat 8 s.refNs
          let s := writeHome s none (wholeBytes (base + 64 + 2048 * (wr % size)) (header ++ body))
          let s := writeNat s base 8 (wr + 1)
          .next (s.setPort port { p with frames := p.frames + 1 })
        else .next (dropFrame s base)

/-- A port whose ring does not fit: EN is cleared, and TOVOR_DENY is in the device log (R416). -/
def denyPort (s : State) (port : Nat) (p : Port) (v : BitVec 64) : State :=
  deviceLog (s.setPort port { p with ctl := v &&& ~~~1 }) none 5 { kind := 2, cause := .tovorDeny }

/-- The enabled ports whose rings the ranges of a new slot set leave outside are disabled (R416; 16 R346, log 105). -/
def settlePorts (s : State) : State :=
  (List.range 4).foldl (fun s k => match s.tovor.ports[k]? with
    | some p => if NetCtl.enabled p.ctl && !ringOk s p.ctl then denyPort s k p p.ctl else s
    | none => s) s

/-- NET_CTL_WRITE: taken while EN = 0; with EN = 1 it can only clear EN. A ring that does not fit disables the port. -/
def execNetCtlWrite (port : Nat) (block : BitVec 512) (s : State) : Host.Outcome State Fault Refusal :=
  match s.tovor.ports[port]? with
  | none => .next s
  | some p =>
    let v := BitVec.ofNat 64 (field block 32 16 * 2 ^ 32 + field block 20 8 * 2 ^ 20 + field block 0 1)
    if !s.tovor.released then .next s
    else if NetCtl.enabled p.ctl then
      (if NetCtl.enabled v then .next s else .next (s.setPort port { p with ctl := p.ctl &&& ~~~1 }))
    else if NetCtl.enabled v && !ringOk s v then
      .next (denyPort s port p v)
    else .next (s.setPort port { p with ctl := v })

end Sys2Proof.Machine
end

