-- ==== Sys2Proof/Machine/Tovor.lean ====
section
/-!
DEFINITION. Tovor (18 R383 to R391; 16 R344, R346; 17 R349; 15 R323; 20 R417; 00 R4): its mailbox commands, the clock step,
caps, retirement, and power-up. A request is answered as it is taken, but for LOAD_SET, which its switch answers.
-/
namespace Sys2Proof.Machine

/-! ## The mailbox (R383) -/

/-- A field of the arguments, by its bit of the request less 64. -/
def mailArg (m : MailArgs) (lo len : Nat) : Nat := field m.args lo len

/-- The request as it stands in the mailbox. -/
def requestBits (cmd : Nat) (m : MailArgs) : BitVec 512 :=
  BitVec.ofNat 512 (cmd + m.tag.toNat * 2 ^ 32 + m.args.toNat * 2 ^ 64)

def respond (s : State) (tag : Word) (status data : Nat) : State :=
  s.modTovor fun t => { t with response := BitVec.ofNat 512 (status + tag.toNat * 2 ^ 32 + data * 2 ^ 64) }

/-- What Tovor answers: OK with data, DENY in a context or in none, BAD_REQUEST. -/
inductive Answer
  | ok (data : Nat) (s : State) | deny (ctx : Option Nat) (s : State) | bad
  deriving DecidableEq, Repr

/-- A request submitted: one that finds the mailbox pending is ignored; a nonzero reserved argument bit is bad. No request is answered
BUSY (DESIGN CHOICE, log 110). -/
def mail (cmd : Nat) (used : Nat) (m : MailArgs) (s : State) (act : State → Answer) : Host.Outcome State Fault Refusal :=
  if !s.tovor.released || field s.tovor.response 0 8 == 0xFF then .next s
  else
    let s := s.modTovor fun t => { t with request := requestBits cmd m }
    if m.args &&& ~~~BitVec.ofNat 448 used != 0 then .next (respond s m.tag 3 0)
    else match act s with
      | .ok data s => .next (respond s m.tag 0 data)
      | .deny n s => .next (respond (denyReport s n) m.tag 1 0)
      | .bad => .next (respond s m.tag 3 0)

/-- BAD_REQUEST: a command code that names none, or a reserved argument bit. -/
def usedBits : Nat → Option Nat
  | 0x01 | 0x02 => some 0x7
  | 0x03 => some (2 ^ 64 - 1)
  | 0x04 => some ((2 ^ 10 - 1) + (2 ^ 64 - 1) * 2 ^ 64)
  | 0x05 => some (0x1F + (2 ^ 64 - 1) * 2 ^ 32)
  | 0x06 => some (2 ^ 24 - 1)
  | 0x07 | 0x08 => some (2 ^ 13 - 1)
  | 0x09 => some 1
  | 0x0A => some (2 ^ 68 - 1)
  | 0x0B => some (2 ^ 330 - 1)
  | _ => none

def execBadRequest (cmd : Byte) (m : MailArgs) (s : State) : Host.Outcome State Fault Refusal :=
  match usedBits cmd.toNat with
  | none => mail cmd.toNat (2 ^ 448 - 1) m s fun _ => .bad
  | some u => if m.args &&& ~~~BitVec.ofNat 448 u = 0 then .next s else mail cmd.toNat u m s fun _ => .bad

/-! ## Pairs (R372) -/

/-- A group is resident on a pair's clusters. -/
def pairBusy (s : State) (j : Nat) : Bool := s.groups.any fun p => p.2.cluster / 2 == j && s.occupies p.2

/-- PAIR: the pair forms, and its clusters enter fixed timing (R389); refused while the clocks change their step. -/
def execPair (m : MailArgs) (s : State) : Host.Outcome State Fault Refusal :=
  mail 0x01 0x7 m s fun s =>
    let j := mailArg m 0 3
    match s.partOf (2 * j) with
    | some p =>
      if s.partOf (2 * j + 1) != some p || (s.pair j).formed || s.retiredPairs.contains j || pairBusy s j
          || s.tovor.stepTo.isSome then .deny none s
      else .ok 0 (enterFixed (s.setPair j { initPair with formed := true, forming := true }) p ([2 * j, 2 * j + 1].filter fun k => !s.isFixed k))
    | none => .deny none s

/-- UNPAIR. -/
def execUnpair (m : MailArgs) (s : State) : Host.Outcome State Fault Refusal :=
  mail 0x02 0x7 m s fun s =>
    let j := mailArg m 0 3
    if !(s.pair j).formed || pairBusy s j then .deny none s else .ok 0 (s.setPair j initPair)

/-! ## Slot sets (16 R344, R346; 17 R349) -/

def splitBits (w : Nat) : Nat → Nat → List Nat
  | 0, _ => []
  | k + 1, v => v % 2 ^ w :: splitBits w k (v / 2 ^ w)

/-- A set as it lies in memory: 12 records, 64 and 32 entries. -/
def setOf (v : Nat) : PartSet :=
  { parts := (splitBits 128 12 v).map (BitVec.ofNat 128)
    memory := (splitBits 16 64 (v / 2 ^ 1536)).map (BitVec.ofNat 16)
    fabric := (splitBits 16 32 (v / 2 ^ 2560)).map (BitVec.ofNat 16) }

/-- Indices below n, in pairs. -/
def pairsBelow (n : Nat) : List (Nat × Nat) := ((List.range n).map fun i => (List.range i).map fun k => (k, i)).flatten

/-- Reserved bits of a partition record. -/
def partReserved (p : BitVec 128) : Bool := field p 16 8 != 0 || field p 48 8 != 0 || field p 58 22 != 0 || field p 89 7 != 0 || field p 106 6 != 0

/-- An entry names partitions that exist, or none, and has no reserved bit. -/
def entryOk (ps : PartSet) (e : BitVec 16) : Bool :=
  let ok (k : Nat) : Bool := k == 15 || (decide (k < 12) && Part.valid (ps.parts.getD k 0))
  ok (field e 0 4) && ok (field e 4 4) && field e 8 8 == 0

/-- A set that Tovor accepts. -/
def setOk (s : State) (ps : PartSet) : Bool :=
  let part (k : Nat) : BitVec 128 := ps.parts.getD k 0
  let valid := (List.range 12).filter fun k => Part.valid (part k)
  let apart (a b : BitVec 128) : Bool :=
    Part.clusters a &&& Part.clusters b == 0 && Part.ways a &&& Part.ways b == 0
      && (Part.scrUnits a == 0 || Part.scrUnits b == 0 || decide (Part.scrBaseUnits a + Part.scrUnits a ≤ Part.scrBaseUnits b)
          || decide (Part.scrBaseUnits b + Part.scrUnits b ≤ Part.scrBaseUnits a))
  let allWays := valid.foldl (fun w k => w ||| Part.ways (part k)) 0
  let owner (c : Nat) : Option Nat := valid.find? fun k => (Part.clusters (part k)).testBit c
  (ps.parts.all fun p => !partReserved p && (Part.valid p || p == 0))
  && (pairsBelow 12).all (fun q => !(Part.valid (part q.1) && Part.valid (part q.2)) || apart (part q.1) (part q.2))
  && (valid.all fun k =>
        decide (Part.scrBaseUnits (part k) + Part.scrUnits (part k) ≤ 512) && Part.clusters (part k) != 0
        && (Part.guaranteed (part k) == (Part.ways (part k) != 0))
        && (Part.guaranteed (part k) || allWays != 2 ^ 24 - 1)
        && (Part.cap (part k) == 0 || (decide (800 ≤ Part.cap (part k)) && decide (Part.cap (part k) ≤ 1250))))
  && ((List.range 8).all fun j => !(s.pair j).formed || ((owner (2 * j)).isSome && owner (2 * j) == owner (2 * j + 1)))
  && ((List.range 12).all fun k => !(s.ctxs.any fun c => c.2.state != .free && c.2.part == k)
        || (Part.clusters (part k) == Part.clusters (s.part k) && Part.ways (part k) == Part.ways (s.part k)
            && Part.scrBaseUnits (part k) == Part.scrBaseUnits (s.part k) && Part.scrUnits (part k) == Part.scrUnits (s.part k)))
  && ps.memory.all (entryOk ps) && ps.fabric.all (entryOk ps)

/-- Bytes at a physical address of local DRAM, read by Tovor, with the errors met: no context applies to them (17 R355). -/
def readPf (s : State) (a n : Nat) : State × Option Nat :=
  if dramBytes < a + n then (s, none)
  else
    let r := meetAll 1023 s ((List.range (n / 64 + 2)).map fun i => dramBase + min (a + 64 * i) (a + n - 1))
    (r.1, if r.2 then some (memNat r.1.mem (dramBase + a) n) else none)

/-- LOAD_SET: an accepted set waits for its frame boundary, the response pending. -/
def execLoadSet (m : MailArgs) (s : State) : Host.Outcome State Fault Refusal :=
  match mail 0x03 (2 ^ 64 - 1) m s fun s =>
    match readPf s (mailArg m 0 64) 384 with
    | (s, none) => .deny none s
    | (s, some v) => if setOk s (setOf v) then .ok 0 (s.modTovor fun t => { t with waiting := some (setOf v, m.tag) }) else .deny none s with
  | .next s' => .next (if s'.tovor.waiting.isSome && s.tovor.waiting.isNone then respond s' m.tag 0xFF 0 else s')
  | o => o

/-- SLOT_SET_SWITCH: the frame boundary (16 R346). -/
def execSlotSetSwitch (s : State) : Host.Outcome State Fault Refusal :=
  match s.tovor.waiting with
  | none => .next s
  | some (ps, tag) => .next (respond (settlePorts (s.modTovor fun t => { t with active := ps, waiting := none })) tag 0 0)

/-! ## Code objects (15 R323) -/

/-- The flat places of the bytes of a virtual range, page by page; none where one faults or lies at a peer. -/
def placesOf (s : State) (n : Nat) : Nat → Nat → Nat → Option (List Nat)
  | 0, _, len => if len = 0 then some [] else none
  | fuel + 1, va, len =>
    if len = 0 then some []
    else
      let here := min len (65536 - va % 65536)
      match translateDirect s n va needRead, placesOf s n fuel (va + here) (len - here) with
      | .ok (.flat a _), some rest => some ((List.range here).map (a + ·) ++ rest)
      | _, _ => none

/-- The bytes of a code object, with their places and the errors met. -/
def readObject (s : State) (n va len : Nat) : State × Option (List Nat × List Byte) :=
  let s := walkRange s n va len needRead
  match placesOf s n (len / 65536 + 2) va len with
  | none => (s, none)
  | some as =>
    let r := meetAll n s ((as.map (· / 8)).eraseDups.map (8 * ·))
    (r.1, if r.2 then some (as, as.map (memGet r.1.mem)) else none)

/-- An object with its MEASURE field taken as zero. -/
def unmeasured (bs : List Byte) : List Byte := bs.take 80 ++ List.replicate 48 0 ++ bs.drop 128

/-- REGISTER_CODE: recorded only where the measurement agrees. The lines watched are those that the tables give at the registration (15
R323; DESIGN CHOICE, log 101). -/
def execRegisterCode (m : MailArgs) (s : State) : Host.Outcome State Fault Refusal :=
  mail 0x04 ((2 ^ 10 - 1) + (2 ^ 64 - 1) * 2 ^ 64) m s fun s =>
    let n := mailArg m 0 10
    let va := mailArg m 64 64
    if va % 256 != 0 || 2 ^ 48 ≤ va || (s.ctx n).state == .resetting then .deny (some n) s
    else match readRecord s n va with
      | (s, none) => .deny (some n) s
      | (s, some h) =>
        let len := Hdr.totalLen h
        match if len < 128 then (s, none) else readObject s n va len with
        | (s, none) => .deny (some n) s
        | (s, some (as, bs)) =>
          if sha384 (unmeasured bs) != (bs.drop 80).take 48 then .deny (some n) s
          else
            let entry : CodeReg :=
              { addr := va, len := len, measure := BitVec.ofNat 384 (Hdr.measure h), stale := false, lines := (as.map lineOf).eraseDups }
            .ok (Hdr.measure h) (s.modCtx n fun c => { c with code := (c.code.filter fun x => x.addr != va) ++ [entry] })

/-! ## Injection and FAULT_N (R386, R387) -/

/-- INJECT. -/
def execInject (m : MailArgs) (s : State) : Host.Outcome State Fault Refusal :=
  mail 0x05 (0x1F + (2 ^ 64 - 1) * 2 ^ 32) m s fun s =>
    let j := mailArg m 0 3
    let p := s.pair j
    if mailArg m 3 2 = 3 || mailArg m 64 32 = 0 then .bad
    else if !p.formed || p.inj.isSome then .deny none s
    else .ok 0 (s.setPair j { p with inj := some { kind := mailArg m 3 2, mask := BitVec.ofNat 32 (mailArg m 32 32), count := mailArg m 64 32 } })

/-- CLEAR_FAULT: the newest report with FAULTN = 1; the pin is released once it has been asserted for 10 µs. -/
def execClearFault (m : MailArgs) (s : State) : Host.Outcome State Fault Refusal :=
  mail 0x06 (2 ^ 24 - 1) m s fun s =>
    if s.tovor.faultSeq = some (BitVec.ofNat 24 (mailArg m 0 24)) then
      .ok 0 (settleFaultN (s.modTovor fun t => { t with faultClear := t.faultN.isSome }))
    else .deny none s

/-- TOVOR_CORE_MISMATCH: FAULT_N, and a report with one of the causes of 12 R271 (log 30). Before verification there is neither a
report ring nor a function to interrupt (00 R4): the pin alone is asserted. -/
def execTovorCoreMismatch (s : State) : Host.Outcome State Fault Refusal :=
  if !s.tovor.released then .next (s.modTovor fun t => { t with faultN := some (t.faultN.getD s.refNs) })
  else .next (report s { cause := .tovorDeny, code := some (Config.internalCause % 0x60), outcome := 8, faultn := true })

/-! ## Retirement (R391) -/

/-- The unit that RETIRE and RESTORE name. -/
def unitNamed (kind u : Nat) : Option HwUnit :=
  match kind with
  | 0 => if u < 8 then some (.pair u) else none
  | 1 => some (.quad u)
  | _ => none

/-- RETIRE. -/
def execRetire (m : MailArgs) (s : State) : Host.Outcome State Fault Refusal :=
  mail 0x07 (2 ^ 13 - 1) m s fun s =>
    match unitNamed (mailArg m 0 4) (mailArg m 4 9) with
    | none => .bad
    | some u =>
      let rep : Report := match u with
        | .pair j => { cause := .pairRetired, outcome := 5, cluster := 2 * j, pair := j, part := (s.partOf (2 * j)).getD 0 }
        | .quad q => { cause := .pairRetired, outcome := 5, cluster := q / 32, core := q / 4 % 8, quad := q % 4, pair := pairNo s (q / 32), part := (s.partOf (q / 32)).getD 0 }
        | .none => { cause := .pairRetired, outcome := 5 }
      .ok 0 (report (retireUnit s u) rep)

/-- RESTORE: after Tovor's self-test of the unit (log 24). -/
def execRestore (m : MailArgs) (s : State) : Host.Outcome State Fault Refusal :=
  mail 0x08 (2 ^ 13 - 1) m s fun s =>
    match unitNamed (mailArg m 0 4) (mailArg m 4 9) with
    | none => .bad
    | some u =>
      let pass := Config.selfTest (mailArg m 0 4) (mailArg m 4 9) s.tovor.selfTests
      let s := s.modTovor fun t => { t with selfTests := t.selfTests + 1 }
      if !pass then .deny none s
      else match u with
        | .pair j => .ok 0 { s with retiredPairs := s.retiredPairs.filter fun x => x != j }
        | .quad q => .ok 0 { s with retiredQuads := s.retiredQuads.filter fun x => x != q }
        | .none => .ok 0 s

/-! ## The clock (R388, R390) -/

/-- Contexts with resident work, of a partition or of the device. -/
def workers (s : State) (part : Option Nat) : List Nat :=
  (((s.groups.filter fun p => s.occupies p.2).map fun p => p.2.ctx).eraseDups).filter fun n =>
    match part with | some p => (s.ctx n).part == p | none => true

/-- The degraded step asked for or given up: the clocks follow at the next cycle boundary. -/
def askStep (s : State) (on : Bool) : State :=
  s.modTovor fun t => { t with stepTo := if t.degraded = on then none else some on }

/-- The degraded step entered or left: CLOCK_STEP to every context with resident work, and a report. -/
def clockStep (s : State) (on : Bool) : State :=
  if s.tovor.degraded = on then s
  else
    let s := s.modTovor fun t => { t with degraded := on }
    let s := (workers s none).foldl (fun s n => logEvent s n { kind := 2, cause := .clockStep }) s
    report s { cause := .clockStep, outcome := 4 }

/-- A cycle boundary: the clocks take their step, and a pair that was forming is there (log 85). -/
def settleClocks (s : State) : State :=
  let s := { s with pairs := mapEach s.pairs fun _ p => { p with forming := false } }
  match s.tovor.stepTo with
  | some on => (clockStep s on).modTovor fun t => { t with stepTo := none }
  | none => s

/-- CLOCK; refused while a pair is forming (R392). -/
def execClock (m : MailArgs) (s : State) : Host.Outcome State Fault Refusal :=
  mail 0x09 1 m s fun s =>
    let on := mailArg m 0 1 == 1
    if s.pairs.any fun p => p.2.forming then .deny none s
    else .ok 0 (askStep (s.modTovor fun t => { t with clockAsked := on }) on)

/-- DEGRADED_STEP_ENTER: temperature, or droop. -/
def execDegradedStepEnter (_temperature : Bool) (s : State) : Host.Outcome State Fault Refusal :=
  if !s.tovor.released then .next s
  else .next (askStep (s.modTovor fun t => { t with triggerAt := some s.refNs }) true)

/-- DEGRADED_STEP_LEAVE: 10 ms after every trigger has cleared. -/
def execDegradedStepLeave (s : State) : Host.Outcome State Fault Refusal :=
  match s.tovor.triggerAt with
  | none => .next s
  | some t =>
    if !s.tovor.degraded || s.tovor.clockAsked || s.refNs < t + 10000000 then .next s
    else .next (askStep (s.modTovor fun t => { t with triggerAt := none }) false)

/-- The clock cap of a partition, in MHz: the power table's, the record's, or the nominal clock (00 R5, R8). -/
def capOf (s : State) (p : Nat) : Nat :=
  let own := if Part.cap (s.part p) = 0 then 1250 else Part.cap (s.part p)
  min own (mapGet 1250 s.tovor.caps p)

/-- POWER_CAP: the power table sets a partition's clock; a lower one is logged. -/
def execPowerCap (part : Nat) (mhz : Nat) (s : State) : Host.Outcome State Fault Refusal :=
  if !s.tovor.released || !Part.valid (s.part part) || 12 ≤ part then .next s
  else
    let s' := s.modTovor fun t => { t with caps := mapPut t.caps part mhz }
    if capOf s' part < capOf s part then
      .next ((workers s' (some part)).foldl (fun s n => logEvent s n { kind := 2, cause := .powerCap }) s')
    else .next s'

/-! ## Report ring and attestation (R384; 20 R417) -/

/-- REPORT_RING. -/
def execReportRing (m : MailArgs) (s : State) : Host.Outcome State Fault Refusal :=
  mail 0x0A (2 ^ 68 - 1) m s fun s =>
    let base := mailArg m 0 64
    let n := mailArg m 64 4
    if base % 4096 != 0 || n < 7 then .bad else .ok 0 (s.modTovor fun t => { t with ring := some (base, n) })

/-- The attestation report of the device, or of a context of it. For the device alone k is 0 and no object is listed (DESIGN CHOICE, log
115). -/
def attestBytes (s : State) (nonce : Nat) (n : Option Nat) : List Byte :=
  let code : List CodeReg := match n with | some k => (s.ctx k).code.filter fun x => !x.stale | none => []
  let body := bytesOfNat 8 0x0001545345545441 ++ bytesOfNat 32 nonce ++ bytesOfNat 16 Config.deviceSerial.toNat
    ++ bytesOfNat 48 Config.tovorFirmware.toNat ++ bytesOfNat 48 Config.deviceFirmware.toNat
    ++ bytesOfNat 4 (n.getD 0xFFFFFFFF) ++ bytesOfNat 4 code.length
    ++ (code.map fun x => bytesOfNat 8 x.addr ++ bytesOfNat 48 x.measure.toNat).flatten
  body ++ bytesOfNat 96 (Config.signature (BitVec.ofNat 384 (natOfLe (sha384 body)))).toNat

/-- ATTEST. A buffer that is no multiple of 64 is answered DENY (DESIGN CHOICE, log 114). -/
def execAttest (m : MailArgs) (s : State) : Host.Outcome State Fault Refusal :=
  mail 0x0B (2 ^ 330 - 1) m s fun s =>
    let k := mailArg m 320 10
    let buf := mailArg m 256 64
    let bs := attestBytes s (mailArg m 0 256) (if k = 1023 then none else some k)
    if buf % 64 != 0 || dramBytes < buf + bs.length then .deny (if k = 1023 then none else some k) s
    else .ok bs.length (writeHome s none (wholeBytes (dramBase + buf) bs))

/-! ## Power-up (00 R4) -/

/-- POWER_UP: everything at its reset value but host memory and the remap tables, which outlive the power (19 R406);
failed verification keeps the compute domain in reset and asserts FAULT_N. A copy that had not written its entry has left nothing. -/
def execPowerUp (verified : Bool) (s : State) : Host.Outcome State Fault Refusal :=
  let r := State.reset
  let spares := (s.tovor.spares.filter fun x => x.2.entry.isSome).map fun x => (x.1, { x.2 with copy := none })
  let begun (bank k : Nat) : Bool := s.tovor.spares.any fun x => rowBank x.1 == bank && (x.2.copy.any fun c => c.1 == k)
  let t := { r.tovor with spares := spares, spareUsed := mapEach s.tovor.spareUsed fun bank ks => ks.filter fun k => !begun bank k }
  let t := if verified then t else { t with released := false, faultN := some 0 }
  .next { r with cur := s.cur, agenda := s.agenda, free := s.free, mem := s.mem.filter fun c => decide (hostBase ≤ c.1), tovor := t }

end Sys2Proof.Machine
end

