-- ==== Sys2Proof/Machine/Turn.lean ====
section
/-!
DEFINITION. What one turn of the machine does: a context issues the instruction at its PC (02 R56, 08 R178, R190), a
happening takes place, or, with no turn planned, the machine takes one of its own (log 2). How a word comes to stand where
the next turn fetches it (log 33).
-/
namespace Sys2Proof.Machine

/-! ## A context issues -/

/-- The word at the PC of a context that has its port: decoded and run, or trapped by the first failing check. -/
def issueFetched (run : Runner) (s : State) (e : Env) : Host.Outcome State Fault Refusal :=
  match fetch s e with
  | .trap s t => .next (raiseTrap s e.r t)
  | .event s c => .next (raiseOn s e.r c)
  | .word w s =>
    match decode w with
    | .ok i => run i s
    | .error _ => .next (raiseTrap s e.r { cause := rejectCause e.steward w, pc := e.h.pc, insn := w })

/-- The walks of the cycle in which an instruction was issued, that it joins when it is performed behind its second execution (19
R403). -/
def issueWalks (s : State) (e : Env) : List Walk :=
  let now := s.clusterCycles (e.g.coreNo / 8)
  match e.h.dup with
  | some d => if d.since = now then []
    else ((s.core e.g.coreNo).walks.filter fun w => w.cycle == d.since).map fun w => { w with cycle := now }
  | none => []

/-- These walks stand with those of a core, for the turn of one context. -/
def joinWalks (core : Nat) (ws : List Walk) (s : State) : State :=
  if ws.isEmpty then s else s.modCore core fun c => { c with walks := c.walks ++ ws }
def leaveWalks (core : Nat) (ws : List Walk) (s : State) : State :=
  if ws.isEmpty then s else s.modCore core fun c => { c with walks := ws.foldl List.erase c.walks }

/-- The turn of a context: nothing where it may not issue, or where the vote of this cycle has not elected it or it has issued. An
error of its own state that it meets comes before everything else (12 R270). -/
def issueTurn (run : Runner) (r : CtxRef) (s : State) : Host.Outcome State Fault Refusal :=
  let s := { s with cur := r }
  match envOf s r with
  | none => .next s
  | some e =>
    match takePort run s e with
    | none => .next s
    | some s =>
      match e.h.fault with
      | some c => .next (meetFault s (r, c))
      | none =>
        let ws := issueWalks s e
        match issueFetched run (joinWalks e.g.coreNo ws s) e with
        | .next s' => .next (leaveWalks e.g.coreNo ws s')
        | o => o

/-! ## Choice points (03 R92) -/

/-- A context that has parked at YIELD, or at OFLUSH with its ordered accesses applied, goes on; or parks by its S. -/
def resumeYield (s : State) (r : CtxRef) : State :=
  match s.group? r.group, s.hart? r with
  | some g, some h =>
    let parks := h.parkS && !h.results.isEmpty
    stepAfter (s.modHart r fun h =>
      { h with yielded := false, wait := .none, parkS := parks, status := if parks then .parked else .ready }) r (stepsOn s g r.who h)
  | _, _ => s

/-- The group that is chosen runs, and its contexts parked at YIELD go on. -/
def resumeYields (s : State) (key : Nat) : State :=
  match s.group? key with
  | none => s
  | some g => ((g.harts.filter fun p => g.yieldOver p.1 p.2).map fun p => p.1).foldl (fun s w => resumeYield s { group := key, who := w }) s

/-- The choice point of a core: where the running group has reached a switch point, the next is chosen. -/
def chooseOn (s : State) (core : Nat) : State :=
  if (s.core core).running.any s.keepsRunning then s
  else
    let next := s.chosen core
    let s := if (s.core core).running = next then s else s.modCore core fun c => { c with running := next }
    match next with
    | some k => resumeYields s k
    | none => s

/-- The cores that hold groups of `.det` kernels choose. -/
def settleRunning (s : State) : State :=
  (((s.groups.filter fun p => s.isDet p.2 && s.occupies p.2).map fun p => p.2.coreNo).eraseDups).foldl chooseOn s

/-! ## Time -/

/-- Cycles and nanoseconds pass; with a cycle, what waits for a cycle boundary takes place. -/
def passTime (run : Runner) (s : State) (cycles : Nat) (elastic : Map Nat) (ns : Nat) : State :=
  let s := settleTimeouts (settleRecords (settleHalts (advanceTime run
    (if cycles = 0 && elastic.isEmpty then s else settleQueues (settleClones s) (cyclesOf s cycles elastic)) cycles elastic ns)))
  if cycles = 0 && elastic.isEmpty then s else settleClocks s

/-- Clones take lanes that no port has taken: the vote of the cycle is held before them (18 R370). -/
def prepare (run : Runner) (i : Instr) (s : State) : State :=
  match i with
  | .cloneReplay core quad => if (replaysOf s core quad).isEmpty then s else holdVote run s core quad
  | _ => s

/-- The turn of a happening; the words of the two streams run only by issuing. -/
def eventTurn (run : Runner) (i : Instr) (s : State) : Host.Outcome State Fault Refusal :=
  match encode? i with
  | some _ => .next s
  | none => run i (prepare run i s)

/-! ## A turn of the machine's own (log 2) -/

/-- Happenings of one context of a group. -/
def hartEvents (r : CtxRef) (h : Hart) : List Instr :=
  (List.range h.results.length).map (Instr.resultReturn r) ++
    [.storeCommit r, .cloneExecute r, .barrierArrivalPerformed r, .reconvTimeout r, .sleepExpiry r, .trapEntry r,
     .launchHeldPerform r, .yieldExclusionExpiry r]

def groupEvents (key : Nat) (g : Group) : List Instr :=
  (g.harts.map fun p => hartEvents { group := key, who := p.1 } p.2).flatten
    ++ (List.range 24).map (Instr.barrierPhaseComplete key)
    ++ (List.range g.rdvs.length).map (Instr.rdvInstanceComplete key)
    ++ [.rollbackRestart key, .evictionTimerExpiry key, .evictionComplete key, .groupRetire key]

def coreEvents (core : Nat) (c : Core) : List Instr :=
  .comparatorCompare core :: (List.range 4).map (Instr.cloneReplay core)
    ++ ((List.range c.cmds.length).map fun k =>
        [.engineCommandStart core k, .drainRowConvert core k, .mxComplete core k, .cpyComplete core k, .dltBlockStep core k,
         .dltComplete core k, .mxdComplete core k, .mxsComplete core k]).flatten

/-- The places a candidate may take. -/
def placementEvents (key : Nat) : List Instr :=
  ((List.range 16).map fun c => ((List.range 8).map fun r =>
    (List.range 4).map fun q => Instr.groupPlacement key c r q).flatten).flatten

/-- The happenings that the work under way asks for; a grid completes before another's batch is applied. -/
def ownEvents (s : State) : List Instr :=
  (s.groups.map fun p => groupEvents p.1 p.2).flatten ++ (s.cores.map fun p => coreEvents p.1 p.2).flatten
    ++ (s.grids.map fun p => [Instr.gridComplete p.1, .orderedBatchApply p.1]).flatten
    ++ (s.ctxs.map fun p => [Instr.invalidationComplete p.1, .resetQueueHoldExpiry p.1, .resetZeroingComplete p.1,
          .contextSave p.1, .sliceExpiry p.1, .contextRestore p.1]).flatten
    ++ s.queues.map (fun p => Instr.queueDispatch (p.1 / 64) (p.1 % 64))
    ++ ((List.range 12).map fun p => ((placeCands s p).map fun c => placementEvents c.key).flatten).flatten
    ++ (List.range s.tovor.outbound.length).map Instr.linkAckTimeout
    ++ (s.pairs.map fun p => .shadowTimeout p.1) ++ [.slotSetSwitch, .degradedStepLeave] ++ (s.tovor.spares.map fun p => .spareRowCopy p.1)

/-- The first happening of a list that changes the state. -/
def firstEvent (run : Runner) (s : State) : List Instr → Option State
  | [] => none
  | i :: is =>
    let s0 := prepare run i s
    match run i s0 with
    | .next s' => if s' = s0 then firstEvent run s is else some s'
    | _ => firstEvent run s is

/-- The contexts that the votes of this cycle have elected and that have not issued. -/
def issuers (run : Runner) (s : State) : List Env :=
  (s.groups.map fun p => p.2.harts.filterMap fun q =>
    (envOf s { group := p.1, who := q.1 }).filter fun e => (takePort run s e).isSome).flatten

/-- The opcode at the PC of a context that may issue is one of these. -/
def nextIs (s : State) (r : CtxRef) (ok : Nat → Bool) : Bool :=
  (envOf s r).any fun e => match fetch s e with | .word w _ => ok (wordOpc w) | _ => false

/-! ## What is taken first in one cycle -/

/-- What a turn brings. -/
def runTurn (run : Runner) (s : State) : TurnOf → Host.Outcome State Fault Refusal
  | .issue r => issueTurn run r s
  | .event i => eventTurn run i s
  | .pause => .next s

/-- An engine command, which takes range locks. -/
def opcLocks (o : Nat) : Bool := o == 0x308 || (decide (0x310 ≤ o) && decide (o ≤ 0x313)) || o == 0x318
/-- TDR, RSQ, RSBIND and DLT, which sample a VERSION or the STALE of a slot. -/
def opcSamples (o : Nat) : Bool := o == 0x321 || o == 0x31C || o == 0x319 || o == 0x318
/-- RDV to RRANK. -/
def opcRdv (o : Nat) : Bool := decide (0x210 ≤ o) && decide (o ≤ 0x215)

/-- The end of an engine command, at which its locks are released. -/
def endsCommand : Instr → Bool
  | .mxComplete .. | .cpyComplete .. | .dltComplete .. | .mxdComplete .. | .mxsComplete .. => true
  | _ => false

/-- Two contexts of one group issue in one cycle: of the arrivals at rendezvous the lower TID's is taken first; an arrival before an
EXIT, a BTEST before an EXIT (04 R117); a steward's push or exit before a DQPOP that finds no entry (03 R100). -/
def groupOrder (s : State) (x r : CtxRef) : Bool :=
  x.group == r.group && match x.who, r.who with
    | .thread i, .thread j =>
      nextIs s x opcRdv && ((decide (i < j) && nextIs s r opcRdv) || nextIs s r (· == 0x204))
        || nextIs s x (· == 0x21B) && i != j && nextIs s r (· == 0x204)
    | .steward, .thread _ =>
      nextIs s x (fun o => o == 0x204 || o == 0x300) && nextIs s r (· == 0x301)
        && (envOf s r).any fun e => (e.g.nextEntry e.h).isNone
    | .thread _, .steward => nextIs s x (· == 0x21B) && nextIs s r (· == 0x204)
    | .steward, .steward => false

/-- The turn releases a range lock: a command ends or is cancelled, by a CPYC, a kill or a rollback (05 R136). -/
def freesLocks (run : Runner) (s : State) (a : TurnOf) : Bool :=
  (s.cores.any fun c => !c.2.locks.isEmpty) && match runTurn run s a with
    | .next s' => s.cores.any fun c => c.2.locks.any fun l => !(s'.core c.1).locks.contains l
    | _ => false

/-- The state after a turn has a VERSION of the context that differs, or a slot newly STALE. -/
def versionsMove (s s' : State) (n : Nat) : Bool :=
  ((s'.ctx n).descs.any fun p => Desc.version p.2 != Desc.version ((s.ctx n).desc p.1))
    || (s'.ctx n).slots.any fun p => Slot.state p.2.bits == 3 && Slot.state ((s.ctx n).slot p.1).bits != 3

/-- The turn moves a version that the context can sample. -/
def writesVersion (run : Runner) (s : State) (a : TurnOf) (r : CtxRef) : Bool :=
  match s.group? r.group, runTurn run s a with
  | some g, .next s' => versionsMove s s' g.ctx
  | _, _ => false

/-- A write and a sample of a version in one cycle count as write first (06 R156); but an access whose issue meets the locks of the DLT
comes behind it (13 R292). -/
def writesFirst (run : Runner) (s : State) (a : TurnOf) (r : CtxRef) : Bool :=
  nextIs s r opcSamples && writesVersion run s a r
    && (!(a matches .issue _ && nextIs s r opcLocks) || match runTurn run s (.issue r) with
      | .next s' => writesVersion run s' a r
      | _ => false)

/-- Two contexts issue in one cycle: what releases locks is taken first, and a command that takes locks before what takes none, but for
a write that counts before its sample (13 R292; 06 R156). -/
def issueOrder (run : Runner) (s : State) (x r : CtxRef) : Bool :=
  (freesLocks run s (.issue x) && !freesLocks run s (.issue r))
    || (nextIs s x opcLocks && !nextIs s r opcLocks && !freesLocks run s (.issue r) && !writesFirst run s (.issue r) x) || groupOrder s x r

/-- What follows every turn: what of the host may now be performed, and the choice points. -/
def settleTurn (s : State) : State := settleRunning (settlePosted s)

/-- The turn lets what the host has posted be performed, such a post among it. -/
def releasesPost (run : Runner) (s : State) (i : Instr) (which : HostPost → Bool) : Bool :=
  s.tovor.posted.any which && match eventTurn run i s with
    | .next s' => (s.tovor.posted.take (s.tovor.posted.length - (settlePosted s').tovor.posted.length)).any which
    | _ => false

/-- The context is about to perform a LAUNCH: at its issue, or one that was held. -/
def launches (s : State) : TurnOf → Bool
  | .issue r => nextIs s r (· == 0x328)
  | .event (.launchHeldPerform _) => true
  | .event _ | .pause => false

/-- The happening returns a result of the context. -/
def returnsTo (r : CtxRef) : Instr → Bool
  | .resultReturn x _ => x == r
  | _ => false

/-- Of two things in one cycle, the first is taken first: ENABLE cleared before a dispatch; a doorbell or a dispatch before a LAUNCH (16
R347), those that the host has posted as what lets them go; the end of a command, and what else releases locks, before what is issued
(13 R292); a result that returns before an issue of its context (02 R64); a write before the sample of a version. -/
def overtakes (run : Runner) (s : State) (a b : TurnOf) : Bool :=
  match a, b with
  | .event (.queueDisable p q), .event (.queueDispatch part k) => p.part == part && q == k
  | .event i, .event (.queueDispatch part k) => releasesPost run s i (HostPost.disables part k)
  | .event (.doorbell ..), b | .event (.queueDispatch ..), b => launches s b
  | .event i, .issue r =>
    endsCommand i || returnsTo r i || (launches s (.issue r) && releasesPost run s i HostPost.rings)
      || freesLocks run s (.event i) || writesFirst run s (.event i) r
  | .event i, b => launches s b && releasesPost run s i HostPost.rings
  | .issue x, .issue r => issueOrder run s x r || writesFirst run s (.issue x) r
  | _, _ => false

/-- With no turn planned: a happening that is due; else, of the elected contexts that no other comes before, the one that issued least
recently; else a cycle and a nanosecond pass. -/
def ownTurn (run : Runner) (s : State) : Host.Outcome State Fault Refusal :=
  match firstEvent run s (ownEvents s) with
  | some s' => .next s'
  | none =>
    let es := issuers run s
    let ahead := es.filter fun e => !es.any fun x => overtakes run s (.issue x.r) (.issue e.r)
    match (firstBy issuedBefore ahead).orElse fun _ => firstBy issuedBefore es with
    | some e => issueTurn run e.r s
    | none => .next (passTime run s 1 [] 1)

/-! ## Planned turns -/

/-- It changes the state, if it is taken now. -/
def takesEffect (run : Runner) (s : State) (w : TurnOf) : Bool :=
  match runTurn run s w with
  | .next s' => decide (s' ≠ s)
  | _ => false

/-- The cluster in whose cycles a turn takes place; none for what the device does. -/
def TurnOf.cluster (s : State) : TurnOf → Option Nat
  | .issue r | .event (.launchHeldPerform r) | .event (.resultReturn r _) | .event (.storeCommit r) => (s.group? r.group).map Group.cluster
  | .event (.mxComplete c _) | .event (.cpyComplete c _) | .event (.dltComplete c _) | .event (.mxdComplete c _)
  | .event (.mxsComplete c _) => some (c / 8)
  | .event _ | .pause => none

/-- No cycle of these clusters passes before the turn; where there is none, no cycle at all. -/
def Turn.stays (s : State) (ks : List Nat) (t : Turn) : Bool :=
  if ks.isEmpty then t.cycles == 0 && t.elastic.isEmpty else ks.all fun k => cyclesOf s t.cycles t.elastic k == 0

/-- The turns of the agenda that take place in the cycle of the one before them, with their places. -/
def sameCycleTurns (s : State) (w : TurnOf) (ts : List Turn) : List (Turn × Nat) :=
  ts.zipIdx.filter fun x => (ts.take (x.2 + 1)).all (Turn.stays s ((w.cluster s).toList ++ (x.1.what.cluster s).toList))

/-- Of these turns, one that is taken before another turn, or that enables one of them which is, through at most so many. -/
def leads (run : Runner) (w : TurnOf) : Nat → State → List (Turn × Nat) → Turn × Nat → Bool
  | 0, _, _, _ => false
  | n + 1, s, xs, x =>
    takesEffect run s x.1.what && (overtakes run s x.1.what w || (n != 0 && !overtakes run s w x.1.what
      && match runTurn run s x.1.what with
        | .next s' => (xs.erase x).any fun y => leads run w n (settleTurn s') (xs.erase x) y
        | _ => false))

/-- Of these turns, the one that is taken before another, and before which none of them is. Two happenings at most may enable it (log
2). -/
def foremost (run : Runner) (s : State) : Nat → TurnOf → List (Turn × Nat) → Option (Turn × Nat)
  | 0, _, _ => none
  | n + 1, w, xs =>
    match (xs.find? fun x => leads run w 1 s xs x).orElse fun _ => xs.find? fun x => leads run w 3 s xs x with
    | none => none
    | some x => (foremost run s n x.1.what (xs.erase x)).orElse fun _ => some x

/-- The turn of the same cycle that is taken before the head of the agenda, and its place behind it. -/
def overtaker (run : Runner) (s : State) (w : TurnOf) (ts : List Turn) : Option (Turn × Nat) :=
  let xs := sameCycleTurns s w ts
  foremost run s xs.length w xs

/-- The agenda from which turn `k` has been taken before the head `w`: its own time still passes where it stood. -/
def agendaWithout (w : TurnOf) (ts : List Turn) (k : Nat) : List Turn :=
  { cycles := 0, ns := 0, what := w } :: ts.modify k fun t => { t with what := .pause }

/-- The turn at the head of the agenda, or the one of its cycle that comes first. -/
def plannedTurn (run : Runner) (t : Turn) (ts : List Turn) (s : State) : Host.Outcome State Fault Refusal :=
  let s := passTime run { s with agenda := ts } t.cycles t.elastic t.ns
  match overtaker run s t.what ts with
  | none => runTurn run s t.what
  | some (x, k) => runTurn run { s with agenda := agendaWithout t.what ts k } x.what

/-- One turn: the next of the agenda, or one of the machine's own. -/
def takeStep (run : Runner) (s : State) : Host.Outcome State Fault Refusal :=
  let o := match s.agenda with
    | [] => ownTurn run s
    | t :: ts => plannedTurn run t ts s
  match o with
  | .next s' => .next (settleTurn s')
  | o => o

/-! ## A word placed where the next turn fetches it (log 33) -/

/-- The stream a word is put in: the steward's where only the steward has its opcode. -/
def wordSteward (w : IWord) : Bool :=
  match instrOf (wordOpc w) (wordOp2 w) with
  | some (row, _) => !row.stream.has false
  | none => false

/-- The header of a code object of one instruction in each stream: 64 registers, one thread, 64 KiB of scratchpad. -/
def placedHeader : BitVec 1024 :=
  BitVec.ofNat 1024
    (0x314B4C4F + 1 * 2 ^ 32 + 3 * 2 ^ 64 + 64 * 2 ^ 84 + 128 * 2 ^ 128 + 12 * 2 ^ 160 + 140 * 2 ^ 192 + 12 * 2 ^ 224
      + 192 * 2 ^ 544)

/-- The launch record: the code object at 0x100000, private memory at 0x200000, one group. -/
def placedRecord : BitVec 1024 :=
  BitVec.ofNat 1024 (0x100000 + 0x200000 * 2 ^ 192 + 1 * 2 ^ 256 + 1 * 2 ^ 288 + 1 * 2 ^ 320)

/-- The context that runs it: partition 0, privileged, both roots at 0x10000. -/
def placedCtx : Ctx :=
  { initCtx with ctl := BitVec.ofNat 512 (1 * 2 ^ 59 + 0x10000 * 2 ^ 256), state := .running, s1Root := 0x10000 }

/-- Partition 0: valid, cluster 0. -/
def placedParts : PartSet :=
  { resetPart with parts := BitVec.ofNat 128 (1 + 2 ^ 56) :: List.replicate 11 0 }

/-- The page tables, of both stages at once: the level-0 table at 0x10000 names the level-1 table at 0x20000, whose first
entry maps the first 512 MiB onto themselves in local DRAM, with every permission. -/
def placedTables (m : Memory) : Memory :=
  memSetBytes (memSetBytes m (dramBase + 0x10000) (bytesOfNat 8 0x20003)) (dramBase + 0x20000) (bytesOfNat 8 0x1D)

def placedGrid (s : State) : Grid :=
  { ctx := 0, part := 0, queue := 0, recIdx := 0, order := s.gridSeq, record := placedRecord, header := placedHeader, level := 0
    total := 1, next := 1, retired := 0, killed := 0, trig := 0, trigDone := false, tokenRound := 0, tokenIndex := 0
    firstGroup := none, cause := none, aborted := false
    streams := [(dramBase + 0x100080, dramBase + 0x10008B), (dramBase + 0x10008C, dramBase + 0x100097)], ended := false
    refused := none }

/-- The state in which the next turn issues the word of a table row: one running context with one group of one thread on
cluster 0, the word at PC 0 of its stream. Other groups are gone, since they could take the port. -/
def placeWord (s : State) (w : IWord) : State :=
  let steward := wordSteward w
  let gr := placedGrid s
  let key := groupKey s.gridSeq 0
  let g := newGroup gr s.gridSeq 0 0 0 { blocks := [(0, 0)], cbase := 0, steward := 0 }
  let who := if steward then Who.steward else .thread 0
  let at_ := dramBase + 0x100000 + (if steward then 140 else 128)
  { s with
    agenda := [{ cycles := 0, ns := 0, what := .issue { group := key, who := who } }]
    mem := memSetBytes (placedTables s.mem) at_ (wordBytes w)
    groups := [(key, g)], grids := [(s.gridSeq, gr)], gridSeq := s.gridSeq + 1, ctxs := mapPut s.ctxs 0 placedCtx
    cores := mapDrop s.cores 0, tlb2 := mapDrop s.tlb2 0
    tovor := { s.tovor with active := placedParts, latent := [], badCopies := [], poison := [] } }

end Sys2Proof.Machine
end

