-- ==== Sys2Proof/Machine/Dispatch.lean ====
section
/-!
DEFINITION. One arm per constructor of Instr: a direct call of its meaning.
-/
namespace Sys2Proof.Machine

def exec (i : Instr) (s : State) : Host.Outcome State Fault Refusal :=
  match i with
  | .nop f => Sys2Proof.Machine.execNop f s
  | .mov f => Sys2Proof.Machine.execMov f s
  | .sel f => Sys2Proof.Machine.execSel f s
  | .xget f => Sys2Proof.Machine.execXget f s
  | .xput f => Sys2Proof.Machine.execXput f s
  | .gget f => Sys2Proof.Machine.execGget f s
  | .gput f => Sys2Proof.Machine.execGput f s
  | .add f => Sys2Proof.Machine.execAdd f s
  | .sub f => Sys2Proof.Machine.execSub f s
  | .mul f => Sys2Proof.Machine.execMul f s
  | .mulh f => Sys2Proof.Machine.execMulh f s
  | .mad f => Sys2Proof.Machine.execMad f s
  | .madw f => Sys2Proof.Machine.execMadw f s
  | .div f => Sys2Proof.Machine.execDiv f s
  | .rem f => Sys2Proof.Machine.execRem f s
  | .min f => Sys2Proof.Machine.execMin f s
  | .max f => Sys2Proof.Machine.execMax f s
  | .abs f => Sys2Proof.Machine.execAbs f s
  | .clamp f => Sys2Proof.Machine.execClamp f s
  | .and f => Sys2Proof.Machine.execAnd f s
  | .or f => Sys2Proof.Machine.execOr f s
  | .xor f => Sys2Proof.Machine.execXor f s
  | .andn f => Sys2Proof.Machine.execAndn f s
  | .logic3 f => Sys2Proof.Machine.execLogic3 f s
  | .shl f => Sys2Proof.Machine.execShl f s
  | .shr f => Sys2Proof.Machine.execShr f s
  | .sar f => Sys2Proof.Machine.execSar f s
  | .rol f => Sys2Proof.Machine.execRol f s
  | .fshl f => Sys2Proof.Machine.execFshl f s
  | .bfx f => Sys2Proof.Machine.execBfx f s
  | .bfi f => Sys2Proof.Machine.execBfi f s
  | .brev f => Sys2Proof.Machine.execBrev f s
  | .popc f => Sys2Proof.Machine.execPopc f s
  | .clz f => Sys2Proof.Machine.execClz f s
  | .ctz f => Sys2Proof.Machine.execCtz f s
  | .perm f => Sys2Proof.Machine.execPerm f s
  | .cmp f => Sys2Proof.Machine.execCmp f s
  | .plop f => Sys2Proof.Machine.execPlop f s
  | .pset f => Sys2Proof.Machine.execPset f s
  | .psetBulk f => Sys2Proof.Machine.execPsetBulk f s
  | .pget f => Sys2Proof.Machine.execPget f s
  | .lea f => Sys2Proof.Machine.execLea f s
  | .cvti f => Sys2Proof.Machine.execCvti f s
  | .pack f => Sys2Proof.Machine.execPack f s
  | .unpack f => Sys2Proof.Machine.execUnpack f s
  | .dp4 f => Sys2Proof.Machine.execDp4 f s
  | .fadd f => Sys2Proof.Machine.execFadd f s
  | .fsub f => Sys2Proof.Machine.execFsub f s
  | .fmul f => Sys2Proof.Machine.execFmul f s
  | .ffma f => Sys2Proof.Machine.execFfma f s
  | .fmin f => Sys2Proof.Machine.execFmin f s
  | .fmax f => Sys2Proof.Machine.execFmax f s
  | .fcmp f => Sys2Proof.Machine.execFcmp f s
  | .fclass f => Sys2Proof.Machine.execFclass f s
  | .fadd2 f => Sys2Proof.Machine.execFadd2 f s
  | .fmul2 f => Sys2Proof.Machine.execFmul2 f s
  | .ffma2 f => Sys2Proof.Machine.execFfma2 f s
  | .fdot2 f => Sys2Proof.Machine.execFdot2 f s
  | .fdot4 f => Sys2Proof.Machine.execFdot4 f s
  | .frnd f => Sys2Proof.Machine.execFrnd f s
  | .fscale f => Sys2Proof.Machine.execFscale f s
  | .fkey f => Sys2Proof.Machine.execFkey f s
  | .fquant f => Sys2Proof.Machine.execFquant f s
  | .fdeq f => Sys2Proof.Machine.execFdeq f s
  | .fcvt f => Sys2Proof.Machine.execFcvt f s
  | .f2i f => Sys2Proof.Machine.execF2i f s
  | .i2f f => Sys2Proof.Machine.execI2f f s
  | .frcp f => Sys2Proof.Machine.execFrcp f s
  | .frsq f => Sys2Proof.Machine.execFrsq f s
  | .fsqrt f => Sys2Proof.Machine.execFsqrt f s
  | .fexp2 f => Sys2Proof.Machine.execFexp2 f s
  | .flog2 f => Sys2Proof.Machine.execFlog2 f s
  | .fsin f => Sys2Proof.Machine.execFsin f s
  | .fcos f => Sys2Proof.Machine.execFcos f s
  | .ftanh f => Sys2Proof.Machine.execFtanh f s
  | .fsigm f => Sys2Proof.Machine.execFsigm f s
  | .bra f => Sys2Proof.Machine.execBra f s
  | .brx f => Sys2Proof.Machine.execBrx f s
  | .call f => Sys2Proof.Machine.execCall f s
  | .ret f => Sys2Proof.Machine.execRet f s
  | .brdec f => Sys2Proof.Machine.execBrdec f s
  | .exit f => Sys2Proof.Machine.execExit f s
  | .yield f => Sys2Proof.Machine.execYield f s
  | .reconv f => Sys2Proof.Machine.execReconv f s
  | .region f => Sys2Proof.Machine.execRegion f s
  | .trap f => Sys2Proof.Machine.execTrap f s
  | .bkpt f => Sys2Proof.Machine.execBkpt f s
  | .tret f => Sys2Proof.Machine.execTret f s
  | .sleep f => Sys2Proof.Machine.execSleep f s
  | .rdv f => Sys2Proof.Machine.execRdv f s
  | .rshfl f => Sys2Proof.Machine.execRshfl f s
  | .rvote f => Sys2Proof.Machine.execRvote f s
  | .rvoteBallot f => Sys2Proof.Machine.execRvoteBallot f s
  | .rred f => Sys2Proof.Machine.execRred f s
  | .rscan f => Sys2Proof.Machine.execRscan f s
  | .rrank f => Sys2Proof.Machine.execRrank f s
  | .bar f => Sys2Proof.Machine.execBar f s
  | .barrive f => Sys2Proof.Machine.execBarrive f s
  | .bwait f => Sys2Proof.Machine.execBwait f s
  | .btest f => Sys2Proof.Machine.execBtest f s
  | .cbar f => Sys2Proof.Machine.execCbar f s
  | .cbarrive f => Sys2Proof.Machine.execCbarrive f s
  | .cbwait f => Sys2Proof.Machine.execCbwait f s
  | .fence f => Sys2Proof.Machine.execFence f s
  | .waita f => Sys2Proof.Machine.execWaita f s
  | .trig f => Sys2Proof.Machine.execTrig f s
  | .oflush f => Sys2Proof.Machine.execOflush f s
  | .ld f => Sys2Proof.Machine.execLd f s
  | .st f => Sys2Proof.Machine.execSt f s
  | .ldt f => Sys2Proof.Machine.execLdt f s
  | .stt f => Sys2Proof.Machine.execStt f s
  | .pf f => Sys2Proof.Machine.execPf f s
  | .ldp f => Sys2Proof.Machine.execLdp f s
  | .atom f => Sys2Proof.Machine.execAtom f s
  | .acas f => Sys2Proof.Machine.execAcas f s
  | .red f => Sys2Proof.Machine.execRed f s
  | .dqpush f => Sys2Proof.Machine.execDqpush f s
  | .dqpop f => Sys2Proof.Machine.execDqpop f s
  | .dqlen f => Sys2Proof.Machine.execDqlen f s
  | .cpy f => Sys2Proof.Machine.execCpy f s
  | .cpyq f => Sys2Proof.Machine.execCpyq f s
  | .cpyc f => Sys2Proof.Machine.execCpyc f s
  | .mxz f => Sys2Proof.Machine.execMxz f s
  | .mx f => Sys2Proof.Machine.execMx f s
  | .mxd f => Sys2Proof.Machine.execMxd f s
  | .mxs f => Sys2Proof.Machine.execMxs f s
  | .mxw f => Sys2Proof.Machine.execMxw f s
  | .dlt f => Sys2Proof.Machine.execDlt f s
  | .rsbind f => Sys2Proof.Machine.execRsbind f s
  | .rsinv f => Sys2Proof.Machine.execRsinv f s
  | .rsinvRel f => Sys2Proof.Machine.execRsinvRel f s
  | .rsref f => Sys2Proof.Machine.execRsref f s
  | .rsq f => Sys2Proof.Machine.execRsq f s
  | .rsparam f => Sys2Proof.Machine.execRsparam f s
  | .tdw f => Sys2Proof.Machine.execTdw f s
  | .tdr f => Sys2Proof.Machine.execTdr f s
  | .launch f => Sys2Proof.Machine.execLaunch f s
  | .signal f => Sys2Proof.Machine.execSignal f s
  | .rand f => Sys2Proof.Machine.execRand f s
  | .rseed f => Sys2Proof.Machine.execRseed f s
  | .sysr f => Sys2Proof.Machine.execSysr f s
  | .sysw f => Sys2Proof.Machine.execSysw f s
  | .resultReturn r k => Sys2Proof.Machine.execResultReturn r k s
  | .storeCommit r => Sys2Proof.Machine.execStoreCommit r s
  | .barrierArrivalPerformed r => Sys2Proof.Machine.execBarrierArrivalPerformed r s
  | .barrierPhaseComplete group bar => Sys2Proof.Machine.execBarrierPhaseComplete group bar s
  | .rdvInstanceComplete group k => Sys2Proof.Machine.execRdvInstanceComplete group k s
  | .reconvTimeout r => Sys2Proof.Machine.execReconvTimeout r s
  | .urgentThread r => Sys2Proof.Machine.execUrgentThread r s
  | .fuseWaitExpiry r => Sys2Proof.Machine.execFuseWaitExpiry r s
  | .sleepExpiry r => Sys2Proof.Machine.execSleepExpiry r s
  | .trapEntry r => Sys2Proof.Machine.execTrapEntry r s
  | .evictionTimerExpiry group => Sys2Proof.Machine.execEvictionTimerExpiry group s
  | .groupPlacement group cluster core quad => Sys2Proof.Machine.execGroupPlacement group cluster core quad s
  | .clusterModeChange cluster fixed => Sys2Proof.Machine.execClusterModeChange cluster fixed s
  | .engineCommandStart core k => Sys2Proof.Machine.execEngineCommandStart core k s
  | .mxComplete core k => Sys2Proof.Machine.execMxComplete core k s
  | .cpyComplete core k => Sys2Proof.Machine.execCpyComplete core k s
  | .dltBlockStep core k => Sys2Proof.Machine.execDltBlockStep core k s
  | .dltComplete core k => Sys2Proof.Machine.execDltComplete core k s
  | .drainRowConvert core k => Sys2Proof.Machine.execDrainRowConvert core k s
  | .mxdComplete core k => Sys2Proof.Machine.execMxdComplete core k s
  | .mxsComplete core k => Sys2Proof.Machine.execMxsComplete core k s
  | .orderedBatchApply grid => Sys2Proof.Machine.execOrderedBatchApply grid s
  | .groupRetire group => Sys2Proof.Machine.execGroupRetire group s
  | .gridComplete grid => Sys2Proof.Machine.execGridComplete grid s
  | .queueDispatch part queue => Sys2Proof.Machine.execQueueDispatch part queue s
  | .launchHeldPerform r => Sys2Proof.Machine.execLaunchHeldPerform r s
  | .doorbell reach queue value => Sys2Proof.Machine.execDoorbell reach queue value s
  | .queueEnable reach queue => Sys2Proof.Machine.execQueueEnable reach queue s
  | .queueDisable reach queue => Sys2Proof.Machine.execQueueDisable reach queue s
  | .queueConfigWrite reach queue block => Sys2Proof.Machine.execQueueConfigWrite reach queue block s
  | .create n => Sys2Proof.Machine.execCreate n s
  | .destroy n => Sys2Proof.Machine.execDestroy n s
  | .reset n => Sys2Proof.Machine.execReset n s
  | .preempt n => Sys2Proof.Machine.execPreempt n s
  | .contextFieldWrite n block => Sys2Proof.Machine.execContextFieldWrite n block s
  | .grpSelWrite reach value => Sys2Proof.Machine.execGrpSelWrite reach value s
  | .sliceExpiry n => Sys2Proof.Machine.execSliceExpiry n s
  | .contextSave n => Sys2Proof.Machine.execContextSave n s
  | .contextRestore n => Sys2Proof.Machine.execContextRestore n s
  | .functionLevelReset vf => Sys2Proof.Machine.execFunctionLevelReset vf s
  | .vfEnableClear => Sys2Proof.Machine.execVfEnableClear s
  | .resetQueueHoldExpiry n => Sys2Proof.Machine.execResetQueueHoldExpiry n s
  | .resetZeroingComplete n => Sys2Proof.Machine.execResetZeroingComplete n s
  | .pair m => Sys2Proof.Machine.execPair m s
  | .unpair m => Sys2Proof.Machine.execUnpair m s
  | .loadSet m => Sys2Proof.Machine.execLoadSet m s
  | .slotSetSwitch => Sys2Proof.Machine.execSlotSetSwitch s
  | .registerCode m => Sys2Proof.Machine.execRegisterCode m s
  | .inject m => Sys2Proof.Machine.execInject m s
  | .clearFault m => Sys2Proof.Machine.execClearFault m s
  | .retire m => Sys2Proof.Machine.execRetire m s
  | .restore m => Sys2Proof.Machine.execRestore m s
  | .clock m => Sys2Proof.Machine.execClock m s
  | .reportRing m => Sys2Proof.Machine.execReportRing m s
  | .attest m => Sys2Proof.Machine.execAttest m s
  | .badRequest cmd m => Sys2Proof.Machine.execBadRequest cmd m s
  | .comparatorCompare core => Sys2Proof.Machine.execComparatorCompare core s
  | .shadowTimeout pair => Sys2Proof.Machine.execShadowTimeout pair s
  | .cloneExecute r => Sys2Proof.Machine.execCloneExecute r s
  | .cloneReplay core quad => Sys2Proof.Machine.execCloneReplay core quad s
  | .rollbackRestart group => Sys2Proof.Machine.execRollbackRestart group s
  | .degradedStepEnter temperature => Sys2Proof.Machine.execDegradedStepEnter temperature s
  | .degradedStepLeave => Sys2Proof.Machine.execDegradedStepLeave s
  | .powerCap part mhz => Sys2Proof.Machine.execPowerCap part mhz s
  | .tovorCoreMismatch => Sys2Proof.Machine.execTovorCoreMismatch s
  | .powerUp verified => Sys2Proof.Machine.execPowerUp verified s
  | .invStage1Page n phys => Sys2Proof.Machine.execInvStage1Page n phys s
  | .invStage1All n phys => Sys2Proof.Machine.execInvStage1All n phys s
  | .invStage2Page n phys => Sys2Proof.Machine.execInvStage2Page n phys s
  | .invStage2All n phys => Sys2Proof.Machine.execInvStage2All n phys s
  | .invBoth n phys => Sys2Proof.Machine.execInvBoth n phys s
  | .s1RootWrite reach value => Sys2Proof.Machine.execS1RootWrite reach value s
  | .invalidationComplete n => Sys2Proof.Machine.execInvalidationComplete n s
  | .pageWalk core n va => Sys2Proof.Machine.execPageWalk core n va s
  | .patrolBlockVisit block => Sys2Proof.Machine.execPatrolBlockVisit block s
  | .patrolPassComplete channel => Sys2Proof.Machine.execPatrolPassComplete channel s
  | .spareRowCopy row => Sys2Proof.Machine.execSpareRowCopy row s
  | .hostWindowRead func off len => Sys2Proof.Machine.execHostWindowRead func off len s
  | .hostWindowWrite func off data => Sys2Proof.Machine.execHostWindowWrite func off data s
  | .linkInboundOperation op => Sys2Proof.Machine.execLinkInboundOperation op s
  | .linkAckTimeout k => Sys2Proof.Machine.execLinkAckTimeout k s
  | .linkDown link => Sys2Proof.Machine.execLinkDown link s
  | .frameArrival port frame => Sys2Proof.Machine.execFrameArrival port frame s
  | .netCtlWrite port block => Sys2Proof.Machine.execNetCtlWrite port block s
  | .registerWrite w => Sys2Proof.Machine.execRegisterWrite w s
  | .evictionComplete group => Sys2Proof.Machine.execEvictionComplete group s
  | .linkAcknowledgement k reply => Sys2Proof.Machine.execLinkAcknowledgement k reply s
  | .yieldExclusionExpiry r => Sys2Proof.Machine.execYieldExclusionExpiry r s
  | .hardwareFault f => Sys2Proof.Machine.execHardwareFault f s
  | .unassignedOpcode w => Sys2Proof.Machine.execUnassignedOpcode w s

end Sys2Proof.Machine
end

