-- ==== Sys2Proof/Machine/Step.lean ====
section
/-!
DEFINITION. One step of the machine: one turn (log 2).
-/
namespace Sys2Proof.Machine

/-- One step. -/
def step (s : State) : Host.Outcome State Fault Refusal := takeStep exec s

/-- The state with the instruction of a table word where the next step fetches (log 33). -/
def State.withFetchWord (s : State) (nbits w : Nat) : State := placeWord s (BitVec.ofNat 96 (w % 2 ^ nbits))

end Sys2Proof.Machine
end

