-- ==== Sys2Proof/Safety.lean ====
section
/-!
DEFINITION. What claims are stated in: the invariants of the state, a property that every step keeps, an instruction that
passes every check of its issue, the state its own effect leaves, and what a register write leaves alone.
-/
namespace Sys2Proof
open Machine

/-- Memory has its canonical form. -/
abbrev MemoryOk (s : State) : Prop := Memory.wf s.mem = true

/-- A step from a state with the property, if it answers a next state, leads to a state with it. -/
def KeptByStep (P : State → Prop) : Prop := ∀ s s', P s → step s = .next s' → P s'

/-! ## An instruction that executes -/

/-- The operands as the instruction takes them: CYC_HI latched where CYC_LO is read (02 R47), the DRAIN element read, which
waits for the context's stores (14 R308, 03 R85); none while a read waits or traps. -/
def operandsOf (s : State) (e : Env) (row : OpRow) (f : Form) : Option (Env × State) :=
  let u := if readsCycLo row f
    then s.modHart e.r fun h => { h with cycLatch := BitVec.ofNat 32 (s.clusterCycles e.g.cluster / 2 ^ 32) } else s
  if usesDrain f then
    if e.h.stores.isEmpty then
      match readDrain u e with
      | .value v u' => some ({ e with drain := v }, u')
      | _ => none
    else none
  else some (e, u)

/-- The context whose turn it is may issue an instruction of the row, and the instruction passes every check of 08 R178 and
02 R63 and R64, those of what a DRAIN operand selects included: `e` is the context, `e'` and `u` context and state with the
operands taken. Under IL1, and for the records of 18 R374 under IL2, its second execution has agreed. No rollback holds it (18 R377). -/
structure Executes (s : State) (row : OpRow) (f : Form) (e e' : Env) (u : State) : Prop where
  env      : envOf s s.cur = some e
  window   : windowHolds e row f = false
  sound    : e.h.fault = none
  legal    : decodeTrap s e row f = none
  guarded  : e.h.pendingPred f.guard.val = false ∧ e.h.pred f.guard.val ≠ f.gneg
  clear    : hazard s e row f = none
  operands : operandsOf s e row f = some (e', u)
  selects  : usesDrain f = true → drainHazard s e' row f = none
  twice    : needsDup e row f = true → e.h.dup ≠ none

/-- What an instruction does, a region boundary behind it where it has read DRAIN (14 R308). -/
def bounded (s : State) (e : Env) (f : Form) (a : Act) : Act := if usesDrain f then drainAct s e a else a

/-- The state after an act whose second execution has agreed, or that needs none. -/
def performed (s : State) (e : Env) (row : OpRow) (f : Form) (a : Act) : State :=
  match a with
  | .trap _ | .hold => perform s e row f a
  | _ => if needsDup e row f then (perform s e row f a).modHart e.r fun h => { h with dup := none } else perform s e row f a

/-- The state after an instruction that executes, from what it does itself. -/
def after (s : State) (e : Env) (row : OpRow) (f : Form) (a : Act) : State := performed s e row f (bounded s e f a)

/-- Every form of the instruction that executes writes a value to its destination, and the value is as `spec` says. -/
def Computes (i : Form → Instr) (row : OpRow) (spec : Form → Env → State → Nat → Prop) : Prop :=
  ∀ f s e e' u, Executes s row f e e' u →
    ∃ v, spec f e' u v ∧ exec (i f) s = .next (after s e row f (.done (writeDst u e' row f v)))

/-- Every form of the instruction that executes writes its destination predicate, as `spec` says. -/
def ComputesPred (i : Form → Instr) (row : OpRow) (spec : Form → Env → State → Bool) : Prop :=
  ∀ f s e e' u, Executes s row f e e' u →
    exec (i f) s = .next (after s e row f (.done (writePred u e' row f f.d (spec f e' u))))

/-- Every form of the instruction that executes, where `cond` holds of its operands, leaves what `act` says. -/
def Performs (i : Form → Instr) (row : OpRow) (cond : Form → Env → State → Prop) (act : Form → Env → State → Act) : Prop :=
  ∀ f s e e' u, Executes s row f e e' u → cond f e' u → exec (i f) s = .next (after s e row f (act f e' u))

/-- The checks of an access pass and place it at `l`; `v` is the state with its walk made (05 R119; 19 R398). -/
def Reaches (s : State) (e : Env) (a : Access) (v : State) (l : Loc) : Prop := v = meetPath s e a ∧ checkAccess v e a = .ok l

/-- A check of an access fails: a trap of that cause. -/
def Fails (s : State) (e : Env) (a : Access) (c : Cause) : Prop := checkAccess (meetPath s e a) e a = .error c ∧ c ≠ .walkUe

/-- A slot instruction of the context waits: a DLT holds the slot, or another steward has waited longer for it (07 R174). -/
def WaitsForSlot (s : State) (e : Env) (k : Nat) : Prop :=
  (slotHeld s e.n k = true ∨ ∃ x, x ∈ slotWaiters s e.n k ∧ ∀ j t, e.h.slotAt = some (j, t) → x < t)
  ∧ ∀ j t, e.h.slotAt = some (j, t) → j = k

/-! ## Numbers in a register (01 R18, R19; 10 R206) -/

/-- `v` is the register image of the number `r` fitted to the type: the nearest number of the type with SAT, else the one
that is congruent to `r` modulo 2^w; an I type fills its register with copies of its sign. -/
def FitsTo (ty : Ty) (sat : Bool) (r : Int) (v : Nat) : Prop :=
  ∃ k : Int, tyMin ty ≤ k ∧ k ≤ tyMax ty
    ∧ (if sat then (r < tyMin ty → k = tyMin ty) ∧ (tyMax ty < r → k = tyMax ty) ∧ (tyMin ty ≤ r → r ≤ tyMax ty → k = r)
       else ((2 ^ tyBits ty : Nat) : Int) ∣ k - r)
    ∧ (v : Int) = k % ((2 ^ max 32 (tyBits ty) : Nat) : Int)

/-- The low bits of a value, one by one. -/
def HasBits (w v : Nat) (b : Nat → Bool) : Prop := ∀ i, i < w → v.testBit i = b i

/-- The combination of ranks `i·2^k` to `(i+1)·2^k − 1`, neighbours first, what is left over carried up (12 R262). -/
def combineTree (op : Nat → Nat → Nat) (vals : List Nat) : Nat → Nat → Option Nat
  | 0, i => vals[i]?
  | k + 1, i =>
    match combineTree op vals k (2 * i), combineTree op vals k (2 * i + 1) with
    | some a, some b => some (op a b)
    | a, _ => a

/-! ## Numbers of a float format (01 R22, R25, R26) -/

/-- The magnitude of a pattern in units of the smallest subnormal; that of the infinity is the next power of two. -/
def unitsOf (f : Fmt) (k : Nat) : Nat := shiftTo (f.finite k).1 (f.finite k).2 f.qmin

/-- `k` is the nearest pattern to a number, ties to the even one: `le n` and `ge n` say that `n` units are at most, at
least, twice the number. -/
def NearestEven (f : Fmt) (k : Nat) (le ge : Nat → Prop) : Prop :=
  k ≤ f.infBits
  ∧ (k ≠ 0 → le (unitsOf f (k - 1) + unitsOf f k)) ∧ (k < f.infBits → ge (unitsOf f k + unitsOf f (k + 1)))
  ∧ (k % 2 = 1 → ¬ ge (unitsOf f (k - 1) + unitsOf f k) ∧ (k < f.infBits → ¬ le (unitsOf f k + unitsOf f (k + 1))))

/-- `q` is the magnitude `m / one` rounded to an integer in the mode. -/
def RoundsToInteger (mode : Nat) (neg : Bool) (m one q : Nat) : Prop :=
  if mode = 0 then 2 * (q * one) ≤ 2 * m + one ∧ 2 * m ≤ 2 * (q * one) + one
    ∧ (2 * m = 2 * (q * one) + one ∨ 2 * (q * one) = 2 * m + one → q % 2 = 0)
  else if mode = (if neg then 3 else 2) then m ≤ q * one ∧ q * one < m + one
  else q * one ≤ m ∧ m < q * one + one

/-- `b` is the number `±m · 2^e`, `m` not 0, rounded once in the mode: to the nearest, towards zero, up, down. -/
def RoundsTo (f : Fmt) (mode : Nat) (neg : Bool) (m : Nat) (e : Int) (b : Nat) : Prop :=
  ∃ k, b = f.withSign neg k ∧
    let q := min e f.qmin
    let x := shiftTo m e q
    let v (n : Nat) : Nat := unitsOf f n * 2 ^ (f.qmin - q).toNat
    if mode = 0 then NearestEven f k (fun n => n * 2 ^ (f.qmin - q).toNat ≤ 2 * x) (fun n => 2 * x ≤ n * 2 ^ (f.qmin - q).toNat)
    else if mode = (if neg then 3 else 2) then k ≠ 0 ∧ k ≤ f.infBits ∧ v (k - 1) < x ∧ (k < f.infBits → x ≤ v k)
    else k < f.infBits ∧ v k ≤ x ∧ (k + 1 < f.infBits → x < v (k + 1))

/-- The formats of R22. -/
def isFormat (f : Fmt) : Prop := f = fF32 ∨ f = fF16 ∨ f = fBF16

/-- The result of an instruction on scalars, or on both elements of packed operands (11 R231). -/
def perElement (ty : Ty) (op : Nat → Nat → Nat → Nat) (a b c : Nat) : Nat :=
  let w := (fmtOf ty).width
  if ty = .f16x2 ∨ ty = .bf16x2 then
    op (a % 2 ^ 16) (b % 2 ^ 16) (c % 2 ^ 16) + 2 ^ 16 * op (a / 2 ^ 16 % 2 ^ 16) (b / 2 ^ 16 % 2 ^ 16) (c / 2 ^ 16 % 2 ^ 16)
  else op (a % 2 ^ w) (b % 2 ^ w) (c % 2 ^ w)

/-! ## What an instruction leaves alone -/

/-- The instructions that write one register destination or one predicate and nothing else: moves, integer arithmetic, logic,
fields, comparisons (10), -/
def integerOnly : List ((Form → Instr) × OpRow) :=
  [(.add, rowAdd), (.sub, rowSub), (.mul, rowMul), (.mad, rowMad), (.min, rowMin), (.max, rowMax), (.abs, rowAbs),
   (.clamp, rowClamp), (.mulh, rowMulh), (.madw, rowMadw), (.div, rowDiv), (.rem, rowRem), (.mov, rowMov),
   (.sel, rowSel), (.and, rowAnd), (.or, rowOr), (.xor, rowXor), (.andn, rowAndn), (.logic3, rowLogic3),
   (.shl, rowShl), (.shr, rowShr), (.sar, rowSar), (.rol, rowRol), (.fshl, rowFshl), (.bfx, rowBfx), (.bfi, rowBfi),
   (.brev, rowBrev), (.popc, rowPopc), (.clz, rowClz), (.ctz, rowCtz), (.perm, rowPerm), (.cmp, rowCmp),
   (.plop, rowPlop), (.pset, rowPset), (.lea, rowLea), (.cvti, rowCvti), (.pack, rowPack), (.unpack, rowUnpack)]

/-- and the packing and floating-point instructions (10, 11). -/
def floatOnly : List ((Form → Instr) × OpRow) :=
  [(.dp4, rowDp4), (.fadd, rowFadd), (.fsub, rowFsub), (.fmul, rowFmul), (.ffma, rowFfma), (.fscale, rowFscale),
   (.fmin, rowFmin), (.fmax, rowFmax), (.fcmp, rowFcmp), (.fclass, rowFclass), (.fadd2, rowFadd2),
   (.fmul2, rowFmul2), (.ffma2, rowFfma2), (.fdot2, rowFdot2), (.fdot4, rowFdot4), (.frnd, rowFrnd),
   (.fkey, rowFkey), (.fquant, rowFquant), (.fdeq, rowFdeq), (.fcvt, rowFcvt), (.f2i, rowF2i), (.i2f, rowI2f),
   (.frcp, rowFrcp), (.frsq, rowFrsq), (.fsqrt, rowFsqrt), (.fexp2, rowFexp2), (.flog2, rowFlog2), (.fsin, rowFsin),
   (.fcos, rowFcos), (.ftanh, rowFtanh), (.fsigm, rowFsigm)]

/-- The branches. -/
def branches : List ((Form → Instr) × OpRow) :=
  [(.bra, rowBra), (.brx, rowBrx), (.call, rowCall), (.ret, rowRet), (.brdec, rowBrdec)]

/-- What stays of a context beside the one that issues. -/
structure SameContext (h h' : Hart) : Prop where
  pc      : h'.pc = h.pc
  regs    : h'.regs = h.regs
  preds   : h'.preds = h.preds
  handler : h'.handler = h.handler
  region  : h'.regionPc = h.regionPc ∧ h'.rngSnap = h.rngSnap ∧ h'.rng = h.rng
  results : h'.results = h.results
  stores  : h'.stores = h.stores
  bars    : h'.bars = h.bars ∧ h'.dqRead = h.dqRead ∧ h'.arrival = h.arrival ∧ h'.taken = h.taken

/-- What stays of the context that issues: every register but `regs`, every predicate but `pred`, and the rest of its state. -/
structure OwnContext (h h' : Hart) (regs : List Nat) (pred : Option Nat) : Prop where
  regs    : ∀ n, n ∉ regs → h'.regs[n]? = h.regs[n]?
  preds   : ∀ k, pred ≠ some k → h'.pred k = h.pred k
  handler : h'.handler = h.handler
  rng     : h'.rng = h.rng
  results : ∃ new, h'.results = h.results ++ new ∧ new.length ≤ 1
  bars    : h'.bars = h.bars ∧ h'.dqRead = h.dqRead ∧ h'.arrival = h.arrival ∧ h'.taken = h.taken

/-- Between two states: every byte of memory, every context block, descriptor and slot, every queue, grid and device register,
the tiles, claims, locks and L1 of every core, every other group, and every other context of the group `r` is of. -/
structure Untouched (s w : State) (r : CtxRef) : Prop where
  memory  : ∀ a, memGet w.mem a = memGet s.mem a
  ctxs    : w.ctxs = s.ctxs
  queues  : w.queues = s.queues
  grids   : w.grids = s.grids
  device  : w.tovor = s.tovor ∧ w.pairs = s.pairs ∧ w.fixed = s.fixed ∧ w.cycles = s.cycles ∧ w.tlb2 = s.tlb2
  cores   : ∀ k, (w.core k).acc = (s.core k).acc ∧ (w.core k).depth = (s.core k).depth ∧ (w.core k).prov = (s.core k).prov
    ∧ (w.core k).claim = (s.core k).claim ∧ (w.core k).locks = (s.core k).locks ∧ (w.core k).l1 = (s.core k).l1
  groups  : ∀ k, k ≠ r.group → w.group? k = s.group? k
  group   : ∀ g, s.group? r.group = some g → ∃ g', w.group? r.group = some g' ∧ g'.state = g.state ∧ g'.dq = g.dq
    ∧ g'.dqBase = g.dqBase ∧ g'.rdvs = g.rdvs
    ∧ ∀ who, who ≠ r.who → ∀ h, g.hart? who = some h → ∃ h', g'.hart? who = some h' ∧ SameContext h h'

/-- The state of an instruction's effect, with the trap of single-stepping where it is on (12 R255) and the second execution
let go. -/
def stepped (s : State) (e : Env) (row : OpRow) (f : Form) (w : State) : State :=
  if needsDup e row f then (stepAfter w e.r (stepping s e)).modHart e.r fun h => { h with dup := none }
  else stepAfter w e.r (stepping s e)

/-- `x` is the state of an effect that touches only the registers and the predicate named, the PC and what the context waits
for, all else as in `b`; `stores` is the context's store queue then. -/
def FramedOn (b s : State) (e : Env) (row : OpRow) (f : Form) (regs : List Nat) (pred : Option Nat) (stores : List Store → List Store)
    (pc : Option Word) (x : State) : Prop :=
  ∃ w h h', x = stepped s e row f w ∧ Untouched b w s.cur ∧ s.hart? s.cur = some h ∧ w.hart? s.cur = some h'
    ∧ OwnContext h h' regs pred ∧ h'.stores = stores h.stores ∧ ∀ p, pc = some p → h'.pc = p

def Framed (s : State) := FramedOn s s

/-- The predicate an operand names. -/
def predOf : Operand → Option Nat
  | .p k => some k.val
  | _ => none

end Sys2Proof
end

