-- ==== Sys2Proof/Certificates/Slice0/Obligations.lean ====
section
/-!
DEFINITION. The statements for the provers. `Executes` says when an instruction passes every check of its issue, `after`
what completes it (Sys2Proof/Safety.lean); each statement says what the instruction itself does.
-/
open Sys2Proof Sys2Proof.Machine

/-! ## Integer, move and predicate instructions (10) -/

/-- 10 R212, R206: the sums, products and choices, fitted to the type of MOD. -/
def Obligations.IntegerArithmetic : Prop :=
  Computes .add rowAdd (fun f e s => FitsTo f.ty (f.op2 == 1) (asInt f.ty (e.A s rowAdd f) + asInt f.ty (e.B s rowAdd f)))
  ∧ Computes .sub rowSub (fun f e s => FitsTo f.ty (f.op2 == 1) (asInt f.ty (e.A s rowSub f) - asInt f.ty (e.B s rowSub f)))
  ∧ Computes .mul rowMul (fun f e s => FitsTo f.ty (f.op2 == 1) (asInt f.ty (e.A s rowMul f) * asInt f.ty (e.B s rowMul f)))
  ∧ Computes .mad rowMad (fun f e s => FitsTo f.ty (f.op2 == 1)
      (asInt f.ty (e.A s rowMad f) * asInt f.ty (e.B s rowMad f) + asInt f.ty (e.C s rowMad f)))
  ∧ Computes .min rowMin (fun f e s v => ∃ m, (m = asInt f.ty (e.A s rowMin f) ∨ m = asInt f.ty (e.B s rowMin f))
      ∧ m ≤ asInt f.ty (e.A s rowMin f) ∧ m ≤ asInt f.ty (e.B s rowMin f) ∧ FitsTo f.ty false m v)
  ∧ Computes .max rowMax (fun f e s v => ∃ m, (m = asInt f.ty (e.A s rowMax f) ∨ m = asInt f.ty (e.B s rowMax f))
      ∧ asInt f.ty (e.A s rowMax f) ≤ m ∧ asInt f.ty (e.B s rowMax f) ≤ m ∧ FitsTo f.ty false m v)
  ∧ Computes .abs rowAbs (fun f e s => FitsTo f.ty (f.op2 == 1) (asInt f.ty (e.A s rowAbs f)).natAbs)
  ∧ Computes .clamp rowClamp (fun f e s => FitsTo f.ty false
      (if asInt f.ty (e.C s rowClamp f) ≤ max (asInt f.ty (e.A s rowClamp f)) (asInt f.ty (e.B s rowClamp f))
       then asInt f.ty (e.C s rowClamp f) else max (asInt f.ty (e.A s rowClamp f)) (asInt f.ty (e.B s rowClamp f))))

/-- 10 R212, R213; 01 R21: the upper half of a product, the wide multiply-add, and the quotient and remainder truncated
towards zero, with those of a division by zero. -/
def Obligations.IntegerWideAndDivision : Prop :=
  Computes .mulh rowMulh (fun f e s v => ∃ h : Int,
      ((2 ^ tyBits f.ty : Nat) : Int) * h ≤ asInt f.ty (e.A s rowMulh f) * asInt f.ty (e.B s rowMulh f)
      ∧ asInt f.ty (e.A s rowMulh f) * asInt f.ty (e.B s rowMulh f) < ((2 ^ tyBits f.ty : Nat) : Int) * (h + 1)
      ∧ FitsTo f.ty false h v)
  ∧ Computes .madw rowMadw (fun f e s => FitsTo (if f.ty = .i32 then .i64 else .n64) (f.op2 == 1)
      (asInt f.ty (e.A s rowMadw f) * asInt f.ty (e.B s rowMadw f)
        + (if f.c = .imm then asInt f.ty f.imm.toNat else asInt (if f.ty = .i32 then .i64 else .n64) (e.C s rowMadw f))))
  ∧ Computes .div rowDiv (fun f e s v =>
      (asInt f.ty (e.B s rowDiv f) = 0 → FitsTo f.ty false (-1) v)
      ∧ (asInt f.ty (e.B s rowDiv f) ≠ 0 → ∃ q r : Int,
          asInt f.ty (e.A s rowDiv f) = q * asInt f.ty (e.B s rowDiv f) + r ∧ r.natAbs < (asInt f.ty (e.B s rowDiv f)).natAbs
          ∧ 0 ≤ r * asInt f.ty (e.A s rowDiv f) ∧ FitsTo f.ty (f.op2 == 1) q v))
  ∧ Computes .rem rowRem (fun f e s v =>
      (asInt f.ty (e.B s rowRem f) = 0 → FitsTo f.ty false (asInt f.ty (e.A s rowRem f)) v)
      ∧ (asInt f.ty (e.B s rowRem f) ≠ 0 → ∃ q r : Int,
          asInt f.ty (e.A s rowRem f) = q * asInt f.ty (e.B s rowRem f) + r ∧ r.natAbs < (asInt f.ty (e.B s rowRem f)).natAbs
          ∧ 0 ≤ r * asInt f.ty (e.A s rowRem f) ∧ FitsTo f.ty false r v))

/-- 10 R209, R214, R215: moves, logic and shifts, bit by bit. -/
def Obligations.LogicAndShifts : Prop :=
  Computes .mov rowMov (fun f e s v => HasBits (tyBits f.ty) v (e.A s rowMov f).testBit)
  ∧ Computes .sel rowSel (fun f e s v => HasBits (tyBits f.ty) v
      (if e.C s rowSel f = 1 then (e.A s rowSel f).testBit else (e.B s rowSel f).testBit))
  ∧ Computes .and rowAnd (fun f e s v => HasBits (tyBits f.ty) v
      (fun i => (e.A s rowAnd f).testBit i && (e.B s rowAnd f).testBit i))
  ∧ Computes .or rowOr (fun f e s v => HasBits (tyBits f.ty) v
      (fun i => (e.A s rowOr f).testBit i || (e.B s rowOr f).testBit i))
  ∧ Computes .xor rowXor (fun f e s v => HasBits (tyBits f.ty) v
      (fun i => (e.A s rowXor f).testBit i != (e.B s rowXor f).testBit i))
  ∧ Computes .andn rowAndn (fun f e s v => HasBits (tyBits f.ty) v
      (fun i => (e.A s rowAndn f).testBit i && !(e.B s rowAndn f).testBit i))
  ∧ Computes .logic3 rowLogic3 (fun f e s v => HasBits (tyBits f.ty) v
      (fun i => f.imm.toNat.testBit (boolNat ((e.A s rowLogic3 f).testBit i) + 2 * boolNat ((e.B s rowLogic3 f).testBit i)
        + 4 * boolNat ((e.C s rowLogic3 f).testBit i))))
  ∧ Computes .shl rowShl (fun f e s v => HasBits (tyBits f.ty) v
      (fun i => decide (e.B s rowShl f ≤ i) && (e.A s rowShl f).testBit (i - e.B s rowShl f)))
  ∧ Computes .shr rowShr (fun f e s v => HasBits (tyBits f.ty) v
      (fun i => decide (i + e.B s rowShr f < tyBits f.ty) && (e.A s rowShr f).testBit (i + e.B s rowShr f)))
  ∧ Computes .sar rowSar (fun f e s v => HasBits (tyBits f.ty) v
      (fun i => (e.A s rowSar f).testBit (min (i + e.B s rowSar f) (tyBits f.ty - 1))))
  ∧ Computes .rol rowRol (fun f e s v => HasBits (tyBits f.ty) (e.A s rowRol f)
      (fun i => v.testBit ((i + e.B s rowRol f) % tyBits f.ty)))
  ∧ Computes .fshl rowFshl (fun f e s v => HasBits (tyBits f.ty) v
      (fun i => if i < e.C s rowFshl f % tyBits f.ty
        then (e.B s rowFshl f).testBit (tyBits f.ty - e.C s rowFshl f % tyBits f.ty + i)
        else (e.A s rowFshl f).testBit (i - e.C s rowFshl f % tyBits f.ty)))

/-- 10 R216 to R218: fields, counts, reversal and the byte permutation. -/
def Obligations.BitFieldsAndCounts : Prop :=
  Computes .bfx rowBfx (fun f e s v => HasBits (tyBits f.ty) v (fun i =>
      let len := min (bitsOf (e.B s rowBfx f) 8 8) (tyBits f.ty)
      let ext (j : Nat) : Bool := if j < tyBits f.ty then (e.A s rowBfx f).testBit j
        else tySigned f.ty && (e.A s rowBfx f).testBit (tyBits f.ty - 1)
      if i < len then ext (bitsOf (e.B s rowBfx f) 0 8 + i)
      else tySigned f.ty && len != 0 && ext (bitsOf (e.B s rowBfx f) 0 8 + (len - 1))))
  ∧ Computes .bfi rowBfi (fun f e s v => HasBits (tyBits f.ty) v (fun i =>
      let pos := bitsOf (e.B s rowBfi f) 0 8
      if pos ≤ i ∧ i < pos + min (bitsOf (e.B s rowBfi f) 8 8) (tyBits f.ty) then (e.A s rowBfi f).testBit (i - pos)
      else (e.C s rowBfi f).testBit i))
  ∧ Computes .brev rowBrev (fun f e s v => HasBits (tyBits f.ty) v (fun i => (e.A s rowBrev f).testBit (tyBits f.ty - 1 - i)))
  ∧ Computes .popc rowPopc (fun f e s v => v = ((List.range (tyBits f.ty)).filter (e.A s rowPopc f).testBit).length)
  ∧ Computes .clz rowClz (fun f e s v => v ≤ tyBits f.ty
      ∧ (∀ i, i < v → (e.A s rowClz f).testBit (tyBits f.ty - 1 - i) = false)
      ∧ (v < tyBits f.ty → (e.A s rowClz f).testBit (tyBits f.ty - 1 - v) = true))
  ∧ Computes .ctz rowCtz (fun f e s v => v ≤ tyBits f.ty
      ∧ (∀ i, i < v → (e.A s rowCtz f).testBit i = false) ∧ (v < tyBits f.ty → (e.A s rowCtz f).testBit v = true))
  ∧ Computes .perm rowPerm (fun f e s v => ∀ i, i < 4 →
      let pool := e.A s rowPerm f + 2 ^ 32 * e.B s rowPerm f
      let chosen := bitsOf pool (8 * bitsOf (e.C s rowPerm f) (3 * i) 3) 8
      bitsOf v (8 * i) 8 = if (e.C s rowPerm f).testBit (12 + i) then (if 128 ≤ chosen then 255 else 0) else chosen)

/-- 10 R219 to R221: comparisons, predicate logic, the predicates as bits, and the address. Where PSET.BULK reads DRAIN its
predicates come as a result, which gives each predicate chosen its bit and leaves the others. -/
def Obligations.PredicatesAndAddress : Prop :=
  ComputesPred .cmp rowCmp (fun f e s =>
      let a := asInt f.ty (e.A s rowCmp f)
      let b := asInt f.ty (e.B s rowCmp f)
      let hit := match f.sub.toNat with
        | 0 => decide (a = b) | 1 => decide (a ≠ b) | 2 => decide (a < b) | 3 => decide (a ≤ b) | 4 => decide (a > b)
        | _ => decide (a ≥ b)
      let p := e.C s rowCmp f == 1
      match f.op2.toNat with
      | 1 => hit && p | 2 => hit || p | 3 => hit ^^ p | _ => hit)
  ∧ ComputesPred .plop rowPlop (fun f e s => f.imm.toNat.testBit
      ((if e.A s rowPlop f = 1 then 1 else 0) + (if e.B s rowPlop f = 1 then 2 else 0) + (if e.C s rowPlop f = 1 then 4 else 0)))
  ∧ ComputesPred .pset rowPset (fun f e s => decide (e.A s rowPset f ≠ 0))
  ∧ (∀ f s e e' u, Executes s rowPsetBulk f e e' u → usesDrain f = false →
      ∃ p : BitVec 7, (∀ k, k < 7 → p.getLsbD k =
          if (e'.B u rowPsetBulk f).testBit k then (e'.A u rowPsetBulk f).testBit k else e'.h.preds.getLsbD k)
        ∧ exec (.psetBulk f) s = .next (after s e rowPsetBulk f (.done (u.modHart e.r fun h => { h with preds := p }))))
  ∧ (∀ f s e e' u h, Executes s rowPsetBulk f e e' u → usesDrain f = true → u.hart? e.r = some h →
      ∃ (w : State) (h' : Hart) (q : Result) (v : BitVec 128),
        exec (.psetBulk f) s = .next (after s e rowPsetBulk f (.done w)) ∧ w.hart? e.r = some h'
        ∧ h'.results = h.results ++ [q] ∧ q.value = some v ∧ q.regs = [] ∧ h'.preds = h.preds
        ∧ (∀ k, k ∈ q.preds ↔ k < 7 ∧ (e'.B u rowPsetBulk f).testBit k = true)
        ∧ ∀ k, k < 7 → (h'.returnResult q v.toNat).preds.getLsbD k =
            if (e'.B u rowPsetBulk f).testBit k then (e'.A u rowPsetBulk f).testBit k else h.preds.getLsbD k)
  ∧ Performs .pget rowPget (fun _ _ _ => True)
      (fun f e s => .done (writeDst s e rowPget f (128 + e.h.preds.toNat)))
  ∧ Computes .lea rowLea (fun f e s v => v < 2 ^ tyBits f.ty ∧ ((2 ^ tyBits f.ty : Nat) : Int)
      ∣ (v : Int) - (e.A s rowLea f + sext (e.B s rowLea f) 32 * (2 ^ f.sub.toNat : Nat) + sext f.imm.toNat 32))

/-- 10 R209 to R211: the registers that a computed number names, in the thread's file and in the steward's; a number beyond the
file traps. -/
def Obligations.RegisterMoves : Prop :=
  Performs .nop rowNop (fun _ _ _ => True) (fun _ _ s => .done s)
  ∧ Performs .xget rowXget (fun _ _ _ => True)
      (fun f e s => .done (writeDst s e rowXget f (regsGet e.h.regs (e.A s rowXget f) (Width.typ.regs f.ty))))
  ∧ Performs .gget rowGget (fun _ _ _ => True)
      (fun f e s => .done (writeDst s e rowGget f (regsGet e.h.regs (e.A s rowGget f) (Width.typ.regs f.ty))))
  ∧ Performs .xput rowXput (fun f _ _ => usesDrain f = false)
      (fun f e s => .done (s.modHart e.r fun h => h.setRegs (e.A s rowXput f) (Width.typ.regs f.ty) (e.B s rowXput f)))
  ∧ Performs .xput rowXput (fun f _ _ => usesDrain f = true)
      (fun f e s => .done (s.modHart e.r fun h => h.addResult ((List.range (Width.typ.regs f.ty)).map (e.A s rowXput f + ·)) []
        (some (BitVec.ofNat 128 (e.B s rowXput f)))))
  ∧ Performs .gput rowGput (fun _ _ _ => True)
      (fun f e s => .done (s.modHart e.r fun h => h.setRegs (e.A s rowGput f) (Width.typ.regs f.ty) (e.B s rowGput f)))
  ∧ (let stops (i : Form → Instr) (row : OpRow) (c : Cause) (beyond : Env → Nat) : Prop :=
      ∀ f s e, envOf s s.cur = some e → e.h.fault = none → decodeTrap s e row f = none → e.h.pendingPred f.guard.val = false →
        e.h.pred f.guard.val ≠ f.gneg → hazardWith e row f {} = none → windowHolds e row f = false → f.a ≠ .drain →
        beyond e ≤ e.A s row f →
        exec (i f) s = .next (raiseTrap s e.r
          { cause := c, pc := e.h.pc, aux := BitVec.ofNat 32 (e.A s row f), insn := encodeForm row.opc f })
    stops .xget rowXget .regalloc Env.xregs ∧ stops .xput rowXput .regalloc Env.xregs
    ∧ stops .gget rowGget .illopnd (fun _ => 128) ∧ stops .gput rowGput .illopnd (fun _ => 128))

/-- 10 R222 to R224: conversion between integer types, packing, unpacking and the dot product. -/
def Obligations.ConversionAndPacking : Prop :=
  Computes .cvti rowCvti (fun f e s v => ∀ u, Ty.ofCode f.imm.toNat = some u →
      FitsTo f.ty (f.op2 == 1) (asInt u (e.A s rowCvti f)) v)
  ∧ Computes .pack rowPack (fun f e s v =>
      let w := tyBits f.ty
      ∀ i, i < 32 / w → ∃ k, FitsTo f.ty (f.op2 == 1)
          (sext (bitsOf (e.A s rowPack f + 2 ^ 32 * e.B s rowPack f) (2 * w * i) (2 * w)) (2 * w)) k
        ∧ bitsOf v (w * i) w = k % 2 ^ w)
  ∧ Computes .unpack rowUnpack (fun f e s v =>
      let w := tyBits f.ty
      ∀ i, i < 32 / w → ((2 ^ (2 * w) : Nat) : Int) ∣ (bitsOf v (2 * w * i) (2 * w) : Int) - asInt f.ty (bitsOf (e.A s rowUnpack f) (w * i) w))
  ∧ Computes .dp4 rowDp4 (fun f e s v =>
      let w := tyBits f.ty
      let mix := f.op2.toNat.testBit 1
      let num (signed : Bool) (x i : Nat) : Int := if signed then sext (bitsOf x (w * i) w) w else (bitsOf x (w * i) w : Int)
      let acc : Ty := if f.ty = .n8 ∧ mix = false then .n32 else .i32
      FitsTo acc (f.op2.toNat.testBit 0) (((List.range (32 / w)).map fun i =>
        num (tySigned f.ty) (e.A s rowDp4 f) i * num (tySigned f.ty != mix) (e.B s rowDp4 f) i).sum + asInt acc (e.C s rowDp4 f)) v)

/-! ## Floating-point instructions (11) -/

/-- 11 R230, R233 to R235: the scalar and the ordering instructions end with what the named operations of 01 give. -/
def Obligations.FloatArithmetic : Prop :=
  let sc (op : Fmt → Nat → NanTag → Nat → Nat → Nat → Nat) (row : OpRow) (f : Form) (e : Env) (s : State) (v : Nat) : Prop :=
    let t := fmtOf f.ty
    v = satFloat t (f.op2.toNat.testBit 0) (op t f.sub.toNat e.tag (e.A s row f % 2 ^ t.width) (e.B s row f % 2 ^ t.width)
      (e.C s row f % 2 ^ t.width))
  Computes .fadd rowFadd (sc (fun t m g a b _ => fadd t m g a b) rowFadd)
  ∧ Computes .fsub rowFsub (sc (fun t m g a b _ => fsub t m g a b) rowFsub)
  ∧ Computes .fmul rowFmul (sc (fun t m g a b _ => fmul t m g a b) rowFmul)
  ∧ Computes .ffma rowFfma (fun f => sc (fun t m g a b c => ffma t m g (f.op2.toNat.testBit 1) a b c) rowFfma f)
  ∧ Computes .fscale rowFscale (sc (fun t m g a b _ => fscale t m g a b) rowFscale)
  ∧ Computes .fmin rowFmin (fun f e s v => v = perElement f.ty (fun a b _ => fminmax (fmtOf f.ty) false (f.op2 == 1) a b)
      (e.A s rowFmin f) (e.B s rowFmin f) 0)
  ∧ Computes .fmax rowFmax (fun f e s v => v = perElement f.ty (fun a b _ => fminmax (fmtOf f.ty) true (f.op2 == 1) a b)
      (e.A s rowFmax f) (e.B s rowFmax f) 0)
  ∧ ComputesPred .fcmp rowFcmp (fun f e s =>
      let t := fmtOf f.ty
      let hit := fcond t f.sub.toNat (e.A s rowFcmp f % 2 ^ t.width) (e.B s rowFcmp f % 2 ^ t.width)
      let p := e.C s rowFcmp f == 1
      match f.op2.toNat with
      | 1 => hit && p | 2 => hit || p | 3 => hit ^^ p | _ => hit)
  ∧ Computes .fclass rowFclass (fun f e s v => v = perElement f.ty (fun a _ _ => fclass (fmtOf f.ty) a) (e.A s rowFclass f) 0 0)

/-- 11 R231, R232; 01 R34: packed operations per element, and the dot products in the order of R34. -/
def Obligations.FloatPairsAndDots : Prop :=
  let el (op : Fmt → Nat → NanTag → Nat → Nat → Nat → Nat) (row : OpRow) (f : Form) (e : Env) (s : State) (v : Nat) : Prop :=
    let t := fmtOf f.ty
    v = perElement f.ty (fun a b c => satFloat t (f.op2.toNat.testBit 0) (op t f.sub.toNat e.tag a b c))
      (e.A s row f) (e.B s row f) (e.C s row f)
  let dot (n : Nat) (row : OpRow) (f : Form) (e : Env) (s : State) (v : Nat) : Prop :=
    let t := fmtOf f.ty
    let a (i : Nat) : Nat := bitsOf (e.A s row f) (16 * i) 16
    let b (i : Nat) : Nat := bitsOf (e.B s row f) (16 * i) 16
    let c := e.C s row f
    let p (i : Nat) : Nat := fmul fF32 0 e.tag (fconvert t fF32 0 (a i)) (fconvert t fF32 0 (b i))
    let plus (x y : Nat) : Nat := fadd fF32 0 e.tag x y
    if ∀ i, i < n → t.isNan (a i) = false ∧ t.isNan (b i) = false then
      (fF32.isNan c = true → v = fF32.quiet c)
      ∧ (fF32.isNan c = false → v = satFloat fF32 (f.op2 == 1)
          (if n = 2 then plus c (plus (p 0) (p 1)) else plus c (plus (plus (p 0) (p 2)) (plus (p 1) (p 3)))))
    else (∀ i, i < n → t.isNan (a i) = true → (∀ j, j < i → t.isNan (a j) = false) → v = nanConvert t fF32 (a i))
      ∧ (∀ i, i < n → t.isNan (b i) = true → (∀ j, j < n → t.isNan (a j) = false) → (∀ j, j < i → t.isNan (b j) = false) →
          v = nanConvert t fF32 (b i))
  Computes .fadd2 rowFadd2 (el (fun t m g a b _ => fadd t m g a b) rowFadd2)
  ∧ Computes .fmul2 rowFmul2 (el (fun t m g a b _ => fmul t m g a b) rowFmul2)
  ∧ Computes .ffma2 rowFfma2 (fun f => el (fun t m g a b c => ffma t m g (f.op2.toNat.testBit 1) a b c) rowFfma2 f)
  ∧ Computes .fdot2 rowFdot2 (dot 2 rowFdot2)
  ∧ Computes .fdot4 rowFdot4 (dot 4 rowFdot4)

/-- 11 R236, R238 to R242: rounding to integral values, keys, quantisation and conversions. -/
def Obligations.FloatConversions : Prop :=
  Computes .frnd rowFrnd (fun f e s v => v = perElement f.ty (fun a _ _ => frnd (fmtOf f.ty) f.sub.toNat a) (e.A s rowFrnd f) 0 0)
  ∧ Computes .fkey rowFkey (fun f e s v => v = perElement f.ty
      (fun a _ _ => if f.op2 = 3 then fkeyDec (fmtOf f.ty) a else fkey (fmtOf f.ty) f.op2.toNat a) (e.A s rowFkey f) 0 0)
  ∧ Computes .fquant rowFquant (fun f e s v =>
      let a := e.A s rowFquant f
      let b := e.B s rowFquant f
      let invalid : Prop := (fF32.isZero a = true ∧ fF32.isInf b = true) ∨ (fF32.isInf a = true ∧ fF32.isZero b = true)
      if fF32.isNan a = true ∨ fF32.isNan b = true then
        v = if f.op2 = 1 then genNan fF32 e.tag 0x3F else image f.ty (tyMin f.ty)
      else if invalid then v = if f.op2 = 1 then genNan fF32 e.tag 0x01 else image f.ty (tyMin f.ty)
      else v = if f.op2 = 1 then intToFloat fF32 0 (quantNum f.ty f.sub.toNat a b)
        else image f.ty (quantNum f.ty f.sub.toNat a b))
  ∧ Computes .fdeq rowFdeq (fun f e s v =>
      let q := asInt f.ty (e.A s rowFdeq f)
      let b := e.B s rowFdeq f
      if fF32.isNan b = true ∨ (fF32.isInf b = true ∧ q = 0) then v = genNan fF32 e.tag 5
      else if fF32.isInf b = true then v = fF32.withSign (fF32.sign b != decide (q < 0)) fF32.infBits
      else if q = 0 ∨ fF32.isZero b = true then v = fF32.withSign (fF32.sign b != decide (q < 0)) 0
      else v = roundMag fF32 f.sub.toNat (fF32.sign b != decide (q < 0)) (q.natAbs * (fF32.finite b).1) (fF32.finite b).2)
  ∧ Computes .fcvt rowFcvt (fun f e s v => ∀ u, Ty.ofCode f.imm.toNat = some u →
      let one (x : Nat) : Nat := satFloat (fmtOf f.ty) (f.op2.toNat.testBit 0)
        (fconvert (fmtOf u) (fmtOf f.ty) f.sub.toNat (x % 2 ^ (fmtOf u).width))
      let a := e.A s rowFcvt f
      v = if isPacked f.ty = true then one a + 2 ^ 16 * one (if isPacked u = true then a / 2 ^ 16 else e.B s rowFcvt f)
        else one (if isPacked u = true ∧ f.op2.toNat.testBit 1 = true then a / 2 ^ 16 else a))
  ∧ Computes .f2i rowF2i (fun f e s v => ∀ u, Ty.ofCode f.imm.toNat = some u →
      v = image f.ty (floatToInt (fmtOf u) f.sub.toNat (tyMin f.ty) (tyMax f.ty) (e.A s rowF2i f % 2 ^ (fmtOf u).width)))
  ∧ Computes .i2f rowI2f (fun f e s v => ∀ u, Ty.ofCode f.imm.toNat = some u →
      v = intToFloat (fmtOf f.ty) f.sub.toNat (asInt u (e.A s rowI2f f)))

/-- 11 R243: the nine special functions take one operand and write a value of its format. -/
def Obligations.SpecialFunctionsComplete : Prop :=
  let fn (op : Fmt → Nat → NanTag → Nat → Nat) (row : OpRow) (f : Form) (e : Env) (s : State) (v : Nat) : Prop :=
    v = perElement f.ty (fun a _ _ => op (fmtOf f.ty) f.ty.code.toNat e.tag a) (e.A s row f) 0 0
  Computes .frcp rowFrcp (fn (fun t _ _ => frcp t) rowFrcp)
  ∧ Computes .frsq rowFrsq (fn (fun t _ g => frsq t g) rowFrsq)
  ∧ Computes .fsqrt rowFsqrt (fn (fun t _ g => fsqrt t g) rowFsqrt)
  ∧ Computes .fexp2 rowFexp2 (fn (fun t k _ => fexp2 t k) rowFexp2)
  ∧ Computes .flog2 rowFlog2 (fn (fun t k g => flog2 t k g) rowFlog2)
  ∧ Computes .fsin rowFsin (fn (fun t k g => ftrig t false k g) rowFsin)
  ∧ Computes .fcos rowFcos (fn (fun t k g => ftrig t true k g) rowFcos)
  ∧ Computes .ftanh rowFtanh (fn (fun t k _ => ftanh t k) rowFtanh)
  ∧ Computes .fsigm rowFsigm (fn (fun t k _ => fsigm t k) rowFsigm)

/-! ## Floating-point operations (01 R22 to R36) -/

/-- 01 R25, R26: rounding an exact nonzero magnitude once gives the number of the format that the mode names. -/
def Obligations.RoundingIsExact : Prop :=
  ∀ f mode neg m e, isFormat f → mode ≤ 3 → m ≠ 0 → RoundsTo f mode neg m e (roundMag f mode neg m e)

/-- 11 R230, R237; 01 R25, R26, R28, R30: sums and products of numbers of a format, the NaN that they generate, `.SAT`, and FSCALE. `S`
is the exact result, in units of the smallest subnormal or of its square; `n` the scale. -/
def Obligations.FloatResults : Prop :=
  ∀ f mode t neg a b c, isFormat f → mode ≤ 3 → a < 2 ^ f.width → b < 2 ^ f.width → c < 2 ^ f.width →
    let finite (x : Nat) : Prop := f.mag x < f.infBits
    let isNum (x : Nat) : Prop := f.mag x ≤ f.infBits
    let n (x : Nat) : Int := f.signedAt x f.qmin
    let pneg := (f.sign a != f.sign b) != neg
    (f.isNan a = true → fadd f mode t a b = f.quiet a ∧ fsub f mode t a b = f.quiet a ∧ fmul f mode t a b = f.quiet a
        ∧ ffma f mode t neg a b c = f.quiet a)
    ∧ (isNum a → f.isNan b = true → fadd f mode t a b = f.quiet b ∧ fsub f mode t a b = f.quiet b
        ∧ fmul f mode t a b = f.quiet b ∧ ffma f mode t neg a b c = f.quiet b)
    ∧ (isNum a → isNum b → f.isNan c = true → ffma f mode t neg a b c = f.quiet c)
    ∧ (isNum a → isNum b → fsub f mode t a b = fadd f mode t a (f.negate b))
    ∧ (f.isInf a = true → f.isInf b = true → f.sign a ≠ f.sign b → fadd f mode t a b = genNan f t 1)
    ∧ (f.isInf a = true → isNum b → (f.isInf b = true → f.sign a = f.sign b) → fadd f mode t a b = a)
    ∧ (f.isInf b = true → finite a → fadd f mode t a b = b)
    ∧ (finite a → finite b →
        (n a + n b ≠ 0 → RoundsTo f mode (decide (n a + n b < 0)) (n a + n b).natAbs f.qmin (fadd f mode t a b))
        ∧ (n a + n b = 0 → fadd f mode t a b = f.withSign (if f.sign a = f.sign b then f.sign a else decide (mode = 3)) 0))
    ∧ ((f.isInf a = true ∧ f.isZero b = true) ∨ (f.isZero a = true ∧ f.isInf b = true) →
        fmul f mode t a b = genNan f t 1 ∧ (isNum c → ffma f mode t neg a b c = genNan f t 1))
    ∧ ((f.isInf a = true ∧ isNum b ∧ f.isZero b = false) ∨ (isNum a ∧ f.isZero a = false ∧ f.isInf b = true) →
        fmul f mode t a b = f.withSign (f.sign a != f.sign b) f.infBits
        ∧ (finite c ∨ (f.isInf c = true ∧ f.sign c = pneg) → ffma f mode t neg a b c = f.withSign pneg f.infBits)
        ∧ (f.isInf c = true → f.sign c ≠ pneg → ffma f mode t neg a b c = genNan f t 1))
    ∧ (finite a → finite b →
        (n a * n b ≠ 0 → RoundsTo f mode (f.sign a != f.sign b) (n a * n b).natAbs (2 * f.qmin) (fmul f mode t a b))
        ∧ (n a * n b = 0 → fmul f mode t a b = f.withSign (f.sign a != f.sign b) 0)
        ∧ (f.isInf c = true → ffma f mode t neg a b c = c)
        ∧ (finite c →
            let S := (if neg then -(n a * n b) else n a * n b) + n c * 2 ^ (-f.qmin).toNat
            (S ≠ 0 → RoundsTo f mode (decide (S < 0)) S.natAbs (2 * f.qmin) (ffma f mode t neg a b c))
            ∧ (S = 0 → ffma f mode t neg a b c = f.withSign (if pneg = f.sign c then pneg else decide (mode = 3)) 0)))
    ∧ (∀ code, code < 64 →
        (f = fF32 → genNan f t code = 0x7FC00000 + code * 2 ^ 16 + t.lane % 32 * 2 ^ 11 + t.pc / 4 % 2 ^ 11)
        ∧ (f = fF16 → genNan f t code = 0x7E00 + code * 8 + t.lane % 8)
        ∧ (f = fBF16 → genNan f t code = 0x7FC0 + code))
    ∧ (f.isInf a = true → satFloat f true a = f.withSign (f.sign a) (f.infBits - 1))
    ∧ (f.isInf a = false → satFloat f true a = a)
    ∧ satFloat f false a = a
    ∧ (let away : Bool := decide (mode = if f.sign a then 3 else 2)
       let n : Int := (if f.sign b then -1 else 1) * ((unitsOf f (f.mag b) / 2 ^ (-f.qmin).toNat : Nat) : Int)
       (f.isNan a = true → fscale f mode t a b = f.quiet a)
       ∧ (isNum a → f.isNan b = true → fscale f mode t a b = f.quiet b)
       ∧ (f.isInf b = true → (if f.sign b then f.isInf a else f.isZero a) = true → fscale f mode t a b = genNan f t 1)
       ∧ (isNum b → f.isZero a = true → (f.isInf b = true → f.sign b = true) → fscale f mode t a b = a)
       ∧ (isNum b → f.isInf a = true → (f.isInf b = true → f.sign b = false) → fscale f mode t a b = a)
       ∧ (finite a → f.isZero a = false →
          (f.isInf b = true → f.sign b = true → fscale f mode t a b = f.withSign (f.sign a) (if away then 1 else 0))
          ∧ (f.isInf b = true → f.sign b = false →
              fscale f mode t a b = f.withSign (f.sign a) (if mode = 0 ∨ away then f.infBits else f.infBits - 1))
          ∧ (finite b → RoundsTo f mode (f.sign a) (unitsOf f (f.mag a)) (f.qmin + n) (fscale f mode t a b))))

/-- 08 R182; 01 R33; 11 R233, R234, R238: conditions, minima and maxima, and the keys that order like the numbers. -/
def Obligations.FloatOrder : Prop :=
  ∀ f a b, isFormat f → a < 2 ^ f.width → b < 2 ^ f.width →
    let isNum (x : Nat) : Prop := f.mag x ≤ f.infBits
    let n (x : Nat) : Int := f.signedAt x f.qmin
    (isNum a → isNum b →
      (fcond f 0 a b = decide (n a = n b)) ∧ (fcond f 1 a b = decide (n a ≠ n b)) ∧ (fcond f 2 a b = decide (n a < n b))
      ∧ (fcond f 3 a b = decide (n a ≤ n b)) ∧ (fcond f 4 a b = decide (n a > n b)) ∧ (fcond f 5 a b = decide (n a ≥ n b))
      ∧ fcond f 6 a b = true ∧ fcond f 7 a b = false
      ∧ (fcond f 8 a b = decide (n a < n b)) ∧ (fcond f 9 a b = decide (n a ≤ n b)) ∧ (fcond f 10 a b = decide (n a > n b))
      ∧ (fcond f 11 a b = decide (n a ≥ n b)) ∧ (fcond f 12 a b = decide (n a = n b)) ∧ (fcond f 13 a b = decide (n a ≠ n b))
      ∧ (n a < n b → fminmax f false false a b = a ∧ fminmax f true false a b = b ∧ fkey f 0 a < fkey f 0 b)
      ∧ (fminmax f false true a b = fminmax f false false a b ∧ fminmax f true true a b = fminmax f true false a b)
      ∧ (fminmax f false false a b = fminmax f false false b a ∧ fminmax f true false a b = fminmax f true false b a)
      ∧ (f.isZero a = true → f.isZero b = true → f.sign a = true → fminmax f false false a b = a))
    ∧ (f.isNan a = true ∨ f.isNan b = true →
      (∀ k, k ∈ [0, 2, 3, 4, 5, 6, 13] → fcond f k a b = false) ∧ (∀ k, k ∈ [1, 7, 8, 9, 10, 11, 12] → fcond f k a b = true))
    ∧ (f.isNan a = true → ∀ mx, fminmax f mx true a b = f.quiet a ∧ (isNum b → fminmax f mx false a b = b ∧ fminmax f mx false b a = b)
        ∧ (isNum b → fminmax f mx true b a = f.quiet a) ∧ (f.isNan b = true → fminmax f mx false a b = f.quiet a))
    ∧ fkeyDec f (fkey f 0 a) = a
    ∧ (fkey f 0 a < fkey f 0 b ↔ orderKey f a < orderKey f b)
    ∧ (f.isNan a = true → fkey f 1 a = 0 ∧ fkey f 2 a = 2 ^ f.width - 1)
    ∧ (isNum a → fkey f 1 a = fkey f 0 a ∧ fkey f 2 a = fkey f 0 a ∧ 0 < fkey f 0 a ∧ fkey f 0 a < 2 ^ f.width - 1)

/-- 01 R31, R32; 11 R235, R236, R239, R241, R242: conversions between formats, with the payload that a NaN carries, and between floats
and integers; rounding to an integral value, the class word, and the number that FQUANT writes. -/
def Obligations.FloatConversionResults : Prop :=
  (∀ f d mode b, isFormat f → isFormat d → mode ≤ 3 → b < 2 ^ f.width →
      (f.isInf b = true → fconvert f d mode b = d.withSign (f.sign b) d.infBits)
      ∧ (f.isZero b = true → fconvert f d mode b = d.withSign (f.sign b) 0)
      ∧ (0 < f.mag b → f.mag b < f.infBits → RoundsTo d mode (f.sign b) (unitsOf f (f.mag b)) f.qmin (fconvert f d mode b))
      ∧ (f.isNan b = true → d.isNan (fconvert f d mode b) = true ∧ d.sign (fconvert f d mode b) = f.sign b)
      ∧ (f.isNan b = true →
          let event := if f = fF32 then b / 2 ^ 16 % 64 else if f = fF16 then b / 8 % 64 else b % 64
          let lane := if f = fF32 then b / 2 ^ 11 % 8 else if f = fF16 then b % 8 else 0
          (f = d → fconvert f d mode b = f.quiet b)
          ∧ (f ≠ d → d = fF32 → fconvert f d mode b = d.withSign (f.sign b) (0x7FC00000 + event * 2 ^ 16 + lane * 2 ^ 11))
          ∧ (f ≠ d → d = fF16 → fconvert f d mode b = d.withSign (f.sign b) (0x7E00 + event * 8 + lane))
          ∧ (f ≠ d → d = fBF16 → fconvert f d mode b = d.withSign (f.sign b) (0x7FC0 + event))))
  ∧ (∀ f mode b, isFormat f → mode ≤ 3 → b < 2 ^ f.width →
      (f.isNan b = true → frnd f mode b = f.quiet b)
      ∧ (f.isInf b = true ∨ f.isZero b = true → frnd f mode b = b)
      ∧ (0 < f.mag b → f.mag b < f.infBits → ∃ k q : Nat, frnd f mode b = f.withSign (f.sign b) k ∧ k < f.infBits
          ∧ unitsOf f k = q * 2 ^ (-f.qmin).toNat
          ∧ RoundsToInteger mode (f.sign b) (unitsOf f (f.mag b)) (2 ^ (-f.qmin).toNat) q))
  ∧ (∀ f b, isFormat f → b < 2 ^ f.width →
      let event := if f = fF32 then b / 2 ^ 16 % 64 else if f = fF16 then b / 8 % 64 else b % 64
      (f.isInf b = true → fclass f b = if f.sign b then 2 ^ 0 else 2 ^ 7)
      ∧ (f.isZero b = true → fclass f b = if f.sign b then 2 ^ 3 else 2 ^ 4)
      ∧ (0 < f.mag b → f.mag b < 2 ^ f.fbits → fclass f b = if f.sign b then 2 ^ 2 else 2 ^ 5)
      ∧ (2 ^ f.fbits ≤ f.mag b → f.mag b < f.infBits → fclass f b = if f.sign b then 2 ^ 1 else 2 ^ 6)
      ∧ (f.isNan b = true → fclass f b = event * 2 ^ 16 + if b / 2 ^ (f.fbits - 1) % 2 = 1 then 2 ^ 9 else 2 ^ 8))
  ∧ (∀ ty mode a b, mode ≤ 3 → a < 2 ^ 32 → b < 2 ^ 32 → tyMin ty ≤ 0 → 0 ≤ tyMax ty →
      let neg := fF32.sign a != fF32.sign b
      (fF32.isInf a = true ∨ fF32.isInf b = true → quantNum ty mode a b = if neg then tyMin ty else tyMax ty)
      ∧ (fF32.mag a < fF32.infBits → fF32.mag b < fF32.infBits → ∃ q : Nat,
          RoundsToInteger mode neg (unitsOf fF32 (fF32.mag a) * unitsOf fF32 (fF32.mag b)) (2 ^ (2 * (-fF32.qmin).toNat)) q
          ∧ let k : Int := if neg then -(q : Int) else q
            quantNum ty mode a b = if k < tyMin ty then tyMin ty else if tyMax ty < k then tyMax ty else k))
  ∧ (∀ f mode lo hi b, isFormat f → mode ≤ 3 → b < 2 ^ f.width → lo ≤ 0 → 0 ≤ hi →
      (f.isNan b = true → floatToInt f mode lo hi b = lo)
      ∧ (f.isInf b = true → floatToInt f mode lo hi b = if f.sign b then lo else hi)
      ∧ (f.mag b < f.infBits → ∃ q : Nat,
          RoundsToInteger mode (f.sign b) (unitsOf f (f.mag b)) (2 ^ (-f.qmin).toNat) q
          ∧ let k : Int := if f.sign b then -(q : Int) else q
            floatToInt f mode lo hi b = if k < lo then lo else if hi < k then hi else k))
  ∧ (∀ f mode v, isFormat f → mode ≤ 3 → (v = 0 → intToFloat f mode v = 0)
      ∧ (v ≠ 0 → RoundsTo f mode (decide (v < 0)) v.natAbs 0 (intToFloat f mode v)))

/-- 01 R36; 11 R243, R244: reciprocals and roots correctly rounded, the special operands, and the bounds and symmetries of the other
functions. -/
def Obligations.SpecialFunctionResults : Prop :=
  ∀ f k t b, isFormat f → b < 2 ^ f.width →
    let m := unitsOf f (f.mag b)
    let q := (-f.qmin).toNat
    (f.isNan b = true → frcp f b = f.quiet b ∧ frsq f t b = f.quiet b ∧ fsqrt f t b = f.quiet b ∧ fexp2 f k b = f.quiet b
      ∧ flog2 f k t b = f.quiet b ∧ ftrig f false k t b = f.quiet b ∧ ftrig f true k t b = f.quiet b ∧ ftanh f k b = f.quiet b
      ∧ fsigm f k b = f.quiet b)
    ∧ (0 < f.mag b → f.mag b < f.infBits →
        (∃ r, frcp f b = f.withSign (f.sign b) r ∧ NearestEven f r (fun n => n * m ≤ 2 ^ (1 + 2 * q)) (fun n => 2 ^ (1 + 2 * q) ≤ n * m))
        ∧ (f.sign b = false →
            NearestEven f (fsqrt f t b) (fun n => n * n ≤ 4 * m * 2 ^ q) (fun n => 4 * m * 2 ^ q ≤ n * n)
            ∧ NearestEven f (frsq f t b) (fun n => n * n * m ≤ 2 ^ (2 + 3 * q)) (fun n => 2 ^ (2 + 3 * q) ≤ n * n * m))
        ∧ (f.sign b = true → fsqrt f t b = genNan f t 2 ∧ frsq f t b = genNan f t 2 ∧ flog2 f k t b = genNan f t 2))
    ∧ (f.isZero b = true → frcp f b = f.withSign (f.sign b) f.infBits ∧ frsq f t b = f.withSign (f.sign b) f.infBits
      ∧ fsqrt f t b = b ∧ fexp2 f k b = f.oneBits ∧ flog2 f k t b = f.withSign true f.infBits ∧ ftrig f false k t b = b
      ∧ ftrig f true k t b = f.oneBits ∧ ftanh f k b = b ∧ fsigm f k b = f.oneBits - 2 ^ f.fbits)
    ∧ (f.isInf b = true → frcp f b = f.withSign (f.sign b) 0
      ∧ (f.sign b = false → frsq f t b = 0 ∧ fsqrt f t b = b ∧ fexp2 f k b = b ∧ flog2 f k t b = b ∧ fsigm f k b = f.oneBits)
      ∧ (f.sign b = true → frsq f t b = genNan f t 2 ∧ fsqrt f t b = genNan f t 2 ∧ flog2 f k t b = genNan f t 2
          ∧ fexp2 f k b = 0 ∧ fsigm f k b = 0)
      ∧ ftrig f false k t b = genNan f t 4 ∧ ftrig f true k t b = genNan f t 4
      ∧ ftanh f k b = f.withSign (f.sign b) f.oneBits)
    ∧ (f.mag b < f.infBits →
        f.mag (ftrig f false k t b) ≤ f.oneBits ∧ f.mag (ftrig f true k t b) ≤ f.oneBits ∧ f.mag (ftanh f k b) ≤ f.oneBits
        ∧ fsigm f k b ≤ f.oneBits ∧ f.sign (fexp2 f k b) = false
        ∧ ftrig f false k t (f.negate b) = f.negate (ftrig f false k t b) ∧ ftrig f true k t (f.negate b) = ftrig f true k t b
        ∧ ftanh f k (f.negate b) = f.negate (ftanh f k b))

/-! ## Control and synchronisation (12) -/

/-- 12 R248: branches, the link register, and the counted branch. -/
def Obligations.Branches : Prop :=
  Performs .bra rowBra (fun _ _ _ => True) (fun f e s => .jump (e.h.pc + f.imm) s)
  ∧ Performs .brx rowBrx (fun _ _ _ => True) (fun f e s => .jump (BitVec.ofNat 32 (e.A s rowBrx f + f.imm.toNat)) s)
  ∧ Performs .call rowCall (fun _ _ _ => True) (fun f e s => .jump (e.h.pc + f.imm) (writeDst s e rowCall f (e.h.pc + 12).toNat))
  ∧ Performs .ret rowRet (fun _ _ _ => True) (fun f e s => .jump (BitVec.ofNat 32 (e.A s rowRet f)) s)
  ∧ Performs .brdec rowBrdec (fun f e s => 1 < e.A s rowBrdec f)
      (fun f e s => .jump (e.h.pc + f.imm) (writeDst s e rowBrdec f (e.A s rowBrdec f - 1)))
  ∧ Performs .brdec rowBrdec (fun f e s => e.A s rowBrdec f ≤ 1)
      (fun f e s => .done (writeDst s e rowBrdec f (e.A s rowBrdec f - 1)))

/-- 12 R249 to R253; 04 R116; 05 R141: EXIT ends its context once its results, its stores, which have committed at every level
(the model's choice, log 17), its answers over a link and a steward's commands are done, and parks it until then; YIELD and a
SLEEP of 0 keep off the port, and in a `.det` kernel they park, as OFLUSH does (03 R92); SLEEP waits; RECONV ends false where a
thread that it names is gone, true where all are there, and waits otherwise; REGION is a boundary once the stores have committed.
-/
def Obligations.ContextControl : Prop :=
  let now (e : Env) (s : State) : Nat := s.clusterCycles e.g.cluster
  let leaving (f : Form) (e : Env) (s : State) : State :=
    let t := s.modHart e.r fun h => { h.issued f (now e s) with status := .parked, parkS := false, exiting := true, insn := wordOf rowExit f }
    if e.det then settleSwitch t e.r.group else t
  let free (e : Env) (s : State) : Prop := e.h.results = [] ∧ e.h.stores = [] ∧ linkBusy s e.r = false ∧ e.g.image = none
    ∧ e.g.rollback = false ∧ (e.steward = true → s.cmdsOf e.r.group e.g = [])
  let parked (row : OpRow) (on : Wait) (f : Form) (e : Env) (s : State) : Act := .raw (settleSwitch (s.modHart e.r fun h =>
    { afterIssue e f (wordOf row f) (now e s) none h with status := .parked, yielded := true, wait := on }) e.r.group)
  let off (e : Env) (s : State) : Act := .done (s.modHart e.r fun h => { h with yieldExcl := some (now e s) })
  let mask (f : Form) (e : Env) (s : State) : BitVec 64 := BitVec.ofNat 64 (e.A s rowReconv f)
  let named (f : Form) (e : Env) (s : State) : Prop := (mask f e s).toNat.testBit (e.tid % 64) = true ∧ e.det = false
  let met (f : Form) (e : Env) (s : State) : Bool := reconvMet s e.g e.h.pc (e.tid / 64) (e.tid % 64) (e.tid % 64) (mask f e s)
  let others (e : Env) (s : State) : State := releaseReconv s e.r.group e.g e.h.pc (e.tid / 64) (e.tid % 64) e.g.harts
  let ends (v : Bool) (f : Form) (e : Env) (s : State) : Act :=
    .done ((writePred (others e s) e rowReconv f f.d v).modHart e.r fun h => { h with reconvAt := some (e.h.pc, now e s) })
  Performs .exit rowExit (fun _ e s => free e s) (fun f e s => .raw (completeExit (leaving f e s) e.r))
  ∧ Performs .exit rowExit (fun _ e s => ¬ free e s) (fun f e s => .raw (leaving f e s))
  ∧ Performs .yield rowYield (fun _ e _ => e.det = false) (fun _ e s => off e s)
  ∧ Performs .yield rowYield (fun _ e _ => e.det = true) (parked rowYield .none)
  ∧ Performs .sleep rowSleep (fun f e s => e.A s rowSleep f ≠ 0) (fun f e s => .block (.sleep (s.refNs + e.A s rowSleep f)) s)
  ∧ Performs .sleep rowSleep (fun f e s => e.A s rowSleep f = 0 ∧ e.det = false) (fun _ e s => off e s)
  ∧ Performs .sleep rowSleep (fun f e s => e.A s rowSleep f = 0 ∧ e.det = true) (parked rowSleep .none)
  ∧ Performs .oflush rowOflush (fun _ e _ => e.det = false) (fun _ _ s => .done s)
  ∧ Performs .oflush rowOflush (fun _ e _ => e.det = true) (parked rowOflush .oflush)
  ∧ Performs .reconv rowReconv (fun f e s => (mask f e s).toNat.testBit (e.tid % 64) = false)
      (fun _ _ _ => .trap { cause := .rdvSelfOmitted, pc := 0 })
  ∧ Performs .reconv rowReconv (fun f e s => e.det = true ∧ (mask f e s).toNat.testBit (e.tid % 64) = true)
      (fun f e s => .done (writePred s e rowReconv f f.d false))
  ∧ Performs .reconv rowReconv (fun f e s => named f e s ∧ namesGone e (mask f e s) = true) (ends false)
  ∧ Performs .reconv rowReconv (fun f e s => named f e s ∧ namesGone e (mask f e s) = false ∧ met f e s = true) (ends true)
  ∧ Performs .reconv rowReconv (fun f e s => named f e s ∧ namesGone e (mask f e s) = false ∧ met f e s = false)
      (fun f e s => .block (.reconv (mask f e s) (now e s + f.imm.toNat) (match f.d with | .p k => k.val | _ => 7)) (others e s))
  ∧ Performs .region rowRegion (fun _ e _ => e.h.stores = []) (fun _ e s => .done (boundaryAfter s e))
  ∧ Performs .region rowRegion (fun _ e _ => e.h.stores ≠ []) (fun _ _ _ => .hold)

/-- 12 R254, R256 to R258; 02 R53, R54: TRAP and BKPT raise their traps with the code of IMM; TRET outside a handler raises
TRET_STATE; in one it parks until its results have returned, and takes its context from the 256 bytes of its frame, or kills the
group with FRAME_FAULT where it cannot read them. What lies of them at a peer it asks for over the link, parked until that has come
(20 R412; that it may do so is log 47). That TRET clears the spin detector is the model's choice (log 79). -/
def Obligations.TrapInstructions : Prop :=
  let parks (f : Form) (e : Env) (s : State) : Act :=
    let t := s.modHart e.r fun h => { h with status := .parked, parkS := true, insn := wordOf rowTret f }
    .raw (if e.det then settleSwitch t e.r.group else t)
  Performs .trap rowTrap (fun _ _ _ => True) (fun f _ _ => .trap { cause := .swtrap, pc := 0, aux := f.imm })
  ∧ Performs .bkpt rowBkpt (fun _ _ _ => True) (fun _ _ _ => .trap { cause := .bkpt, pc := 0 })
  ∧ Performs .tret rowTret (fun _ e _ => e.h.handler = false) (fun _ _ _ => .trap { cause := .tretState, pc := 0 })
  ∧ Performs .tret rowTret (fun _ e _ => e.h.handler = true ∧ e.h.results ≠ []) parks
  ∧ (∀ f s e e' u, Executes s rowTret f e e' u → e'.h.handler = true → e'.h.results = [] →
      let va := privBase e'.gr e'.g.index e'.tid + Hdr.privBytes e'.hdr
      let z := walkFrame u e'.g.coreNo e'.n va 16
      let back (v : State) (bs : List Byte) : State := v.modHart e'.r fun h =>
        restoreFrame e'.xregs (natOfLe bs) { afterIssue e' f (wordOf rowTret f) (z.clusterCycles e'.g.cluster) none h with
          spin := { last := none, count := 0 }, frame := [] }
      let kills (v : State) : Act := .raw (killGroup v e'.r.group .frameFault e'.h.pc.toNat 0 e'.h.quad)
      (frameChunks z e'.g va needRead 16 = none → exec (.tret f) s = .next (after s e rowTret f (kills (meetFrame z e'.n va 16))))
      ∧ (∀ ls, frameChunks z e'.g va needRead 16 = some ls → e'.h.frame = [] → framePeers ls ≠ [] →
          exec (.tret f) s = .next (after s e rowTret f
            (if (framePeers ls).any fun l => e'.h.storesMeet l 16 then .hold else parks f e' (askFrame z e' ls))))
      ∧ ∀ ls v, frameChunks z e'.g va needRead 16 = some ls → e'.h.frame ≠ [] ∨ framePeers ls = [] →
        (readFrame z e' ls = (v, none) → exec (.tret f) s = .next (after s e rowTret f (kills v)))
        ∧ (∀ bs, readFrame z e' ls = (v, some bs) → e'.gr.level < 2 → exec (.tret f) s = .next (after s e rowTret f (.raw (back v bs))))
        ∧ (∀ bs h, readFrame z e' ls = (v, some bs) → 2 ≤ e'.gr.level → (back v bs).hart? e'.r = some h →
          exec (.tret f) s = .next (after s e rowTret f (.raw (recordOf (back v bs) e'.r 3 [h.pc.toNat])))))

/-- 12 R259 to R262; 04 R111 to R114: the arrival of a member: the first opens the instance and waits, a later one with the
same key joins it; a mask without the member itself, or with a thread that has exited, traps; where the key is another's, every open
instance that the mask meets is dissolved, its members and the arriving one trapping. An instance at which every member has arrived
is open no more. A dissolved instance ends a group without a vector. -/
def Obligations.RendezvousArrivals : Prop :=
  let arrives (i : Form → Instr) (row : OpRow) : Prop :=
    let named (f : Form) (e : Env) (s : State) : Prop := (BitVec.ofNat 64 (e.A s row f)).toNat.testBit (e.tid % 64) = true
        ∧ namesGone e (BitVec.ofNat 64 (e.A s row f)) = false
    let me (f : Form) (e : Env) (s : State) : Arrival :=
      { tid := e.tid, b := e.B s row f, c := e.C s row f, p := e.B s row f == 1, form := f }
    let mine (f : Form) (e : Env) (s : State) : Rdv := openRdv e row f (BitVec.ofNat 64 (e.A s row f))
    let met (f : Form) (e : Env) (s : State) : List Rdv := e.g.rdvs.filter fun j => (mine f e s).overlaps j && !j.complete
    Performs i row (fun f e s => named f e s ∧ met f e s = [])
        (fun f e s => .block .rdv (s.modGroup e.r.group fun g => { g with rdvs := g.rdvs ++ [{ mine f e s with arrivals := [me f e s] }] }))
    ∧ Performs i row (fun f e s => named f e s ∧ met f e s ≠ [] ∧ ∀ j, j ∈ met f e s → (mine f e s).sameKey j = true)
        (fun f e s => .block .rdv (s.modGroup e.r.group fun g =>
          { g with rdvs := g.rdvs.map fun j => if (met f e s).contains j then { j with arrivals := j.arrivals ++ [me f e s] } else j }))
    ∧ Performs i row (fun f e s => named f e s ∧ ∃ j, j ∈ met f e s ∧ (mine f e s).sameKey j = false)
        (fun f e s => .raw (raiseTrap (dissolveAll s e.r.group .rdvMaskMismatch (met f e s)) e.r
          { cause := .rdvMaskMismatch, pc := e.h.pc, insn := wordOf row f }))
    ∧ Performs i row (fun f e s => (BitVec.ofNat 64 (e.A s row f)).toNat.testBit (e.tid % 64) = true
          ∧ namesGone e (BitVec.ofNat 64 (e.A s row f)) = true)
        (fun _ _ _ => .trap { cause := .rdvExited, pc := 0 })
    ∧ Performs i row (fun f e s => (BitVec.ofNat 64 (e.A s row f)).toNat.testBit (e.tid % 64) = false)
        (fun _ _ _ => .trap { cause := .rdvSelfOmitted, pc := 0 })
  arrives .rdv rowRdv ∧ arrives .rshfl rowRshfl ∧ arrives .rvote rowRvote ∧ arrives .rvoteBallot rowRvoteBallot
  ∧ arrives .rred rowRred ∧ arrives .rscan rowRscan ∧ arrives .rrank rowRrank
  ∧ (∀ (s : State) key c (i : Rdv) g gr, s.group? key = some g → s.grid? g.grid = some gr → key ∈ s.peers key →
      Hdr.trapEn gr.header = false → g.rollback = false → g.state ≠ .killed → g.state ≠ .retired →
      (∃ a, a ∈ i.arrivals ∧ (g.threads[a.tid]?).isSome) →
      ∃ g', (dissolve s key c i).group? key = some g' ∧ g'.state = .killed)
  ∧ (∀ (s : State) key c (i : Rdv) is, dissolveAll s key c [] = s ∧ dissolveAll s key c (i :: is) = dissolveAll (dissolve s key c i) key c is)

/-- 12 R260 to R262: what a member of a complete instance gets: the value that it asked for, the votes, the rank, and for RRED and
RSCAN the combination of the members' values: sums, minima, maxima and logic in the integer types, F32 in the order of R262: RRED in
the tree over member rank, RSCAN left to right. With .EXCL it is that of the members before, for the first one the identity. -/
def Obligations.RendezvousResults : Prop :=
  ∀ (i : Rdv) (g : NanTag) (a : Arrival), i.complete = true → a ∈ i.arrivals → a.tid / 64 = i.set →
      i.mask.toNat.testBit (a.tid % 64) = true → (∀ x, x ∈ i.arrivals → ∀ y, y ∈ i.arrivals → x.tid = y.tid → x = y) →
      (∀ x, x ∈ i.arrivals → x.tid / 64 = i.set ∧ i.mask.toNat.testBit (x.tid % 64) = true) →
      let named (k : Nat) : Bool := i.mask.toNat.testBit k
      let below := ((List.range (a.tid % 64)).filter named).length
      let vals : List Nat := i.members.map fun m => m.b
      let combines (op : Nat) (l : List Nat) (v : Nat) : Prop :=
        (op = 0 → v = l.sum % 2 ^ tyBits i.ty)
        ∧ (op = 1 → v ∈ l ∧ ∀ x, x ∈ l → asInt i.ty v ≤ asInt i.ty x) ∧ (op = 2 → v ∈ l ∧ ∀ x, x ∈ l → asInt i.ty x ≤ asInt i.ty v)
        ∧ (op = 3 → ∀ k, v.testBit k = l.all fun x => x.testBit k) ∧ (op = 4 → ∀ k, v.testBit k = l.any fun x => x.testBit k)
        ∧ (op = 5 → ∀ k, v.testBit k = ((l.filter fun x => x.testBit k).length % 2 == 1))
      let step (op x y : Nat) : Nat := match op with
        | 0 => fadd fF32 0 g x y
        | 1 => fminmax fF32 false false x y
        | _ => fminmax fF32 true false x y
      let ints : Prop := i.ty ∈ [Ty.i32, .n32, .i64, .n64] ∧ ∀ m, m ∈ i.arrivals → m.b < 2 ^ tyBits i.ty
      (∀ m, m ∈ i.members ↔ m ∈ i.arrivals) ∧ (i.members.map fun m => m.tid).Pairwise (· < ·) ∧ vals[below]? = some a.b
      ∧ (i.opc = 0x211 →
          let p : Int := match i.op2 with
            | 0 => ((a.c % 2 ^ 32 : Nat) : Int)
            | 1 => ((a.tid % 64 : Nat) : Int) - (a.c % 2 ^ 32 : Nat)
            | 2 => ((a.tid % 64 + a.c % 2 ^ 32 : Nat) : Int)
            | _ => ((a.tid % 64 ^^^ a.c % 2 ^ 32 : Nat) : Int)
          (p < 0 ∨ 63 < p → rdvValue i g a = a.b)
          ∧ ∀ k : Nat, k < 64 → p = k → (∀ m, m ∈ i.arrivals → m.tid = 64 * i.set + k → rdvValue i g a = m.b)
              ∧ (named k = false → rdvValue i g a = a.b))
      ∧ (i.opc = 0x212 → i.op2 = 0 → rdvValue i g a = boolNat (i.arrivals.any fun m => m.p))
      ∧ (i.opc = 0x212 → i.op2 = 1 → rdvValue i g a = boolNat (i.arrivals.all fun m => m.p))
      ∧ (i.opc = 0x212 → i.op2 = 2 → ∀ k, k < 64 →
          (rdvValue i g a).testBit k = (named k && i.arrivals.any fun m => m.p && m.tid == 64 * i.set + k))
      ∧ (i.opc = 0x215 → rdvValue i g a = below)
      ∧ (i.opc = 0x213 → i.op2 ≤ 5 → ints → combines i.op2 vals (rdvValue i g a))
      ∧ (i.opc = 0x213 → i.op2 ≤ 2 → i.ty = .f32 → combineTree (step i.op2) vals 6 0 = some (rdvValue i g a))
      ∧ (i.opc = 0x214 → i.op2 ≤ 5 → ints → combines i.op2 (vals.take (below + 1)) (rdvValue i g a))
      ∧ (i.opc = 0x214 → i.op2 ≤ 2 → i.ty = .f32 → ∀ v l, vals = v :: l → rdvValue i g a = (l.take below).foldl (step i.op2) v)
      ∧ (i.opc = 0x214 → 8 ≤ i.op2 → i.op2 ≤ 13 → 0 < below →
          (ints → combines (i.op2 - 8) (vals.take below) (rdvValue i g a))
          ∧ (i.op2 ≤ 10 → i.ty = .f32 → ∀ v l, vals = v :: l → rdvValue i g a = (l.take (below - 1)).foldl (step (i.op2 - 8)) v))
      ∧ (i.opc = 0x214 → 8 ≤ i.op2 → below = 0 →
          let r := rdvValue i g a
          (i.ty = .f32 → (i.op2 = 8 → r = 0x80000000) ∧ (i.op2 = 9 → r = 0x7F800000) ∧ (i.op2 = 10 → r = 0xFF800000))
          ∧ (ints → (i.op2 = 8 → r = 0) ∧ (i.op2 = 9 → asInt i.ty r = tyMax i.ty) ∧ (i.op2 = 10 → asInt i.ty r = tyMin i.ty)
            ∧ (i.op2 = 11 → r = 2 ^ tyBits i.ty - 1) ∧ (i.op2 = 12 ∨ i.op2 = 13 → r = 0)))

/-- 12 R263; 04 R102 to R108: an arrival waits to be performed, a BAR restarted behind its arrival performs its wait half, a wait
ends as an acquire where the phase has completed and goes on waiting where it has not, once the stores have committed, and
BTEST reads which; the checks of R107. -/
def Obligations.BarrierInstructions : Prop :=
  let numbered (cluster : Bool) (f : Form) (e : Env) : Prop := if cluster then f.imm.toNat ≤ 7 ∧ Hdr.cgroup e.hdr ≠ 1 else f.imm.toNat ≤ 15
  let fits (cluster : Bool) (f : Form) (e : Env) : Prop := numbered cluster f e ∧ (e.steward = true → Hdr.stewardMember e.hdr = true)
  let refused (c : Form → Bool) (row : OpRow) (i : Form → Instr) : Prop :=
    Performs i row (fun f e _ => ¬ numbered (c f) f e) (fun _ _ _ => .trap { cause := .barId, pc := 0 })
    ∧ Performs i row (fun f e _ => numbered (c f) f e ∧ e.steward = true ∧ Hdr.stewardMember e.hdr = false)
        (fun _ _ _ => .trap { cause := .barMembership, pc := 0 })
  let place (cluster : Bool) (f : Form) : Nat := if cluster then f.imm.toNat + 16 else f.imm.toNat
  let family (c : Bool) (rowB rowA rowW : OpRow) (bar arrive wait : Form → Instr) : Prop :=
    Performs bar rowB (fun f e _ => fits c f e ∧ e.h.barAt (place c f) = .idle ∧ (e.h.taken ≠ some (place c f) ∨ e.h.regionPc ≠ e.h.pc))
        (fun f e s => .block (.bar (place c f)) (s.modHart e.r fun h => { h with arrival := some (place c f, true, e.h.pc) }))
    ∧ Performs bar rowB (fun f e _ => fits c f e ∧ e.h.taken = some (place c f) ∧ e.h.regionPc = e.h.pc)
        (fun f e s => waitHalf s e (place c f))
    ∧ Performs arrive rowA (fun f e _ => fits c f e ∧ e.h.barAt (place c f) = .idle)
        (fun f e s => .done (s.modHart e.r fun h => { h with arrival := some (place c f, false, e.h.pc + 12) }))
    ∧ Performs wait rowW (fun f e _ => fits c f e ∧ e.h.barAt (place c f) = .done ∧ e.h.stores = [])
        (fun f e s => .done (boundaryAfter (s.modHart e.r fun h =>
          { h.setBar (place c f) .idle with taken := none, acqId := h.nextId }) e))
    ∧ Performs wait rowW (fun f e _ => fits c f e ∧ e.h.barAt (place c f) = .arrived ∧ e.h.stores = [])
        (fun f _ s => .block (.bar (place c f)) s)
    ∧ Performs wait rowW (fun f e _ => fits c f e ∧ e.h.barAt (place c f) ≠ .idle ∧ e.h.stores ≠ []) (fun _ _ _ => .hold)
    ∧ Performs wait rowW (fun f e _ => fits c f e ∧ e.h.barAt (place c f) = .idle) (fun _ _ _ => .trap { cause := .barSequence, pc := 0 })
    ∧ Performs arrive rowA (fun f e _ => fits c f e ∧ e.h.barAt (place c f) ≠ .idle)
        (fun _ _ _ => .trap { cause := .barSequence, pc := 0 })
    ∧ Performs bar rowB (fun f e _ => fits c f e ∧ e.h.barAt (place c f) ≠ .idle ∧ (e.h.taken ≠ some (place c f) ∨ e.h.regionPc ≠ e.h.pc))
        (fun _ _ _ => .trap { cause := .barSequence, pc := 0 })
    ∧ refused (fun _ => c) rowB bar ∧ refused (fun _ => c) rowA arrive ∧ refused (fun _ => c) rowW wait
  family false rowBar rowBarrive rowBwait .bar .barrive .bwait
  ∧ family true rowCbar rowCbarrive rowCbwait .cbar .cbarrive .cbwait
  ∧ Performs .btest rowBtest (fun f e _ => fits (f.op2 == 1) f e ∧ e.h.barAt (place (f.op2 == 1) f) = .arrived)
      (fun f e s => .done (writePred s e rowBtest f f.d false))
  ∧ Performs .btest rowBtest (fun f e _ => fits (f.op2 == 1) f e ∧ e.h.barAt (place (f.op2 == 1) f) = .done)
      (fun f e s => .done ((writePred s e rowBtest f f.d true).modHart e.r Hart.acquire))
  ∧ Performs .btest rowBtest (fun f e _ => fits (f.op2 == 1) f e ∧ e.h.barAt (place (f.op2 == 1) f) = .idle)
      (fun _ _ _ => .trap { cause := .barSequence, pc := 0 })
  ∧ refused (fun f => f.op2 == 1) rowBtest .btest

/-- 12 R247, R264 to R266; 13 R276, R287: FENCE.REL and .AR wait for the stores and the answers of links, .ACQ and .AR order what
follows; WAITA goes on when the value reaches the comparand and waits otherwise; TRIG releases at .DEV and counts. That a release in a
`.det` kernel does not wait for the buffered ordered accesses is the model's choice (log 95). -/
def Obligations.FenceAndEvents : Prop :=
  let acc (f : Form) (e : Env) (s : State) : Access :=
    { space := f.op2.toNat, addr := memAddr s e rowWaita f (Ty.size f.ty) (sext f.imm.toNat 32), size := Ty.size f.ty, write := false
      atomic := true, far := farBase s e rowWaita f, need := { perm := 1, host := false, peer := false } }
  let home (f : Form) (e : Env) (s : State) : State := if wideScope f.sub.toNat then flushL1 s e.g.coreNo else s
  Performs .fence rowFence (fun f _ _ => f.sub = 0) (fun _ _ s => .done s)
  ∧ Performs .fence rowFence (fun f _ _ => f.sub ≠ 0 ∧ f.op2 = 1) (fun _ e s => .done (s.modHart e.r Hart.acquire))
  ∧ Performs .fence rowFence (fun f e s => f.sub ≠ 0 ∧ f.op2 = 2 ∧ e.h.stores = [] ∧ linkBusy s e.r = false)
      (fun f e s => .done (home f e s))
  ∧ Performs .fence rowFence (fun f e s => f.sub ≠ 0 ∧ f.op2 = 3 ∧ e.h.stores = [] ∧ linkBusy s e.r = false)
      (fun f e s => .done ((home f e s).modHart e.r Hart.acquire))
  ∧ Performs .fence rowFence (fun f e s => f.sub ≠ 0 ∧ (f.op2 = 2 ∨ f.op2 = 3) ∧ (e.h.stores ≠ [] ∨ linkBusy s e.r = true))
      (fun _ _ _ => .hold)
  ∧ Performs .trig rowTrig (fun _ e s => e.h.stores = [] ∧ linkBusy s e.r = false)
      (fun _ e s => .done (countTrigger (flushL1 s e.g.coreNo) e.r.group))
  ∧ Performs .trig rowTrig (fun _ e s => e.h.stores ≠ [] ∨ linkBusy s e.r = true) (fun _ _ _ => .hold)
  ∧ (∀ f s e e' u z p host v w, Executes s rowWaita f e e' u → Reaches u e' (acc f e' u) z (.flat p host) →
      acquireHeld z e'.r e'.h = false → readFlat z e' f.sub.toNat p (Ty.size f.ty) = (v, w, none) →
      let cmp := e'.C z rowWaita f % 2 ^ (8 * Ty.size f.ty)
      (cmp ≤ v → exec (.waita f) s = .next (after s e rowWaita f (.done ((writeDst w e' rowWaita f v).modHart e'.r Hart.acquire))))
      ∧ (v < cmp → exec (.waita f) s = .next (after s e rowWaita f
          (.block (.waita p f.sub.toNat (Ty.size f.ty) cmp (writeRegs e'.steward f.fields rowWaita.d f.d)) w))))
  ∧ (∀ f s e e' u c, Executes s rowWaita f e e' u → Fails u e' (acc f e' u) c →
      exec (.waita f) s = .next (after s e rowWaita f (.trap ((acc f e' u).trap e' c))))

/-! ## Memory (13, 05) -/

/-- 05 R119: the checks of an access in their order, and where an access that passes lies in its space. -/
def Obligations.AccessChecks : Prop :=
  ∀ (s : State) (e : Env) (a : Access),
    let inside := !a.far && inBounds s e a.space a.addr
    (a.atomic = true → a.space = 0 → checkAccess s e a = .error .atomicSpace)
    ∧ ((a.atomic = false ∨ a.space ≠ 0) →
      (inside = false → checkAccess s e a = .error .spaceBounds)
      ∧ (inside = true → a.addr.toNat % a.size ≠ 0 → checkAccess s e a = .error .misalign)
      ∧ (inside = true → a.addr.toNat % a.size = 0 →
          (∀ c, place s e a.space a.addr.toNat a.need = .error c → checkAccess s e a = .error c)
          ∧ (∀ l, place s e a.space a.addr.toNat a.need = .ok l →
              checkAccess s e a = if locked s e a.space a.addr.toNat a.size a.write l then .error .rangeLock else .ok l)))
    ∧ (a.addr < 0 → inside = false)
    ∧ (a.space = 0 → inside = true → e.steward = false ∧ a.addr < (Hdr.privBytes e.hdr + 256 : Nat))
    ∧ (a.space = 1 → inside = true → a.addr < (Hdr.cbytes e.hdr : Nat)
        ∧ place s e 1 a.addr.toNat a.need = .ok (.flat (coreBase + e.g.coreNo * corePadBytes + e.g.cbase + a.addr.toNat) false))

/-- 13 R278 to R284; 05 R125: a load reads the bytes at its address and extends them by its type; a store enters the store queue of
its context, one with .ORD the buffer of a `.det` kernel; an address of a peer is asked or sent over its link; an OUTSIDE element
of a tensor reads as the pad and is not stored; a failed check is its trap, PF's those of the bounds and of alignment. Behind an acquire
an access waits for the reads that the context has sent. That the trap of an ordered store in space p comes before the other checks (log
39), that a pad is extended with zeros for a 64-bit element (log 83), that an STT whose element is not found traps with WRITE 0, space 0
and address 0, where R275 gives WRITE 1 for STT (log 90), and which bytes the L1 holds (log 13) are the model's choices. -/
def Obligations.LoadsAndStores : Prop :=
  let n (f : Form) : Nat := Ty.size f.ty
  let ldAcc (f : Form) (row : OpRow) (k : Nat) (e : Env) (s : State) : Access :=
    { space := f.op2.toNat, addr := memAddr s e row f k (sext f.imm.toNat 32), size := k, write := false
      far := farBase s e row f, need := needRead }
  let stAcc (f : Form) (e : Env) (s : State) : Access :=
    { space := f.op2.toNat, addr := memAddr s e rowSt f (n f) (sext f.imm.toNat 32), size := n f, write := true
      far := farBase s e rowSt f, need := needWrite }
  let pfAcc (f : Form) (e : Env) (s : State) : Access :=
    { space := f.op2.toNat, addr := memAddr s e rowPf f (n f) (sext f.imm.toNat 32), size := n f, write := false, need := needRead }
  let clear (s : State) (e : Env) : Prop := acquireHeld s e.r e.h = false
  let ext (f : Form) (v : Nat) : Nat := match f.ty with
    | .i8 => wrap (sext v 8) 32
    | .i16 => wrap (sext v 16) 32
    | _ => v
  let tenAcc (f : Form) (store : BitVec 1024) (a : Int) (write : Bool) : Access :=
    { space := Desc.space store, addr := a, size := n f, write := write, need := if write then needWrite else needRead }
  let held (i : Form → Instr) (row : OpRow) (f : Form) (s : State) (e e' : Env) (u : State) (acc : Access) : Prop :=
    ∀ z l, Reaches u e' acc z l → ¬ clear z e' → exec (i f) s = .next (after s e row f .hold)
  let asks (i : Form → Instr) (row : OpRow) (f : Form) (s : State) (e e' : Env) (u : State) (acc : Access) (x : LoadExt) : Prop :=
    ∀ z l chip p, Reaches u e' acc z (.peer l chip p) → clear z e' →
      exec (i f) s = .next (after s e row f (if e'.h.storesMeet (.peer l chip p) acc.size then .hold else
        .done (sendLink (markPending z e' row f)
          { link := l, ctx := e'.n, who := some e'.r, ext := x, chip := chip, addr := p, kind := .read acc.size
            dst := some e'.h.nextId, sent := z.refNs, lay := e'.ordMeeting (.peer l chip p) acc.size })))
  let ordered (i : Form → Instr) (row : OpRow) (f : Form) (s : State) (e e' : Env) (u : State) (acc : Access) (v : Nat) (mask : Byte) : Prop :=
    f.d = .x 1 → e'.det = true → acc.space ≠ 0 → ∀ z l, Reaches u e' acc z l → clear z e' →
      exec (i f) s = .next (after s e row f
        (if (e'.gr.level ≠ 0 ∧ e'.h.stores ≠ []) ∨ e'.h.storesMeet l acc.size = true then .hold
         else bufferOrd z e' { e'.ordEntry acc l (.inr v) with mask := mask }))
  (∀ f s e e' u z p host v w, Executes s rowLd f e e' u → Reaches u e' (ldAcc f rowLd (n f) e' u) z (.flat p host) →
      clear z e' → readFlat z e' f.sub.toNat p (n f) = (v, w, none) →
      exec (.ld f) s = .next (after s e rowLd f (.done (writeDst w e' rowLd f (ext f v)))))
  ∧ (∀ f s e e' u z p host v w, Executes s rowLdp f e e' u → Reaches u e' (ldAcc f rowLdp 16 e' u) z (.flat p host) →
      clear z e' → readFlat z e' f.sub.toNat p 16 = (v, w, none) →
      exec (.ldp f) s = .next (after s e rowLdp f (.done (writeDst w e' rowLdp f v))))
  ∧ (∀ f s e e' u c, Executes s rowLd f e e' u → Fails u e' (ldAcc f rowLd (n f) e' u) c →
      exec (.ld f) s = .next (after s e rowLd f (.trap ((ldAcc f rowLd (n f) e' u).trap e' c))))
  ∧ (∀ f s e e' u c, Executes s rowLdp f e e' u → Fails u e' (ldAcc f rowLdp 16 e' u) c →
      exec (.ldp f) s = .next (after s e rowLdp f (.trap ((ldAcc f rowLdp 16 e' u).trap e' c))))
  ∧ (∀ f s e e' u, Executes s rowLd f e e' u → held .ld rowLd f s e e' u (ldAcc f rowLd (n f) e' u)
      ∧ asks .ld rowLd f s e e' u (ldAcc f rowLd (n f) e' u) (loadExt f.ty))
  ∧ (∀ f s e e' u, Executes s rowLdp f e e' u → held .ldp rowLdp f s e e' u (ldAcc f rowLdp 16 e' u)
      ∧ asks .ldp rowLdp f s e e' u (ldAcc f rowLdp 16 e' u) .plain)
  ∧ (∀ f s e e' u, Executes s rowSt f e e' u → ordered .st rowSt f s e e' u (stAcc f e' u) (e'.C u rowSt f) 0xFF
      ∧ ((f.d ≠ .x 1 ∨ e'.det = false ∨ f.op2 ≠ 0) → held .st rowSt f s e e' u (stAcc f e' u)))
  ∧ (∀ f s e e' u store a odd, Executes s rowLdt f e e' u → findElement u e' f (e'.B u rowLdt f) = .at store a odd →
      held .ldt rowLdt f s e e' u (tenAcc f store a false)
      ∧ asks .ldt rowLdt f s e e' u (tenAcc f store a false) (if Desc.fmt store = 14 then .nibble odd else loadExt f.ty))
  ∧ (∀ f s e e' u store a odd, Executes s rowStt f e e' u → findElement u e' f (e'.B u rowStt f) = .at store a odd →
      let acc := tenAcc f store a true
      let v := e'.C u rowStt f
      let whole : Prop := Desc.fmt store ≠ 14
      (f.d = .x 1 → e'.det = true → e'.steward = false → acc.space = 0 → exec (.stt f) s = .next (after s e rowStt f (.trap (acc.trap e' .ordSpace))))
      ∧ (whole → ordered .stt rowStt f s e e' u acc v 0xFF)
      ∧ (¬ whole → ordered .stt rowStt f s e e' u acc (v % 16 * if odd then 16 else 1) (if odd then 0xF0 else 0x0F))
      ∧ ((f.d ≠ .x 1 ∨ e'.det = false ∨ acc.space ≠ 0) → held .stt rowStt f s e e' u acc)
      ∧ ∀ z l chip p, Reaches u e' acc z (.peer l chip p) → clear z e' → (f.d ≠ .x 1 ∨ e'.det = false) →
        exec (.stt f) s = .next (after s e rowStt f (.done (pushStore z e'.r e'.gr.level acc.space (.remote l chip p
          (if whole then .write (bytesOfNat (n f) v)
           else .nibble (BitVec.ofNat 8 (v % 16 * if odd then 16 else 1)) (if odd then 0xF0 else 0x0F)))))))
  ∧ (∀ f s e e' u z p host, Executes s rowSt f e e' u → Reaches u e' (stAcc f e' u) z (.flat p host) →
      clear z e' → (f.d ≠ .x 1 ∨ e'.det = false) →
      exec (.st f) s = .next (after s e rowSt f (.done (pushStore z e'.r e'.gr.level f.op2.toNat
        (.bytes (wholeBytes p (bytesOfNat (n f) (e'.C u rowSt f))) (storesHome f.op2.toNat f.sub.toNat host))))))
  ∧ (∀ f s e e' u z l chip p, Executes s rowSt f e e' u → Reaches u e' (stAcc f e' u) z (.peer l chip p) →
      clear z e' → (f.d ≠ .x 1 ∨ e'.det = false) →
      exec (.st f) s = .next (after s e rowSt f (.done (pushStore z e'.r e'.gr.level f.op2.toNat
        (.remote l chip p (.write (bytesOfNat (n f) (e'.C u rowSt f))))))))
  ∧ (∀ f s e e' u z p host, Executes s rowSt f e e' u → Reaches u e' (stAcc f e' u) z (.flat p host) →
      clear z e' → e'.h.storesMeet (.flat p host) (n f) = false →
      f.d = .x 1 → e'.det = true → f.op2 ≠ 0 → e'.gr.level = 0 → e'.g.batchWords < 256 →
      exec (.st f) s = .next (after s e rowSt f (.done (z.modHart e'.r fun h => { h with ord := h.ord ++
        [{ space := f.op2.toNat, addr := (stAcc f e' u).addr.toNat, size := n f, mask := 0xFF, kind := .inr (e'.C u rowSt f), flat := p
           peer := none, dst := none, words := 1, lane := e'.tag.lane, pc := e'.h.pc, region := e'.h.regionNo, rng := e'.h.rng }] }))))
  ∧ Performs .st rowSt (fun f e _ => f.d = .x 1 ∧ e.det = true ∧ e.steward = false ∧ f.op2 = 0)
      (fun f e s => .trap ((stAcc f e s).trap e .ordSpace))
  ∧ (∀ f s e e' u c, Executes s rowSt f e e' u → Fails u e' (stAcc f e' u) c →
      (f.d ≠ .x 1 ∨ e'.det = false ∨ e'.steward = true ∨ f.op2 ≠ 0) →
      exec (.st f) s = .next (after s e rowSt f (.trap ((stAcc f e' u).trap e' c))))
  ∧ Performs .pf rowPf (fun f e s => farBase s e rowPf f = false ∧ inBounds s e f.op2.toNat (memAddr s e rowPf f (n f) (sext f.imm.toNat 32)) = true
      ∧ (memAddr s e rowPf f (n f) (sext f.imm.toNat 32)).toNat % n f = 0) (fun _ _ s => .done s)
  ∧ Performs .pf rowPf (fun f e s => farBase s e rowPf f = true ∨ inBounds s e f.op2.toNat (pfAcc f e s).addr = false)
      (fun f e s => .trap ((pfAcc f e s).trap e .spaceBounds))
  ∧ Performs .pf rowPf (fun f e s => farBase s e rowPf f = false ∧ inBounds s e f.op2.toNat (pfAcc f e s).addr = true
      ∧ (pfAcc f e s).addr.toNat % n f ≠ 0) (fun f e s => .trap ((pfAcc f e s).trap e .misalign))
  ∧ (∀ f s e e' u z store a odd p host v w, Executes s rowLdt f e e' u →
      findElement u e' f (e'.B u rowLdt f) = .at store a odd →
      Reaches u e' { space := Desc.space store, addr := a, size := n f, write := false, need := needRead } z (.flat p host) →
      clear z e' → readFlat z e' f.sub.toNat p (n f) = (v, w, none) →
      exec (.ldt f) s = .next (after s e rowLdt f (.done (writeDst w e' rowLdt f
        (if Desc.fmt store = 14 then (if odd then v / 16 else v % 16) else ext f v)))))
  ∧ (∀ f s e e' u pad, Executes s rowLdt f e e' u → findElement u e' f (e'.B u rowLdt f) = .outside pad →
      exec (.ldt f) s = .next (after s e rowLdt f (.done (writeDst u e' rowLdt f (ext f (pad % 2 ^ (8 * n f)))))))
  ∧ (∀ f s e e' u pad, Executes s rowStt f e e' u → findElement u e' f (e'.B u rowStt f) = .outside pad →
      exec (.stt f) s = .next (after s e rowStt f (.done u)))
  ∧ (∀ f s e e' u z store a odd p host, Executes s rowStt f e e' u →
      findElement u e' f (e'.B u rowStt f) = .at store a odd → Desc.fmt store ≠ 14 →
      Reaches u e' { space := Desc.space store, addr := a, size := n f, write := true, need := needWrite } z (.flat p host) →
      clear z e' → (f.d ≠ .x 1 ∨ e'.det = false) →
      exec (.stt f) s = .next (after s e rowStt f (.done (pushStore z e'.r e'.gr.level (Desc.space store)
        (.bytes (wholeBytes p (bytesOfNat (n f) (e'.C u rowStt f))) (storesHome (Desc.space store) f.sub.toNat host))))))
  ∧ (∀ f s e e' u z store a odd p host, Executes s rowStt f e e' u →
      findElement u e' f (e'.B u rowStt f) = .at store a odd → Desc.fmt store = 14 →
      Reaches u e' { space := Desc.space store, addr := a, size := n f, write := true, need := needWrite } z (.flat p host) →
      clear z e' → (f.d ≠ .x 1 ∨ e'.det = false) →
      let v := e'.C u rowStt f % 16
      exec (.stt f) s = .next (after s e rowStt f (.done (pushStore z e'.r e'.gr.level (Desc.space store)
        (.bytes [{ addr := p, val := BitVec.ofNat 8 (if odd then v * 16 else v), mask := if odd then 0xF0 else 0x0F }]
          (storesHome (Desc.space store) f.sub.toNat host))))))
  ∧ (∀ f s e e' u c, Executes s rowLdt f e e' u → findElement u e' f (e'.B u rowLdt f) = .trap c →
      exec (.ldt f) s = .next (after s e rowLdt f (.trap { cause := c, pc := 0 })))
  ∧ (∀ f s e e' u c, Executes s rowStt f e e' u → findElement u e' f (e'.B u rowStt f) = .trap c →
      exec (.stt f) s = .next (after s e rowStt f (.trap { cause := c, pc := 0 })))
  ∧ (∀ f s e e' u store a odd c, Executes s rowLdt f e e' u → findElement u e' f (e'.B u rowLdt f) = .at store a odd →
      let acc : Access := { space := Desc.space store, addr := a, size := n f, write := false, need := needRead }
      Fails u e' acc c → exec (.ldt f) s = .next (after s e rowLdt f (.trap (acc.trap e' c))))
  ∧ (∀ f s e e' u store a odd c, Executes s rowStt f e e' u → findElement u e' f (e'.B u rowStt f) = .at store a odd →
      let acc : Access := { space := Desc.space store, addr := a, size := n f, write := true, need := needWrite }
      (f.d ≠ .x 1 ∨ e'.det = false ∨ e'.steward = true ∨ Desc.space store ≠ 0) →
      Fails u e' acc c → exec (.stt f) s = .next (after s e rowStt f (.trap (acc.trap e' c))))

/-- 13 R285 to R290: an atomic is performed once the earlier stores of its context have committed: the old value is the result,
the new one is stored, and a region boundary stands behind it; one at a peer is sent there; in a `.det` kernel one at .CLU or
wider waits in the buffer. That a RED is performed at its home at once, with no copies that are added later, is the model's choice
(log 20). -/
def Obligations.Atomics : Prop :=
  let acc (f : Form) (row : OpRow) (k : AtomKind) (e : Env) (s : State) : Access :=
    { space := f.op2.toNat, addr := memAddr s e row f (Ty.size f.ty) (sext f.imm.toNat 28), size := Ty.size f.ty, write := true
      atomic := true, far := farBase s e row f, need := atomNeed (row.opc == 0x28A) k }
  let free (s : State) (e : Env) : Prop := e.h.stores = [] ∧ acquireHeld s e.r e.h = false
  let whole (i : Form → Instr) (row : OpRow) (kind : Form → Env → State → AtomKind) : Prop :=
    (∀ f s e e' u z p host m old w, Executes s row f e e' u →
      Reaches u e' (acc f row (kind f e' u) e' u) z (.flat p host) → free z e' →
      (e'.det = false ∨ (f.sub.toNat < 4 ∧ e'.ordMeeting (.flat p host) (Ty.size f.ty) = [])) → meetMemory z e'.n p = (m, none) →
      performAtomic m e'.g.coreNo (kind f e' u) p (storesHome f.op2.toNat f.sub.toNat host) e'.tag = (w, old) →
      exec (i f) s = .next (after s e row f (.done (boundaryAfter (writeDst w e' row f old) e'))))
    ∧ (∀ f s e e' u z l chip p op ty v, Executes s row f e e' u →
      Reaches u e' (acc f row (kind f e' u) e' u) z (.peer l chip p) → free z e' → kind f e' u = .op op ty v →
      (e'.det = false ∨ (f.sub.toNat < 4 ∧ e'.ordMeeting (.peer l chip p) (Ty.size f.ty) = [])) →
      exec (i f) s = .next (after s e row f (.done (boundaryAfter (sendLink z
        { link := l, ctx := e'.n, who := some e'.r, chip := chip, addr := p, dst := none, sent := z.refNs
          kind := .red op ty (BitVec.ofNat 64 v) e'.tag.lane e'.h.pc.toNat }) e'))))
    ∧ (∀ f s e e' u z p host, Executes s row f e e' u →
      Reaches u e' (acc f row (kind f e' u) e' u) z (.flat p host) → free z e' →
      e'.det = true → 4 ≤ f.sub.toNat → e'.g.batchWords < 256 →
      let w := (if row.opc = 0x28A then z else markPending z e' row f).modHart e'.r Hart.nextSerial
      exec (i f) s = .next (after s e row f (.done (w.modHart e'.r fun h => { h with ord := h.ord ++
        [{ space := f.op2.toNat, addr := (acc f row (kind f e' u) e' u).addr.toNat, size := Ty.size f.ty, mask := 0xFF
           kind := .inl (kind f e' u), flat := p, peer := none
           dst := if row.opc = 0x28A then none else (w.hart? e'.r).bind fun h => h.results.getLast?
           words := 1, lane := e'.tag.lane, pc := e'.h.pc, region := e'.h.regionNo, rng := e'.h.rng }] }))))
    ∧ (∀ f s e e' u z l, Executes s row f e e' u → Reaches u e' (acc f row (kind f e' u) e' u) z l → ¬ free z e' →
      exec (i f) s = .next (after s e row f .hold))
    ∧ (∀ f s e e' u c, Executes s row f e e' u → Fails u e' (acc f row (kind f e' u) e' u) c →
      exec (i f) s = .next (after s e row f (.trap ((acc f row (kind f e' u) e' u).trap e' c))))
  whole .atom rowAtom (fun f e s => .op (bitsOf f.imm.toNat 28 4) f.ty (e.C s rowAtom f))
  ∧ whole .red rowRed (fun f e s => .op (bitsOf f.imm.toNat 28 4) f.ty (e.C s rowRed f))
  ∧ whole .acas rowAcas (fun f e s => .cas (Ty.size f.ty) (e.D s rowAcas f) (e.C s rowAcas f))

/-- 13 R285: the new value of each atomic operation on integers. 01 R37 to R40: the residue accumulator: adding sums is adding
numbers, a word holds every sum in its range, and only a word that stands for a number in the range passes the check. -/
def Obligations.AtomicAndResidueArithmetic : Prop :=
  (∀ (ty : Ty) (old c : Nat) (g : NanTag), ty ∈ [Ty.i32, .n32, .i64, .n64] → old < 2 ^ tyBits ty → c < 2 ^ tyBits ty →
    let w := tyBits ty
    let new (code : Nat) : Nat := atomNew (.op code ty c) old g
    ((2 ^ w : Nat) : Int) ∣ (new 0 : Int) - (old + c) ∧ new 0 < 2 ^ w
    ∧ (∀ i, (new 1).testBit i = (old.testBit i && c.testBit i)) ∧ (∀ i, (new 2).testBit i = (old.testBit i || c.testBit i))
    ∧ (∀ i, (new 3).testBit i = (old.testBit i != c.testBit i))
    ∧ asInt ty (new 4) = min (asInt ty old) (asInt ty c) ∧ asInt ty (new 5) = max (asInt ty old) (asInt ty c)
    ∧ new 6 = c
    ∧ new 7 = (if old ≥ c then 0 else old + 1) ∧ new 8 = (if old = 0 ∨ old > c then c else old - 1)
    ∧ ∀ expected size, atomNew (.cas size expected c) old g = if old = expected then c else old)
  ∧ (∀ a b : Int, accAdd (accAdd 0 a) b = accAdd 0 (a + b))
  ∧ (∀ v : Int, -536870400 ≤ v → v < 536870400 → accValue (accAdd 0 v) = some v)
  ∧ (∀ w v, accValue w = some v → -536870400 ≤ v ∧ v < 536870400 ∧ accAdd 0 v = w)

/-- 13 R275; 05 R123: memory as bytes: what is written is read back, least significant byte first, every other byte stays, and
the form stays canonical. -/
def Obligations.MemoryBytes : Prop :=
  ∀ (m : Memory) (a n v : Nat), Memory.wf m = true → a + n ≤ memTop →
    Memory.wf (memSetBytes m a (bytesOfNat n v)) = true
    ∧ memNat (memSetBytes m a (bytesOfNat n v)) a n = v % 2 ^ (8 * n)
    ∧ (∀ i, i < n → (memGet (memSetBytes m a (bytesOfNat n v)) (a + i)).toNat = v / 2 ^ (8 * i) % 2 ^ 8)
    ∧ (∀ x, x < a ∨ a + n ≤ x → memGet (memSetBytes m a (bytesOfNat n v)) x = memGet m x)
    ∧ Memory.wf (memZero m a n) = true
    ∧ (∀ x, memGet (memZero m a n) x = if a ≤ x ∧ x < a + n then 0 else memGet m x)
    ∧ (∀ m', Memory.wf m' = true → (∀ x, memGet m x = memGet m' x) → m = m')

/-! ## The decision queue, descriptors and slots (03, 06, 07, 14) -/

/-- 03 R82 to R86: the steward pushes entries that every live thread pops in order, once every result that the steward had
outstanding at the push is written; a full or an empty queue makes its user wait; a pop after the steward's EXIT is
DQ_DRAINED. -/
def Obligations.DecisionQueue : Prop :=
  let free (e : Env) (s : State) : Prop := e.h.stores = [] ∧ linkBusy s e.r = false
  Performs .dqpush rowDqpush (fun _ e s => free e s ∧ e.g.threadLive = true ∧ e.g.dq.length < 32)
      (fun f e s => .done (boundaryAfter (settlePeers (s.modGroup e.r.group fun g =>
        wakePoppers { g with dq := g.dq ++ [{ word := BitVec.ofNat 64 (e.A s rowDqpush f), after := e.h.results.map fun q => q.id }] })) e))
  ∧ Performs .dqpush rowDqpush (fun _ e s => free e s ∧ e.g.threadLive = true ∧ 32 ≤ e.g.dq.length)
      (fun _ _ s => .block .dqpush s)
  ∧ Performs .dqpush rowDqpush (fun _ e s => free e s ∧ e.g.threadLive = false) (fun _ e s => .done (boundaryAfter s e))
  ∧ Performs .dqpush rowDqpush (fun _ e s => ¬ free e s) (fun _ _ _ => .hold)
  ∧ (∀ (g : Group) (h : Hart) v, g.nextEntry h = some v ↔ g.dq[h.dqRead - g.dqBase]? = some v
      ∧ ∀ q, q ∈ g.steward.results → q.id ∉ v.after)
  ∧ (∀ f s e e' u v, Executes s rowDqpop f e e' u → e'.h.stores = [] → e'.g.nextEntry e'.h = some v →
      exec (.dqpop f) s = .next (after s e rowDqpop f (.done (boundaryAfter (settlePeers
        (((writeDst u e' rowDqpop f v.word.toNat).modHart e'.r fun h => { h with acqId := h.nextId, dqRead := h.dqRead + 1 }).modGroup
          e'.r.group freeEntries)) e'))))
  ∧ Performs .dqpop rowDqpop (fun _ e _ => e.h.stores = [] ∧ e.g.nextEntry e.h = none ∧ e.g.steward.status ≠ .exited)
      (fun _ _ s => .block .dqpop s)
  ∧ Performs .dqpop rowDqpop (fun _ e _ => e.h.stores = [] ∧ e.g.nextEntry e.h = none ∧ e.g.steward.status = .exited)
      (fun _ _ _ => .trap { cause := .dqDrained, pc := 0 })
  ∧ Performs .dqpop rowDqpop (fun _ e _ => e.h.stores ≠ []) (fun _ _ _ => .hold)
  ∧ Performs .dqlen rowDqlen (fun _ e _ => e.steward = false)
      (fun f e s => .done (writeDst s e rowDqlen f (e.g.dqBase + e.g.dq.length - e.h.dqRead)))
  ∧ Performs .dqlen rowDqlen (fun _ e _ => e.steward = true)
      (fun f e s => .done (writeDst s e rowDqlen f (if e.g.threadLive then e.g.dq.length else 0)))

/-- 06 R146, R148, R157; 14 R313, R314: TDW stores a descriptor with its version counted on, and refuses a bad TID, a bad
descriptor, and the 65th watched one of its context; TDR reads 64 bits of one, and refuses a bad TID or a word beyond the sixteenth. -/
def Obligations.TensorDescriptors : Prop :=
  let tid (f : Form) (e : Env) (s : State) : Nat := e.B s rowTdw f % 2 ^ 32
  let d (f : Form) (e : Env) (s : State) : BitVec 1024 := BitVec.ofNat 1024 (e.A s rowTdw f)
  Performs .tdw rowTdw (fun f e s => tid f e s ≤ 255 ∧ tdwOk (d f e s) = true
        ∧ (Desc.valid (d f e s) = true → Desc.watch (d f e s) = true → watchCount (s.ctx e.n) (tid f e s) < 64))
      (fun f e s =>
        let v := Desc.version ((s.ctx e.n).desc (tid f e s))
        .done (s.modCtx e.n fun c =>
          { c with descs := mapPut c.descs (tid f e s) (Desc.withVersion (d f e s) (if v = 0xFFFFFFFF then v else v + 1)) }))
  ∧ Performs .tdw rowTdw (fun f e s => 255 < tid f e s) (fun _ _ _ => .trap { cause := .tidInvalid, pc := 0 })
  ∧ Performs .tdw rowTdw (fun f e s => tid f e s ≤ 255 ∧ tdwOk (d f e s) = false) (fun _ _ _ => .trap { cause := .tensorGeom, pc := 0 })
  ∧ Performs .tdw rowTdw (fun f e s => tid f e s ≤ 255 ∧ tdwOk (d f e s) = true ∧ Desc.valid (d f e s) = true
        ∧ Desc.watch (d f e s) = true ∧ 64 ≤ watchCount (s.ctx e.n) (tid f e s)) (fun _ _ _ => .trap { cause := .watchLimit, pc := 0 })
  ∧ Performs .tdr rowTdr (fun f e s => 255 < e.A s rowTdr f % 2 ^ 32) (fun _ _ _ => .trap { cause := .tidInvalid, pc := 0 })
  ∧ Performs .tdr rowTdr (fun f e s => e.A s rowTdr f % 2 ^ 32 ≤ 255 ∧ 15 < e.B s rowTdr f % 2 ^ 32)
      (fun _ _ _ => .trap { cause := .tensorGeom, pc := 0 })
  ∧ Performs .tdr rowTdr (fun f e s => e.A s rowTdr f % 2 ^ 32 ≤ 255 ∧ e.B s rowTdr f % 2 ^ 32 ≤ 15)
      (fun f e s => .done (writeDst s e rowTdr f
        (field ((s.ctx e.n).desc (e.A s rowTdr f % 2 ^ 32)) (64 * (e.B s rowTdr f % 2 ^ 32)) 64)))

/-- 07 R163 to R168, R171, R174; 14 R311, R312: the instructions of the reuse slots, with the states they ask for and the trap where the
slot has another; while a DLT holds the slot, or another steward has waited longer for it, all but RSQ wait, a DLT among them. -/
def Obligations.ReuseSlots : Prop :=
  let held := WaitsForSlot
  let rec_ (s : State) (e : Env) (k : Nat) : BitVec 512 := ((s.ctx e.n).slot k).bits
  let blk (f : Form) (row : OpRow) (n : Nat) (e : Env) (s : State) : List Word := blockWords s e row f n
  let k8 (f : Form) (e : Env) (s : State) : Nat := blkBits (blk f rowRsbind 8 e s) 0 0 6
  let k2 (f : Form) (e : Env) (s : State) : Nat := blkBits (blk f rowRsparam 2 e s) 0 0 6
  let a_ (row : OpRow) (f : Form) (e : Env) (s : State) : Nat := e.A s row f % 2 ^ 32
  let bindFields (f : Form) (e : Env) (s : State) : Prop :=
    let b := blk f rowRsbind 8 e s
    blkBits b 0 24 8 = 0 ∧ blkBits b 0 6 2 = 0 ∧ blkBits b 1 22 10 = 0 ∧ blkBits b 3 16 16 = 0
  let paramFields (f : Form) (e : Env) (s : State) : Prop :=
    let b := blk f rowRsparam 2 e s
    blkBits b 0 24 8 = 0 ∧ blkBits b 0 6 2 = 0 ∧ blkBits b 1 22 10 = 0
  let dltFields (f : Form) (e : Env) (s : State) : Prop :=
    let b := blockWords s e rowDlt f 1
    blkBits b 0 26 6 = 0 ∧ blkBits b 0 21 3 = 0 ∧ blkBits b 0 6 2 = 0 ∧ e.h.stores = [] ∧ linkBusy s e.r = false
  let weight (f : Form) (e : Env) (s : State) : BitVec 1024 := (s.ctx e.n).desc (blkBits (blk f rowRsbind 8 e s) 0 8 8)
  let bindable (f : Form) (e : Env) (s : State) : Prop := bindFields f e s ∧ ¬ held s e (k8 f e s)
    ∧ Slot.state (rec_ s e (k8 f e s)) = 0 ∧ blkBits (blk f rowRsbind 8 e s) 0 16 8 ≤ 127
  let waits (i : Form → Instr) (row : OpRow) (reaches : Form → Env → State → Prop) (k : Form → Env → State → Nat) : Prop :=
    Performs i row (fun f e s => reaches f e s ∧ held s e (k f e s) ∧ e.h.slotAt ≠ none) (fun _ _ _ => .hold)
    ∧ Performs i row (fun f e s => reaches f e s ∧ held s e (k f e s) ∧ e.h.slotAt = none)
        (fun f e s => .raw ({ s with free := s.free + 1 }.modHart e.r fun h => { h with slotAt := some (k f e s, s.free) }))
  let traps (i : Form → Instr) (row : OpRow) (cond : Form → Env → State → Prop) (c : Cause) : Prop :=
    Performs i row cond fun _ _ _ => .trap { cause := c, pc := 0 }
  Performs .rsbind rowRsbind (fun f e s =>
        let b := blk f rowRsbind 8 e s
        let w := (s.ctx e.n).desc (blkBits b 0 8 8)
        bindFields f e s ∧ ¬ held s e (k8 f e s)
        ∧ Slot.state (rec_ s e (k8 f e s)) = 0 ∧ blkBits b 0 16 8 ≤ 127 ∧ (storeOf (s.ctx e.n).desc w).isSome = true
        ∧ Desc.watch w = true ∧ bindOk w (bindRecord b (Desc.version w)) = true)
      (fun f e s =>
        let b := blk f rowRsbind 8 e s
        .done (s.modCtx e.n fun c => { c with slots := mapPut c.slots (k8 f e s) (SlotRec.mk
          (bindRecord b (Desc.version ((s.ctx e.n).desc (blkBits b 0 8 8)))) ((c.slot (k8 f e s)).serial + 1)) }))
  ∧ Performs .rsparam rowRsparam (fun f e s =>
        let b := blk f rowRsparam 2 e s
        paramFields f e s ∧ ¬ held s e (k2 f e s)
        ∧ Slot.state (rec_ s e (k2 f e s)) ≠ 0 ∧ blkBits b 0 16 8 ≤ 127)
      (fun f e s =>
        let b := blk f rowRsparam 2 e s
        .done (s.setSlot e.n (k2 f e s) (Slot.put (Slot.put (Slot.put (rec_ s e (k2 f e s)) 32 7 (blkBits b 0 16 7)) 40 8 (blkBits b 1 8 8))
          48 8 (blkBits b 1 0 8))))
  ∧ Performs .rsinv rowRsinv (fun f e s => let k := e.A s rowRsinv f % 2 ^ 32
        k ≤ 63 ∧ ¬ held s e k ∧ Slot.state (rec_ s e k) ≠ 0 ∧ Slot.state (rec_ s e k) ≠ 5)
      (fun f e s => let k := e.A s rowRsinv f % 2 ^ 32
        .done (s.setSlot e.n k (Slot.setState (Slot.put (Slot.put (Slot.put (rec_ s e k) 112 16 0) 128 16 0) 144 16 0) 1)))
  ∧ Performs .rsinvRel rowRsinvRel (fun f e s => e.A s rowRsinvRel f % 2 ^ 32 ≤ 63 ∧ ¬ held s e (e.A s rowRsinvRel f % 2 ^ 32))
      (fun f e s => .done (s.setSlot e.n (e.A s rowRsinvRel f % 2 ^ 32) 0))
  ∧ Performs .rsref rowRsref (fun f e s => let k := e.A s rowRsref f % 2 ^ 32
        k ≤ 63 ∧ ¬ held s e k ∧ Slot.state (rec_ s e k) ≠ 0 ∧ Slot.state (rec_ s e k) ≠ 5 ∧ e.B s rowRsref f % 2 ^ 32 < e.C s rowRsref f % 2 ^ 32
        ∧ e.C s rowRsref f % 2 ^ 32 ≤ Slot.cols (rec_ s e k))
      (fun f e s => let k := e.A s rowRsref f % 2 ^ 32
        .done (s.setSlot e.n k (markColumns (rec_ s e k) (e.B s rowRsref f % 2 ^ 32) (e.C s rowRsref f % 2 ^ 32))))
  ∧ Performs .rsq rowRsq (fun f e s => e.A s rowRsq f % 2 ^ 32 ≤ 63 ∧ e.B s rowRsq f % 2 ^ 32 ≤ 7)
      (fun f e s => let r := rec_ s e (e.A s rowRsq f % 2 ^ 32)
        .done (writeDst s e rowRsq f (field
          (Slot.setState r (effectiveState r (Desc.version ((s.ctx e.n).desc (Slot.wTid r))))) (64 * (e.B s rowRsq f % 2 ^ 32)) 64)))
  ∧ traps .rsbind rowRsbind (fun f e s => ¬ bindFields f e s) .tensorGeom
  ∧ traps .rsbind rowRsbind (fun f e s => bindFields f e s ∧ ¬ held s e (k8 f e s)
        ∧ (Slot.state (rec_ s e (k8 f e s)) ≠ 0 ∨ 127 < blkBits (blk f rowRsbind 8 e s) 0 16 8)) .rslotState
  ∧ traps .rsbind rowRsbind (fun f e s => bindable f e s ∧ (storeOf (s.ctx e.n).desc (weight f e s)).isNone = true) .tidInvalid
  ∧ traps .rsbind rowRsbind (fun f e s => bindable f e s ∧ (storeOf (s.ctx e.n).desc (weight f e s)).isSome = true
        ∧ Desc.watch (weight f e s) = false) .rslotVersion
  ∧ traps .rsbind rowRsbind (fun f e s => bindable f e s ∧ (storeOf (s.ctx e.n).desc (weight f e s)).isSome = true
        ∧ Desc.watch (weight f e s) = true
        ∧ bindOk (weight f e s) (bindRecord (blk f rowRsbind 8 e s) (Desc.version (weight f e s))) = false) .tensorGeom
  ∧ traps .rsparam rowRsparam (fun f e s => ¬ paramFields f e s) .tensorGeom
  ∧ traps .rsparam rowRsparam (fun f e s => paramFields f e s ∧ ¬ held s e (k2 f e s)
        ∧ (Slot.state (rec_ s e (k2 f e s)) = 0 ∨ 127 < blkBits (blk f rowRsparam 2 e s) 0 16 8)) .rslotState
  ∧ traps .rsinv rowRsinv (fun f e s => 63 < a_ rowRsinv f e s) .rslotState
  ∧ traps .rsinv rowRsinv (fun f e s => let k := a_ rowRsinv f e s
        k ≤ 63 ∧ ¬ held s e k ∧ (Slot.state (rec_ s e k) = 0 ∨ Slot.state (rec_ s e k) = 5)) .rslotState
  ∧ traps .rsinvRel rowRsinvRel (fun f e s => 63 < a_ rowRsinvRel f e s) .rslotState
  ∧ traps .rsref rowRsref (fun f e s => 63 < a_ rowRsref f e s) .rslotState
  ∧ traps .rsref rowRsref (fun f e s => let k := a_ rowRsref f e s
        k ≤ 63 ∧ ¬ held s e k ∧ (Slot.state (rec_ s e k) = 0 ∨ Slot.state (rec_ s e k) = 5
          ∨ e.C s rowRsref f % 2 ^ 32 ≤ e.B s rowRsref f % 2 ^ 32 ∨ Slot.cols (rec_ s e k) < e.C s rowRsref f % 2 ^ 32)) .rslotState
  ∧ traps .rsq rowRsq (fun f e s => 63 < a_ rowRsq f e s ∨ 7 < e.B s rowRsq f % 2 ^ 32) .rslotState
  ∧ waits .rsbind rowRsbind bindFields k8
  ∧ waits .rsparam rowRsparam paramFields k2
  ∧ waits .rsinv rowRsinv (fun f e s => a_ rowRsinv f e s ≤ 63) (a_ rowRsinv)
  ∧ waits .rsinvRel rowRsinvRel (fun f e s => a_ rowRsinvRel f e s ≤ 63) (a_ rowRsinvRel)
  ∧ waits .rsref rowRsref (fun f e s => a_ rowRsref f e s ≤ 63) (a_ rowRsref)
  ∧ waits .dlt rowDlt dltFields (fun f e s => blkBits (blockWords s e rowDlt f 1) 0 0 6)

/-! ## Engine commands (14) -/

/-- 14 R295 to R310; 07 R167: a command that passes its checks is accepted with the locks of its footprints, once they fit and the
steward's stores have committed; another group's claim on the tiles makes a matrix command wait; MXW waits for the matrix commands
and is an acquire; CPYQ reads what a copy has left to move; CPYC cancels one, and its word is written once what it has sent over a
link is performed. That every command waits for the steward's stores (log 49), and that a lock covers the whole footprint of an
operand (log 36), are the model's choices. -/
def Obligations.EngineCommands : Prop :=
  let mine (s : State) (e : Env) : Prop := (s.core e.g.coreNo).claim = none ∨ (s.core e.g.coreNo).claim = some e.r.group
  let bits (s : State) (e : Env) (row : OpRow) (f : Form) (n : Nat) : Nat → Nat → Nat → Nat := blkBits (blockWords s e row f n)
  let quadsOk (b : Nat → Nat → Nat → Nat) : Prop := b 0 28 4 = 0 ∧ b 0 21 3 = 0 ∧ b 0 24 4 ≠ 0 ∧ b 0 16 5 ≤ 23
  let look (s : State) (e : Env) : Nat → BitVec 1024 := (s.ctx e.n).desc
  let mxOk (f : Form) (e : Env) (s : State) : Prop :=
    let b := bits s e rowMx f 4
    let fa := if f.ty = .i8 then 9 else 13
    let da := look s e (b 0 0 8)
    let db := look s e (b 0 8 8)
    quadsOk b ∧ b 3 9 23 = 0 ∧ blkWord (blockWords s e rowMx f 4) 1 % 64 = 0 ∧ b 3 0 9 ≠ 0
    ∧ (storeOf (look s e) da).isSome = true ∧ (storeOf (look s e) db).isSome = true ∧ operandOk da false fa = true
    ∧ operandOk db true (if f.op2 = 1 then 22 - fa else fa) = true ∧ Desc.size da 0 = Desc.size db 0
  let mxShallow (f : Form) (e : Env) (s : State) : Prop :=
    let b := bits s e rowMx f 4
    ∀ q, q < 4 → (b 0 24 4).testBit q = true → depthAhead s e.g.coreNo (q * 24 + b 0 16 5) + 64 * b 3 0 9 ≤ 32767
  let mxsOk (f : Form) (e : Env) (s : State) (epi : Option (BitVec 1024)) (d : BitVec 1024) : Prop :=
    let b := blockWords s e rowMxs f 8
    drainCheck s e b true = none ∧ epiDesc s e b = .ok epi ∧ look s e (blkBits b 5 0 8) = d
    ∧ (storeOf (look s e) d).isSome = true ∧ Desc.kind d ≠ 1 ∧ Desc.rank d = 2 ∧ Desc.fmt d = drainFmt (blkBits b 0 23 3)
    ∧ ∀ p, p ∈ tilePoints → ∀ c, resolveTensor (look s e) d (mxsCoord b p.1 p.2) ≠ .trap c
  let dltFields (f : Form) (e : Env) (s : State) : Prop :=
    let b := bits s e rowDlt f 1
    b 0 26 6 = 0 ∧ b 0 21 3 = 0 ∧ b 0 6 2 = 0
  let dltOk (f : Form) (e : Env) (s : State) : Prop :=
    let b := bits s e rowDlt f 1
    let r := ((s.ctx e.n).slot (b 0 0 6)).bits
    let w := look s e (Slot.wTid r)
    let x := look s e (b 0 8 8)
    dltFields f e s ∧ ¬ WaitsForSlot s e (b 0 0 6) ∧ Slot.state r ≠ 0 ∧ Slot.state r ≠ 5 ∧ (storeOf (look s e) w).isSome = true
    ∧ (storeOf (look s e) x).isSome = true ∧ Desc.watch w = true ∧ bindOk w r = true
    ∧ operandOk x true 9 = true ∧ Desc.size x 0 = 16 * Slot.kb r ∧ Desc.size x 1 = Slot.cols r
    ∧ b 0 16 5 + ceilDiv (Slot.rows r) 32 * ceilDiv (Slot.cols r) 32 ≤ 24
  let traps (i : Form → Instr) (row : OpRow) (cond : Form → Env → State → Prop) (c : Cause) : Prop :=
    Performs i row cond fun _ _ _ => .trap { cause := c, pc := 0 }
  let matFields (row : OpRow) (n : Nat) (f : Form) (e : Env) (s : State) : Prop :=
    let b := bits s e row f n
    b 0 28 4 = 0 ∧ b 0 21 3 = 0 ∧ (n = 4 → b 3 9 23 = 0)
  let tileTraps (i : Form → Instr) (row : OpRow) (n : Nat) : Prop :=
    traps i row (fun f e s => ¬ matFields row n f e s) .tensorGeom
    ∧ traps i row (fun f e s => matFields row n f e s ∧ bits s e row f n 0 24 4 = 0) .mxQuad
    ∧ traps i row (fun f e s => matFields row n f e s ∧ bits s e row f n 0 24 4 ≠ 0 ∧ 23 < bits s e row f n 0 16 5) .accTile
  let mxWords (f : Form) (e : Env) (s : State) : Prop :=
    quadsOk (bits s e rowMx f 4) ∧ bits s e rowMx f 4 3 9 23 = 0 ∧ blkWord (blockWords s e rowMx f 4) 1 % 64 = 0 ∧ bits s e rowMx f 4 3 0 9 ≠ 0
  let stored (row : OpRow) (n : Nat) (k : Nat) (f : Form) (e : Env) (s : State) : Prop :=
    (storeOf (look s e) (look s e (bits s e row f n 0 k 8))).isSome = true
  let drainTraps (i : Form → Instr) (row : OpRow) (n : Nat) (mxs : Bool) : Prop :=
    ∀ f s e e' u c, Executes s row f e e' u →
      (drainCheck u e' (blockWords u e' row f n) mxs = some c
        ∨ (drainCheck u e' (blockWords u e' row f n) mxs = none ∧ epiDesc u e' (blockWords u e' row f n) = .error c)) →
      exec (i f) s = .next (after s e row f (.trap { cause := c, pc := 0 }))
  let slotOf (f : Form) (e : Env) (s : State) : BitVec 512 := ((s.ctx e.n).slot (bits s e rowDlt f 1 0 0 6)).bits
  let dltTurn (f : Form) (e : Env) (s : State) : Prop :=
    dltFields f e s ∧ e.h.stores = [] ∧ linkBusy s e.r = false ∧ ¬ WaitsForSlot s e (bits s e rowDlt f 1 0 0 6)
  let dltBound (f : Form) (e : Env) (s : State) : Prop :=
    dltTurn f e s ∧ Slot.state (slotOf f e s) ≠ 0 ∧ Slot.state (slotOf f e s) ≠ 5
  let dltFits (f : Form) (e : Env) (s : State) : Prop :=
    let r := slotOf f e s
    let x := look s e (bits s e rowDlt f 1 0 8 8)
    bindOk (look s e (Slot.wTid r)) r = true ∧ operandOk x true 9 = true ∧ Desc.size x 0 = 16 * Slot.kb r ∧ Desc.size x 1 = Slot.cols r
  let dltStored (f : Form) (e : Env) (s : State) : Prop :=
    (storeOf (look s e) (look s e (Slot.wTid (slotOf f e s)))).isSome = true ∧ stored rowDlt 1 8 f e s
  let dltTiles (f : Form) (e : Env) (s : State) : Nat :=
    let r := slotOf f e s
    bits s e rowDlt f 1 0 16 5 + ceilDiv (Slot.rows r) 32 * ceilDiv (Slot.cols r) 32
  let cpyWords (f : Form) (e : Env) (s : State) : Prop :=
    let b := bits s e rowCpy f 8
    b 0 19 13 = 0 ∧ b 1 21 11 = 0
  let cpyDone (f : Form) (e : Env) (s : State) : Prop :=
    let w := blkWord (blockWords s e rowCpy f 8) 2
    w % 4 = 0 ∧ w + 4 ≤ Hdr.cbytes e.hdr
  tileTraps .mxz rowMxz 1
  ∧ tileTraps .mx rowMx 4
  ∧ traps .mx rowMx (fun f e s => quadsOk (bits s e rowMx f 4) ∧ bits s e rowMx f 4 3 9 23 = 0
        ∧ (blkWord (blockWords s e rowMx f 4) 1 % 64 ≠ 0 ∨ bits s e rowMx f 4 3 0 9 = 0)) .tensorGeom
  ∧ traps .mx rowMx (fun f e s => mxWords f e s ∧ ¬ (stored rowMx 4 0 f e s ∧ stored rowMx 4 8 f e s)) .tidInvalid
  ∧ traps .mx rowMx (fun f e s => mxWords f e s ∧ stored rowMx 4 0 f e s ∧ stored rowMx 4 8 f e s ∧ ¬ mxOk f e s) .tensorGeom
  ∧ drainTraps .mxd rowMxd 5 false
  ∧ drainTraps .mxs rowMxs 8 true
  ∧ (∀ (s : State) (e : Env) (b : List Word) (mxs : Bool),
      let fields : Prop := blkBits b 0 28 4 = 0 ∧ blkBits b 0 7 1 = 0 ∧ (mxs = true → blkBits b 5 8 24 = 0)
        ∧ blkBits b 0 23 3 ≤ 3 ∧ blkBits b 0 21 2 ≠ 3
      (¬ fields → drainCheck s e b mxs = some .tensorGeom)
      ∧ (fields → 23 < blkBits b 0 0 5 → drainCheck s e b mxs = some .accTile)
      ∧ (fields → blkBits b 0 0 5 ≤ 23 → mxs = false → Hdr.threads e.hdr ≤ 64 * blkBits b 0 16 4 → drainCheck s e b mxs = some .tensorGeom)
      ∧ (fields → blkBits b 0 0 5 ≤ 23 → mxs = false → 64 * blkBits b 0 16 4 < Hdr.threads e.hdr →
          (∃ c z, c ∈ s.cmdsOf e.r.group e.g ∧ c.kind = .mxd z ∧ blkBits c.block 0 16 4 = blkBits b 0 16 4) →
          drainCheck s e b mxs = some .drainBusy)
      ∧ (blkBits b 0 26 1 = 1 → storeOf (s.ctx e.n).desc ((s.ctx e.n).desc (blkBits b 0 8 8)) = none → epiDesc s e b = .error .tidInvalid))
  ∧ (∀ f s e e' u epi, Executes s rowMxs f e e' u →
      let b := blockWords u e' rowMxs f 8
      let d := look u e' (blkBits b 5 0 8)
      let shaped : Prop := Desc.kind d ≠ 1 ∧ Desc.rank d = 2 ∧ Desc.fmt d = drainFmt (blkBits b 0 23 3)
      let stop (c : Cause) : Prop := exec (.mxs f) s = .next (after s e rowMxs f (.trap { cause := c, pc := 0 }))
      drainCheck u e' b true = none → epiDesc u e' b = .ok epi →
      ((storeOf (look u e') d).isNone = true → stop .tidInvalid)
      ∧ ((storeOf (look u e') d).isSome = true → ¬ shaped → stop .tensorGeom)
      ∧ ((storeOf (look u e') d).isSome = true → shaped →
          (∃ p c, p ∈ tilePoints ∧ resolveTensor (look u e') d (mxsCoord b p.1 p.2) = .trap c) → stop .tensorBounds))
  ∧ traps .dlt rowDlt (fun f e s => ¬ dltFields f e s) .tensorGeom
  ∧ traps .dlt rowDlt (fun f e s => dltTurn f e s ∧ (Slot.state (slotOf f e s) = 0 ∨ Slot.state (slotOf f e s) = 5)) .rslotState
  ∧ traps .dlt rowDlt (fun f e s => dltBound f e s ∧ ¬ dltStored f e s) .tidInvalid
  ∧ traps .dlt rowDlt (fun f e s => dltBound f e s ∧ dltStored f e s ∧ Desc.watch (look s e (Slot.wTid (slotOf f e s))) = false) .rslotVersion
  ∧ traps .dlt rowDlt (fun f e s => dltBound f e s ∧ dltStored f e s ∧ Desc.watch (look s e (Slot.wTid (slotOf f e s))) = true
        ∧ ¬ dltFits f e s) .tensorGeom
  ∧ traps .dlt rowDlt (fun f e s => dltBound f e s ∧ dltStored f e s ∧ Desc.watch (look s e (Slot.wTid (slotOf f e s))) = true
        ∧ dltFits f e s ∧ 24 < dltTiles f e s) .accTile
  ∧ traps .cpy rowCpy (fun f e s => ¬ cpyWords f e s) .tensorGeom
  ∧ traps .cpy rowCpy (fun f e s => cpyWords f e s ∧ ¬ cpyDone f e s) .cpyCompletion
  ∧ traps .cpy rowCpy (fun f e s => cpyWords f e s ∧ cpyDone f e s ∧ ¬ (stored rowCpy 8 0 f e s ∧ stored rowCpy 8 8 f e s)) .tidInvalid
  ∧ (∀ f s e e' u src dst st st', Executes s rowCpy f e e' u → cpyWords f e' u → cpyDone f e' u →
      let b := bits u e' rowCpy f 8
      let words := blockWords u e' rowCpy f 8
      let r := Desc.rank dst
      let shaped : Prop := Desc.kind dst ≠ 1 ∧ Desc.rank src = r ∧ Desc.fmt st = Desc.fmt dst ∧ blkWord words 1 / 2 ^ (3 * r) = 0
        ∧ ((List.range r).map (cpyPerm words)).Nodup ∧ ∀ i, i < r → cpyPerm words i < r
      let inside : Prop := ∀ p, p ∈ extentPoints (cpyExtents dst) → ∀ c, resolveTensor (look u e') src (cpySource words r p) ≠ .trap c
      let overlap := overlapAsks (lockOf u e' st false) (lockOf u e' dst true)
      let gives (a : Act) : Prop := exec (.cpy f) s = .next (after s e rowCpy f a)
      look u e' (b 0 0 8) = src → look u e' (b 0 8 8) = dst → storeOf (look u e') src = some st → storeOf (look u e') dst = some st' →
      (¬ shaped → gives (.trap { cause := .tensorGeom, pc := 0 }))
      ∧ (shaped → ¬ inside ∨ overlap = true → gives (.trap { cause := .cpyRange, pc := 0 }))
      ∧ (shaped → inside → overlap = false → 16 ≤ ((u.core e'.g.coreNo).cmds.filter fun c => c.kind == .cpy).length → gives .hold))
  ∧ Performs .mxz rowMxz (fun f e s => quadsOk (bits s e rowMxz f 1) ∧ mine s e)
      (fun f e s => acceptCmd s e .mxz (blockWords s e rowMxz f 1) [] [] true)
  ∧ Performs .mxz rowMxz (fun f e s => quadsOk (bits s e rowMxz f 1) ∧ ¬ mine s e) (fun _ _ s => .block .claim s)
  ∧ Performs .mx rowMx (fun f e s => mxOk f e s ∧ ¬ mine s e) (fun _ _ s => .block .claim s)
  ∧ Performs .mx rowMx (fun f e s => mxOk f e s ∧ mine s e ∧ ¬ mxShallow f e s) (fun _ _ _ => .trap { cause := .mxKlimit, pc := 0 })
  ∧ Performs .mx rowMx (fun f e s => mxOk f e s ∧ mine s e ∧ mxShallow f e s)
      (fun f e s =>
        let b := bits s e rowMx f 4
        let da := look s e (b 0 0 8)
        let db := look s e (b 0 8 8)
        acceptCmd s e (.mx f.ty (f.op2 == 1)) (blockWords s e rowMx f 4) [(0, da), (1, db)]
          (lockOf s e da false ++ lockOf s e db false) true)
  ∧ (∀ f s e e' u d, Executes s rowMxd f e e' u → drainCheck u e' (blockWords u e' rowMxd f 5) false = none →
      epiDesc u e' (blockWords u e' rowMxd f 5) = .ok d → mine u e' →
      exec (.mxd f) s = .next (after s e rowMxd f
        (acceptCmd u e' (.mxd (f.op2 == 1)) (blockWords u e' rowMxd f 5) (epiMap d) [] true)))
  ∧ (∀ f s e e' u d, Executes s rowMxd f e e' u → drainCheck u e' (blockWords u e' rowMxd f 5) false = none →
      epiDesc u e' (blockWords u e' rowMxd f 5) = .ok d → ¬ mine u e' →
      exec (.mxd f) s = .next (after s e rowMxd f (.block .claim u)))
  ∧ (∀ f s e e' u epi d, Executes s rowMxs f e e' u → mxsOk f e' u epi d →
      (mine u e' → exec (.mxs f) s = .next (after s e rowMxs f
        (acceptCmd u e' (.mxs (f.op2 == 1)) (blockWords u e' rowMxs f 8) (epiMap epi ++ [(1, d)])
          ((match epi with | some x => vectorLocks u e' (blockWords u e' rowMxs f 8) x | none => []) ++ lockOf u e' d true) true)))
      ∧ (¬ mine u e' → exec (.mxs f) s = .next (after s e rowMxs f (.block .claim u))))
  ∧ Performs .mxw rowMxw (fun _ e s => ∀ c, c ∈ s.cmdsOf e.r.group e.g → c.kind = .cpy)
      (fun _ e s => .done (s.modHart e.r Hart.acquire))
  ∧ Performs .mxw rowMxw (fun _ e s => ∃ c, c ∈ s.cmdsOf e.r.group e.g ∧ c.kind ≠ .cpy) (fun _ _ _ => .hold)
  ∧ (∀ f s e e' u src dst st st', Executes s rowCpy f e e' u →
      let b := bits u e' rowCpy f 8
      let words := blockWords u e' rowCpy f 8
      let r := Desc.rank dst
      look u e' (b 0 0 8) = src → look u e' (b 0 8 8) = dst → storeOf (look u e') src = some st → storeOf (look u e') dst = some st' →
      b 0 19 13 = 0 → b 1 21 11 = 0 → blkWord words 2 % 4 = 0 → blkWord words 2 + 4 ≤ Hdr.cbytes e'.hdr →
      Desc.kind dst ≠ 1 → Desc.rank src = r → Desc.fmt st = Desc.fmt dst → blkWord words 1 / 2 ^ (3 * r) = 0 →
      ((List.range r).map (cpyPerm words)).Nodup → (∀ i, i < r → cpyPerm words i < r) →
      (∀ p, p ∈ extentPoints (cpyExtents dst) → ∀ c, resolveTensor (look u e') src (cpySource words r p) ≠ .trap c) →
      overlapAsks (lockOf u e' st false) (lockOf u e' dst true) = false →
      ((u.core e'.g.coreNo).cmds.filter fun c => c.kind == .cpy).length < 16 →
      exec (.cpy f) s = .next (after s e rowCpy f
        (acceptCmd u e' .cpy words [(0, src), (1, dst), (2, st)] (lockOf u e' st false ++ lockOf u e' dst true) false)))
  ∧ (∀ f s e e' u c, Executes s rowCpyq f e e' u → findCpy u e' (e'.A u rowCpyq f % 2 ^ 32) = some c →
      exec (.cpyq f) s = .next (after s e rowCpyq f (.done (writeDst u e' rowCpyq f
        ((cpyCount (mapGet 0 c.descs 1) - c.progress) % 2 ^ 32)))))
  ∧ Performs .cpyq rowCpyq (fun f e s => findCpy s e (e.A s rowCpyq f % 2 ^ 32) = none)
      (fun f e s => .done (writeDst s e rowCpyq f 0xFFFFFFFF))
  ∧ (∀ f s e e' u c, Executes s rowCpyc f e e' u → findCpy u e' (e'.A u rowCpyc f % 2 ^ 32) = some c →
      exec (.cpyc f) s = .next (after s e rowCpyc f (.done (cancelCpy (removeCmd u e'.g.coreNo c.id) e'.g c))))
  ∧ (∀ (s : State) (g : Group) (c : Cmd), s.tovor.due = [] →
      (engReleased s c.id = true → cancelCpy s g c = writeDue s (cpyDue g c 0x80000000))
      ∧ (engReleased s c.id = false → cancelCpy s g c = s.modTovor fun t => { t with due := [cpyDue g c 0x80000000] }))
  ∧ Performs .cpyc rowCpyc (fun f e s => findCpy s e (e.A s rowCpyc f % 2 ^ 32) = none) (fun _ _ s => .done s)
  ∧ Performs .dlt rowDlt (fun f e s => dltFields f e s ∧ (e.h.stores ≠ [] ∨ linkBusy s e.r = true)) (fun _ _ _ => .hold)
  ∧ Performs .dlt rowDlt (fun f e s => dltOk f e s ∧ e.h.stores = [] ∧ linkBusy s e.r = false ∧ ¬ mine s e) (fun _ _ s => .block .claim s)
  ∧ Performs .dlt rowDlt (fun f e s => dltOk f e s ∧ mine s e)
      (fun f e s =>
        let b := bits s e rowDlt f 1
        let r := ((s.ctx e.n).slot (b 0 0 6)).bits
        let w := look s e (Slot.wTid r)
        let x := look s e (b 0 8 8)
        acceptCmd s e .dlt (blockWords s e rowDlt f 1) [(0, w), (1, x)]
          (lockOf s e w false ++ lockOf s e x false
            ++ bufferLock s e (Slot.refSpace r) (Slot.refBase r) (Slot.refBytes r)
            ++ bufferLock s e (Slot.resSpace r) (Slot.resBase r) (Slot.resBytes r)) true)

/-- 05 R124, R133 to R135; 14 R296, R297: acceptance: the command stands last in its core's list, not started, with its locks taken;
it is held where a table is full, or, by the model's choice (log 49), a store is uncommitted or an operation over a link unanswered;
that its range of space k takes a lock in the table of each core it meets is log 82. Under IL2 it is performed once its record agrees
(18 R374). -/
def Obligations.CommandAcceptance : Prop :=
  ∀ (s : State) (e : Env) (kind : CmdKind) (b : List Word) (descs : Map (BitVec 1024)) (asks : List LockAsk) (claims : Bool),
    let k := e.g.coreNo
    (locksFit s asks = false ∨ e.h.stores ≠ [] ∨ linkBusy s e.r = true → acceptCmd s e kind b descs asks claims = .hold)
    ∧ (locksFit s asks = true → e.h.stores = [] → linkBusy s e.r = false →
        ∃ (u : State) (c : Cmd), acceptCmd s e kind b descs asks claims = .done u
          ∧ (u.core k).cmds = (s.core k).cmds ++ [c]
          ∧ c.gid = e.r.group ∧ c.kind = kind ∧ c.block = b ∧ c.descs = descs ∧ c.pc = e.h.pc ∧ c.ready = decide (e.gr.level < 2) ∧ c.started = false
          ∧ c.id = k * 2 ^ 40 + (s.core k).nextCmd
          ∧ (u.core k).claim = (if claims then some e.r.group else (s.core k).claim)
          ∧ (∀ j, (u.core j).locks = (s.core j).locks ++ ((asks.filter fun a => a.table == j).map fun a =>
              { cmd := c.id, ctx := e.n, space := a.space, first := a.first, last := a.last, write := a.write : Lock }))
          ∧ c.progress = 0 ∧ c.issued = s.clusterCycles e.g.cluster ∧ c.region = e.h.regionNo
          ∧ (kind = .cpy → e.gr.level < 2 → u.groups = s.groups) ∧ (∀ j, j ≠ e.r.group → u.group? j = s.group? j)
          ∧ u.mem = s.mem ∧ u.ctxs = s.ctxs ∧ u.tovor = s.tovor)

/-! ## Launch, events, random numbers, system registers (14) -/

/-- 14 R315, R316; 15 R326: LAUNCH publishes, reads its record, and appends it to the queue, or waits for a free slot; a misaligned
address, a record under a write lock, a bad record and a refused queue or level trap; SIGNAL publishes and counts an event word on.
Both wait for the stores and the answers of links, and see or follow the steward's own ordered accesses to their bytes (05 R123, R137):
a SIGNAL behind one joins the ordered buffer (log 34). That SIGNAL is carried to a page of host memory is the model's reading (log
18). -/
def Obligations.LaunchAndSignal : Prop :=
  let ready (e : Env) (s : State) (va : Nat) : Prop := va % 128 = 0 ∧ e.h.stores = [] ∧ linkBusy s e.r = false
    ∧ checkAccess (flushL1 s e.g.coreNo) e (launchRead va) ≠ .error .rangeLock
  let part (e : Env) (s : State) : Nat := (s.ctx e.n).part
  let waits (e : Env) (s : State) : Prop := e.h.stores ≠ [] ∨ linkBusy s e.r = true
  let sigAcc (f : Form) (e : Env) (s : State) : Access :=
    { space := f.op2.toNat, addr := memAddr s e rowSignal f 8 (sext f.imm.toNat 32), size := 8, write := true
      far := farBase s e rowSignal f, need := needReadWrite }
  let free (e : Env) (s : State) (r : BitVec 1024) (k : Nat) : Prop := recordOk r = true ∧ k ≤ 63
    ∧ (s.queue (s.ctx e.n).part k).launchable e.n = true ∧ Rec.integrity r ≤ (s.ctx e.n).ilMax
  let alone (e : Env) (l : Loc) : Prop := e.det = false ∨ e.ordMeeting l 8 = []
  (∀ f s e e' u w r w', Executes s rowLaunch f e e' u → ready e' u (e'.A u rowLaunch f) →
      readRecord (flushL1 u e'.g.coreNo) e'.n (e'.A u rowLaunch f) e'.ownOrd = (w, some r) → part e' u = part e' w →
      (u.ctx e'.n).ilMax = (w.ctx e'.n).ilMax → free e' w r (e'.B u rowLaunch f % 2 ^ 32) →
      ((w.queue (part e' w) (e'.B u rowLaunch f % 2 ^ 32)).full = false →
        appendRecord w e'.n (part e' w) (e'.B u rowLaunch f % 2 ^ 32) r = some w' →
        exec (.launch f) s = .next (after s e rowLaunch f (.done (boundaryAfter w' e'))))
      ∧ ((w.queue (part e' w) (e'.B u rowLaunch f % 2 ^ 32)).full = true →
        exec (.launch f) s = .next (after s e rowLaunch f (.block (.launch (part e' w) (e'.B u rowLaunch f % 2 ^ 32) r) w))))
  ∧ (∀ f s e e' u w r, Executes s rowLaunch f e e' u → ready e' u (e'.A u rowLaunch f) →
      readRecord (flushL1 u e'.g.coreNo) e'.n (e'.A u rowLaunch f) e'.ownOrd = (w, some r) →
      (recordOk r = false → exec (.launch f) s = .next (after s e rowLaunch f (.trap { cause := .launchRecord, pc := 0 })))
      ∧ (recordOk r = true → part e' u = part e' w → (u.ctx e'.n).ilMax = (w.ctx e'.n).ilMax →
        ¬ free e' w r (e'.B u rowLaunch f % 2 ^ 32) →
        exec (.launch f) s = .next (after s e rowLaunch f (.trap { cause := .launchDenied, pc := 0 }))))
  ∧ Performs .launch rowLaunch (fun f e s => e.A s rowLaunch f % 128 ≠ 0)
      (fun f e s => .trap { cause := .misalign, pc := 0, addr := BitVec.ofNat 64 (e.A s rowLaunch f), space := 4 })
  ∧ Performs .launch rowLaunch (fun f e s => e.A s rowLaunch f % 128 = 0 ∧ waits e s) (fun _ _ _ => .hold)
  ∧ Performs .launch rowLaunch (fun f e s => e.A s rowLaunch f % 128 = 0 ∧ ¬ waits e s
        ∧ checkAccess (flushL1 s e.g.coreNo) e (launchRead (e.A s rowLaunch f)) = .error .rangeLock)
      (fun f e s => .trap ((launchRead (e.A s rowLaunch f)).trap e .rangeLock))
  ∧ (∀ f s e e' u z p host m, Executes s rowSignal f e e' u → Reaches u e' (sigAcc f e' u) z (.flat p host) →
      e'.h.stores = [] → linkBusy z e'.r = false → alone e' (.flat p host) →
      meetMemory (flushL1 z e'.g.coreNo) e'.n p = (m, none) →
      (memNat m.mem p 8 ≠ 2 ^ 64 - 1 →
        exec (.signal f) s = .next (after s e rowSignal f (.done (boundaryAfter (writeNat m p 8 (memNat m.mem p 8 + 1)) e'))))
      ∧ (memNat m.mem p 8 = 2 ^ 64 - 1 →
        exec (.signal f) s = .next (after s e rowSignal f (.done (boundaryAfter (logEvent m e'.n
          (placeEntry e'.g { kind := 2, cause := .eventOverflow, pc := e'.h.pc.toNat, quad := e'.h.quad })) e')))))
  ∧ (∀ f s e e' u z l chip p, Executes s rowSignal f e e' u → Reaches u e' (sigAcc f e' u) z (.peer l chip p) →
      e'.h.stores = [] → linkBusy z e'.r = false → alone e' (.peer l chip p) →
      exec (.signal f) s = .next (after s e rowSignal f (.done (boundaryAfter (sendLink (flushL1 z e'.g.coreNo)
        { link := l, ctx := e'.n, who := some e'.r, chip := chip, addr := p, kind := .signal, dst := none, sent := z.refNs }) e'))))
  ∧ (∀ f s e e' u z l, Executes s rowSignal f e e' u → Reaches u e' (sigAcc f e' u) z l → ¬ waits e' z → ¬ alone e' l →
      exec (.signal f) s = .next (after s e rowSignal f (bufferOrd ((flushL1 z e'.g.coreNo).modHart e'.r Hart.nextSerial) e'
        { e'.ordEntry (sigAcc f e' u) l (.inl .signal) with words := 0 })))
  ∧ (∀ f s e e' u z l, Executes s rowSignal f e e' u → Reaches u e' (sigAcc f e' u) z l → waits e' z →
      exec (.signal f) s = .next (after s e rowSignal f .hold))
  ∧ (∀ f s e e' u c, Executes s rowSignal f e e' u → Fails u e' (sigAcc f e' u) c →
      exec (.signal f) s = .next (after s e rowSignal f (.trap ((sigAcc f e' u).trap e' c))))

/-- 14 R317, R318: RAND advances the state and gives the value of the mixed state; RSEED sets the state, from the seed rule or
as it is given. -/
def Obligations.RandomNumbers : Prop :=
  let mixed (v : BitVec 64) : BitVec 64 :=
    let z := (v ^^^ (v >>> 30)) * 0xBF58476D1CE4E5B9
    let z := (z ^^^ (z >>> 27)) * 0x94D049BB133111EB
    z ^^^ (z >>> 31)
  let next (e : Env) : BitVec 64 := e.h.rng + 0x9E3779B97F4A7C15
  let draws (f : Form) (s : State) (e e' : Env) (u : State) (v : Nat) : Prop :=
    exec (.rand f) s = .next (after s e rowRand f (.done (writeDst (u.modHart e'.r fun h => { h with rng := next e' }) e' rowRand f v)))
  (∀ f s e e' u, Executes s rowRand f e e' u →
      (f.ty = .n64 → draws f s e e' u (mixed (next e')).toNat)
      ∧ (f.ty = .n32 → draws f s e e' u ((mixed (next e')).toNat / 2 ^ 32))
      ∧ (f.ty = .f32 → ∃ v, draws f s e e' u v
          ∧ fF32.sign v = false ∧ fF32.mag v < fF32.infBits
          ∧ unitsOf fF32 v = (mixed (next e')).toNat / 2 ^ 40 * 2 ^ 125))
  ∧ Performs .rseed rowRseed (fun f _ _ => f.op2 = 1)
      (fun f e s => .done (s.modHart e.r fun h => { h with rng := BitVec.ofNat 64 (e.A s rowRseed f) }))
  ∧ Performs .rseed rowRseed (fun f _ _ => f.op2 ≠ 1)
      (fun f e s =>
        let own := BitVec.ofNat 64 (e.g.index * Hdr.threads e.hdr + e.tid) * 0xD1B54A32D192ED03
        .done (s.modHart e.r fun h => { h with rng := BitVec.ofNat 64 (e.A s rowRseed f) ^^^ own }))

/-- 14 R319, R320: the values that SYSR reads, the registers that SYSW writes, and the traps of both. That SR_MODE shows the formed
pair of the cluster and the degraded step of the device is the model's reading (log 54). -/
def Obligations.SystemRegisters : Prop :=
  let own (e : Env) (s : State) : List Nat := s.partClusters (s.ctx e.n).part
  let reads (n : Nat) (v : Env → State → Nat) : Prop :=
    Performs .sysr rowSysr (fun f _ _ => f.imm.toNat = n) (fun f e s => .done (writeDst s e rowSysr f (v e s)))
  reads 0x000 (fun _ _ => 0x4A160100)
  ∧ reads 0x001 (fun e s => e.n % 2 ^ 16 + (s.ctx e.n).func * 2 ^ 16)
  ∧ reads 0x002 (fun e s => (s.ctx e.n).part + (own e s).length * 2 ^ 8)
  ∧ reads 0x003 (fun e s => boolNat (s.isFixed e.g.cluster) + 2 * boolNat s.tovor.degraded
      + 4 * boolNat (s.pair (e.g.cluster / 2)).formed + 16 * e.gr.level)
  ∧ reads 0x004 (fun e _ => (Rec.seed e.gr.record).toNat % 2 ^ 32)
  ∧ reads 0x005 (fun e _ => (Rec.seed e.gr.record).toNat / 2 ^ 32)
  ∧ reads 0x810 (fun e s => (s.ctx e.n).dbgctl.toNat)
  ∧ reads 0x811 (fun e s => (s.ctx e.n).ibrk.toNat)
  ∧ (∀ k, k ≤ 15 → reads (0x840 + k) (fun e s => match (own e s)[k]? with | some c => 2 ^ 31 + c | none => 0))
  ∧ Performs .sysw rowSysw (fun f _ _ => f.imm = 0x810) (fun f e s => .done (s.modCtx e.n fun c =>
      { c with dbgctl := BitVec.ofNat 2 (e.A s rowSysw f) }))
  ∧ Performs .sysw rowSysw (fun f _ _ => f.imm = 0x811) (fun f e s => .done (s.modCtx e.n fun c =>
      { c with ibrk := BitVec.ofNat 32 (e.A s rowSysw f / 4 * 4) }))
  ∧ Performs .sysr rowSysr (fun f _ _ => f.imm.toNat ∉ [0, 1, 2, 3, 4, 5, 0x810, 0x811] ∧ ¬ (0x840 ≤ f.imm.toNat ∧ f.imm.toNat ≤ 0x84F))
      (fun _ _ _ => .trap { cause := .sysreg, pc := 0 })
  ∧ Performs .sysw rowSysw (fun f _ _ => f.imm.toNat ≤ 5 ∨ (0x840 ≤ f.imm.toNat ∧ f.imm.toNat ≤ 0x84F))
      (fun _ _ _ => .trap { cause := .sysregRo, pc := 0 })
  ∧ Performs .sysw rowSysw (fun f _ _ => f.imm.toNat ∉ [0, 1, 2, 3, 4, 5, 0x810, 0x811] ∧ ¬ (0x840 ≤ f.imm.toNat ∧ f.imm.toNat ≤ 0x84F))
      (fun _ _ _ => .trap { cause := .sysreg, pc := 0 })

/-! ## Issue, traps, privilege (02, 08, 12, 14) -/

/-- 08 R178; 02 R63; 12 R270; 14 R319: every instruction of the two streams is issued by the row that the opcode map gives it, and this is
what a word that decodes meets there before it executes, in order: an error of its context, the
stream, the field checks, the register file, the pairs, the privilege of its context, then the hazards, those of registers that a
DRAIN operand selects once it is read. A guard that does not hold leaves the PC past the word and everything else as it was. A
read of a pending register comes before a write of one, and both before the check of a selected number; the place of DEAD_READ among
them is the model's choice (log 87). Between an integrity event and the halt only what can be undone is issued (log 46); what else is
issued in the cycle of the event meets its checks, and of its effect only an event of its own remains (18 R392). -/
def Obligations.IssueChecks : Prop :=
  (∀ (i : Instr) row f, i.row? = some (row, f) → ∃ body, ∀ s, exec i s = issue row f s body) ∧
  (∀ (row : OpRow) (f : Form) (s : State) (e : Env) (body : Env → State → Act), envOf s s.cur = some e → windowHolds e row f = true →
    (sameCycle s e.g = false → issue row f s body = .next s)
    ∧ (sameCycle s e.g = true → e.h.fault = none → decodeTrap s e row f = none → e.h.pendingPred f.guard.val = false →
        e.h.pred f.guard.val ≠ f.gneg → hazard s e row f = none → usesDrain f = false → readsCycLo row f = false → needsDup e row f = false →
      (∀ u c, body e s = .event u c → issue row f s body = .next (raiseOn u e.r c))
      ∧ ((∀ u c, body e s ≠ .event u c) → issue row f s body = .next s)))
  ∧ (∀ (row : OpRow) (f : Form) (s : State) (e : Env) (body : Env → State → Act), envOf s s.cur = some e →
      (windowHolds e row f = false ∨ sameCycle s e.g = true) →
    let stops (c : Cause) (aux : Word) : Prop :=
      issue row f s body = .next (raiseTrap s e.r { cause := c, pc := e.h.pc, aux := aux, insn := encodeForm row.opc f })
    let traps (c : Cause) : Prop := stops c 0
    let inFile : Prop := overSlots row f (regallocBad e f) = []
    let paired : Prop := overSlots row f (alignBad f) = []
    let special : Prop := (row.opc = 0x3C0 ∨ row.opc = 0x3C1) ∧ 0x800 ≤ f.imm.toNat ∧ (s.ctx e.n).privileged = false
    let enc := row.encOk e.steward f.fields
    let opnd := row.opndOk e.steward f.fields
    (∀ c, e.h.fault = some c → issue row f s body = .next (raiseOn (s.modHart e.r fun h => { h with fault := none }) e.r c))
    ∧ (e.h.fault = none → (row.stream.has e.steward = false → traps .stream)
    ∧ (row.stream.has e.steward = true →
      (enc = false → traps .illenc)
      ∧ (enc = true → opnd = false → traps .illopnd)
      ∧ (enc = true → opnd = true → ¬ inFile → traps .regalloc)
      ∧ (enc = true → opnd = true → inFile → ¬ paired → traps .pairAlign)
      ∧ (enc = true → opnd = true → inFile → paired → special → traps .priv)
      ∧ (enc = true → opnd = true → inFile → paired → ¬ special →
          (e.h.pendingPred f.guard.val = true → traps .hazardRaw)
          ∧ (e.h.pendingPred f.guard.val = false → e.h.pred f.guard.val = f.gneg →
              issue row f s body = .next (finish s e f (encodeForm row.opc f) none s))
          ∧ (e.h.pendingPred f.guard.val = false → e.h.pred f.guard.val ≠ f.gneg → ∀ c aux, hazard s e row f = some (c, aux) → stops c aux)
          ∧ (e.h.pendingPred f.guard.val = false → e.h.pred f.guard.val ≠ f.gneg → hazard s e row f = none → usesDrain f = true →
              readsCycLo row f = false → e.h.stores = [] → ∀ v w c aux, readDrain s e = .value v w →
              drainHazard s { e with drain := v } row f = some (c, aux) → stops c aux)))))
  ∧ (∀ (e : Env) (row : OpRow) (f : Form) (sel : Selected),
    let reads := overSlots row f (readRegs e.steward f.fields)
    let preads := overSlots row f (readPreds f.fields)
    let writes := overSlots row f (writeRegs e.steward f.fields)
    let pwrites := overSlots row f writePreds
    ((∃ n, n ∈ reads ++ sel.reads ∧ e.h.pendingReg n = true) ∨ (∃ k, k ∈ preads ++ sel.preads ∧ e.h.pendingPred k = true) →
      ∃ aux, hazardWith e row f sel = some (.hazardRaw, aux))
    ∧ ((∀ n, n ∈ reads ++ sel.reads → e.h.pendingReg n = false) → (∀ k, k ∈ preads ++ sel.preads → e.h.pendingPred k = false) →
      ((∃ n, n ∈ writes ++ sel.writes ∧ e.h.pendingReg n = true) ∨ (∃ k, k ∈ pwrites ++ sel.pwrites ∧ e.h.pendingPred k = true) →
        ∃ aux, hazardWith e row f sel = some (.hazardWaw, aux))
      ∧ ((∀ n, n ∈ writes ++ sel.writes → e.h.pendingReg n = false) → (∀ k, k ∈ pwrites ++ sel.pwrites → e.h.pendingPred k = false) →
        ((∃ n, n ∈ reads ∧ n ∈ e.h.dead) → hazardWith e row f sel = some (.deadRead, 0))
        ∧ ((∀ n, n ∈ reads → n ∉ e.h.dead) → (∀ n, n ∈ groupReads e row f → n ∉ e.g.steward.dead) →
            (∀ c, sel.bad = some c → hazardWith e row f sel = some (c, sel.index))
            ∧ (sel.bad = none → (∃ n, n ∈ sel.reads ∧ n ∈ e.h.dead) → hazardWith e row f sel = some (.deadRead, sel.index))
            ∧ (sel.bad = none → (∀ n, n ∈ sel.reads → n ∉ e.h.dead) → hazardWith e row f sel = none)))))

/-- 02 R53, R54; 03 R80; 12 R256: a trap of a thread with a vector, outside a handler and with no result outstanding: the frame
goes into the store queue, the PC to the vector, the context into the handler. In the steward, without a vector or in a
handler the group is killed instead, and with FRAME_FAULT where the frame cannot be placed; with results outstanding the thread
parks until they have returned. The frame holds the
PC, the cause, the access, the instruction, the value of IMM, the address, X56 to X63, the predicates and the cycle, each at its
place (12 R256), and what TRET takes from a frame is what entry put there (12 R258). Under IL2 the stores of the frame wait for their
records, and the new PC is a record behind them (18 R374). That AUX of DOUBLE_TRAP is the second cause (log 38), that the frame holds
registers beyond the file as they stand (log 55), and a frame on a page of a peer (log 47) are the model's choices. -/
def Obligations.TrapEntry : Prop :=
  (∀ (s : State) (r : CtxRef) (t : TrapInfo) (g : Group) (gr : Grid) (h : Hart),
    s.group? r.group = some g → s.hart? r = some h → s.grid? g.grid = some gr → g.state ≠ .killed → g.state ≠ .retired →
    (g.rollback = true → raiseTrap s r t = s) ∧ (g.rollback = false →
    let aux := if t.addr ≠ 0 then t.addr.toNat % 2 ^ 32 else t.aux.toNat
    (r.who = .steward → raiseTrap s r t = killGroup s r.group t.cause t.pc.toNat aux 0)
    ∧ (r.who ≠ .steward → Hdr.trapEn gr.header = false → raiseTrap s r t = killGroup s r.group t.cause t.pc.toNat aux h.quad)
    ∧ (r.who ≠ .steward → Hdr.trapEn gr.header = true → h.handler = true →
        raiseTrap s r t = killGroup s r.group .doubleTrap t.pc.toNat (Cause.code t.cause) h.quad)
    ∧ (∀ n, r.who = .thread n → Hdr.trapEn gr.header = true → h.handler = false → h.results = [] →
        let va := privBase gr g.index n + Hdr.privBytes gr.header
        let v := walkFrame (s.modHart r fun h =>
          { h with wait := .none, dup := none, parkS := false, starve := 0, urgent := false, slotAt := none
                   reconvAt := if t.cause = .step then h.reconvAt else none, spin := { last := none, count := 0 } }) g.coreNo g.ctx va 5
        let frame := bytesOfNat 80 (frameBits h (Hdr.regs gr.header) t (s.clusterCycles g.cluster))
        (frameChunks v g va needWrite 5 = none →
          raiseTrap s r t = killGroup (meetFrame v g.ctx va 5) r.group .frameFault t.pc.toNat (Cause.code t.cause) h.quad)
        ∧ ∀ ls, frameChunks v g va needWrite 5 = some ls → let u := raiseTrap s r t
          ∃ h', u.hart? r = some h' ∧ h'.pc = BitVec.ofNat 32 (Hdr.trapPc gr.header) ∧ h'.handler = true
            ∧ h'.status = .ready ∧ h'.regs = h.regs ∧ h'.preds = h.preds
            ∧ h'.stores = h.stores ++ ls.zipIdx.map (fun p =>
                let bs := (frame.drop (16 * p.2)).take 16
                { act := match p.1 with | .flat a host => .bytes (wholeBytes a bs) host | .peer k c a => .remote k c a (.write bs)
                  agreed := decide (gr.level < 2), region := h.regionNo })
            ∧ u.mem = v.mem ∧ u.ctxs = v.ctxs ∧ u.tovor = v.tovor
            ∧ (u.core g.coreNo).records.map (fun x => x.2.row) = (v.core g.coreNo).records.map (fun x => x.2.row)
                ++ if gr.level < 2 then [] else List.replicate ls.length 1 ++ [3])
    ∧ (∀ n, r.who = .thread n → Hdr.trapEn gr.header = true → h.handler = false → h.results ≠ [] →
        ∃ h', (raiseTrap s r t).hart? r = some h' ∧ h'.status = .parked ∧ h'.trapping = some t ∧ h'.handler = false ∧ h'.pc = h.pc
          ∧ h'.regs = h.regs ∧ h'.preds = h.preds ∧ h'.results = h.results)))
  ∧ (∀ (h g : Hart) (xregs cycle : Nat) (t : TrapInfo), xregs ≤ 64 → h.regs.length = xregs → g.regs.length = xregs →
    let fr := frameBits h xregs t cycle
    bitsOf fr 0 32 = t.pc.toNat ∧ bitsOf fr 32 8 = Cause.code t.cause ∧ bitsOf fr 40 4 = t.space.toNat
    ∧ fr.testBit 44 = t.write ∧ bitsOf fr 45 19 = 0 ∧ bitsOf fr 64 96 = t.insn.toNat ∧ bitsOf fr 160 32 = t.aux.toNat
    ∧ bitsOf fr 192 64 = t.addr.toNat ∧ bitsOf fr 512 7 = h.preds.toNat ∧ bitsOf fr 576 64 = cycle % 2 ^ 64
    ∧ (∀ i, i < 8 → bitsOf fr (256 + 32 * i) 32 = if 56 + i < xregs then (h.regs.getD (56 + i) 0).toNat else 0)
    ∧ (restoreFrame xregs fr g).pc = t.pc ∧ (restoreFrame xregs fr g).preds = h.preds ∧ (restoreFrame xregs fr g).handler = false
    ∧ (∀ i, 56 ≤ i → i < xregs → (restoreFrame xregs fr g).regs.getD i 0 = h.regs.getD i 0)
    ∧ (∀ i, i < 56 → (restoreFrame xregs fr g).regs.getD i 0 = g.regs.getD i 0))

/-- 02 R43, R44; 08 R185: P7 reads true and keeps nothing, ZERO reads 0, and a destination ZERO discards the value, which of a
variable-latency instruction still returns (02 R64). -/
def Obligations.HardwiredOperands : Prop :=
  (∀ h : Hart, h.pred 7 = true ∧ ∀ v, h.setPred 7 v = h)
  ∧ (∀ (h : Hart) k v, k < 7 → (h.setPred k v).pred k = v ∧ ∀ j, j ≠ k → (h.setPred k v).pred j = h.pred j)
  ∧ (∀ s e f k, operandValue s e f k .zero = 0)
  ∧ (∀ s e row f v, f.d = .zero → isVar row f = false → writeDst s e row f v = s)
  ∧ (∀ s e row f v, isVar row f = false → writePred s e row f (.p 7) v = s)
  ∧ (∀ s e row f v, f.d = .zero → isVar row f = true →
      writeDst s e row f v = s.modHart e.r fun h => h.addResult [] [] (some (BitVec.ofNat 128 v)))
  ∧ (∀ (h : Hart) (q : Result) v, q.regs = [] → q.preds = [] → (h.returnResult q v).regs = h.regs ∧ (h.returnResult q v).preds = h.preds)

/-! ## Happenings (spec/95_what_each_step_holds.md) -/

/-- 02 R53, R59, R60, R62; 04 R116; 09 R200; 12 R250, R251; 18 R367, R377: the happenings of one context. That a yield keeps its
context off the port for the 8 cycles after the cycle of its issue (log 79), and that a happening out of its turn leaves the state
as it is (log 28), are the model's readings; the order of a store behind ordered accesses is log 34. -/
def Obligations.ContextHappenings : Prop :=
  ∀ (s : State) (r : CtxRef) (g : Group) (h : Hart), s.group? r.group = some g → s.hart? r = some h →
    (∀ k q v, h.results[k]? = some q → q.value = some v → g.present = true →
      exec (.resultReturn r k) s
        = .next (tryExit (endPark (stewardWrote (s.modHart r fun h => h.returnResult q v.toNat) r) r) r))
    ∧ (∀ st rest, h.stores = st :: rest → st.agreed = true → g.present = true → g.halting = none →
      exec (.storeCommit r) s = .next (tryExit (commitStore (s.modHart r fun h => { h with stores := rest }) g r h st) r))
    ∧ (∀ st rest, h.stores = st :: rest → (st.agreed = false ∨ g.halting.isSome = true) → exec (.storeCommit r) s = .next s)
    ∧ (∀ t, h.trapping = some t → s.groupLive g = true → h.results = [] → exec (.trapEntry r) s = .next (raiseTrap s r t))
    ∧ (∀ wake, h.wait = .sleep wake → wake ≤ s.refNs → h.status = .blocked → s.groupLive g = true → g.isEvicting = false →
      exec (.sleepExpiry r) s = .next (completeWait s r))
    ∧ (∀ wake, h.wait = .sleep wake → s.refNs < wake → exec (.sleepExpiry r) s = .next s)
    ∧ (∀ m d p, h.wait = .reconv m d p → s.groupLive g = true → h.status = .blocked → g.isEvicting = false →
      (d < s.clusterCycles g.cluster → exec (.reconvTimeout r) s = .next (endReconv s r d false))
      ∧ (s.clusterCycles g.cluster ≤ d → exec (.reconvTimeout r) s = .next s))
    ∧ (∀ t, h.yieldExcl = some t →
      (t + 8 < s.clusterCycles g.cluster → exec (.yieldExclusionExpiry r) s = .next (s.modHart r fun h => { h with yieldExcl := none }))
      ∧ (s.clusterCycles g.cluster ≤ t + 8 → exec (.yieldExclusionExpiry r) s = .next s))
    ∧ (∀ e, envOf s r = some e → e.steward = false → 48 ≤ e.h.starve → e.h.spin.count < 4 →
      exec (.urgentThread r) s = .next (s.modHart r fun h => { h with urgent := true }))
    ∧ (∀ e, envOf s r = some e → e.steward = false → 16 ≤ e.h.starve →
      exec (.fuseWaitExpiry r) s = .next (s.modHart r fun h => { h with fuseWaited := true }))
    ∧ (∀ e w, envOf s s.cur = some e → e.h.fault = none →
      exec (.unassignedOpcode w) s = .next (raiseTrap s s.cur
        { cause := if 0x380 ≤ wordOpc w ∧ wordOpc w ≤ 0x3BF then .emu else .illop, pc := e.h.pc, insn := w }))

/-- 04 R104 to R106, R108, R113: arrivals are performed once the stores before them have committed and what went over a link is
answered, with the region entry behind BARRIVE and at BAR; a phase completes when every member has arrived or exited, in a later
cycle than the last of them, and an instance when every member's writes are performed; a NaN that it makes names the lane and the PC of
its lowest member (R259). That the phase of a cluster barrier ends
the batch of every group of the cluster-group is the model's choice (log 80). -/
def Obligations.BarrierHappenings : Prop :=
  (∀ (s : State) (r : CtxRef) g h b isBar entry, s.group? r.group = some g → s.hart? r = some h → h.arrival = some (b, isBar, entry) →
      s.groupLive g = true → h.stores = [] → linkBusy s r = false →
      let u := s.modHart r fun h => { (h.setBar b .arrived).boundary entry with
        arrival := none, taken := if isBar then some b else h.taken }
      let v := u.modGroup r.group fun g => { g with arrived := some (u.clusterCycles g.cluster) }
      exec (.barrierArrivalPerformed r) s
        = .next (settleWaiting (settleMark (if 16 ≤ b then flushL1 v g.coreNo else v) r.group) r.group))
  ∧ (∀ (s : State) (r : CtxRef) g h, s.group? r.group = some g → s.hart? r = some h → h.stores ≠ [] →
      exec (.barrierArrivalPerformed r) s = .next s)
  ∧ (∀ (s : State) key g b, s.group? key = some g → s.groupLive g = true →
      (∀ k p, k ∈ s.peers key → s.group? k = some p → s.groupLive p = true ∨ p.state = .retiring ∨ p.state = .retired) →
      phaseDue s key b = true →
      (∀ r p, r ∈ barMembers s key b → s.group? r.group = some p → p.arrived ≠ some (s.clusterCycles p.cluster)) →
      exec (.barrierPhaseComplete key b) s
        = .next (((barMembers s key b).map fun r => r.group).eraseDups.foldl (fun s k => endBatchOf (settleMark s k) k)
            ((barMembers s key b).foldl (passBarrier b) s)))
  ∧ (∀ (s : State) key g b, s.group? key = some g → phaseDue s key b = false → exec (.barrierPhaseComplete key b) s = .next s)
  ∧ (∀ (s : State) key g b r p, s.group? key = some g → r ∈ barMembers s key b → s.group? r.group = some p →
      p.arrived = some (s.clusterCycles p.cluster) → exec (.barrierPhaseComplete key b) s = .next s)
  ∧ (∀ (s : State) key g k i, s.group? key = some g → g.rdvs[k]? = some i → s.groupLive g = true → i.complete = true →
      (∀ a, a ∈ i.arrivals → linkBusy s { group := key, who := .thread a.tid } = false
        ∧ ∀ h, g.threads[a.tid]? = some h → h.stores = []) → ∀ a rest h, i.members = a :: rest → g.threads[a.tid]? = some h →
      (∀ b, b ∈ rest → a.tid < b.tid)
      ∧ let tag : NanTag := { lane := h.lane, pc := h.pc.toNat }
        let u := leaveAll (s.modGroup key fun g => { g with rdvs := listRemove g.rdvs k }) key i tag i.arrivals
        exec (.rdvInstanceComplete key k) s = .next (unmark (settleMark u key) key g))
  ∧ (∀ (s : State) key g k i, s.group? key = some g → g.rdvs[k]? = some i → i.complete = false →
      exec (.rdvInstanceComplete key k) s = .next s)

/-- 03 R87 to R89, R95 to R99; 05 R138, R139; 15 R330, R331; 16 R341: groups are placed, evicted, retired and killed, a
cluster-group as one, grids complete, and ordered batches are applied in the order of the token, which goes on once what they have
written is performed. -/
def Obligations.GroupHappenings : Prop :=
  (∀ (s : State) key g, s.group? key = some g → g.state = .retiring → g.rollback = false → g.padWaits s = false → (s.ctx g.ctx).state = .running →
      s.cmdsOf key g = [] →
      g.batches = [] → (∀ p, p ∈ g.harts → p.2.ord = [] ∧ p.2.stores = [] ∧ linkBusy s { group := key, who := p.1 } = false) →
      let u := (releaseClaim (flushL1 s g.coreNo) key g).modCore g.coreNo fun c =>
        { c with running := if c.running = some key then none else c.running }
      let v := (u.modGroup key fun g => { g with state := .retired, rdvs := [], dq := [] }).modGrid g.grid fun gr =>
        { gr with retired := gr.retired + 1 }
      exec (.groupRetire key) s = .next (settleCtx (countTrigger v key) g.ctx))
  ∧ (∀ (s : State) grid gr, s.grid? grid = some gr → gr.retired + gr.killed = gr.total → gr.ended = false →
      (∀ c x, c ∈ s.cores → x ∈ c.2.cmds → x.gid / 2 ^ 64 ≠ grid) →
      let u := ((s.groups.filter fun p => p.2.grid == grid).map fun p => p.2.coreNo).eraseDups.foldl flushL1 s
      let v := (writeStatus u gr.ctx (Rec.statusAddr gr.record) gr.ending.bits).setGrid grid { gr with ended := true }
      (gridReleased v grid gr.ctx = false → exec (.gridComplete grid) s = .next v)
      ∧ (gridReleased v grid gr.ctx = true →
        let w := if gr.trigDone then v else bumpEvent v gr.ctx (Rec.trigEvent gr.record)
        let y := bumpEvent w gr.ctx (Rec.signalEvent gr.record)
        let x := if gr.owed then y.modQueue gr.part gr.queue (completeRecord (BitVec.ofNat 32 gr.recIdx) gr.refused.isNone) else y
        exec (.gridComplete grid) s = .next (settleCtx
          { x with grids := mapDrop x.grids grid, groups := x.groups.filter fun p => p.2.grid != grid } gr.ctx)))
  ∧ (∀ (s : State) key gr c cluster core quad, s.grid? (key / 2 ^ 64) = some gr →
      (placeCands s gr.part).find? (fun c => c.key == key) = some c → placesNow s gr.part c cluster core quad = true →
      let ranks := ranksOf gr c cluster core
      let u := ranks.foldl (placeOne c.grid gr cluster quad) (adoptMode (passOver s gr.part c) (s.ctx gr.ctx) cluster)
      let v := if c.again then u else u.modGrid c.grid fun gr' => { gr' with next := gr'.next + Hdr.cgroup gr.header }
      exec (.groupPlacement key cluster core quad) s
        = .next ((ranks.map fun p => groupKey c.grid p.1).foldl resettle (startSlice v gr.ctx false)))
  ∧ (∀ (s : State) key g t ns, s.group? key = some g → s.groupLive g = true → g.state = .waiting → g.timer = some (t, ns) → t + ns < s.refNs →
      (∀ k p, k ∈ s.peers key → s.group? k = some p →
        p.state = .retiring ∨ p.state = .retired ∨ (p.state = .waiting ∧ p.image = none ∧ wakeDue s k p = false)) →
      let external : Prop := ∃ k p, k ∈ s.peers key ∧ s.group? k = some p ∧ p.state = .waiting
        ∧ ∃ q, q ∈ p.waiters ∧ waitExternal q.2.wait = true
      (external → exec (.evictionTimerExpiry key) s = .next ((s.peers key).foldl beginImage s))
      ∧ (¬ external → exec (.evictionTimerExpiry key) s = .next ((s.peers key).foldl watchdogOne s)))
  ∧ (∀ (s : State) key g i, s.group? key = some g → g.image = some i → i.writing = true → (g.state = .waiting ∨ g.state = .resident) →
      let ks := (s.peers key).filter fun k => (s.group? k).any fun p => p.image.any fun i => i.writing
      key ∈ ks → (∀ k p, k ∈ ks → s.group? k = some p → p.atRest s k = true) →
      (∀ v, saveFault s ks = .ok v → exec (.evictionComplete key) s = .next (settleCtx (settlePeers (ks.foldl leaveOne v)) g.ctx))
      ∧ (∀ v, saveFault s ks = .error v → exec (.evictionComplete key) s = .next v))
  ∧ (∀ (s : State) grid gr g b rest u, s.grid? grid = some gr → s.group? (groupKey grid gr.tokenIndex) = some g →
      Hdr.det gr.header = true → g.batches = b :: rest → g.present = true → g.halting = none →
      groupReleased s (groupKey grid gr.tokenIndex) g = true → applyBatch (groupKey grid gr.tokenIndex) g gr s b = (u, [], none) →
      let key := groupKey grid gr.tokenIndex
      let v := u.modGroup key fun g => { g with batches := [] :: rest }
      (groupReleased v key g = false → exec (.orderedBatchApply grid) s = .next v)
      ∧ (groupReleased v key g = true → exec (.orderedBatchApply grid) s = .next ((flushL1 (v.modGroup key
          fun g => { g with batches := g.batches.drop 1, rounds := g.rounds + 1 }) g.coreNo).setGrid grid (nextToken gr))))
  ∧ (∀ (s : State) grid gr g, s.grid? grid = some gr → s.group? (groupKey grid gr.tokenIndex) = some g →
      groupReleased s (groupKey grid gr.tokenIndex) g = false → g.batches ≠ [] → exec (.orderedBatchApply grid) s = .next s)
  ∧ (∀ (s : State) grid gr g, s.grid? grid = some gr → s.group? (groupKey grid gr.tokenIndex) = some g →
      Hdr.det gr.header = true → g.batches = [] → (g.state = .retired ∨ g.state = .killed ∨ g.state = .retiring) →
      exec (.orderedBatchApply grid) s = .next (s.setGrid grid (nextToken gr)))
  ∧ (∀ (s : State) key cause pc aux quad g, s.group? key = some g → g.state ≠ .killed → g.state ≠ .retired →
      let u := killOne s key cause pc aux quad false
      (∃ g', u.group? key = some g' ∧ g'.state = .killed ∧ g'.dq = [] ∧ g'.rdvs = [] ∧ g'.batches = [] ∧ g'.image = none
        ∧ g'.timer = none ∧ g'.savedCmds = [] ∧ g'.rollback = false ∧ g'.halting = none
        ∧ ∀ p, p ∈ g'.harts → p.2.status = .exited ∧ p.2.results = [] ∧ p.2.stores = [] ∧ p.2.ord = [])
      ∧ (u.ctx g.ctx).kills = satInc (s.ctx g.ctx).kills
      ∧ (∀ gr, s.grid? g.grid = some gr → ∃ gr', u.grid? g.grid = some gr' ∧ gr'.killed = gr.killed + 1
          ∧ gr'.firstGroup = some (gr.firstGroup.getD g.index) ∧ gr'.cause = some (gr.cause.getD cause))
      ∧ (∀ c, c ∈ (u.core g.coreNo).cmds → c.gid ≠ key) ∧ (u.core g.coreNo).running ≠ some key
      ∧ (g.state ≠ .evicted → g.state ≠ .pending → (u.core g.coreNo).claim ≠ some key))
  ∧ (∀ (s : State) key cause pc aux quad k g, k ∈ s.peers key → s.group? k = some g → g.state ≠ .retired → g.state ≠ .killed →
      ∃ g', (killGroup s key cause pc aux quad).group? k = some g' ∧ g'.state = .killed)

/-- 05 R124; 07 R167, R168; 14 R298 to R309: engine commands start in the order of their core, and what each leaves when it
completes; a copy, a drain and a DLT that wrote over a link complete once it is answered. That a mark made after a DLT's start
serves none of its steps is the model's choice (log 94). The clauses of MXS, DLT and CPY are of groups below IL2, where no record
of 18 R374 stands between. -/
def Obligations.EngineHappenings : Prop :=
  ∀ (s : State) (core k : Nat) (c : Cmd) (g : Group) (e : Env), cmdAt s core k = some (c, g) → cmdEnv s c = some e →
    (canStart s core c = true → c.kind ≠ .dlt →
      exec (.engineCommandStart core k) s = .next (putCmd (takeAgain s c) core
        { c with started := true, snapshot := startTiles (takeAgain s c) core c, again := false, relock := [] }))
    ∧ (canStart s core c = true → c.kind = .dlt → c.progress = 0 → ∃ c', exec (.engineCommandStart core k) s
          = .next (putCmd (takeAgain s c) core c') ∧ c'.started = true ∧ c'.id = c.id ∧ c'.block = c.block ∧ c'.descs = c.descs
        ∧ let r := ((s.ctx g.ctx).slot (blkBits c.block 0 0 6)).bits
          Slot.fullRun c'.slotRec = decide (effectiveState r c.version = 1 ∨ effectiveState r c.version = 3
            ∨ Slot.slotMax c.slotRec ≤ Slot.age r)
          ∧ Slot.pcolLo c'.slotRec = Slot.pcolLo r ∧ Slot.pcolHi c'.slotRec = Slot.pcolHi r)
    ∧ (canStart s core c = false → exec (.engineCommandStart core k) s = .next s)
    ∧ (c.started = true → c.kind = .mxz →
      exec (.mxComplete core k) s = .next (endCmd (zeroTiles core (blkBits c.block 0 16 5) s c.quads) core c))
    ∧ (∀ ty mix cols rows u v, c.started = true → c.kind = .mx ty mix →
      (∀ q, q ∈ c.quads → q * 24 + blkBits c.block 0 16 5 ∉ (s.core core).accUe) →
      let n := blkBits c.block 3 0 9
      mxCols e c n s = .ok (cols, u) → engFold (mxRows e c n) u (List.range c.quads.length) = .ok (rows, v) →
      exec (.mxComplete core k) s = .next (endCmd (mxDepth core c (putCmd (mxApply core c rows cols v) core { c with progress := n, fetched := [] })) core c))
    ∧ (∀ ty mix q, c.started = true → c.kind = .mx ty mix →
      (c.quads.find? fun q => (s.core core).accUe.contains (q * 24 + blkBits c.block 0 16 5)) = some q →
      exec (.mxComplete core k) s = .next (integrityEvent (abandonFrom s core g c)
        { key := c.gid, cause := .accUe, pc := c.pc.toNat, part := unitOf g (some q) .accUe }
        |>.modHart { group := c.gid, who := .steward } haltHart))
    ∧ (∀ u, c.started = true → c.kind = .cpy → e.gr.level < 2 →
      cpyMove e core c (cpyCount (mapGet 0 c.descs 1)) s = .ok u →
      (engReleased u c.id = true → exec (.cpyComplete core k) s = .next (endCmd (writeDue u (cpyDue g c 0)) core c))
      ∧ (engReleased u c.id = false → exec (.cpyComplete core k) s = .next u))
    ∧ (∀ ws u n, engFold (cpyElem e c) s (((extentPoints (cpyExtents (mapGet 0 c.descs 1))).drop c.progress).take (n - c.progress)) = .ok (ws, u) →
      cpyMove e core c n s = .ok (putCmd (engPerform e none c.id u ws.flatten) core { c with progress := n, fetched := [] }))
    ∧ (∀ a, c.started = true → c.kind = .cpy → cpyMove e core c (cpyCount (mapGet 0 c.descs 1)) s = .error (.page a) →
      exec (.cpyComplete core k) s = .next (killGroup s c.gid .enginePage c.pc.toNat (wrap a 32) (c.quads.headD 0)))
    ∧ (∀ z vs u, c.kind = .mxd z → c.started = true → c.rows.length < 32 → c.rows.length < rowsFreed s e c + 8 →
      engFold (drainElem e core c) s ((List.range 32).map fun n => (c.rows.length, n)) = .ok (vs, u) →
      let out (v : Nat) : Word := BitVec.ofNat 32 (if blkBits c.block 0 23 3 = 3 then wrap (sext v 8) 32 else v)
      let c' := { c with rows := c.rows ++ [vs.map out], progress := c.rows.length + 1, fetched := [] }
      exec (.drainRowConvert core k) s = .next (wakeReaders (putCmd u core c') c'))
    ∧ (∀ z, c.kind = .mxd z → c.started = true → c.rows.length = 32 → rowsFreed s e c = 32 →
      exec (.mxdComplete core k) s = .next (endCmd (drainZero s core z c) core c))
    ∧ (∀ z ws u, c.kind = .mxs z → c.started = true → e.gr.level < 2 →
      drainUntil e core c (mapGet 0 c.descs 1) s (mxsPoints c 32) = (ws, u, none) →
      let v := putCmd (engPerform e none c.id u ws) core { c with progress := 32, fetched := [] }
      exec (.mxsComplete core k) s = .next (if engReleased v c.id then endCmd (drainZero v core z c) core c else v))
    ∧ (∀ ws up u, c.kind = .dlt → c.started = true → c.progress < Slot.cols c.slotRec * Slot.kb c.slotRec → e.gr.level < 2 →
      blockStep s e c (c.progress % Slot.kb c.slotRec) (c.progress / Slot.kb c.slotRec) = .ok ((ws, up), u) →
      let q := blkBits c.block 0 0 6
      let v := engPerform e (some (g.ctx, q)) c.id u ws
      let r := Slot.put ((v.ctx g.ctx).slot q).bits 0 21 (c.progress + 1)
      exec (.dltBlockStep core k) s = .next (putCmd (v.setSlot g.ctx q
        (if up then Slot.put r 384 64 (Slot.updated r + 1) else Slot.put r 448 64 (Slot.skipped r + 1))) core
        { c with progress := c.progress + 1, fetched := [] }))
    ∧ (∀ tiles u, c.kind = .dlt → c.started = true → c.progress = Slot.cols c.slotRec * Slot.kb c.slotRec → engReleased s c.id = true →
      engFold (deliverTile e c.slotRec) s (List.range (ceilDiv (Slot.rows c.slotRec) 32 * ceilDiv (Slot.cols c.slotRec) 32)) = .ok (tiles, u) →
      let q := blkBits c.block 0 0 6
      let p : Prov := { ctx := g.ctx, slot := q, serial := ((u.ctx g.ctx).slot q).serial, t0 := blkBits c.block 0 16 5
                        cols := ceilDiv (Slot.cols c.slotRec) 32 }
      let v := tiles.zipIdx.foldl (fun s x => putTile s core (blkBits c.block 0 24 2) (blkBits c.block 0 16 5 + x.2) x.1 (some p)) u
      exec (.dltComplete core k) s = .next (endCmd (v.setSlot g.ctx q (doneRecord ((v.ctx g.ctx).slot q).bits c)) core c))

/-- 16 R333 to R340; 14 R315; 15 R327; 17 R351, R362: queues are configured, enabled and disabled by a function that reaches them, a
doorbell makes records visible or puts the queue in ERROR, each once the peers have acknowledged the host's window writes before it, a
queue that a reset holds takes nothing, the function of a RESETTING context is not served, and the head record is held, dispatched or
refused. That a refused doorbell still sets WRITE_IDX, that a disable clears FAULT_CAUSE and that a refused configuration write is
logged with its KIND for the queue's context (log 57), and at a dispatch that every wait word is read before the record is judged and
that a record is taken in any state of its context but FREE and RESETTING (log 56), are the model's choices. -/
def Obligations.QueueHappenings : Prop :=
  let queueInstr (p : Reach) (k : Nat) (w : QueueWrite) : Instr := match w with
    | .doorbell v => .doorbell p k v
    | .enable => .queueEnable p k
    | .disable => .queueDisable p k
    | .config b => .queueConfigWrite p k b
  (∀ (s : State) (f p k : Nat), noQueue s ⟨f, p⟩ k = false →
    let q := s.queue p k
    let open_ : Prop := q.state = .idle ∨ q.state = .active ∨ q.state = .headWait
    let bad (v : Word) : Prop := 2 ^ 31 ≤ (v - q.writeIdx).toNat ∨ 2 ^ q.log2 < (v - q.readIdx).toNat
    (queueHeld s q = true →
      let answers (u : State) : State := if f ≠ 0 ∧ (s.ctx q.ctx).state = .resetting then answerHost u .unsupported else u
      (∀ v, exec (.doorbell ⟨f, p⟩ k v) s = .next (answers s))
      ∧ exec (.queueEnable ⟨f, p⟩ k) s = .next (unserved (denyDevice s (some q.ctx)) ⟨f, p⟩ q)
      ∧ exec (.queueDisable ⟨f, p⟩ k) s = .next (unserved (denyDevice s (some q.ctx)) ⟨f, p⟩ q)
      ∧ ∀ b, exec (.queueConfigWrite ⟨f, p⟩ k b) s = .next (unserved (denyDevice s (some q.ctx)) ⟨f, p⟩ q))
    ∧ (queueHeld s q = false → f ≠ 0 → (s.ctx q.ctx).state = .resetting →
      ∀ i, (i ∈ [Instr.queueEnable ⟨f, p⟩ k, .queueDisable ⟨f, p⟩ k] ∨ (∃ v, i = .doorbell ⟨f, p⟩ k v) ∨ ∃ b, i = .queueConfigWrite ⟨f, p⟩ k b) →
        exec i s = .next (answerHost s .unsupported))
    ∧ (queueHeld s q = false → (f = 0 ∨ (s.ctx q.ctx).state ≠ .resetting) →
      (∀ w, hostBusy s = true → exec (queueInstr ⟨f, p⟩ k w) s = .next (postHost s (.queue ⟨f, p⟩ k w)))
      ∧ (∀ w, hostBusy s = false → exec (queueInstr ⟨f, p⟩ k w) s = .next (queueWrite s ⟨f, p⟩ k w))
      ∧ (∀ v, queueWrite s ⟨f, p⟩ k (.doorbell v) = ringDoorbell s p k v)
      ∧ (∀ v, open_ → ¬ bad v → (ringDoorbell s p k v).queue p k =
        { q with writeIdx := v, state := if q.state = .idle ∧ v ≠ q.readIdx then .active else q.state })
      ∧ (∀ v, open_ → bad v →
        ringDoorbell s p k v = failQueue (s.modQueue p k fun q => { q with writeIdx := v }) p k .launchRecord)
      ∧ (∀ v, ¬ open_ → ringDoorbell s p k v = s.modQueue p k fun q => { q with writeIdx := v })
      ∧ (q.state = .disabled → queueWrite s ⟨f, p⟩ k .enable = ((disown s p k).setQueue p k
          { q with enable := true, state := .idle, readIdx := q.writeIdx, doneIdx := q.writeIdx, doneOut := [], head := none, met := [] }))
      ∧ (q.state = .draining → queueWrite s ⟨f, p⟩ k .enable = denyCtx s q.ctx 3)
      ∧ (q.enable = true → queueWrite s ⟨f, p⟩ k .disable = (denyLaunchers (s.setQueue p k
          { q with enable := false, head := none, met := [], faultCause := 0
                   state := if q.inflight = 0 then .disabled else .draining }) p k))
      ∧ (∀ b, q.state = .disabled → field b 65 4 ≤ 12 → queueWrite s ⟨f, p⟩ k (.config b) = (s.setQueue p k
          { q with qbase := BitVec.ofNat 64 (field b 7 57 * 128), launchOk := flag b 64, log2 := field b 65 4, prio := field b 69 3
                   ctx := field b 80 16 }))
      ∧ (∀ b, q.state ≠ .disabled ∨ 12 < field b 65 4 → queueWrite s ⟨f, p⟩ k (.config b) = denyCtx s q.ctx 3)))
  ∧ (∀ (s : State) (f p k : Nat), noQueue s ⟨f, p⟩ k = true →
      ∀ i, i ∈ [Instr.queueEnable ⟨f, p⟩ k, .queueDisable ⟨f, p⟩ k] → exec i s = .next s)
  ∧ (∀ (s : State) (f p k : Nat), noQueue s ⟨f, p⟩ k = true ↔ (s.tovor.released = false ∨ 12 ≤ p ∨ 64 ≤ k
      ∨ (f ≠ 0 ∧ ¬ ((s.ctx (s.queue p k).ctx).func = f ∧ (s.ctx (s.queue p k).ctx).state ≠ .free ∧ (s.ctx (s.queue p k).ctx).part = p))))
  ∧ (∀ (s : State) (p k : Nat),
    let q := s.queue p k
    (q.state = .active ∨ q.state = .headWait) → q.held = false → q.writeIdx ≠ q.readIdx → q.inflight < 8 →
      (s.ctx q.ctx).state ≠ .free → (s.ctx q.ctx).state ≠ .resetting →
      (∀ w, headRecord s q = (w, none) →
        exec (.queueDispatch p k) s = .next (logQueue (failQueue w p k .launchFault) q.ctx .launchFault 0))
      ∧ ∀ w r, headRecord s q = (w, some r) →
        (recordOk r = false → exec (.queueDispatch p k) s = .next (refuse w p k q.ctx r 2 none))
        ∧ (∀ x, recordOk r = true → readWaits q.ctx r q.met w (List.range (Rec.nwaits r)) = .fault x →
          exec (.queueDispatch p k) s = .next (refuse x p k q.ctx r 8 (some .eventWaitFault)))
        ∧ (∀ x met, recordOk r = true → readWaits q.ctx r q.met w (List.range (Rec.nwaits r)) = .known x met →
          ((∃ i, i < Rec.nwaits r ∧ i ∉ met) → exec (.queueDispatch p k) s = .next (x.setQueue p k
            { x.queue p k with state := .headWait, head := some r, met := met }))
          ∧ ((∀ i, i < Rec.nwaits r → i ∈ met) →
            (∀ y h lv, judgeRecord x q.ctx r = (y, .ok (h, lv)) → exec (.queueDispatch p k) s = .next (startGrid y p k q.ctx r h lv))
            ∧ (∀ y st c, judgeRecord x q.ctx r = (y, .error (st, c)) → exec (.queueDispatch p k) s = .next (refuse y p k q.ctx r st c)))))
  ∧ (∀ (s : State) (p k : Nat) (r : CtxRef) g h b u, s.group? r.group = some g → s.hart? r = some h → h.wait = .launch p k b →
      h.status = .blocked → s.groupLive g = true → g.isEvicting = false → (s.queue p k).full = false → (s.queue p k).launchable g.ctx = true →
      appendRecord s g.ctx p k b = some u →
      exec (.launchHeldPerform r) s
        = .next (settleMark (completeWait (u.modHart r fun h => h.boundary (h.pc + 12)) r) r.group))

/-- 17 R351, R352, R354, R356, R362, R363: contexts are created, written, pre-empted and reset; what is refused is logged. That
the record of a refused write names its context is the model's choice (log 67). -/
def Obligations.ContextRegisters : Prop :=
  ∀ (s : State) (n : Nat), s.tovor.released = true → n < 1024 →
    let c := s.ctx n
    (createDenied s n = false → ∃ u, exec (.create n) s = .next u ∧ u.ctx n =
      { c with state := .idle, rollbacks := 0, corrected := 0, integ := 0, kills := 0, logIdx := 0, saves := 0, lastSaveNs := 0
               lastSaveBlk := 0, grpSel := 0 })
    ∧ (createDenied s n = true → exec (.create n) s = .next (denyDevice s (some n)))
    ∧ ((c.state = .idle ∨ c.state = .running) → exec (.destroy n) s = .next (startReset s n .contextKill 6))
    ∧ (c.state ≠ .idle → c.state ≠ .running → exec (.destroy n) s = .next (denyDevice s (some n)))
    ∧ (c.state ≠ .free → c.state ≠ .resetting → exec (.reset n) s = .next (startReset s n .contextKill 6))
    ∧ (c.state = .running → exec (.preempt n) s = .next (preemptCtx s n) ∧ ((preemptCtx s n).ctx n).state = .saving)
    ∧ (c.state ≠ .running → exec (.preempt n) s = .next (denyDevice s (some n)))
    ∧ (∀ b, c.state = .free → exec (.contextFieldWrite n b) s = .next (s.setCtx n { c with ctl := b &&& ctlMask }))
    ∧ (∀ b, c.state ≠ .free → (b &&& ctlMask ^^^ c.ctl) &&& ~~~timerMask ≠ 0 → exec (.contextFieldWrite n b) s = .next (denyDevice s (some n)))
    ∧ (∀ v, exec (.grpSelWrite ⟨n, true⟩ v) s = .next (s.setCtx n { c with grpSel := v })
        ∧ exec (.grpSelWrite ⟨n, false⟩ v) s = .next (if c.func ≠ 0 ∧ c.state = .resetting then answerHost s .unsupported else s))
    ∧ (∀ t us, c.sliceAt = some (t, us) → c.state = .running → us ≠ 0 → t + us * 1000 ≤ s.refNs → turnWanted s n = true →
      exec (.sliceExpiry n) s = .next (preemptCtx s n))
    ∧ exec (.functionLevelReset n) s
        = .next (((boundContexts s).filter fun p => p.2 == n + 1).foldl (fun s p => startReset s p.1 .vfReset 6) s)
    ∧ exec .vfEnableClear s = .next ((boundContexts s).foldl (fun s p => startReset s p.1 .vfDisable 7) s)

/-- 17 R356 to R360, R362, R365: a reset lets go of its queues after 20 µs, once the context's grids have completed, and frees the
context when its memory is zero; a save takes every group at once, after the errors that it meets, and the SAVED context whose
turn it is returns when all its groups fit, its slice clock starting afresh. -/
def Obligations.ContextSequences : Prop :=
  (∀ (s : State) n r, (s.ctx n).reset = some r → r.queuesHeld = true → r.start + 20000 ≤ s.refNs →
      (∀ p, p ∈ s.grids → p.2.ctx ≠ n) →
      ∃ u, exec (.resetQueueHoldExpiry n) s = .next u ∧ (u.ctx n).reset = some { r with queuesHeld := false } ∧ u.groups = s.groups
        ∧ ∀ p k, (s.queue p k).ctx = n → (s.queue p k).held = true → (u.queue p k).held = false ∧ (u.queue p k).state = .disabled)
  ∧ (∀ (s : State) n r, (s.ctx n).reset = some r → (s.refNs < r.start + 20000 ∨ ∃ p, p ∈ s.grids ∧ p.2.ctx = n) →
      exec (.resetQueueHoldExpiry n) s = .next s)
  ∧ (∀ (s : State) n r, (s.ctx n).reset = some r → r.queuesHeld = false → (∀ p, p ∈ s.grids → p.2.ctx ≠ n) →
      ∃ u, exec (.resetZeroingComplete n) s = .next u ∧ (u.ctx n).state = .free ∧ (u.ctx n).reset = none
        ∧ (u.ctx n).descs = [] ∧ (u.ctx n).kills = 0 ∧ (∀ k, ((u.ctx n).slot k).bits = 0)
        ∧ ∀ q, q ∈ resetRanges (meetTables s n) n → ∀ a, q.1 ≤ a → a < q.1 + q.2 → memGet u.mem a = 0)
  ∧ (∀ (s : State) n, (s.ctx n).state = .saving →
      (∀ p, p ∈ s.groups → p.2.ctx = n → saveReady s p.1 p.2 = true) → ∀ w, saveFault s (savedKeys s n) = .ok w →
      ∀ v done, moveCmds w (cmdsToMove w (savedKeys w n)) = (v, done) → (done = false → exec (.contextSave n) s = .next v) ∧ (done = true →
      ∃ u, exec (.contextSave n) s = .next u ∧ (u.ctx n).state = .saved ∧ (u.ctx n).haltAt = none))
  ∧ (∀ (s : State) n v, (s.ctx n).state = .saving → (∀ p, p ∈ s.groups → p.2.ctx = n → saveReady s p.1 p.2 = true) →
      saveFault s (savedKeys s n) = .error v → exec (.contextSave n) s = .next v)
  ∧ (∀ (s : State) n u, (s.ctx n).state = .saved → restored s n = some u → hasTurn s (s.ctx n).part n = true →
      (∀ x, x ∈ s.ctxs → x.1 ≠ n → x.2.state ≠ .saved ∨ x.2.part ≠ (s.ctx n).part) →
      exec (.contextRestore n) s = .next (settleCtx ((savedKeys s n).foldl resettle (startSlice u n true)) n))
  ∧ (∀ (s : State) n, (startSlice s n true).ctx n
      = { s.ctx n with state := .running, sliceAt := some (s.refNs, (s.ctx n).sliceUs) })
  ∧ (∀ (s : State) n, (s.ctx n).state = .saved → restored s n = none → exec (.contextRestore n) s = .next s)

/-- 18 R383, R384; 16 R346; 15 R323; 20 R417: what Tovor's mailbox answers: each command where its conditions hold (RESTORE by its
self-test, a free value, log 24), DENY where they do not, BAD_REQUEST for a code or a reserved bit; a request that finds the
mailbox pending is ignored; the frame boundary makes a waiting set active and answers it. How long a pair is forming and the
clock step asked for (log 85), an early CLEAR_FAULT that is accepted (log 63), the DENY that REGISTER_CODE answers and the context of
its record (logs 67, 71), the measurement as SHA-384 (log 32), that ATTEST writes at the address of local DRAM (log 25), and the
BAD_REQUEST of a count of 0, of an unlisted kind or pair and of a report ring of a bad base or size (log 96), are the model's choices. -/
def Obligations.MailboxCommands : Prop :=
  (∀ (s : State) (m : MailArgs), s.tovor.released = true → field s.tovor.response 0 8 ≠ 0xFF →
    let arg := mailArg m
    let taken (cmd : Nat) : State := s.modTovor fun t => { t with request := requestBits cmd m }
    let ok (cmd data : Nat) (u : State → State) : Host.Outcome State Fault Refusal := .next (respond (u (taken cmd)) m.tag 0 data)
    let denied (cmd : Nat) (n : Option Nat) : Host.Outcome State Fault Refusal := .next (respond (denyReport (taken cmd) n) m.tag 1 0)
    let bad (cmd : Nat) : Host.Outcome State Fault Refusal := .next (respond (taken cmd) m.tag 3 0)
    let clean (used : Nat) : Prop := m.args &&& ~~~BitVec.ofNat 448 used = 0
    let j := arg 0 3
    (clean 0x7 → ∀ p, s.partOf (2 * j) = some p → s.partOf (2 * j + 1) = some p → (s.pair j).formed = false →
        j ∉ s.retiredPairs → pairBusy s j = false → s.tovor.stepTo = none →
        exec (.pair m) s = ok 0x01 0 fun u =>
          enterFixed (u.setPair j { initPair with formed := true, forming := true }) p ([2 * j, 2 * j + 1].filter fun k => !u.isFixed k))
    ∧ (clean 0x7 → (s.partOf (2 * j) = none ∨ s.partOf (2 * j) ≠ s.partOf (2 * j + 1) ∨ (s.pair j).formed = true ∨ j ∈ s.retiredPairs
        ∨ pairBusy s j = true ∨ s.tovor.stepTo ≠ none) → exec (.pair m) s = denied 0x01 none)
    ∧ (clean 0x7 → (s.pair j).formed = true → pairBusy s j = false → exec (.unpair m) s = ok 0x02 0 fun u => u.setPair j initPair)
    ∧ (clean 0x7 → ((s.pair j).formed = false ∨ pairBusy s j = true) → exec (.unpair m) s = denied 0x02 none)
    ∧ (clean (2 ^ 64 - 1) → ∀ v x, readPf (taken 0x03) (arg 0 64) 384 = (v, some x) → setOk v (setOf x) = true →
        s.tovor.waiting = none → ∃ u, exec (.loadSet m) s = .next u ∧ u.tovor.waiting = some (setOf x, m.tag)
          ∧ field u.tovor.response 0 8 = 0xFF ∧ u.tovor.active = s.tovor.active)
    ∧ (clean (2 ^ 64 - 1) → s.tovor.waiting = none → ∀ v o, readPf (taken 0x03) (arg 0 64) 384 = (v, o) →
        (∀ x, o = some x → setOk v (setOf x) = false) →
        exec (.loadSet m) s = .next (respond (denyReport v none) m.tag 1 0))
    ∧ (clean ((2 ^ 10 - 1) + (2 ^ 64 - 1) * 2 ^ 64) →
        (arg 64 64 % 256 ≠ 0 ∨ 2 ^ 48 ≤ arg 64 64 ∨ (s.ctx (arg 0 10)).state = .resetting) →
        exec (.registerCode m) s = denied 0x04 (some (arg 0 10)))
    ∧ (clean ((2 ^ 10 - 1) + (2 ^ 64 - 1) * 2 ^ 64) → ∀ v h as bs, arg 64 64 % 256 = 0 → arg 64 64 < 2 ^ 48 →
        (s.ctx (arg 0 10)).state ≠ .resetting → readRecord (taken 0x04) (arg 0 10) (arg 64 64) = (v, some h) → 128 ≤ Hdr.totalLen h →
        ∀ z, readObject v (arg 0 10) (arg 64 64) (Hdr.totalLen h) = (z, some (as, bs)) →
        (sha384 (bs.take 80 ++ List.replicate 48 0 ++ bs.drop 128) ≠ (bs.drop 80).take 48 →
          exec (.registerCode m) s = .next (respond (denyReport z (some (arg 0 10))) m.tag 1 0))
        ∧ (sha384 (bs.take 80 ++ List.replicate 48 0 ++ bs.drop 128) = (bs.drop 80).take 48 →
          ∃ u x, exec (.registerCode m) s = .next u ∧ (u.ctx (arg 0 10)).code
              = ((z.ctx (arg 0 10)).code.filter fun x => x.addr != arg 64 64) ++ [x]
            ∧ x.addr = arg 64 64 ∧ x.len = Hdr.totalLen h ∧ x.stale = false ∧ x.measure = BitVec.ofNat 384 (Hdr.measure h)))
    ∧ (clean (0x1F + (2 ^ 64 - 1) * 2 ^ 32) → arg 3 2 ≠ 3 → arg 64 32 ≠ 0 → (s.pair j).formed = true → (s.pair j).inj = none →
        exec (.inject m) s = ok 0x05 0 fun u => u.setPair j { u.pair j with
          inj := some { kind := arg 3 2, mask := BitVec.ofNat 32 (arg 32 32), count := arg 64 32 } })
    ∧ (clean (0x1F + (2 ^ 64 - 1) * 2 ^ 32) → (arg 3 2 = 3 ∨ arg 64 32 = 0) → exec (.inject m) s = bad 0x05)
    ∧ (clean (0x1F + (2 ^ 64 - 1) * 2 ^ 32) → arg 3 2 ≠ 3 → arg 64 32 ≠ 0 → ((s.pair j).formed = false ∨ (s.pair j).inj ≠ none) →
        exec (.inject m) s = denied 0x05 none)
    ∧ (clean (2 ^ 24 - 1) → s.tovor.faultSeq = some (BitVec.ofNat 24 (arg 0 24)) →
        exec (.clearFault m) s = ok 0x06 0 fun u => settleFaultN (u.modTovor fun t => { t with faultClear := t.faultN.isSome }))
    ∧ (clean (2 ^ 24 - 1) → s.tovor.faultSeq ≠ some (BitVec.ofNat 24 (arg 0 24)) → exec (.clearFault m) s = denied 0x06 none)
    ∧ (clean (2 ^ 13 - 1) → arg 0 4 = 0 → arg 4 9 < 8 → ∃ u, exec (.retire m) s = .next u ∧ arg 4 9 ∈ u.retiredPairs
        ∧ u.retiredQuads = s.retiredQuads)
    ∧ (clean (2 ^ 13 - 1) → arg 0 4 = 1 → ∃ u, exec (.retire m) s = .next u ∧ arg 4 9 ∈ u.retiredQuads
        ∧ u.retiredPairs = s.retiredPairs)
    ∧ (clean (2 ^ 13 - 1) → (1 < arg 0 4 ∨ (arg 0 4 = 0 ∧ 8 ≤ arg 4 9)) → exec (.retire m) s = bad 0x07 ∧ exec (.restore m) s = bad 0x08)
    ∧ (clean (2 ^ 13 - 1) → (arg 0 4 = 0 ∧ arg 4 9 < 8) ∨ arg 0 4 = 1 →
        let tested (u : State) : State := u.modTovor fun t => { t with selfTests := t.selfTests + 1 }
        exec (.restore m) s = (if Config.selfTest (arg 0 4) (arg 4 9) s.tovor.selfTests then ok 0x08 0 fun u =>
            if arg 0 4 = 0 then { tested u with retiredPairs := u.retiredPairs.filter fun x => x != arg 4 9 }
            else { tested u with retiredQuads := u.retiredQuads.filter fun x => x != arg 4 9 }
          else .next (respond (denyReport (tested (taken 0x08)) none) m.tag 1 0)))
    ∧ (clean 1 → (∀ p, p ∈ s.pairs → p.2.forming = false) → exec (.clock m) s
        = ok 0x09 0 fun u => askStep (u.modTovor fun t => { t with clockAsked := arg 0 1 == 1 }) (arg 0 1 == 1))
    ∧ (clean 1 → (∃ p, p ∈ s.pairs ∧ p.2.forming = true) → exec (.clock m) s = denied 0x09 none)
    ∧ (clean (2 ^ 68 - 1) → arg 0 64 % 4096 = 0 → 7 ≤ arg 64 4 →
        exec (.reportRing m) s = ok 0x0A 0 fun u => u.modTovor fun t => { t with ring := some (arg 0 64, arg 64 4) })
    ∧ (clean (2 ^ 68 - 1) → (arg 0 64 % 4096 ≠ 0 ∨ arg 64 4 < 7) → exec (.reportRing m) s = bad 0x0A)
    ∧ (clean (2 ^ 330 - 1) → ∀ bs, attestBytes (taken 0x0B) (arg 0 256) (if arg 320 10 = 1023 then none else some (arg 320 10)) = bs →
        arg 256 64 % 64 = 0 → arg 256 64 + bs.length ≤ dramBytes →
        exec (.attest m) s = ok 0x0B bs.length fun u => writeHome u none (wholeBytes (dramBase + arg 256 64) bs))
    ∧ (∀ cmd : Byte, usedBits cmd.toNat = none → exec (.badRequest cmd m) s = bad cmd.toNat)
    ∧ (∀ cmd u, usedBits cmd = some u → ¬ clean u → ∀ b : Byte, b.toNat = cmd → exec (.badRequest b m) s = bad cmd))
  ∧ (∀ (s : State) (m : MailArgs) cmd, field s.tovor.response 0 8 = 0xFF →
      ∀ i, i ∈ [Instr.pair m, .unpair m, .registerCode m, .inject m, .clearFault m, .retire m, .restore m, .clock m, .reportRing m,
        .attest m, .loadSet m, .badRequest cmd m] → exec i s = .next s)
  ∧ (∀ (s : State) ps tag, s.tovor.waiting = some (ps, tag) →
      let v := s.modTovor fun t => { t with active := ps, waiting := none }
      ∃ u, exec .slotSetSwitch s = .next u ∧ u.tovor.active = ps ∧ u.tovor.waiting = none ∧ field u.tovor.response 0 8 = 0
        ∧ field u.tovor.response 32 32 = tag.toNat
        ∧ ((∀ (k : Nat) p, s.tovor.ports[k]? = some p → NetCtl.enabled p.ctl = false ∨ ringOk v p.ctl = true) →
            u.mem = s.mem ∧ u.groups = s.groups ∧ u.tovor.ports = s.tovor.ports)
        ∧ ∀ (k : Nat) p, k < 4 → u.tovor.ports[k]? = some p → NetCtl.enabled p.ctl = true → ringOk u p.ctl = true)
  ∧ (∀ s : State, s.tovor.waiting = none → exec .slotSetSwitch s = .next s)

/-- 18 R369 to R375, R377, R378, R381, R387: clones and the comparator agree or raise their events, an armed injection alters the
shadow's record as it arrives, a record whose partner does not come within 64 cycles times out, a rollback restarts its groups once
they are halted and their results have returned, and what an error of the silicon leaves until something meets it. That the second
execution is the first one's values with what has arisen in it (log 16), that an injection alters the first value of the record (log
51), and the PC of a pair's event (log 66), are the model's choices. -/
def Obligations.RedundancyHappenings : Prop :=
  (∀ (s : State) (core : Nat) r d rest, ((meetRecord core s 0).core core).records = (r, d) :: rest → d.met = true → d.lost = false →
      let u := (meetRecord core s 0).modCore core fun c => { c with records := rest }
      exec (.comparatorCompare core) s = .next (if d.first = d.second then releaseRecord u core r d
        else pairEvent u (core / 16) r d.pc .pairMismatch d.inj))
  ∧ (∀ (s : State) (core : Nat) r d rest, ((meetRecord core s 0).core core).records = (r, d) :: rest → (d.met = false ∨ d.lost = true) →
      exec (.comparatorCompare core) s = .next s)
  ∧ (∀ (s : State) (core : Nat), (s.core core).records = [] → exec (.comparatorCompare core) s = .next s)
  ∧ (∀ (s : State) (core : Nat) r d rest, (s.core core).records = (r, d) :: rest →
      ((s.pair (core / 16)).silent = false → d.met = false → (s.pair (core / 16)).inj = none →
        ((meetRecord core s 0).core core).records = (r, { d with met := true }) :: rest)
      ∧ ((s.pair (core / 16)).silent = true ∨ d.met = true → meetRecord core s 0 = s))
  ∧ (∀ (s : State) (core : Nat) r d rest i, (s.core core).records = (r, d) :: rest → (s.pair (core / 16)).silent = false → d.met = false →
      (s.pair (core / 16)).inj = some i → injectRow i.kind = d.row →
      (i.count ≤ 1 → ((meetRecord core s 0).pair (core / 16)).inj = none ∧ ∃ d', ((meetRecord core s 0).core core).records = (r, d') :: rest
          ∧ d'.first = d.first ∧ d'.inj = true ∧ d'.met = true
          ∧ ∀ v vs, d.second = v :: vs → d'.second = (v ^^^ i.mask.toNat) :: vs)
      ∧ (1 < i.count → ((meetRecord core s 0).pair (core / 16)).inj = some { i with count := i.count - 1 }))
  ∧ (∀ (s : State) j r d, waitingRecord s j = some (r, d) → exec (.shadowTimeout j) s = .next (pairEvent s j r d.pc .shadowTimeout false)
      ∧ settleTimeout s j = pairEvent s j r d.pc .shadowTimeout false)
  ∧ (∀ (s : State) j, ((wakePair s j).pair j).silent = false ∧ ((wakePair s j).pair j).mute = false ∧ (wakePair s j).groups = s.groups)
  ∧ (∀ (s : State) j, waitingRecord s j = none → exec (.shadowTimeout j) s = .next s)
  ∧ (∀ (s : State) j r d, waitingRecord s j = some (r, d) →
      (d.lost = true ∧ d.met = true ∧ d.since + 8 + 64 ≤ s.clusterCycles (2 * j))
        ∨ (d.lost = false ∧ d.met = false ∧ d.since + 64 ≤ s.clusterCycles (2 * j)))
  ∧ (∀ (s : State) (r : CtxRef) core d, (addRecord s r core d).core core
      = { s.core core with records := (s.core core).records ++ [(r, { d with lost := (s.pair (core / 16)).mute })] })
  ∧ (∀ (s : State) (r : CtxRef) g h d, s.group? r.group = some g → s.hart? r = some h → h.dup = some d → d.row = 0 → d.agreed = false →
      d.queued = false → s.groupLive g = true → d.first = d.second →
      exec (.cloneExecute r) s = .next (s.modHart r fun h => { h with dup := some { d with agreed := true, queued := false } }))
  ∧ (∀ (s : State) (r : CtxRef) g h d, s.group? r.group = some g → s.hart? r = some h → h.dup = some d → d.row = 0 → d.agreed = false →
      d.queued = false → s.groupLive g = true → d.first ≠ d.second →
      exec (.cloneExecute r) s = .next (raiseOn (s.modHart r fun h => { h with dup := none }) r .cloneMismatch))
  ∧ (∀ (s : State) (core quad : Nat) q, (replaysOf s core quad).head? = some q → q.cycle < s.clusterCycles (core / 8) →
      cloneLanesFree s core q = true →
      let u := s.modCore core fun c => { c with replay := c.replay.erase q }
      let lanes := q.refs.filterMap fun r => (u.hart? r).map fun h => h.lane ^^^ 16
      let v := lanes.foldl (fun s l => useLane s core quad l) u
      exec (.cloneReplay core quad) s = .next (q.refs.foldl replayClone v) ∧ ∀ l, l ∈ lanes → laneTaken v core quad l = true)
  ∧ (∀ (s : State) (core quad : Nat) q, (replaysOf s core quad).head? = some q →
      (s.clusterCycles (core / 8) ≤ q.cycle ∨ cloneLanesFree s core q = false) → exec (.cloneReplay core quad) s = .next s)
  ∧ (∀ (s : State) key g, s.group? key = some g → g.rollback = true → g.state ≠ .killed →
      (∀ k p, k ∈ s.peers key → s.group? k = some p → p.rollback = true → p.halting = none ∧ Group.resultsBack s p = true) →
      exec (.rollbackRestart key) s = .next ((s.peers key).foldl restartGroup s))
  ∧ (∀ (s : State) key g, s.group? key = some g → g.rollback = true → (s.ctx g.ctx).state = .running →
      (∃ p, p ∈ g.harts ∧ p.2.status ≠ .exited) →
      restartGroup s key = s.setGroup key { g.eachHart fun _ h => restartHart false h with
        rollback := false, image := none, woken := false, state := .resident })
  ∧ (∀ (s : State) key g, s.group? key = some g → g.rollback = true → (s.ctx g.ctx).state ≠ .running →
      restartGroup s key = s.setGroup key { g.eachHart fun _ h => restartHart true h with
        rollback := false, image := none, woken := false, state := .halted })
  ∧ (∀ (h : Hart) halted, h.status ≠ .exited → (restartHart halted h).pc = h.regionPc ∧ (restartHart halted h).rng = h.rngSnap
      ∧ (restartHart halted h).handler = false ∧ (restartHart halted h).regs = h.regs ∧ (restartHart halted h).preds = h.preds
      ∧ (restartHart halted h).status = if halted then .halted else .ready)
  ∧ (∀ (s : State) a ok, a < memTop → a / 64 ∉ s.tovor.poison →
      (mapFind s.tovor.latent (errUnit a) ≠ some false → exec (.hardwareFault (.memory a ok)) s
        = .next (s.modTovor fun t => { t with latent := mapPut t.latent (errUnit a) ok }))
      ∧ (mapFind s.tovor.latent (errUnit a) = some false → exec (.hardwareFault (.memory a ok)) s = .next s))
  ∧ (∀ (s : State) copies, exec (.hardwareFault (.sharedCorrected copies)) s = .next (correctedIn s (if copies then 1 else 4)))
  ∧ (∀ (s : State), exec (.hardwareFault (.fabric none)) s = .next (countUeShared s none 4 .memUe))
  ∧ (∀ (s : State) r walk g h, s.group? r.group = some g → s.groupLive g = true → s.hart? r = some h → h.status ≠ .exited →
      let cause := if walk then Cause.walkUe else .memUe
      exec (.hardwareFault (.fabric (some (r, walk)))) s = .next (raiseOn (countUeShared s (some g.ctx) 4 cause) r cause))
  ∧ (∀ (s : State) (core tile elem : Nat) x, core < 128 → tile < 96 → elem < 1024 →
      exec (.hardwareFault (.accumulator core tile elem x)) s = .next (s.modCore core fun c =>
        { c with acc := mapPut c.acc tile ((mapGet zeroTile c.acc tile).set elem ((mapGet zeroTile c.acc tile).getD elem 0 ^^^ x)) }))
  ∧ (∀ (s : State) r x, exec (.hardwareFault (.duplicate r x)) s = .next (s.modHart r fun h => { h with flip := x }))
  ∧ (∀ (s : State) j, (s.pair j).formed = true →
      exec (.hardwareFault (.shadowSilent j)) s = .next (s.setPair j { s.pair j with silent := true })
      ∧ exec (.hardwareFault (.primarySilent j)) s = .next (s.setPair j { s.pair j with mute := true }))

/-- 18 R376 to R379, R385, R392; 17 R353 to R355: an integrity event of a group without the rollback mark marks its cluster-group,
counts it and reports a rollback; the group issues on until its halt, 12 cycles later under fixed timing, one that does not run
being halted at once; a mark that a rendezvous has cleared in this cycle still counts (04 R117); at the halt what is not committed goes, while registers and PC stay. With the mark the event kills the group
with ROLLBACK_LIMIT and reports an escalation, in one report (the model's reading, log 64); a second event of the cycle that
marked the group is the same rollback (log 65). What issues before the halt is plain (log 46). This is said of the causes that are
no error in state a context alone holds (inContext = false) and none that the device log alone has (ofCore = false); the others count in
the context besides (17 R354), or enter the device log (log 104). The records of the
event log and the device log, and the reports: each field, and where they go, at the address of local DRAM (log 25); a record that
cannot be written leaves LOG_IDX and enters SAVE_FAULT in the device log (log 19). -/
def Obligations.IntegrityEvents : Prop :=
  (∀ (s : State) (e : Event) (g : Group), s.group? e.key = some g → s.peers e.key = [e.key] → e.also = [] →
    Cause.inContext e.cause = false → Cause.ofCore e.cause = false → g.present = true →
    let u := integrityEvent s e
    let now := s.clusterCycles g.cluster
    let runs : Prop := g.state = .resident ∧ (s.ctx g.ctx).state = .running
    (g.marked now = false → ∃ g' halt, u.group? e.key = some g' ∧ g'.mark = true ∧ g'.rollback = true
        ∧ 1 ≤ halt ∧ halt ≤ 64 ∧ (s.isFixed g.cluster = true → halt = 12)
        ∧ (runs → g'.state = .resident ∧ g'.halting = some (g.halting.getD (now + halt)))
        ∧ ((g.state = .halted ∨ g.state = .retiring ∨ (s.ctx g.ctx).state ≠ .running) → g'.state = .halted ∧ g'.halting = none)
        ∧ u.ctx g.ctx = { (s.ctx g.ctx) with rollbacks := satInc (s.ctx g.ctx).rollbacks, logIdx := (u.ctx g.ctx).logIdx
                                             descs := (u.ctx g.ctx).descs, slots := (u.ctx g.ctx).slots, code := (u.ctx g.ctx).code }
        ∧ u.tovor.faultN = s.tovor.faultN ∧ u.tovor.reportSeq = s.tovor.reportSeq + 1)
    ∧ (g.marked now = true → (∀ d, g.rollback = true → g.event = some d → d.cycle ≠ now) →
        ∃ g', u.group? e.key = some g' ∧ g'.state = .killed
        ∧ u.tovor.faultN = some (s.tovor.faultN.getD s.refNs) ∧ u.tovor.faultSeq = some (u.tovor.reportSeq - 1))
    ∧ (∀ d, g.mark = true → g.rollback = true → g.event = some d → d.cycle = now →
        ∃ g', u.group? e.key = some g' ∧ g'.mark = true ∧ g'.rollback = true ∧ g'.halting = g.halting
        ∧ (g.state = .halted → g'.state = .halted) ∧ (u.ctx g.ctx).rollbacks = (s.ctx g.ctx).rollbacks
        ∧ u.tovor.reportSeq = s.tovor.reportSeq ∧ u.tovor.faultN = s.tovor.faultN))
  ∧ (∀ (s : State) (e : Event) (g : Group),
      (Cause.inContext e.cause = true → countEvent s e g = countUeCtx s g.ctx)
      ∧ (Cause.ofCore e.cause = true → countEvent s e g
          = deviceLog s (some g.ctx) 0 (placeEntry g { kind := 2, cause := e.cause, pc := e.pc, quad := eventQuad e })))
  ∧ (∀ (s : State) (r : CtxRef) g, s.group? r.group = some g → g.rollback = true →
      (∀ t, g.halting = some t → t ≤ s.clusterCycles g.cluster) → envOf s r = none)
  ∧ (∀ (s : State) key g t, s.group? key = some g → g.halting = some t → t ≤ s.clusterCycles g.cluster →
      ∃ g', (settleHalts s).group? key = some g' ∧ g'.state = .halted ∧ g'.halting = none ∧ g'.rdvs = []
        ∧ (settleHalts s).mem = s.mem ∧ (settleHalts s).ctxs = s.ctxs ∧ (settleHalts s).tovor = s.tovor)
  ∧ (∀ h : Hart, h.status ≠ .exited → (haltHart h).status = .halted ∧ (haltHart h).pc = h.pc ∧ (haltHart h).regs = h.regs
      ∧ (haltHart h).preds = h.preds ∧ (haltHart h).stores = h.stores.filter (fun q => decide (q.region < h.entryNo))
      ∧ (haltHart h).results = h.results.filter (fun q => decide (q.region < h.entryNo)) ∧ (haltHart h).regionPc = h.regionPc)
  ∧ (∀ (x : LogEntry) time seq mid cluster,
      let v := logBits x time seq mid cluster
      bitsOf v 0 32 = seq % 2 ^ 32 ∧ bitsOf v 32 8 = Cause.code x.cause ∧ bitsOf v 40 2 = x.kind % 4 ∧ bitsOf v 42 13 = mid % 2 ^ 13
      ∧ bitsOf v 55 2 = x.quad % 4 ∧ bitsOf v 57 3 = x.core % 8 ∧ bitsOf v 60 4 = cluster % 16 ∧ bitsOf v 64 32 = x.aux % 2 ^ 32
      ∧ bitsOf v 96 32 = x.pc % 2 ^ 32 ∧ bitsOf v 128 64 = x.group.getD (2 ^ 64 - 1) % 2 ^ 64 ∧ bitsOf v 192 64 = time % 2 ^ 64)
  ∧ (∀ (s : State) n (x : LogEntry), MemoryOk s →
      let c := s.ctx n
      let at_ := c.logBase + 32 * (c.logIdx.toNat % 2 ^ c.logSize)
      (at_ + 32 ≤ dramBytes → ((logEvent s n x).ctx n).logIdx = c.logIdx + 1
        ∧ memNat (logEvent s n x).mem (dramBase + at_) 32
          = logBits x s.refNs c.logIdx.toNat 0 (match x.cluster with | some k => s.relCluster c.part k | none => 0))
      ∧ (dramBytes < at_ + 32 → logEvent s n x = deviceLog s (some n) 0 { x with cause := .saveFault, kind := 2 }))
  ∧ (∀ (s : State) n source (x : LogEntry), MemoryOk s →
      let b := s.tovor.block
      let at_ := b.dlogBase.toNat + 32 * (b.dlogIdx.toNat % 2 ^ b.dlogSize.toNat)
      (deviceLog s n source x).tovor.block.dlogIdx = b.dlogIdx + 1
      ∧ (4 ≤ b.dlogSize.toNat → at_ + 32 ≤ dramBytes → memNat (deviceLog s n source x).mem (dramBase + at_) 32
          = logBits x s.refNs b.dlogIdx.toNat (n.getD 1023 % 1024 * 8 + source % 8) (x.cluster.getD 0))
      ∧ ((b.dlogSize.toNat < 4 ∨ dramBytes < at_ + 32) → (deviceLog s n source x).mem = s.mem))
  ∧ (∀ (r : Report) time seq,
      let v := reportBits r time seq
      bitsOf v 0 24 = seq % 2 ^ 24 ∧ bitsOf v 24 8 = r.code.getD (Cause.code r.cause) % 256 ∧ v.testBit 32 = r.faultn
      ∧ bitsOf v 33 4 = r.outcome % 16 ∧ bitsOf v 37 4 = r.pair % 16 ∧ bitsOf v 41 2 = r.quad % 4 ∧ bitsOf v 43 3 = r.core % 8
      ∧ bitsOf v 46 4 = r.cluster % 16 ∧ bitsOf v 50 4 = r.part % 16 ∧ bitsOf v 54 10 = r.ctx.getD 1023 % 1024
      ∧ bitsOf v 64 32 = r.aux % 2 ^ 32 ∧ bitsOf v 96 32 = r.pc % 2 ^ 32 ∧ bitsOf v 128 64 = r.group.getD (2 ^ 64 - 1) % 2 ^ 64
      ∧ bitsOf v 192 64 = time % 2 ^ 64)
  ∧ (∀ (s : State) (r : Report), MemoryOk s →
      let u := report s r
      let rollbacks := match r.ctx with | some n => (s.ctx n).rollbacks.toNat % 256 | none => 0
      u.tovor.reportSeq = s.tovor.reportSeq + 1 ∧ u.tovor.irqs = s.tovor.irqs ++ [0]
      ∧ (r.faultn = true → u.tovor.faultN = some (s.tovor.faultN.getD s.refNs) ∧ u.tovor.faultSeq = some s.tovor.reportSeq)
      ∧ (r.faultn = false → u.tovor.faultN = s.tovor.faultN ∧ u.tovor.faultSeq = s.tovor.faultSeq)
      ∧ ∀ base k, s.tovor.ring = some (base, k) → base + 32 * (s.tovor.reportSeq.toNat % 2 ^ k) + 32 ≤ dramBytes →
          memNat u.mem (dramBase + (base + 32 * (s.tovor.reportSeq.toNat % 2 ^ k))) 32
            = reportBits { r with aux := r.aux + rollbacks * 256 } s.refNs s.tovor.reportSeq.toNat % 2 ^ 256)

/-- 18 R386, R388 to R390; 02 R48; 00 R4: cluster modes, the degraded step, which is in force from the next cycle boundary (the
model's reading, log 85) and is left by log 68, power caps, a mismatch of Tovor's own cores, and power-up. What the host and the clocks
ask before their time does nothing (log 28); a device that has not been verified changes no clock and only asserts its pin. -/
def Obligations.ClockAndPower : Prop :=
  (∀ (s : State) k, s.tovor.released = true → k < 16 → s.isFixed k = true → (∀ p, p ∈ s.groups → p.2.cluster = k → s.occupies p.2 = false) →
      (s.pair (k / 2)).formed = false →
      exec (.clusterModeChange k false) s = .next { s with fixed := mapPut s.fixed k false })
  ∧ (∀ (s : State) k p, s.tovor.released = true → k < 16 → s.isFixed k = false → (∀ p, p ∈ s.groups → p.2.cluster = k → s.occupies p.2 = false) →
      s.partOf k = some p → ∃ u, exec (.clusterModeChange k true) s = .next u ∧ u.isFixed k = true
        ∧ ∀ i j, i ∈ s.partClusters p → j ∈ s.partClusters p → u.isFixed i = true → u.isFixed j = true →
            u.clusterCycles i = u.clusterCycles j ∧ s.clusterCycles i ≤ u.clusterCycles i)
  ∧ (∀ (s : State) k fixed p, p ∈ s.groups → p.2.cluster = k → s.occupies p.2 = true → exec (.clusterModeChange k fixed) s = .next s)
  ∧ (∀ (s : State) b, s.tovor.released = true → ∃ u, exec (.degradedStepEnter b) s = .next u ∧ u.tovor.triggerAt = some s.refNs
      ∧ u.tovor.degraded = s.tovor.degraded ∧ u.tovor.stepTo = if s.tovor.degraded then none else some true)
  ∧ (∀ (s : State) t, s.tovor.triggerAt = some t → s.tovor.degraded = true → s.tovor.clockAsked = false → t + 10000000 ≤ s.refNs →
      ∃ u, exec .degradedStepLeave s = .next u ∧ u.tovor.stepTo = some false ∧ u.tovor.triggerAt = none)
  ∧ (∀ (s : State) c el n on, 0 < c → s.tovor.stepTo = some on →
      (passTime exec s c el n).tovor.degraded = on ∧ (passTime exec s c el n).tovor.stepTo = none)
  ∧ (∀ (s : State) t, s.tovor.triggerAt = some t → s.refNs < t + 10000000 → exec .degradedStepLeave s = .next s)
  ∧ (∀ (s : State) p mhz, s.tovor.released = true → p < 12 → Part.valid (s.part p) = true →
      let u := s.modTovor fun t => { t with caps := mapPut t.caps p mhz }
      exec (.powerCap p mhz) s = .next (if capOf u p < capOf s p
        then (workers u (some p)).foldl (fun s n => logEvent s n { kind := 2, cause := .powerCap }) u else u))
  ∧ (∀ s : State, s.tovor.released = true → ∃ u, exec .tovorCoreMismatch s = .next u ∧ u.tovor.faultN = some (s.tovor.faultN.getD s.refNs)
      ∧ u.tovor.reportSeq = s.tovor.reportSeq + 1 ∧ u.tovor.faultSeq = some s.tovor.reportSeq)
  ∧ (∀ s : State, s.tovor.released = false →
      exec .tovorCoreMismatch s = .next (s.modTovor fun t => { t with faultN := some (t.faultN.getD s.refNs) })
      ∧ (∀ b, exec (.degradedStepEnter b) s = .next s) ∧ (∀ p mhz, exec (.powerCap p mhz) s = .next s)
      ∧ ∀ k fixed, exec (.clusterModeChange k fixed) s = .next s)
  ∧ (∀ s ok, ∃ u, exec (.powerUp ok) s = .next u ∧ u.groups = [] ∧ u.ctxs = [] ∧ u.queues = [] ∧ u.refNs = 0
      ∧ u.tovor.released = ok ∧ u.tovor.faultN = (if ok then none else some 0) ∧ ∀ a, a < hostBase → memGet u.mem a = 0)

/-- 19 R396, R397, R401: invalidation commands queue in order and complete once the context's accesses have; the root write brings
command 2; a miss takes its entry from the second level or from a walk. 19 R398, R399: a translation reads what its two leaves permit,
stage 1 first; the walk without a root maps nothing, and an address of both stages is the second leaf's base with the offset. Misses of
one cycle share a walk. That the root write is queued and counted as command 2 (log 72), and which accesses and waits a completion
reaches (log 61), are the model's choices. -/
def Obligations.Translation : Prop :=
  (∀ (s : State) n, s.tovor.released = true → n < 1024 →
      let page (v : BitVec 64) : Nat := v.toNat % 2 ^ 48 / 65536
      let asked (c p : Nat) : State := s.modCtx n fun x => { x with invCmds := x.invCmds ++ [(c, p)] }
      let bound : Prop := (s.ctx n).func ≠ 0 ∧ (s.ctx n).state ≠ .free
      let byFunction : List Instr :=
        [.invStage1Page n false, .invStage1All n false, .invStage2Page n false, .invStage2All n false, .invBoth n false]
      exec (.invStage1Page n true) s = .next (asked 1 (page (s.ctx n).invVa))
      ∧ exec (.invStage1All n true) s = .next (asked 2 0)
      ∧ exec (.invStage2Page n true) s = .next (asked 3 (page (s.ctx n).invIpa))
      ∧ exec (.invStage2All n true) s = .next (asked 4 0)
      ∧ exec (.invBoth n true) s = .next (asked 5 0)
      ∧ (∀ v phys, phys = true ∨ (bound ∧ (s.ctx n).state ≠ .resetting) →
          exec (.s1RootWrite ⟨n, phys⟩ v) s = .next (s.modCtx n fun x => { x with s1Root := v, invCmds := x.invCmds ++ [(2, 0)] }))
      ∧ (∀ i, i ∈ byFunction ∨ (∃ v, i = .s1RootWrite ⟨n, false⟩ v) →
          (¬ bound → exec i s = .next s) ∧ (bound → (s.ctx n).state = .resetting → exec i s = .next (answerHost s .unsupported)))
      ∧ (bound → (s.ctx n).state ≠ .resetting →
          exec (.invStage1Page n false) s = .next (asked 1 (page (s.ctx n).invVa)) ∧ exec (.invStage1All n false) s = .next (asked 2 0)
          ∧ exec (.invStage2Page n false) s = .next (denyCtx s n 2) ∧ exec (.invStage2All n false) s = .next (denyCtx s n 2)
          ∧ exec (.invBoth n false) s = .next (denyCtx s n 2)))
  ∧ (∀ (s : State) n cmd p rest, (s.ctx n).invCmds = (cmd, p) :: rest → accessesDone s n = true →
      ∃ u, exec (.invalidationComplete n) s = .next u ∧ (u.ctx n).invCmds = rest ∧ (u.ctx n).invSeq = (s.ctx n).invSeq + 1
        ∧ (∀ k x, x ∈ (u.core k).tlb → x ∈ (s.core k).tlb ∧ (x.ctx = n → x.covered cmd p = false))
        ∧ (∀ k x, x ∈ mapGet [] u.tlb2 k → x ∈ mapGet [] s.tlb2 k ∧ (x.ctx = n → x.covered cmd p = false))
        ∧ ∀ k w, w ∈ (u.core k).walks → w ∈ (s.core k).walks ∧ w.ctx ≠ n)
  ∧ (∀ (s : State) n, accessesDone s n = true → ∀ key g, s.group? key = some g → g.ctx = n → ∀ who h, g.hart? who = some h →
      h.stores = [] ∧ ∀ o, o ∈ g.pendingOrd who h → o.translated = false)
  ∧ (∀ (s : State) n, (s.ctx n).invCmds ≠ [] → accessesDone s n = false → exec (.invalidationComplete n) s = .next s)
  ∧ (∀ (s : State) core n (va : BitVec 48), core < 128 → n < 1024 → core / 8 ∈ s.partClusters (s.ctx n).part →
      tlbHit (s.core core).tlb n va.toNat = none →
      (∀ x, tlbHit (mapGet [] s.tlb2 (core / 8)) n va.toNat = some x →
        exec (.pageWalk core n va) s = .next (s.modCore core fun c => { c with tlb := fillTlb 256 x c.tlb }))
      ∧ (tlbHit (mapGet [] s.tlb2 (core / 8)) n va.toNat = none →
        (∀ w p x, sharedWalk s core n va.toNat = some w → w.result = .inr (p, .inr x) → ∃ u, exec (.pageWalk core n va) s = .next u
          ∧ x ∈ (u.core core).tlb ∧ x ∈ mapGet [] u.tlb2 (core / 8) ∧ u.mem = s.mem)
        ∧ (sharedWalk s core n va.toNat = none → s.tovor.latent = [] →
          (∀ x, walkBoth s n va.toNat = .ok x → ∃ u, exec (.pageWalk core n va) s = .next u ∧ x ∈ (u.core core).tlb
            ∧ x ∈ mapGet [] u.tlb2 (core / 8) ∧ u.mem = s.mem)
          ∧ (∀ x, walkBoth s n va.toNat = .error x → exec (.pageWalk core n va) s = .next (recordWalk s core n va.toNat)))))
  ∧ (∀ (s : State) core n va, cachedEntry s core n va = none →
      (∀ w need, sharedWalk s core n va = some w → translate s core n va need = useWalk w.result va need)
      ∧ (∀ need, sharedWalk s core n va = none → translate s core n va need = translateDirect s n va need
          ∧ sharedWalk (recordWalk s core n va) core n va
            = some { cycle := s.clusterCycles (core / 8), ctx := n, page := va / 65536, result := walkResult s n va }))
  ∧ (∀ (s : State) core n va need e,
      (cachedEntry s core n va = some e
        ∨ (cachedEntry s core n va = none ∧ sharedWalk s core n va = none ∧ walkBoth s n va = .ok e)) → need.fetch = false →
      (e.perm1 &&& need.perm ≠ need.perm → translate s core n va need = .error .pagePerm)
      ∧ (e.perm1 &&& need.perm = need.perm → e.perm2 &&& need.perm ≠ need.perm → translate s core n va need = .error .stage2)
      ∧ (e.perm1 &&& need.perm = need.perm → e.perm2 &&& need.perm = need.perm → e.attr = 0 →
          translate s core n va need = .ok (.flat (dramBase + (e.pa + va % e.size)) false)))
  ∧ (∀ (s : State) core n va need l1, cachedEntry s core n va = none → sharedWalk s core n va = none → stage1Walk s (s.ctx n) va = .ok l1 → need.fetch = false →
      l1.perm &&& need.perm ≠ need.perm → translate s core n va need = .error .pagePerm)
  ∧ (∀ (s : State) n va need, (s.ctx n).s1Root = 0 → translateDirect s n va need = .error .pageNotmapped)
  ∧ (∀ (s : State) n va l1 l2, stage1Walk s (s.ctx n) va = .ok l1 → stage2Walk s (s.ctx n).s2Root (l1.base + va % l1.size) = .ok l2 →
      ∃ e, walkBoth s n va = .ok e ∧ e.ctx = n ∧ e.size = min l1.size l2.size ∧ e.attr = l2.attr ∧ e.perm1 = l1.perm ∧ e.perm2 = l2.perm
        ∧ (l1.size ∈ [2 ^ 16, 2 ^ 29] → l2.size ∈ [2 ^ 16, 2 ^ 29] → l1.base % l1.size = 0 →
            e.pa + va % e.size = l2.base + (l1.base + va % l1.size) % l2.size))
  ∧ (∀ (s : State) n va, (∀ l1, stage1Walk s (s.ctx n) va ≠ .ok l1) → ∀ e, walkBoth s n va ≠ .ok e)

/-- 18 R381, R382; 19 R405, R406; 00 R4: the patrol corrects or poisons what it meets, once in a pass, and rests in a compute domain that is
kept in reset; a pass visits what is left, lowers the
counters of its rows and begins anew; a row under copy settles the errors of its lines one by one, and its spare is in use after the
32nd line, until then the entry it had. A write takes poison and errors from what it touches. The units of check bits outside the L2, the
chip scratchpad and DRAM, and that a poisoned read of shared memory is not counted again, are the model's choices (log 45). -/
def Obligations.MemoryIntegrity : Prop :=
  (∀ (s : State) b k, s.tovor.released = false →
      exec (.patrolBlockVisit b) s = .next s ∧ exec (.patrolPassComplete k) s = .next s)
  ∧ (∀ (s : State) b, s.tovor.released = true → 64 * b < dramBytes → (s.channel (blockChannel b)).patrolEn = true →
      (b ∈ (s.channel (blockChannel b)).seen → exec (.patrolBlockVisit b) s = .next s)
      ∧ (b ∉ (s.channel (blockChannel b)).seen →
      (mapFind s.tovor.latent (8 * b) = none → exec (.patrolBlockVisit b) s = .next (markSeen s (blockChannel b) b))
      ∧ (mapFind s.tovor.latent (8 * b) = some true → exec (.patrolBlockVisit b) s
          = .next (markSeen (correctedShared (s.modTovor fun t => { t with latent := mapDrop t.latent (8 * b) }) (64 * b)) (blockChannel b) b))
      ∧ (mapFind s.tovor.latent (8 * b) = some false → ∃ u, exec (.patrolBlockVisit b) s = .next u
          ∧ (s.tovor.block.dlogSize.toNat < 4 → b ∈ u.tovor.poison)
          ∧ u.tovor.block.poisoned = satInc s.tovor.block.poisoned ∧ u.tovor.block.ueShared = satInc s.tovor.block.ueShared
          ∧ u.tovor.block.dlogIdx = s.tovor.block.dlogIdx + 1
          ∧ b ∈ (u.channel (blockChannel b)).seen)))
  ∧ (∀ (s : State) k, s.tovor.released = true → k < 32 → (s.channel k).patrolEn = true → ∃ u, exec (.patrolPassComplete k) s = .next u ∧
      let v := (patrolRest s k).foldl patrolBlock s
      (u.channel k).passes = (v.channel k).passes + 1 ∧ (u.channel k).seen = [] ∧ u.mem = v.mem
      ∧ ∀ row, mapGet 0 u.tovor.rowCount row
          = if rowChannel row = k then mapGet 0 v.tovor.rowCount row - 1 else mapGet 0 v.tovor.rowCount row)
  ∧ (∀ (s : State) row x k n, mapFind s.tovor.spares row = some x → x.copy = some (k, n) →
      (n < 31 → exec (.spareRowCopy row) s = .next ((settleLine row n s s.tovor.latent).modTovor fun t =>
          { t with spares := mapPut t.spares row { x with copy := some (k, n + 1) } }))
      ∧ (31 ≤ n → ∃ u, exec (.spareRowCopy row) s = .next u ∧ mapFind u.tovor.spares row = some { entry := some k, copy := none }
          ∧ u.tovor.block.spareRemaps = satInc s.tovor.block.spareRemaps ∧ u.tovor.rowCount = mapDrop s.tovor.rowCount row ∧ u.mem = s.mem))
  ∧ (∀ (s : State) row, (∀ x, mapFind s.tovor.spares row = some x → x.copy = none) → exec (.spareRowCopy row) s = .next s)
  ∧ (∀ (s : State) row line ls u, (u, false) ∈ ls → 8 * u < dramBytes →
      rowOf (8 * u) = row → lineInRow (8 * u) = line → s.tovor.block.dlogSize.toNat < 4 → s.tovor.ring = none →
      8 * u / 64 ∈ (settleLine row line s ls).tovor.poison)
  ∧ (∀ (s : State) n a, a / 8 ∉ s.tovor.badCopies →
      (a / 64 ∈ s.tovor.poison → meetMemory s n a = (if isCorePad a = true then countUeCtx s n else s, some .eccPoison))
      ∧ (a / 64 ∉ s.tovor.poison → mapFind s.tovor.latent (errUnit a) = none → meetMemory s n a = (s, none))
      ∧ (a / 64 ∉ s.tovor.poison → mapFind s.tovor.latent (errUnit a) = some false → ∃ u, meetMemory s n a = (u, some .memUe)
          ∧ (s.tovor.block.dlogSize.toNat < 4 → a / 64 ∈ u.tovor.poison)))
  ∧ (∀ a, (scrBase ≤ a → a < hostBase → errUnit a = a / 8) ∧ (a < scrBase → errUnit a = a / 64 * 8))
  ∧ (∀ (t : Tovor) first n, 0 < n →
      (∀ b, b ∈ (t.rewritten (hitsRange first n)).poison ↔ b ∈ t.poison ∧ (64 * b + 64 ≤ first ∨ first + n ≤ 64 * b))
      ∧ ∀ w, w ∈ (t.rewritten (hitsRange first n)).badCopies ↔ w ∈ t.badCopies ∧ (8 * w + 8 ≤ first ∨ first + n ≤ 8 * w))

/-- 20 R408 to R416; 16 R336: the host window with its AtomicOps, what waits behind its writes to a peer, the plain registers and what a
read of one gives, operations of a peer and answers to those sent within 10 µs, a link that goes down, and frames of the vehicle network.
The cases of Completer Abort and the window at a peer's pages (log 62), NET_CTL written while EN is set (log 69), the CRC-32 and the
length without FCS (log 31), and a ring whose indices cannot be read (log 98) are the model's choices. -/
def Obligations.LinkHappenings : Prop :=
  (∀ (s : State) f off len n, s.tovor.released = true → off + len ≤ 2 ^ 32 → f ≤ 512 → windowCtx s f = some n →
      (s.ctx n).state ≠ .resetting →
      let va := windowAddr s f off
      let v := walkRange s n va len needRead
      (bytePlaces v n va needRead len = none → exec (.hostWindowRead f off len) s = .next (answerHost (windowFault v) .completerAbort))
      ∧ (∀ ls, bytePlaces v n va needRead len = some ls → hostBusy v = true →
          exec (.hostWindowRead f off len) s = .next (postHost v (.read n ls)))
      ∧ ∀ ls, bytePlaces v n va needRead len = some ls → hostBusy v = false →
        exec (.hostWindowRead f off len) s = .next (performPost v (.read n ls))
        ∧ (∀ z, meetAll n v (flatPlaces ls) = (z, false) →
          exec (.hostWindowRead f off len) s = .next (answerHost (windowFault z) .completerAbort))
        ∧ (∀ z, meetAll n v (flatPlaces ls) = (z, true) → (∀ l, l ∈ ls → ∃ a h, l = .flat a h) →
          exec (.hostWindowRead f off len) s = .next (answerHost z (.data ((flatPlaces ls).map (memGet z.mem)))))
        ∧ (∀ z k c a, meetAll n v (flatPlaces ls) = (z, true) → Loc.peer k c a ∈ ls →
          ∃ u, exec (.hostWindowRead f off len) s = .next u ∧ u.tovor.hostReply = z.tovor.hostReply ∧ u.mem = z.mem
            ∧ u.tovor.winNext = z.tovor.winNext + 1
            ∧ ∃ o, o ∈ u.tovor.outbound ∧ o.link = k ∧ o.chip = c ∧ o.ctx = n ∧ o.addr ≤ a ∧ a < o.addr + LinkKind.size o.kind
              ∧ ∃ i, o.win = some (.read z.tovor.winNext i)))
  ∧ (∀ (s : State) f off n, s.tovor.released = true → f ≤ 512 → windowCtx s f = some n → (s.ctx n).state ≠ .resetting →
      let va := windowAddr s f off
      (∀ (bs : List Byte), off + bs.length ≤ 2 ^ 32 →
        let v := walkRange s n va bs.length needWrite
        (bytePlaces v n va needWrite bs.length = none → exec (.hostWindowWrite f off (.bytes bs)) s = .next (windowFault v))
        ∧ (∀ ls, bytePlaces v n va needWrite bs.length = some ls → exec (.hostWindowWrite f off (.bytes bs)) s
            = .next (if hostBusy v = true then postHost v (.write n ls bs) else performPost v (.write n ls bs)))
        ∧ ∀ ls, bytePlaces v n va needWrite bs.length = some ls → (∀ l, l ∈ ls → ∃ a h, l = .flat a h) →
          performPost v (.write n ls bs) = writeHome v none
            (((flatPlaces ls).zip bs).map fun p => { addr := p.1, val := p.2, mask := 0xFF : WByte }))
      ∧ (∀ w k v a h, (∃ x y, w = .fetchAdd k x ∨ w = .swap k x ∨ w = .cas k x y) → (k = 4 ∨ k = 8) → off % k = 0 → off + k ≤ 2 ^ 32 →
        walked s n va needAtomic = (v, .ok (.flat a h)) → exec (.hostWindowWrite f off w) s
          = .next (if hostBusy v = true then postHost v (.atomic n a w) else performPost v (.atomic n a w)))
      ∧ (∀ k x v a h, (k = 4 ∨ k = 8) → off % k = 0 → off + k ≤ 2 ^ 32 → walked s n va needAtomic = (v, .ok (.flat a h)) →
        meetMemory v n a = (v, none) → hostBusy v = false →
        let old := memNat v.mem a k
        let done (u : State) : Host.Outcome State Fault Refusal := .next (answerHost u (.data (bytesOfNat k old)))
        exec (.hostWindowWrite f off (.fetchAdd k x)) s = done (writeNat v a k ((old + x.toNat) % 2 ^ (8 * k)))
        ∧ exec (.hostWindowWrite f off (.swap k x)) s = done (writeNat v a k (x.toNat % 2 ^ (8 * k)))
        ∧ ∀ y, exec (.hostWindowWrite f off (.cas k y x)) s
            = done (if old = y.toNat % 2 ^ (8 * k) then writeNat v a k (x.toNat % 2 ^ (8 * k)) else v)))
  ∧ (∀ s : State, s.tovor.posted = [] ∨ (∃ o, o ∈ s.tovor.outbound ∧ o.win = some .write) → settlePosted s = s)
  ∧ (∀ (s : State) x xs, s.tovor.posted = x :: xs → (∀ o, o ∈ s.tovor.outbound → o.win ≠ some .write) →
      settlePosted s = drainPosted xs.length (performPost (s.modTovor fun t => { t with posted := xs }) x))
  ∧ (∀ (s : State) p k v, performPost s (.queue p k v) = queueWrite s p k v)
  ∧ (∀ (s : State) f off len n, s.tovor.released = true → off + len ≤ 2 ^ 32 → f ≤ 512 → windowCtx s f = some n →
      (s.ctx n).state = .resetting → exec (.hostWindowRead f off len) s = .next (answerHost s .unsupported))
  ∧ (∀ (s : State), s.tovor.released = true →
      (∀ b z, exec (.registerWrite (.deviceBlock b z)) s = .next (s.modBlock fun d => { d with dlogBase := b, dlogSize := z }))
      ∧ (∀ c x, c < 32 → ∃ u, exec (.registerWrite (.miCtl c x)) s = .next u
          ∧ u.channel c = { s.channel c with passMs := BitVec.ofNat 16 (x.toNat % 2 ^ 16), patrolEn := x.toNat.testBit 16 }
          ∧ u.mem = s.mem ∧ u.groups = s.groups)
      ∧ (∀ f x, f ≤ 512 → funcResets s f = false → ∃ u, exec (.registerWrite (.winBase f x)) s = .next u
          ∧ (mapGet 0 u.tovor.winBase f).toNat = field x 32 16 * 2 ^ 32 + (if f = 0 then field x 0 10 else 0)
          ∧ u.mem = s.mem ∧ u.groups = s.groups)
      ∧ (∀ l n x, l < 2 → n < 1024 → ∃ u, exec (.registerWrite (.linkBinding l n x)) s = .next u ∧ u.mem = s.mem
          ∧ u.groups = s.groups ∧ ∀ i, i < 128 → (u.binding l n).getLsbD i = (decide (i < 74 ∨ i = 80) && x.getLsbD i))
      ∧ (∀ f n ipa va, f ≤ 512 → n < 1024 → funcResets s f = false →
          exec (.registerWrite (.translation f n ipa va)) s
            = .next (if funcReaches s f n = true then s.modCtx n fun c => { c with invIpa := ipa, invVa := va } else s))
      ∧ (∀ f o x, funcResets s f = false → exec (.registerWrite (.unlisted f o x)) s = .next s)
      ∧ (∀ f o, f ≤ 512 → o % 4 = 0 → funcResets s f = false →
          exec (.registerWrite (.read f o)) s = .next (answerHost s (.data (bytesOfNat 4 (readWord s f o).toNat))))
      ∧ (∀ f, f ≤ 512 → funcResets s f = true →
          (∀ o, o % 4 = 0 → exec (.registerWrite (.read f o)) s = .next (answerHost s .unsupported))
          ∧ ∀ x, exec (.registerWrite (.winBase f x)) s = .next (answerHost s .unsupported)))
  ∧ (∀ (s : State) f o, windowCtx s f = none → f ≠ 0 → (o < 0x840 ∨ 0x848 ≤ o) → readWord s f o = 0)
  ∧ (∀ (s : State) n, n < 1024 → (∀ i, i < 16 → readWord s 0 (0x20000 + 64 * n + 4 * i)
      = BitVec.ofNat 32 (statusBits s n / 2 ^ (8 * (4 * i)))) ∧ readWord s 0 0x8000 = 0)
  ∧ (∀ (s : State) (op : LinkOp) a, op.link < 2 → op.ctx < 1024 → s.tovor.linkUp.getD op.link false = true → s.tovor.released = true →
      (s.ctx op.ctx).state ≠ .resetting → flag (s.binding op.link op.ctx) 80 = true →
      field (s.binding op.link op.ctx) 64 10 = op.peer → op.kind ≠ .abort → ∀ v,
      (inboundPlace s op = (v, some a) → exec (.linkInboundOperation op) s = .next (inboundPerform v op a))
      ∧ (inboundPlace s op = (v, none) → exec (.linkInboundOperation op) s = .next (answerPeer v .refused)))
  ∧ (∀ (s : State) (op : LinkOp), op.link < 2 → op.ctx < 1024 → s.tovor.linkUp.getD op.link false = true → s.tovor.released = true →
      (s.ctx op.ctx).state ≠ .resetting → flag (s.binding op.link op.ctx) 80 = true →
      field (s.binding op.link op.ctx) 64 10 = op.peer → op.kind = .abort →
      exec (.linkInboundOperation op) s = .next (linkAborted s op.link op.ctx))
  ∧ (∀ (s : State) (op : LinkOp), op.link < 2 → op.ctx < 1024 → s.tovor.linkUp.getD op.link false = true → s.tovor.released = true →
      ((s.ctx op.ctx).state = .resetting → exec (.linkInboundOperation op) s = .next (answerPeer s .aborted))
      ∧ ((s.ctx op.ctx).state ≠ .resetting → (flag (s.binding op.link op.ctx) 80 = false ∨ field (s.binding op.link op.ctx) 64 10 ≠ op.peer) →
          exec (.linkInboundOperation op) s = .next (answerPeer s .refused)))
  ∧ (∀ (s : State) k op, s.tovor.outbound[k]? = some op → s.tovor.linkUp.getD op.link false = true → orderedBehind s k op = false →
      (s.refNs ≤ op.sent + 10000 → (∀ bs, exec (.linkAcknowledgement k (.ok bs)) s
          = .next (settleDue (answered (peerWritten (takeOp s k) op) op (natOfLe bs))))
        ∧ exec (.linkAcknowledgement k .aborted) s = .next (settleDue (abortOp (takeOp s k) op)))
      ∧ (∀ reply, reply = .refused ∨ op.sent + 10000 < s.refNs →
          exec (.linkAcknowledgement k reply) s = .next (settleDue (refuseOp (takeOp s k) op))))
  ∧ (∀ (s : State) k op reply, s.tovor.outbound[k]? = some op → (s.tovor.linkUp.getD op.link false = false ∨ orderedBehind s k op = true) →
      exec (.linkAcknowledgement k reply) s = .next s)
  ∧ (∀ (s : State) (op : OutOp) r h, op.win = none → op.who = some r → s.hart? r = some h →
      refuseOp s op = killGroup s r.group .linkFault h.pc.toNat (op.addr % 2 ^ 32) (if Who.isSteward r.who then 0 else h.quad))
  ∧ (∀ (s : State) (op : OutOp), op.win = none → op.who = none → refuseOp s op = dropWrite s op.ctx (op.va.getD op.addr))
  ∧ (∀ (s : State) k op, s.tovor.outbound[k]? = some op → (op.sent + 10000 ≤ s.refNs ∨ s.tovor.linkUp.getD op.link false = false) →
      exec (.linkAckTimeout k) s = .next (settleDue (refuseOp (takeOp s k) op)))
  ∧ (∀ (s : State) k op, s.tovor.outbound[k]? = some op → s.refNs < op.sent + 10000 → s.tovor.linkUp.getD op.link false = true →
      exec (.linkAckTimeout k) s = .next s)
  ∧ (∀ (s : State) l, l < 2 → s.tovor.linkUp.length = 2 →
      let v := s.modTovor fun t => { t with linkUp := t.linkUp.set l false, outbound := t.outbound.filter fun o => o.link != l }
      v.tovor.linkUp.getD l true = false
      ∧ exec (.linkDown l) s = .next (settleDue ((s.tovor.outbound.filter fun o => o.link == l).foldl refuseOp v)))
  ∧ (∀ (s : State) port p frame, s.tovor.ports[port]? = some p → NetCtl.enabled p.ctl = true →
      (frameOk frame = false → exec (.frameArrival port frame) s = .next (s.setPort port { p with bad := satInc p.bad }))
      ∧ (frameOk frame = true →
          let base := ringBase s p.ctl
          let body := frame.take (frame.length - 4)
          let slot (t : Nat) := bytesOfNat 2 body.length ++ [BitVec.ofNat 8 port] ++ bytesOfNat 5 0 ++ bytesOfNat 8 t ++ body
          (∀ m, ringIndices s base = (m, none) → exec (.frameArrival port frame) s = .next (dropFrame m base))
          ∧ ∀ m wr rd, ringIndices s base = (m, some (wr, rd)) →
            ((wr + 2 ^ 64 - rd) % 2 ^ 64 < 2 ^ NetCtl.log2 p.ctl → exec (.frameArrival port frame) s
              = .next ((writeNat (writeHome m none (wholeBytes (base + 64 + 2048 * (wr % 2 ^ NetCtl.log2 p.ctl)) (slot m.refNs))) base 8 (wr + 1)).setPort
                  port { p with frames := p.frames + 1 }))
            ∧ (2 ^ NetCtl.log2 p.ctl ≤ (wr + 2 ^ 64 - rd) % 2 ^ 64 → exec (.frameArrival port frame) s = .next (dropFrame m base))))
  ∧ (∀ (s : State) base m, (∀ c, meetShared s none base = (m, some c) → ringIndices s base = (m, none))
      ∧ (∀ z, meetShared s none base = (z, none) → (∀ c, meetShared z none (base + 8) = (m, some c) → ringIndices s base = (m, none))
        ∧ (meetShared z none (base + 8) = (m, none) → ringIndices s base = (m, some (memNat m.mem base 8, memNat m.mem (base + 8) 8))))
      ∧ (∀ c, meetShared s none (base + 16) = (m, some c) → dropFrame s base = m)
      ∧ (meetShared s none (base + 16) = (m, none) → dropFrame s base = writeNat m (base + 16) 8 (memNat m.mem (base + 16) 8 + 1)))
  ∧ (∀ (s : State) port p b, s.tovor.released = true → s.tovor.ports[port]? = some p →
      let v := BitVec.ofNat 64 (field b 32 16 * 2 ^ 32 + field b 20 8 * 2 ^ 20 + field b 0 1)
      (NetCtl.enabled p.ctl = false → (NetCtl.enabled v = false ∨ ringOk s v = true) →
        exec (.netCtlWrite port b) s = .next (s.setPort port { p with ctl := v }))
      ∧ (NetCtl.enabled p.ctl = false → NetCtl.enabled v = true → ringOk s v = false →
        exec (.netCtlWrite port b) s
          = .next (deviceLog (s.setPort port { p with ctl := v &&& ~~~1 }) none 5 { kind := 2, cause := .tovorDeny }))
      ∧ (NetCtl.enabled p.ctl = true → NetCtl.enabled v = true → exec (.netCtlWrite port b) s = .next s)
      ∧ (NetCtl.enabled p.ctl = true → NetCtl.enabled v = false →
        exec (.netCtlWrite port b) s = .next (s.setPort port { p with ctl := p.ctl &&& ~~~1 })))

/-! ## Frames, encoding, the step, reset -/

/-- 02 R44, R46, R62; 10 R206: the frame of the instructions that write a register or a predicate, and of the branches: every
other register and predicate, every byte of memory, every special register, accumulator, exception state and other context is as
it was, and the PC is the next instruction's or the target. -/
def Obligations.RegisterFrame : Prop :=
  (∀ row f s e e' u, Executes s row f e e' u →
    let regs := writeRegs e.steward f.fields row.d f.d
    let next := some (e.h.pc + 12)
    (∀ v, Framed s e row f regs none id next (after s e row f (.done (writeDst u e' row f v))))
    ∧ (∀ v, Framed s e row f [] (predOf f.d) id next (after s e row f (.done (writePred u e' row f f.d v))))
    ∧ Framed s e row f [] none id next (after s e row f (.done u))
    ∧ (e.det = false → ∀ target v, Framed s e row f [] none id (some target) (after s e row f (.jump target u))
        ∧ Framed s e row f regs none id (some target) (after s e row f (.jump target (writeDst u e' row f v)))))
  ∧ (∀ p, p ∈ integerOnly ++ floatOnly → ∀ f s e e' u, Executes s p.2 f e e' u →
      ∃ x, exec (p.1 f) s = .next x ∧ Framed s e p.2 f (writeRegs e.steward f.fields p.2.d f.d) (predOf f.d) id (some (e.h.pc + 12)) x)
  ∧ (∀ f s e e' u, Executes s rowNop f e e' u → ∃ x, exec (.nop f) s = .next x ∧ Framed s e rowNop f [] none id (some (e.h.pc + 12)) x)
  ∧ (∀ p, p ∈ branches → ∀ f s e e' u, Executes s p.2 f e e' u → e.det = false →
      ∃ x, exec (p.1 f) s = .next x ∧ Framed s e p.2 f (writeRegs e.steward f.fields p.2.d f.d) none id none x)

/-- 05 R123; 13 R275, R276, R280, R284, R285, R290: the frame of what stores: ST and STT leave all of memory as it is and put their
bytes, at the address that their checks place, in the store queue; STORE_COMMIT writes those bytes and no other, at their home or in
the L1 of the core, or, behind ordered accesses of the context to those bytes, joins them and writes nothing yet; an atomic writes the
bytes of its operand and no other, and a failed ACAS none; a load leaves memory as it is but for what the L1 of its core still held of
the bytes it reads at .CLU or wider. The walk of an access comes before it, and changes nothing but what it corrects. That the L1 holds
only written bytes (log 13), and that a plain store behind an ordered access to its bytes joins the buffer (log 34), are the model's
choices. -/
def Obligations.MemoryFrame : Prop :=
  let n (f : Form) : Nat := Ty.size f.ty
  let agreed (e : Env) : Bool := decide (e.gr.level < 2) || e.h.dup.isSome
  let stAcc (f : Form) (e : Env) (s : State) : Access :=
    { space := f.op2.toNat, addr := memAddr s e rowSt f (n f) (sext f.imm.toNat 32), size := n f, write := true
      far := farBase s e rowSt f, need := needWrite }
  (∀ f s e e' u z p host, Executes s rowSt f e e' u → Reaches u e' (stAcc f e' u) z (.flat p host) →
      acquireHeld z e'.r e'.h = false → (f.d ≠ .x 1 ∨ e'.det = false) → ∃ x, exec (.st f) s = .next x ∧ FramedOn z s e rowSt f [] none
        (fun q => q ++ [{ act := .bytes (wholeBytes p (bytesOfNat (n f) (e'.C u rowSt f))) (storesHome f.op2.toNat f.sub.toNat host)
                          agreed := agreed e', region := e'.h.regionNo }]) (some (e.h.pc + 12)) x)
  ∧ (∀ f s e e' u z store a odd p host, Executes s rowStt f e e' u →
      findElement u e' f (e'.B u rowStt f) = .at store a odd → Desc.fmt store ≠ 14 →
      Reaches u e' { space := Desc.space store, addr := a, size := n f, write := true, need := needWrite } z (.flat p host) →
      acquireHeld z e'.r e'.h = false → (f.d ≠ .x 1 ∨ e'.det = false) → ∃ x, exec (.stt f) s = .next x ∧ FramedOn z s e rowStt f [] none
        (fun q => q ++ [{ act := .bytes (wholeBytes p (bytesOfNat (n f) (e'.C u rowStt f))) (storesHome (Desc.space store) f.sub.toNat host)
                          agreed := agreed e', region := e'.h.regionNo }]) (some (e.h.pc + 12)) x)
  ∧ (∀ (s : State) (e : Env) (a : Access) (r : CtxRef), s.tovor.latent = [] → Untouched s (meetPath s e a) r)
  ∧ (∀ (s : State) (g : Group) (r : CtxRef) (h : Hart) (st : Store), (∃ o, o ∈ g.pendingOrd r.who h ∧ st.act.meets o.peer o.flat o.size = true) →
      let u := commitStore s g r h st
      u.mem = s.mem ∧ u.tovor = s.tovor ∧ u.cores = s.cores
        ∧ ∀ x, s.hart? r = some x → u = s.setHart r { x with ord := x.ord ++ [st.act.entry x] })
  ∧ (∀ (s : State) (g : Group) (r : CtxRef) (h : Hart) (ws : List WByte) (home agreed : Bool) (region : Nat), MemoryOk s →
      (∀ o, o ∈ g.pendingOrd r.who h → (Action.bytes ws home).meets o.peer o.flat o.size = false) →
      let u := commitStore s g r h { act := .bytes ws home, agreed := agreed, region := region }
      (home = false → u.mem = s.mem)
      ∧ (∀ a, (∀ w, w ∈ ws → w.addr ≠ a) → memGet u.mem a = memGet s.mem a)
      ∧ (∀ p bs, ws = wholeBytes p bs → p + bs.length ≤ memTop → ∀ i b, bs[i]? = some b →
          if home then memGet u.mem (p + i) = b else l1Get (u.core g.coreNo).l1 (p + i) = some b)
      ∧ (∀ k, (u.core k).acc = (s.core k).acc ∧ (u.core k).locks = (s.core k).locks ∧ (u.core k).cmds = (s.core k).cmds)
      ∧ (∀ p k, { u.queue p k with met := (s.queue p k).met } = s.queue p k) ∧ u.grids = s.grids ∧ u.pairs = s.pairs)
  ∧ (∀ (s : State) (core : Nat) (k : AtomKind) (p : Nat) (home : Bool) (g : NanTag), MemoryOk s → p + k.size ≤ memTop →
      let u := (performAtomic s core k p home g).1
      let old := (performAtomic s core k p home g).2
      (home = false → u.mem = s.mem)
      ∧ (∀ a, a < p ∨ p + k.size ≤ a → memGet u.mem a = memGet s.mem a)
      ∧ (k.writes old = false → u = if home then evictRange s core p k.size else s)
      ∧ (home = true → memNat u.mem p k.size = atomNew k old g % 2 ^ (8 * k.size))
      ∧ ((∀ c, c ∈ (s.core core).l1 → c.1 < p ∨ p + k.size ≤ c.1) → old = memNat s.mem p k.size))
  ∧ (∀ (s : State) (e : Env) (sub p k : Nat), MemoryOk s → 
      (∀ a, (a = p ∨ (p ≤ a ∧ a < p + k)) → mapFind s.tovor.latent (errUnit a) = none ∧ a / 8 ∉ s.tovor.badCopies) →
      let u := (readFlat s e sub p k).2.1
      (sub < 4 ∨ (∀ c, c ∈ (s.core e.g.coreNo).l1 → c.1 < p ∨ p + k ≤ c.1) → u = s)
      ∧ (∀ a, a < p ∨ p + k ≤ a → memGet u.mem a = memGet s.mem a)
      ∧ hartView u e.g e.r.who e.h true = hartView s e.g e.r.who e.h true)

/-- 08 R177 to R189: decoding an encoded instruction gives it back, with every operand at every value; every word that decodes is
the word of its instruction; and the bytes of a word are taken in their order (00 R9, R15). -/
def Obligations.DecodeOfEncode : Prop :=
  (∀ i w, i.wellFormed = true → encode? i = some w → decode w = .ok i)
  ∧ (∀ w i, decode w = .ok i → i.wellFormed = true ∧ encode? i = some w)
  ∧ (∀ (w : IWord) (rest : List Byte), decodeBytes (wordBytes w ++ rest) = some (decode w, rest))

/-- 08 R177, R181, R185; 09 R198: words written out from the encodings of the manual (10, 11 and 14 give three of them), and the
instructions they stand for; a reserved MOD, a nonzero unused field and an unassigned opcode. -/
def Obligations.DecodedWords : Prop :=
  let none_ : Form := { guard := 7, gneg := false, park := false, yield := false, fuse := false, last := false, ty := .i32
                        d := .x 0, a := .x 0, b := .x 0, c := .x 0, sub := 0, op2 := 0, imm := 0 }
  decode 0xFFFFFFFF_00004906_05101C08#96 = .ok (.add { none_ with ty := .n32, d := .x 5, a := .x 6, b := .imm, imm := 0xFFFFFFFF })
  ∧ decode 0xFFFFFF9C_12414904_42001C30#96 = .ok (.cmp { none_ with
      d := .p 2, a := .x 4, b := .imm, c := .p 1, sub := 2, op2 := 1, imm := 0xFFFFFF9C })
  ∧ decode 0x00000000_00080604_09601D0D#96 = .ok (.fdot4 { none_ with ty := .bf16, d := .x 9, a := .x 4, b := .x 6, c := .x 8 })
  ∧ decode 0x00000000_00000090_00901F11#96 = .ok (.mx { none_ with ty := .i8, a := .g 16 })
  ∧ decode 0xFFFFFFE8_00000000_00002E00#96 = .ok (.bra { none_ with guard := 3, gneg := true, imm := 0xFFFFFFE8 })
  ∧ decode 0x00000010_4600480A_08305E80#96 = .ok (.ld { none_ with
      park := true, ty := .n64, d := .x 8, a := .x 10, b := .zero, sub := 6, op2 := 4, imm := 0x10 })
  ∧ decode 0x00000000_00000001_00E01C08#96 = .error .illEnc
  ∧ decode 0x00000001_00000000_00001C00#96 = .error .illEnc
  ∧ decode 0x00000000_0000004C_01001C01#96 = .error .illOpnd
  ∧ decode 0x00000000_00000000_00001FFF#96 = .ok (.unassignedOpcode 0x00001FFF)

/-- 02 R56; 08 R177, R178, R190; 12 R255, R270: when the 12 bytes that a context's PC names, translated word by word, decode to an
instruction, the step whose turn issues that context, elected in its cycle, is that instruction, with the choice points of the
cores behind it (an access performed behind its second execution joins the walks of the cycle it was issued in, 19 R403); a word
that does not decode traps, and an error of the context's own state comes before the fetch; where the streams were rewritten the
word is a free value (log 73); a context that may not issue, or is not elected, leaves the state as the turn found it; a
happening's turn is the happening; of the turns of one cycle, the one that the rules put first is taken first; and an election
changes nothing but the votes of its core. Who is elected where the rules are silent (logs 79, 2) is the model's choice. -/
def Obligations.StepRunsTheDecodedInstruction : Prop :=
  ∀ (s : State) (c n : Nat) (el : Map Nat) (ts : List Turn),
    let p : State := passTime exec { s with agenda := ts } c el n
    let u (r : CtxRef) : State := { p with cur := r }
    let first (w : TurnOf) : Prop := s.agenda = { cycles := c, elastic := el, ns := n, what := w } :: ts ∧ overtaker exec p w ts = none
    let turn (r : CtxRef) : Prop := first (.issue r)
    (∀ (r : CtxRef) (e : Env) (port : State) (a0 a1 a2 : Nat) (h0 h1 h2 : Bool),
      let walks := issueWalks port e
      let v := joinWalks e.g.coreNo walks port
      let done (x : State) : State := settleTurn (leaveWalks e.g.coreNo walks x)
      turn r → envOf (u r) r = some e → takePort exec (u r) e = some port → e.h.fault = none → breaks v e = false →
      e.h.pc.toNat % 4 = 0 → e.h.pc.toNat + 12 ≤ (streamOf e).2 →
      let va := (Rec.code e.gr.record + (streamOf e).1 + e.h.pc.toNat) % 2 ^ 48
      let v1 := coreWalk v e.g.coreNo e.n va
      let v2 := coreWalk v1 e.g.coreNo e.n (va + 4)
      let v3 := coreWalk v2 e.g.coreNo e.n (va + 4 + 4)
      translate v1 e.g.coreNo e.n va needFetch = .ok (.flat a0 h0) →
      translate v2 e.g.coreNo e.n (va + 4) needFetch = .ok (.flat a1 h1) →
      translate v3 e.g.coreNo e.n (va + 4 + 4) needFetch = .ok (.flat a2 h2) →
      meetMemory v1 e.n a0 = (v1, none) → meetMemory v2 e.n a1 = (v2, none) → meetMemory v3 e.n a2 = (v3, none) →
      let w : IWord := if e.g.tainted then Config.rewrittenWord v3.free
        else BitVec.ofNat 96 (natOfBytes (memBytes v1.mem a0 4 ++ (memBytes v2.mem a1 4 ++ memBytes v3.mem a2 4)))
      let v' : State := if e.g.tainted then { v3 with free := v3.free + 1 } else v3
      (∀ i x, decode w = .ok i → exec i v' = .next x → step s = .next (done x))
      ∧ (∀ x, decode w = .error x → step s = .next (done (raiseTrap v' r
          { cause := rejectCause e.steward w, pc := e.h.pc, insn := w }))))
    ∧ (∀ (r : CtxRef) e v x, turn r → envOf (u r) r = some e → takePort exec (u r) e = some v → e.h.fault = some x →
        step s = .next (settleTurn (meetFault v (r, x))))
    ∧ (∀ (r : CtxRef), turn r → envOf (u r) r = none → step s = .next (settleTurn (u r)))
    ∧ (∀ (r : CtxRef) e, turn r → envOf (u r) r = some e → takePort exec (u r) e = none → step s = .next (settleTurn (u r)))
    ∧ (∀ i x, first (.event i) → encode? i = none → exec i (prepare exec i p) = .next x → step s = .next (settleTurn x))
    ∧ (∀ w x k y, s.agenda = { cycles := c, elastic := el, ns := n, what := w } :: ts → overtaker exec p w ts = some (x, k) →
        runTurn exec { p with agenda := agendaWithout w ts k } x.what = .next y →
        step s = .next (settleTurn y))
    ∧ (s.agenda = [] → firstEvent exec s (ownEvents s) = none → issuers exec s = [] →
        step s = .next (settleTurn (passTime exec s 1 [] 1)))
    ∧ (∀ e v, takePort exec s e = some v →
        v = s ∨ v = s.modCore e.g.coreNo fun k => { k with votes := v.core e.g.coreNo |>.votes })

/-- 02 R48; 06 R147; 07 R160; 14 R320; 16 R333, R344; 17 R348, R351, R352, R354, R355; 19 R396, R407; 20 R410, R413, R416: what the
machine holds after reset, where the manual gives it. -/
def Obligations.ResetState : Prop :=
  let s := State.reset
  MemoryOk s
  ∧ (∀ k, s.clusterCycles k = 0) ∧ s.groups = [] ∧ s.grids = []
  ∧ (∀ n, (s.ctx n).state = .free ∧ (s.ctx n).ctl = 0 ∧ (∀ t, (s.ctx n).desc t = 0) ∧ (∀ k, ((s.ctx n).slot k).bits = 0)
      ∧ (s.ctx n).rollbacks = 0 ∧ (s.ctx n).corrected = 0 ∧ (s.ctx n).integ = 0 ∧ (s.ctx n).kills = 0 ∧ (s.ctx n).logIdx = 0
      ∧ (s.ctx n).saves = 0 ∧ (s.ctx n).grpSel = 0 ∧ (s.ctx n).s1Root = 0 ∧ (s.ctx n).invVa = 0 ∧ (s.ctx n).invIpa = 0
      ∧ (s.ctx n).invSeq = 0 ∧ (s.ctx n).dbgctl = 0 ∧ (s.ctx n).ibrk = 0)
  ∧ (∀ p k, (s.queue p k).enable = false ∧ (s.queue p k).state = .disabled ∧ (s.queue p k).qbase = 0 ∧ (s.queue p k).log2 = 0
      ∧ (s.queue p k).prio = 0 ∧ (s.queue p k).ctx = 0 ∧ (s.queue p k).launchOk = false ∧ (s.queue p k).writeIdx = 0
      ∧ (s.queue p k).readIdx = 0 ∧ (s.queue p k).doneIdx = 0 ∧ (s.queue p k).inflight = 0 ∧ (s.queue p k).faultCause = 0)
  ∧ (∀ p, s.part p = 0)
  ∧ (∀ k, k < 64 → field (s.tovor.active.memory.getD k 0) 0 4 = 15 ∧ field (s.tovor.active.memory.getD k 0) 4 4 = 15)
  ∧ (∀ k, k < 32 → field (s.tovor.active.fabric.getD k 0) 0 4 = 15 ∧ field (s.tovor.active.fabric.getD k 0) 4 4 = 15)
  ∧ s.tovor.block = { windowFaults := 0, spareRemaps := 0, poisoned := 0, ueShared := 0, corrShared := 0, ueCtx := 0, corrCtx := 0
                      dlogIdx := 0, dlogSize := 0, dlogBase := 0 }
  ∧ (∀ c, (s.channel c).patrolEn = true ∧ (s.channel c).passMs = 1000 ∧ miStatus s c = 64)
  ∧ (∀ f, mapGet 0 s.tovor.winBase f = 0) ∧ (∀ l n, s.binding l n = 0)
  ∧ s.tovor.ports = List.replicate 4 { ctl := 0, frames := 0, bad := 0 }

/-- 00 R9; 13 R275: memory keeps its canonical form through every step, from every state that has it: equal memories stay equal data,
and no byte lies outside the address space. -/
def Obligations.MemoryKept : Prop := KeptByStep MemoryOk
end

