-- ==== Sys2Proof/Laws/State.lean ====
section
/-!
SUPPORT. What each named update of the state leaves of each field of it.
-/
namespace Sys2Proof.Machine

variable (s : State) (k p q j : Nat) (r : CtxRef)

@[simp] theorem State.setCore_cur (c : Core) : (s.setCore k c).cur = s.cur := rfl
@[simp] theorem State.setCore_agenda (c : Core) : (s.setCore k c).agenda = s.agenda := rfl
@[simp] theorem State.setCore_free (c : Core) : (s.setCore k c).free = s.free := rfl
@[simp] theorem State.setCore_refNs (c : Core) : (s.setCore k c).refNs = s.refNs := rfl
@[simp] theorem State.setCore_cycles (c : Core) : (s.setCore k c).cycles = s.cycles := rfl
@[simp] theorem State.setCore_mem (c : Core) : (s.setCore k c).mem = s.mem := rfl
@[simp] theorem State.setCore_groups (c : Core) : (s.setCore k c).groups = s.groups := rfl
@[simp] theorem State.setCore_grids (c : Core) : (s.setCore k c).grids = s.grids := rfl
@[simp] theorem State.setCore_gridSeq (c : Core) : (s.setCore k c).gridSeq = s.gridSeq := rfl
@[simp] theorem State.setCore_fixed (c : Core) : (s.setCore k c).fixed = s.fixed := rfl
@[simp] theorem State.setCore_tlb2 (c : Core) : (s.setCore k c).tlb2 = s.tlb2 := rfl
@[simp] theorem State.setCore_pairs (c : Core) : (s.setCore k c).pairs = s.pairs := rfl
@[simp] theorem State.setCore_retiredPairs (c : Core) : (s.setCore k c).retiredPairs = s.retiredPairs := rfl
@[simp] theorem State.setCore_retiredQuads (c : Core) : (s.setCore k c).retiredQuads = s.retiredQuads := rfl
@[simp] theorem State.setCore_ctxs (c : Core) : (s.setCore k c).ctxs = s.ctxs := rfl
@[simp] theorem State.setCore_queues (c : Core) : (s.setCore k c).queues = s.queues := rfl
@[simp] theorem State.setCore_served (c : Core) : (s.setCore k c).served = s.served := rfl
@[simp] theorem State.setCore_turn (c : Core) : (s.setCore k c).turn = s.turn := rfl
@[simp] theorem State.setCore_sliceDue (c : Core) : (s.setCore k c).sliceDue = s.sliceDue := rfl
@[simp] theorem State.setCore_passed (c : Core) : (s.setCore k c).passed = s.passed := rfl
@[simp] theorem State.setCore_reserving (c : Core) : (s.setCore k c).reserving = s.reserving := rfl
@[simp] theorem State.setCore_tovor (c : Core) : (s.setCore k c).tovor = s.tovor := rfl
@[simp] theorem State.setCtx_cur (c : Ctx) : (s.setCtx k c).cur = s.cur := rfl
@[simp] theorem State.setCtx_agenda (c : Ctx) : (s.setCtx k c).agenda = s.agenda := rfl
@[simp] theorem State.setCtx_free (c : Ctx) : (s.setCtx k c).free = s.free := rfl
@[simp] theorem State.setCtx_refNs (c : Ctx) : (s.setCtx k c).refNs = s.refNs := rfl
@[simp] theorem State.setCtx_cycles (c : Ctx) : (s.setCtx k c).cycles = s.cycles := rfl
@[simp] theorem State.setCtx_mem (c : Ctx) : (s.setCtx k c).mem = s.mem := rfl
@[simp] theorem State.setCtx_groups (c : Ctx) : (s.setCtx k c).groups = s.groups := rfl
@[simp] theorem State.setCtx_grids (c : Ctx) : (s.setCtx k c).grids = s.grids := rfl
@[simp] theorem State.setCtx_gridSeq (c : Ctx) : (s.setCtx k c).gridSeq = s.gridSeq := rfl
@[simp] theorem State.setCtx_cores (c : Ctx) : (s.setCtx k c).cores = s.cores := rfl
@[simp] theorem State.setCtx_fixed (c : Ctx) : (s.setCtx k c).fixed = s.fixed := rfl
@[simp] theorem State.setCtx_tlb2 (c : Ctx) : (s.setCtx k c).tlb2 = s.tlb2 := rfl
@[simp] theorem State.setCtx_pairs (c : Ctx) : (s.setCtx k c).pairs = s.pairs := rfl
@[simp] theorem State.setCtx_retiredPairs (c : Ctx) : (s.setCtx k c).retiredPairs = s.retiredPairs := rfl
@[simp] theorem State.setCtx_retiredQuads (c : Ctx) : (s.setCtx k c).retiredQuads = s.retiredQuads := rfl
@[simp] theorem State.setCtx_queues (c : Ctx) : (s.setCtx k c).queues = s.queues := rfl
@[simp] theorem State.setCtx_served (c : Ctx) : (s.setCtx k c).served = s.served := rfl
@[simp] theorem State.setCtx_turn (c : Ctx) : (s.setCtx k c).turn = s.turn := rfl
@[simp] theorem State.setCtx_sliceDue (c : Ctx) : (s.setCtx k c).sliceDue = s.sliceDue := rfl
@[simp] theorem State.setCtx_passed (c : Ctx) : (s.setCtx k c).passed = s.passed := rfl
@[simp] theorem State.setCtx_reserving (c : Ctx) : (s.setCtx k c).reserving = s.reserving := rfl
@[simp] theorem State.setCtx_tovor (c : Ctx) : (s.setCtx k c).tovor = s.tovor := rfl
@[simp] theorem State.setQueue_cur (v : Queue) : (s.setQueue p q v).cur = s.cur := rfl
@[simp] theorem State.setQueue_agenda (v : Queue) : (s.setQueue p q v).agenda = s.agenda := rfl
@[simp] theorem State.setQueue_free (v : Queue) : (s.setQueue p q v).free = s.free := rfl
@[simp] theorem State.setQueue_refNs (v : Queue) : (s.setQueue p q v).refNs = s.refNs := rfl
@[simp] theorem State.setQueue_cycles (v : Queue) : (s.setQueue p q v).cycles = s.cycles := rfl
@[simp] theorem State.setQueue_mem (v : Queue) : (s.setQueue p q v).mem = s.mem := rfl
@[simp] theorem State.setQueue_groups (v : Queue) : (s.setQueue p q v).groups = s.groups := rfl
@[simp] theorem State.setQueue_grids (v : Queue) : (s.setQueue p q v).grids = s.grids := rfl
@[simp] theorem State.setQueue_gridSeq (v : Queue) : (s.setQueue p q v).gridSeq = s.gridSeq := rfl
@[simp] theorem State.setQueue_cores (v : Queue) : (s.setQueue p q v).cores = s.cores := rfl
@[simp] theorem State.setQueue_fixed (v : Queue) : (s.setQueue p q v).fixed = s.fixed := rfl
@[simp] theorem State.setQueue_tlb2 (v : Queue) : (s.setQueue p q v).tlb2 = s.tlb2 := rfl
@[simp] theorem State.setQueue_pairs (v : Queue) : (s.setQueue p q v).pairs = s.pairs := rfl
@[simp] theorem State.setQueue_retiredPairs (v : Queue) : (s.setQueue p q v).retiredPairs = s.retiredPairs := rfl
@[simp] theorem State.setQueue_retiredQuads (v : Queue) : (s.setQueue p q v).retiredQuads = s.retiredQuads := rfl
@[simp] theorem State.setQueue_ctxs (v : Queue) : (s.setQueue p q v).ctxs = s.ctxs := rfl
@[simp] theorem State.setQueue_served (v : Queue) : (s.setQueue p q v).served = s.served := rfl
@[simp] theorem State.setQueue_turn (v : Queue) : (s.setQueue p q v).turn = s.turn := rfl
@[simp] theorem State.setQueue_sliceDue (v : Queue) : (s.setQueue p q v).sliceDue = s.sliceDue := rfl
@[simp] theorem State.setQueue_passed (v : Queue) : (s.setQueue p q v).passed = s.passed := rfl
@[simp] theorem State.setQueue_reserving (v : Queue) : (s.setQueue p q v).reserving = s.reserving := rfl
@[simp] theorem State.setQueue_tovor (v : Queue) : (s.setQueue p q v).tovor = s.tovor := rfl
@[simp] theorem State.setPair_cur (v : Pair) : (s.setPair j v).cur = s.cur := rfl
@[simp] theorem State.setPair_agenda (v : Pair) : (s.setPair j v).agenda = s.agenda := rfl
@[simp] theorem State.setPair_free (v : Pair) : (s.setPair j v).free = s.free := rfl
@[simp] theorem State.setPair_refNs (v : Pair) : (s.setPair j v).refNs = s.refNs := rfl
@[simp] theorem State.setPair_cycles (v : Pair) : (s.setPair j v).cycles = s.cycles := rfl
@[simp] theorem State.setPair_mem (v : Pair) : (s.setPair j v).mem = s.mem := rfl
@[simp] theorem State.setPair_groups (v : Pair) : (s.setPair j v).groups = s.groups := rfl
@[simp] theorem State.setPair_grids (v : Pair) : (s.setPair j v).grids = s.grids := rfl
@[simp] theorem State.setPair_gridSeq (v : Pair) : (s.setPair j v).gridSeq = s.gridSeq := rfl
@[simp] theorem State.setPair_cores (v : Pair) : (s.setPair j v).cores = s.cores := rfl
@[simp] theorem State.setPair_fixed (v : Pair) : (s.setPair j v).fixed = s.fixed := rfl
@[simp] theorem State.setPair_tlb2 (v : Pair) : (s.setPair j v).tlb2 = s.tlb2 := rfl
@[simp] theorem State.setPair_retiredPairs (v : Pair) : (s.setPair j v).retiredPairs = s.retiredPairs := rfl
@[simp] theorem State.setPair_retiredQuads (v : Pair) : (s.setPair j v).retiredQuads = s.retiredQuads := rfl
@[simp] theorem State.setPair_ctxs (v : Pair) : (s.setPair j v).ctxs = s.ctxs := rfl
@[simp] theorem State.setPair_queues (v : Pair) : (s.setPair j v).queues = s.queues := rfl
@[simp] theorem State.setPair_served (v : Pair) : (s.setPair j v).served = s.served := rfl
@[simp] theorem State.setPair_turn (v : Pair) : (s.setPair j v).turn = s.turn := rfl
@[simp] theorem State.setPair_sliceDue (v : Pair) : (s.setPair j v).sliceDue = s.sliceDue := rfl
@[simp] theorem State.setPair_passed (v : Pair) : (s.setPair j v).passed = s.passed := rfl
@[simp] theorem State.setPair_reserving (v : Pair) : (s.setPair j v).reserving = s.reserving := rfl
@[simp] theorem State.setPair_tovor (v : Pair) : (s.setPair j v).tovor = s.tovor := rfl
@[simp] theorem State.setGroup_cur (g : Group) : (s.setGroup k g).cur = s.cur := rfl
@[simp] theorem State.setGroup_agenda (g : Group) : (s.setGroup k g).agenda = s.agenda := rfl
@[simp] theorem State.setGroup_free (g : Group) : (s.setGroup k g).free = s.free := rfl
@[simp] theorem State.setGroup_refNs (g : Group) : (s.setGroup k g).refNs = s.refNs := rfl
@[simp] theorem State.setGroup_cycles (g : Group) : (s.setGroup k g).cycles = s.cycles := rfl
@[simp] theorem State.setGroup_mem (g : Group) : (s.setGroup k g).mem = s.mem := rfl
@[simp] theorem State.setGroup_grids (g : Group) : (s.setGroup k g).grids = s.grids := rfl
@[simp] theorem State.setGroup_gridSeq (g : Group) : (s.setGroup k g).gridSeq = s.gridSeq := rfl
@[simp] theorem State.setGroup_cores (g : Group) : (s.setGroup k g).cores = s.cores := rfl
@[simp] theorem State.setGroup_fixed (g : Group) : (s.setGroup k g).fixed = s.fixed := rfl
@[simp] theorem State.setGroup_tlb2 (g : Group) : (s.setGroup k g).tlb2 = s.tlb2 := rfl
@[simp] theorem State.setGroup_pairs (g : Group) : (s.setGroup k g).pairs = s.pairs := rfl
@[simp] theorem State.setGroup_retiredPairs (g : Group) : (s.setGroup k g).retiredPairs = s.retiredPairs := rfl
@[simp] theorem State.setGroup_retiredQuads (g : Group) : (s.setGroup k g).retiredQuads = s.retiredQuads := rfl
@[simp] theorem State.setGroup_ctxs (g : Group) : (s.setGroup k g).ctxs = s.ctxs := rfl
@[simp] theorem State.setGroup_queues (g : Group) : (s.setGroup k g).queues = s.queues := rfl
@[simp] theorem State.setGroup_served (g : Group) : (s.setGroup k g).served = s.served := rfl
@[simp] theorem State.setGroup_turn (g : Group) : (s.setGroup k g).turn = s.turn := rfl
@[simp] theorem State.setGroup_sliceDue (g : Group) : (s.setGroup k g).sliceDue = s.sliceDue := rfl
@[simp] theorem State.setGroup_passed (g : Group) : (s.setGroup k g).passed = s.passed := rfl
@[simp] theorem State.setGroup_reserving (g : Group) : (s.setGroup k g).reserving = s.reserving := rfl
@[simp] theorem State.setGroup_tovor (g : Group) : (s.setGroup k g).tovor = s.tovor := rfl
@[simp] theorem State.setGrid_cur (g : Grid) : (s.setGrid k g).cur = s.cur := rfl
@[simp] theorem State.setGrid_agenda (g : Grid) : (s.setGrid k g).agenda = s.agenda := rfl
@[simp] theorem State.setGrid_free (g : Grid) : (s.setGrid k g).free = s.free := rfl
@[simp] theorem State.setGrid_refNs (g : Grid) : (s.setGrid k g).refNs = s.refNs := rfl
@[simp] theorem State.setGrid_cycles (g : Grid) : (s.setGrid k g).cycles = s.cycles := rfl
@[simp] theorem State.setGrid_mem (g : Grid) : (s.setGrid k g).mem = s.mem := rfl
@[simp] theorem State.setGrid_groups (g : Grid) : (s.setGrid k g).groups = s.groups := rfl
@[simp] theorem State.setGrid_gridSeq (g : Grid) : (s.setGrid k g).gridSeq = s.gridSeq := rfl
@[simp] theorem State.setGrid_cores (g : Grid) : (s.setGrid k g).cores = s.cores := rfl
@[simp] theorem State.setGrid_fixed (g : Grid) : (s.setGrid k g).fixed = s.fixed := rfl
@[simp] theorem State.setGrid_tlb2 (g : Grid) : (s.setGrid k g).tlb2 = s.tlb2 := rfl
@[simp] theorem State.setGrid_pairs (g : Grid) : (s.setGrid k g).pairs = s.pairs := rfl
@[simp] theorem State.setGrid_retiredPairs (g : Grid) : (s.setGrid k g).retiredPairs = s.retiredPairs := rfl
@[simp] theorem State.setGrid_retiredQuads (g : Grid) : (s.setGrid k g).retiredQuads = s.retiredQuads := rfl
@[simp] theorem State.setGrid_ctxs (g : Grid) : (s.setGrid k g).ctxs = s.ctxs := rfl
@[simp] theorem State.setGrid_queues (g : Grid) : (s.setGrid k g).queues = s.queues := rfl
@[simp] theorem State.setGrid_served (g : Grid) : (s.setGrid k g).served = s.served := rfl
@[simp] theorem State.setGrid_turn (g : Grid) : (s.setGrid k g).turn = s.turn := rfl
@[simp] theorem State.setGrid_sliceDue (g : Grid) : (s.setGrid k g).sliceDue = s.sliceDue := rfl
@[simp] theorem State.setGrid_passed (g : Grid) : (s.setGrid k g).passed = s.passed := rfl
@[simp] theorem State.setGrid_reserving (g : Grid) : (s.setGrid k g).reserving = s.reserving := rfl
@[simp] theorem State.setGrid_tovor (g : Grid) : (s.setGrid k g).tovor = s.tovor := rfl
@[simp] theorem State.modCore_cur (f : Core → Core) : (s.modCore k f).cur = s.cur := rfl
@[simp] theorem State.modCore_agenda (f : Core → Core) : (s.modCore k f).agenda = s.agenda := rfl
@[simp] theorem State.modCore_free (f : Core → Core) : (s.modCore k f).free = s.free := rfl
@[simp] theorem State.modCore_refNs (f : Core → Core) : (s.modCore k f).refNs = s.refNs := rfl
@[simp] theorem State.modCore_cycles (f : Core → Core) : (s.modCore k f).cycles = s.cycles := rfl
@[simp] theorem State.modCore_mem (f : Core → Core) : (s.modCore k f).mem = s.mem := rfl
@[simp] theorem State.modCore_groups (f : Core → Core) : (s.modCore k f).groups = s.groups := rfl
@[simp] theorem State.modCore_grids (f : Core → Core) : (s.modCore k f).grids = s.grids := rfl
@[simp] theorem State.modCore_gridSeq (f : Core → Core) : (s.modCore k f).gridSeq = s.gridSeq := rfl
@[simp] theorem State.modCore_fixed (f : Core → Core) : (s.modCore k f).fixed = s.fixed := rfl
@[simp] theorem State.modCore_tlb2 (f : Core → Core) : (s.modCore k f).tlb2 = s.tlb2 := rfl
@[simp] theorem State.modCore_pairs (f : Core → Core) : (s.modCore k f).pairs = s.pairs := rfl
@[simp] theorem State.modCore_retiredPairs (f : Core → Core) : (s.modCore k f).retiredPairs = s.retiredPairs := rfl
@[simp] theorem State.modCore_retiredQuads (f : Core → Core) : (s.modCore k f).retiredQuads = s.retiredQuads := rfl
@[simp] theorem State.modCore_ctxs (f : Core → Core) : (s.modCore k f).ctxs = s.ctxs := rfl
@[simp] theorem State.modCore_queues (f : Core → Core) : (s.modCore k f).queues = s.queues := rfl
@[simp] theorem State.modCore_served (f : Core → Core) : (s.modCore k f).served = s.served := rfl
@[simp] theorem State.modCore_turn (f : Core → Core) : (s.modCore k f).turn = s.turn := rfl
@[simp] theorem State.modCore_sliceDue (f : Core → Core) : (s.modCore k f).sliceDue = s.sliceDue := rfl
@[simp] theorem State.modCore_passed (f : Core → Core) : (s.modCore k f).passed = s.passed := rfl
@[simp] theorem State.modCore_reserving (f : Core → Core) : (s.modCore k f).reserving = s.reserving := rfl
@[simp] theorem State.modCore_tovor (f : Core → Core) : (s.modCore k f).tovor = s.tovor := rfl
@[simp] theorem State.modCtx_cur (f : Ctx → Ctx) : (s.modCtx k f).cur = s.cur := rfl
@[simp] theorem State.modCtx_agenda (f : Ctx → Ctx) : (s.modCtx k f).agenda = s.agenda := rfl
@[simp] theorem State.modCtx_free (f : Ctx → Ctx) : (s.modCtx k f).free = s.free := rfl
@[simp] theorem State.modCtx_refNs (f : Ctx → Ctx) : (s.modCtx k f).refNs = s.refNs := rfl
@[simp] theorem State.modCtx_cycles (f : Ctx → Ctx) : (s.modCtx k f).cycles = s.cycles := rfl
@[simp] theorem State.modCtx_mem (f : Ctx → Ctx) : (s.modCtx k f).mem = s.mem := rfl
@[simp] theorem State.modCtx_groups (f : Ctx → Ctx) : (s.modCtx k f).groups = s.groups := rfl
@[simp] theorem State.modCtx_grids (f : Ctx → Ctx) : (s.modCtx k f).grids = s.grids := rfl
@[simp] theorem State.modCtx_gridSeq (f : Ctx → Ctx) : (s.modCtx k f).gridSeq = s.gridSeq := rfl
@[simp] theorem State.modCtx_cores (f : Ctx → Ctx) : (s.modCtx k f).cores = s.cores := rfl
@[simp] theorem State.modCtx_fixed (f : Ctx → Ctx) : (s.modCtx k f).fixed = s.fixed := rfl
@[simp] theorem State.modCtx_tlb2 (f : Ctx → Ctx) : (s.modCtx k f).tlb2 = s.tlb2 := rfl
@[simp] theorem State.modCtx_pairs (f : Ctx → Ctx) : (s.modCtx k f).pairs = s.pairs := rfl
@[simp] theorem State.modCtx_retiredPairs (f : Ctx → Ctx) : (s.modCtx k f).retiredPairs = s.retiredPairs := rfl
@[simp] theorem State.modCtx_retiredQuads (f : Ctx → Ctx) : (s.modCtx k f).retiredQuads = s.retiredQuads := rfl
@[simp] theorem State.modCtx_queues (f : Ctx → Ctx) : (s.modCtx k f).queues = s.queues := rfl
@[simp] theorem State.modCtx_served (f : Ctx → Ctx) : (s.modCtx k f).served = s.served := rfl
@[simp] theorem State.modCtx_turn (f : Ctx → Ctx) : (s.modCtx k f).turn = s.turn := rfl
@[simp] theorem State.modCtx_sliceDue (f : Ctx → Ctx) : (s.modCtx k f).sliceDue = s.sliceDue := rfl
@[simp] theorem State.modCtx_passed (f : Ctx → Ctx) : (s.modCtx k f).passed = s.passed := rfl
@[simp] theorem State.modCtx_reserving (f : Ctx → Ctx) : (s.modCtx k f).reserving = s.reserving := rfl
@[simp] theorem State.modCtx_tovor (f : Ctx → Ctx) : (s.modCtx k f).tovor = s.tovor := rfl
@[simp] theorem State.modQueue_cur (f : Queue → Queue) : (s.modQueue p q f).cur = s.cur := rfl
@[simp] theorem State.modQueue_agenda (f : Queue → Queue) : (s.modQueue p q f).agenda = s.agenda := rfl
@[simp] theorem State.modQueue_free (f : Queue → Queue) : (s.modQueue p q f).free = s.free := rfl
@[simp] theorem State.modQueue_refNs (f : Queue → Queue) : (s.modQueue p q f).refNs = s.refNs := rfl
@[simp] theorem State.modQueue_cycles (f : Queue → Queue) : (s.modQueue p q f).cycles = s.cycles := rfl
@[simp] theorem State.modQueue_mem (f : Queue → Queue) : (s.modQueue p q f).mem = s.mem := rfl
@[simp] theorem State.modQueue_groups (f : Queue → Queue) : (s.modQueue p q f).groups = s.groups := rfl
@[simp] theorem State.modQueue_grids (f : Queue → Queue) : (s.modQueue p q f).grids = s.grids := rfl
@[simp] theorem State.modQueue_gridSeq (f : Queue → Queue) : (s.modQueue p q f).gridSeq = s.gridSeq := rfl
@[simp] theorem State.modQueue_cores (f : Queue → Queue) : (s.modQueue p q f).cores = s.cores := rfl
@[simp] theorem State.modQueue_fixed (f : Queue → Queue) : (s.modQueue p q f).fixed = s.fixed := rfl
@[simp] theorem State.modQueue_tlb2 (f : Queue → Queue) : (s.modQueue p q f).tlb2 = s.tlb2 := rfl
@[simp] theorem State.modQueue_pairs (f : Queue → Queue) : (s.modQueue p q f).pairs = s.pairs := rfl
@[simp] theorem State.modQueue_retiredPairs (f : Queue → Queue) : (s.modQueue p q f).retiredPairs = s.retiredPairs := rfl
@[simp] theorem State.modQueue_retiredQuads (f : Queue → Queue) : (s.modQueue p q f).retiredQuads = s.retiredQuads := rfl
@[simp] theorem State.modQueue_ctxs (f : Queue → Queue) : (s.modQueue p q f).ctxs = s.ctxs := rfl
@[simp] theorem State.modQueue_served (f : Queue → Queue) : (s.modQueue p q f).served = s.served := rfl
@[simp] theorem State.modQueue_turn (f : Queue → Queue) : (s.modQueue p q f).turn = s.turn := rfl
@[simp] theorem State.modQueue_sliceDue (f : Queue → Queue) : (s.modQueue p q f).sliceDue = s.sliceDue := rfl
@[simp] theorem State.modQueue_passed (f : Queue → Queue) : (s.modQueue p q f).passed = s.passed := rfl
@[simp] theorem State.modQueue_reserving (f : Queue → Queue) : (s.modQueue p q f).reserving = s.reserving := rfl
@[simp] theorem State.modQueue_tovor (f : Queue → Queue) : (s.modQueue p q f).tovor = s.tovor := rfl
@[simp] theorem State.modTovor_cur (f : Tovor → Tovor) : (s.modTovor f).cur = s.cur := rfl
@[simp] theorem State.modTovor_agenda (f : Tovor → Tovor) : (s.modTovor f).agenda = s.agenda := rfl
@[simp] theorem State.modTovor_free (f : Tovor → Tovor) : (s.modTovor f).free = s.free := rfl
@[simp] theorem State.modTovor_refNs (f : Tovor → Tovor) : (s.modTovor f).refNs = s.refNs := rfl
@[simp] theorem State.modTovor_cycles (f : Tovor → Tovor) : (s.modTovor f).cycles = s.cycles := rfl
@[simp] theorem State.modTovor_mem (f : Tovor → Tovor) : (s.modTovor f).mem = s.mem := rfl
@[simp] theorem State.modTovor_groups (f : Tovor → Tovor) : (s.modTovor f).groups = s.groups := rfl
@[simp] theorem State.modTovor_grids (f : Tovor → Tovor) : (s.modTovor f).grids = s.grids := rfl
@[simp] theorem State.modTovor_gridSeq (f : Tovor → Tovor) : (s.modTovor f).gridSeq = s.gridSeq := rfl
@[simp] theorem State.modTovor_cores (f : Tovor → Tovor) : (s.modTovor f).cores = s.cores := rfl
@[simp] theorem State.modTovor_fixed (f : Tovor → Tovor) : (s.modTovor f).fixed = s.fixed := rfl
@[simp] theorem State.modTovor_tlb2 (f : Tovor → Tovor) : (s.modTovor f).tlb2 = s.tlb2 := rfl
@[simp] theorem State.modTovor_pairs (f : Tovor → Tovor) : (s.modTovor f).pairs = s.pairs := rfl
@[simp] theorem State.modTovor_retiredPairs (f : Tovor → Tovor) : (s.modTovor f).retiredPairs = s.retiredPairs := rfl
@[simp] theorem State.modTovor_retiredQuads (f : Tovor → Tovor) : (s.modTovor f).retiredQuads = s.retiredQuads := rfl
@[simp] theorem State.modTovor_ctxs (f : Tovor → Tovor) : (s.modTovor f).ctxs = s.ctxs := rfl
@[simp] theorem State.modTovor_queues (f : Tovor → Tovor) : (s.modTovor f).queues = s.queues := rfl
@[simp] theorem State.modTovor_served (f : Tovor → Tovor) : (s.modTovor f).served = s.served := rfl
@[simp] theorem State.modTovor_turn (f : Tovor → Tovor) : (s.modTovor f).turn = s.turn := rfl
@[simp] theorem State.modTovor_sliceDue (f : Tovor → Tovor) : (s.modTovor f).sliceDue = s.sliceDue := rfl
@[simp] theorem State.modTovor_passed (f : Tovor → Tovor) : (s.modTovor f).passed = s.passed := rfl
@[simp] theorem State.modTovor_reserving (f : Tovor → Tovor) : (s.modTovor f).reserving = s.reserving := rfl
@[simp] theorem State.modBlock_cur (f : DevBlock → DevBlock) : (s.modBlock f).cur = s.cur := rfl
@[simp] theorem State.modBlock_agenda (f : DevBlock → DevBlock) : (s.modBlock f).agenda = s.agenda := rfl
@[simp] theorem State.modBlock_free (f : DevBlock → DevBlock) : (s.modBlock f).free = s.free := rfl
@[simp] theorem State.modBlock_refNs (f : DevBlock → DevBlock) : (s.modBlock f).refNs = s.refNs := rfl
@[simp] theorem State.modBlock_cycles (f : DevBlock → DevBlock) : (s.modBlock f).cycles = s.cycles := rfl
@[simp] theorem State.modBlock_mem (f : DevBlock → DevBlock) : (s.modBlock f).mem = s.mem := rfl
@[simp] theorem State.modBlock_groups (f : DevBlock → DevBlock) : (s.modBlock f).groups = s.groups := rfl
@[simp] theorem State.modBlock_grids (f : DevBlock → DevBlock) : (s.modBlock f).grids = s.grids := rfl
@[simp] theorem State.modBlock_gridSeq (f : DevBlock → DevBlock) : (s.modBlock f).gridSeq = s.gridSeq := rfl
@[simp] theorem State.modBlock_cores (f : DevBlock → DevBlock) : (s.modBlock f).cores = s.cores := rfl
@[simp] theorem State.modBlock_fixed (f : DevBlock → DevBlock) : (s.modBlock f).fixed = s.fixed := rfl
@[simp] theorem State.modBlock_tlb2 (f : DevBlock → DevBlock) : (s.modBlock f).tlb2 = s.tlb2 := rfl
@[simp] theorem State.modBlock_pairs (f : DevBlock → DevBlock) : (s.modBlock f).pairs = s.pairs := rfl
@[simp] theorem State.modBlock_retiredPairs (f : DevBlock → DevBlock) : (s.modBlock f).retiredPairs = s.retiredPairs := rfl
@[simp] theorem State.modBlock_retiredQuads (f : DevBlock → DevBlock) : (s.modBlock f).retiredQuads = s.retiredQuads := rfl
@[simp] theorem State.modBlock_ctxs (f : DevBlock → DevBlock) : (s.modBlock f).ctxs = s.ctxs := rfl
@[simp] theorem State.modBlock_queues (f : DevBlock → DevBlock) : (s.modBlock f).queues = s.queues := rfl
@[simp] theorem State.modBlock_served (f : DevBlock → DevBlock) : (s.modBlock f).served = s.served := rfl
@[simp] theorem State.modBlock_turn (f : DevBlock → DevBlock) : (s.modBlock f).turn = s.turn := rfl
@[simp] theorem State.modBlock_sliceDue (f : DevBlock → DevBlock) : (s.modBlock f).sliceDue = s.sliceDue := rfl
@[simp] theorem State.modBlock_passed (f : DevBlock → DevBlock) : (s.modBlock f).passed = s.passed := rfl
@[simp] theorem State.modBlock_reserving (f : DevBlock → DevBlock) : (s.modBlock f).reserving = s.reserving := rfl
@[simp] theorem State.setHart_cur (h : Hart) : (s.setHart r h).cur = s.cur := by
  unfold State.setHart; split <;> simp
@[simp] theorem State.setHart_agenda (h : Hart) : (s.setHart r h).agenda = s.agenda := by
  unfold State.setHart; split <;> simp
@[simp] theorem State.setHart_free (h : Hart) : (s.setHart r h).free = s.free := by
  unfold State.setHart; split <;> simp
@[simp] theorem State.setHart_refNs (h : Hart) : (s.setHart r h).refNs = s.refNs := by
  unfold State.setHart; split <;> simp
@[simp] theorem State.setHart_cycles (h : Hart) : (s.setHart r h).cycles = s.cycles := by
  unfold State.setHart; split <;> simp
@[simp] theorem State.setHart_mem (h : Hart) : (s.setHart r h).mem = s.mem := by
  unfold State.setHart; split <;> simp
@[simp] theorem State.setHart_grids (h : Hart) : (s.setHart r h).grids = s.grids := by
  unfold State.setHart; split <;> simp
@[simp] theorem State.setHart_gridSeq (h : Hart) : (s.setHart r h).gridSeq = s.gridSeq := by
  unfold State.setHart; split <;> simp
@[simp] theorem State.setHart_cores (h : Hart) : (s.setHart r h).cores = s.cores := by
  unfold State.setHart; split <;> simp
@[simp] theorem State.setHart_fixed (h : Hart) : (s.setHart r h).fixed = s.fixed := by
  unfold State.setHart; split <;> simp
@[simp] theorem State.setHart_tlb2 (h : Hart) : (s.setHart r h).tlb2 = s.tlb2 := by
  unfold State.setHart; split <;> simp
@[simp] theorem State.setHart_pairs (h : Hart) : (s.setHart r h).pairs = s.pairs := by
  unfold State.setHart; split <;> simp
@[simp] theorem State.setHart_retiredPairs (h : Hart) : (s.setHart r h).retiredPairs = s.retiredPairs := by
  unfold State.setHart; split <;> simp
@[simp] theorem State.setHart_retiredQuads (h : Hart) : (s.setHart r h).retiredQuads = s.retiredQuads := by
  unfold State.setHart; split <;> simp
@[simp] theorem State.setHart_ctxs (h : Hart) : (s.setHart r h).ctxs = s.ctxs := by
  unfold State.setHart; split <;> simp
@[simp] theorem State.setHart_queues (h : Hart) : (s.setHart r h).queues = s.queues := by
  unfold State.setHart; split <;> simp
@[simp] theorem State.setHart_served (h : Hart) : (s.setHart r h).served = s.served := by
  unfold State.setHart; split <;> simp
@[simp] theorem State.setHart_turn (h : Hart) : (s.setHart r h).turn = s.turn := by
  unfold State.setHart; split <;> simp
@[simp] theorem State.setHart_sliceDue (h : Hart) : (s.setHart r h).sliceDue = s.sliceDue := by
  unfold State.setHart; split <;> simp
@[simp] theorem State.setHart_passed (h : Hart) : (s.setHart r h).passed = s.passed := by
  unfold State.setHart; split <;> simp
@[simp] theorem State.setHart_reserving (h : Hart) : (s.setHart r h).reserving = s.reserving := by
  unfold State.setHart; split <;> simp
@[simp] theorem State.setHart_tovor (h : Hart) : (s.setHart r h).tovor = s.tovor := by
  unfold State.setHart; split <;> simp
@[simp] theorem State.modHart_cur (f : Hart → Hart) : (s.modHart r f).cur = s.cur := by
  unfold State.modHart; split <;> simp
@[simp] theorem State.modHart_agenda (f : Hart → Hart) : (s.modHart r f).agenda = s.agenda := by
  unfold State.modHart; split <;> simp
@[simp] theorem State.modHart_free (f : Hart → Hart) : (s.modHart r f).free = s.free := by
  unfold State.modHart; split <;> simp
@[simp] theorem State.modHart_refNs (f : Hart → Hart) : (s.modHart r f).refNs = s.refNs := by
  unfold State.modHart; split <;> simp
@[simp] theorem State.modHart_cycles (f : Hart → Hart) : (s.modHart r f).cycles = s.cycles := by
  unfold State.modHart; split <;> simp
@[simp] theorem State.modHart_mem (f : Hart → Hart) : (s.modHart r f).mem = s.mem := by
  unfold State.modHart; split <;> simp
@[simp] theorem State.modHart_grids (f : Hart → Hart) : (s.modHart r f).grids = s.grids := by
  unfold State.modHart; split <;> simp
@[simp] theorem State.modHart_gridSeq (f : Hart → Hart) : (s.modHart r f).gridSeq = s.gridSeq := by
  unfold State.modHart; split <;> simp
@[simp] theorem State.modHart_cores (f : Hart → Hart) : (s.modHart r f).cores = s.cores := by
  unfold State.modHart; split <;> simp
@[simp] theorem State.modHart_fixed (f : Hart → Hart) : (s.modHart r f).fixed = s.fixed := by
  unfold State.modHart; split <;> simp
@[simp] theorem State.modHart_tlb2 (f : Hart → Hart) : (s.modHart r f).tlb2 = s.tlb2 := by
  unfold State.modHart; split <;> simp
@[simp] theorem State.modHart_pairs (f : Hart → Hart) : (s.modHart r f).pairs = s.pairs := by
  unfold State.modHart; split <;> simp
@[simp] theorem State.modHart_retiredPairs (f : Hart → Hart) : (s.modHart r f).retiredPairs = s.retiredPairs := by
  unfold State.modHart; split <;> simp
@[simp] theorem State.modHart_retiredQuads (f : Hart → Hart) : (s.modHart r f).retiredQuads = s.retiredQuads := by
  unfold State.modHart; split <;> simp
@[simp] theorem State.modHart_ctxs (f : Hart → Hart) : (s.modHart r f).ctxs = s.ctxs := by
  unfold State.modHart; split <;> simp
@[simp] theorem State.modHart_queues (f : Hart → Hart) : (s.modHart r f).queues = s.queues := by
  unfold State.modHart; split <;> simp
@[simp] theorem State.modHart_served (f : Hart → Hart) : (s.modHart r f).served = s.served := by
  unfold State.modHart; split <;> simp
@[simp] theorem State.modHart_turn (f : Hart → Hart) : (s.modHart r f).turn = s.turn := by
  unfold State.modHart; split <;> simp
@[simp] theorem State.modHart_sliceDue (f : Hart → Hart) : (s.modHart r f).sliceDue = s.sliceDue := by
  unfold State.modHart; split <;> simp
@[simp] theorem State.modHart_passed (f : Hart → Hart) : (s.modHart r f).passed = s.passed := by
  unfold State.modHart; split <;> simp
@[simp] theorem State.modHart_reserving (f : Hart → Hart) : (s.modHart r f).reserving = s.reserving := by
  unfold State.modHart; split <;> simp
@[simp] theorem State.modHart_tovor (f : Hart → Hart) : (s.modHart r f).tovor = s.tovor := by
  unfold State.modHart; split <;> simp
@[simp] theorem State.modGroup_cur (f : Group → Group) : (s.modGroup k f).cur = s.cur := by
  unfold State.modGroup; split <;> simp
@[simp] theorem State.modGroup_agenda (f : Group → Group) : (s.modGroup k f).agenda = s.agenda := by
  unfold State.modGroup; split <;> simp
@[simp] theorem State.modGroup_free (f : Group → Group) : (s.modGroup k f).free = s.free := by
  unfold State.modGroup; split <;> simp
@[simp] theorem State.modGroup_refNs (f : Group → Group) : (s.modGroup k f).refNs = s.refNs := by
  unfold State.modGroup; split <;> simp
@[simp] theorem State.modGroup_cycles (f : Group → Group) : (s.modGroup k f).cycles = s.cycles := by
  unfold State.modGroup; split <;> simp
@[simp] theorem State.modGroup_mem (f : Group → Group) : (s.modGroup k f).mem = s.mem := by
  unfold State.modGroup; split <;> simp
@[simp] theorem State.modGroup_grids (f : Group → Group) : (s.modGroup k f).grids = s.grids := by
  unfold State.modGroup; split <;> simp
@[simp] theorem State.modGroup_gridSeq (f : Group → Group) : (s.modGroup k f).gridSeq = s.gridSeq := by
  unfold State.modGroup; split <;> simp
@[simp] theorem State.modGroup_cores (f : Group → Group) : (s.modGroup k f).cores = s.cores := by
  unfold State.modGroup; split <;> simp
@[simp] theorem State.modGroup_fixed (f : Group → Group) : (s.modGroup k f).fixed = s.fixed := by
  unfold State.modGroup; split <;> simp
@[simp] theorem State.modGroup_tlb2 (f : Group → Group) : (s.modGroup k f).tlb2 = s.tlb2 := by
  unfold State.modGroup; split <;> simp
@[simp] theorem State.modGroup_pairs (f : Group → Group) : (s.modGroup k f).pairs = s.pairs := by
  unfold State.modGroup; split <;> simp
@[simp] theorem State.modGroup_retiredPairs (f : Group → Group) : (s.modGroup k f).retiredPairs = s.retiredPairs := by
  unfold State.modGroup; split <;> simp
@[simp] theorem State.modGroup_retiredQuads (f : Group → Group) : (s.modGroup k f).retiredQuads = s.retiredQuads := by
  unfold State.modGroup; split <;> simp
@[simp] theorem State.modGroup_ctxs (f : Group → Group) : (s.modGroup k f).ctxs = s.ctxs := by
  unfold State.modGroup; split <;> simp
@[simp] theorem State.modGroup_queues (f : Group → Group) : (s.modGroup k f).queues = s.queues := by
  unfold State.modGroup; split <;> simp
@[simp] theorem State.modGroup_served (f : Group → Group) : (s.modGroup k f).served = s.served := by
  unfold State.modGroup; split <;> simp
@[simp] theorem State.modGroup_turn (f : Group → Group) : (s.modGroup k f).turn = s.turn := by
  unfold State.modGroup; split <;> simp
@[simp] theorem State.modGroup_sliceDue (f : Group → Group) : (s.modGroup k f).sliceDue = s.sliceDue := by
  unfold State.modGroup; split <;> simp
@[simp] theorem State.modGroup_passed (f : Group → Group) : (s.modGroup k f).passed = s.passed := by
  unfold State.modGroup; split <;> simp
@[simp] theorem State.modGroup_reserving (f : Group → Group) : (s.modGroup k f).reserving = s.reserving := by
  unfold State.modGroup; split <;> simp
@[simp] theorem State.modGroup_tovor (f : Group → Group) : (s.modGroup k f).tovor = s.tovor := by
  unfold State.modGroup; split <;> simp
@[simp] theorem State.modGrid_cur (f : Grid → Grid) : (s.modGrid k f).cur = s.cur := by
  unfold State.modGrid; split <;> simp
@[simp] theorem State.modGrid_agenda (f : Grid → Grid) : (s.modGrid k f).agenda = s.agenda := by
  unfold State.modGrid; split <;> simp
@[simp] theorem State.modGrid_free (f : Grid → Grid) : (s.modGrid k f).free = s.free := by
  unfold State.modGrid; split <;> simp
@[simp] theorem State.modGrid_refNs (f : Grid → Grid) : (s.modGrid k f).refNs = s.refNs := by
  unfold State.modGrid; split <;> simp
@[simp] theorem State.modGrid_cycles (f : Grid → Grid) : (s.modGrid k f).cycles = s.cycles := by
  unfold State.modGrid; split <;> simp
@[simp] theorem State.modGrid_mem (f : Grid → Grid) : (s.modGrid k f).mem = s.mem := by
  unfold State.modGrid; split <;> simp
@[simp] theorem State.modGrid_groups (f : Grid → Grid) : (s.modGrid k f).groups = s.groups := by
  unfold State.modGrid; split <;> simp
@[simp] theorem State.modGrid_gridSeq (f : Grid → Grid) : (s.modGrid k f).gridSeq = s.gridSeq := by
  unfold State.modGrid; split <;> simp
@[simp] theorem State.modGrid_cores (f : Grid → Grid) : (s.modGrid k f).cores = s.cores := by
  unfold State.modGrid; split <;> simp
@[simp] theorem State.modGrid_fixed (f : Grid → Grid) : (s.modGrid k f).fixed = s.fixed := by
  unfold State.modGrid; split <;> simp
@[simp] theorem State.modGrid_tlb2 (f : Grid → Grid) : (s.modGrid k f).tlb2 = s.tlb2 := by
  unfold State.modGrid; split <;> simp
@[simp] theorem State.modGrid_pairs (f : Grid → Grid) : (s.modGrid k f).pairs = s.pairs := by
  unfold State.modGrid; split <;> simp
@[simp] theorem State.modGrid_retiredPairs (f : Grid → Grid) : (s.modGrid k f).retiredPairs = s.retiredPairs := by
  unfold State.modGrid; split <;> simp
@[simp] theorem State.modGrid_retiredQuads (f : Grid → Grid) : (s.modGrid k f).retiredQuads = s.retiredQuads := by
  unfold State.modGrid; split <;> simp
@[simp] theorem State.modGrid_ctxs (f : Grid → Grid) : (s.modGrid k f).ctxs = s.ctxs := by
  unfold State.modGrid; split <;> simp
@[simp] theorem State.modGrid_queues (f : Grid → Grid) : (s.modGrid k f).queues = s.queues := by
  unfold State.modGrid; split <;> simp
@[simp] theorem State.modGrid_served (f : Grid → Grid) : (s.modGrid k f).served = s.served := by
  unfold State.modGrid; split <;> simp
@[simp] theorem State.modGrid_turn (f : Grid → Grid) : (s.modGrid k f).turn = s.turn := by
  unfold State.modGrid; split <;> simp
@[simp] theorem State.modGrid_sliceDue (f : Grid → Grid) : (s.modGrid k f).sliceDue = s.sliceDue := by
  unfold State.modGrid; split <;> simp
@[simp] theorem State.modGrid_passed (f : Grid → Grid) : (s.modGrid k f).passed = s.passed := by
  unfold State.modGrid; split <;> simp
@[simp] theorem State.modGrid_reserving (f : Grid → Grid) : (s.modGrid k f).reserving = s.reserving := by
  unfold State.modGrid; split <;> simp
@[simp] theorem State.modGrid_tovor (f : Grid → Grid) : (s.modGrid k f).tovor = s.tovor := by
  unfold State.modGrid; split <;> simp

end Sys2Proof.Machine
end

