-- ==== Sys2Proof/Laws/Issue.lean ====
section
/-!
SUPPORT. Issue: what an instruction that executes leaves, once for every instruction of the two streams.
-/
namespace Sys2Proof.Machine

/-- An act whose second execution has agreed, or that needs none, is performed. -/
theorem performDup_performed {s : State} {e : Env} {row : OpRow} {f : Form} (a : Act)
    (h : needsDup e row f = true → e.h.dup ≠ none) : performDup s e row f a = performed s e row f a := by
  cases hn : needsDup e row f
  · cases a <;> simp [performDup, performed, hn]
  · obtain ⟨d, hd⟩ := Option.ne_none_iff_exists'.mp (h hn)
    cases a <;> simp [performDup, performed, hn, hd]

/-- The operands taken and what they select free of hazards, the act is performed. -/
theorem runBody_after {s u : State} {e e' : Env} {row : OpRow} {f : Form} (body : Env → State → Act)
    (ho : operandsOf s e row f = some (e', u)) (hd : usesDrain f = true → drainHazard s e' row f = none)
    (h : needsDup e row f = true → e.h.dup ≠ none) : runBody s e row f body = after s e row f (body e' u) := by
  unfold operandsOf at ho
  unfold runBody
  cases hu : usesDrain f
  · simp only [hu, Bool.false_eq_true, if_false, Option.some.injEq, Prod.mk.injEq] at ho
    obtain ⟨rfl, rfl⟩ := ho
    simp [performDup_performed _ h, after, bounded, hu]
  · simp only [hu, if_true] at ho
    split at ho
    · rename_i hs
      split at ho
      · rename_i hr
        simp only [Option.some.injEq, Prod.mk.injEq] at ho
        obtain ⟨rfl, rfl⟩ := ho
        simp only [hs, hr, Bool.not_true, Bool.false_eq_true, if_false, hd hu]
        simp [performDup_performed _ h, after, bounded, hu]
      · cases ho
    · cases ho

/-- An instruction that executes ends in what its own effect leaves. -/
theorem issue_executes {s u : State} {row : OpRow} {f : Form} {e e' : Env} (body : Env → State → Act)
    (x : Executes s row f e e' u) : issue row f s body = .next (after s e row f (body e' u)) := by
  simp [issue, x.env, x.window, issueIn, x.sound, x.legal, x.guarded.1, x.guarded.2, x.clear,
    runBody_after body x.operands x.selects x.twice]

end Sys2Proof.Machine
end

