-- ==== Sys2Proof/Laws/Maps.lean ====
section
/-!
SUPPORT. The collections by number: what is read after an entry is set, and the objects of the state read after they are
set.
-/
namespace Sys2Proof.Machine

variable {α : Type}

@[simp] theorem mapFind_put_same (m : Map α) (k : Nat) (v : α) : mapFind (mapPut m k v) k = some v := by
  induction m with
  | nil => simp [mapPut, mapFind]
  | cons x m ih => grind [mapPut, mapFind]

theorem mapFind_put_other (m : Map α) {j k : Nat} (v : α) (h : j ≠ k) : mapFind (mapPut m k v) j = mapFind m j := by
  induction m with
  | nil => grind [mapPut, mapFind]
  | cons x m ih => grind [mapPut, mapFind]

theorem mapFind_put (m : Map α) (j k : Nat) (v : α) : mapFind (mapPut m k v) j = if j = k then some v else mapFind m j := by
  split
  · subst j; simp
  · exact mapFind_put_other m v ‹_›

/-- An error put into a unit stands there, unless one that cannot be corrected does; the other units keep theirs. -/
theorem mapFind_putError (m : Map Bool) (j u : Nat) (ok : Bool) :
    mapFind (putError m u ok) j = if j = u ∧ mapFind m u ≠ some false then some ok else mapFind m j := by
  unfold putError
  split <;> rename_i h <;> by_cases hj : j = u <;> simp [mapFind_put, h, hj]

@[simp] theorem State.group?_setGroup (s : State) (k : Nat) (g : Group) : (s.setGroup k g).group? k = some g := by
  simp [State.group?, State.setGroup]
@[simp] theorem State.grid?_setGrid (s : State) (k : Nat) (g : Grid) : (s.setGrid k g).grid? k = some g := by
  simp [State.grid?, State.setGrid]
@[simp] theorem State.core_setCore (s : State) (k : Nat) (c : Core) : (s.setCore k c).core k = c := by
  simp [State.core, State.setCore, mapGet]
@[simp] theorem State.ctx_setCtx (s : State) (k : Nat) (c : Ctx) : (s.setCtx k c).ctx k = c := by
  simp [State.ctx, State.setCtx, mapGet]
@[simp] theorem State.queue_setQueue (s : State) (p q : Nat) (v : Queue) : (s.setQueue p q v).queue p q = v := by
  simp [State.queue, State.setQueue, mapGet]
@[simp] theorem State.pair_setPair (s : State) (j : Nat) (v : Pair) : (s.setPair j v).pair j = v := by
  simp [State.pair, State.setPair, mapGet]
theorem State.core_setCore_other (s : State) {j k : Nat} (c : Core) (h : j ≠ k) : (s.setCore k c).core j = s.core j := by
  simp [State.core, State.setCore, mapGet, mapFind_put_other _ _ h]
theorem State.ctx_setCtx_other (s : State) {j k : Nat} (c : Ctx) (h : j ≠ k) : (s.setCtx k c).ctx j = s.ctx j := by
  simp [State.ctx, State.setCtx, mapGet, mapFind_put_other _ _ h]
theorem State.group?_setGroup_other (s : State) {j k : Nat} (g : Group) (h : j ≠ k) :
    (s.setGroup k g).group? j = s.group? j := by
  simp [State.group?, State.setGroup, mapFind_put_other _ _ h]

end Sys2Proof.Machine
end

