-- ==== Sys2Proof/Laws/Memory.lean ====
section
/-!
SUPPORT. Memory: what each operation leaves at every address, and that every operation keeps the canonical form.
-/
namespace Sys2Proof.Machine

/-! ## The canonical form -/

theorem memSorted_mono {m : Memory} {lo lo' : Nat} (h : memSorted lo m = true) (hl : lo' ≤ lo) : memSorted lo' m = true := by
  cases m with
  | nil => rfl
  | cons c m =>
    obtain ⟨a, b⟩ := c
    simp only [memSorted, Bool.and_eq_true, decide_eq_true_eq] at h ⊢
    exact ⟨⟨⟨by omega, h.1.1.2⟩, h.1.2⟩, h.2⟩

/-- No entry lies below the bound. -/
theorem memGet_below {m : Memory} {lo k : Nat} (h : memSorted lo m = true) (hk : k < lo) : memGet m k = 0 := by
  induction m generalizing lo with
  | nil => rfl
  | cons c m ih =>
    obtain ⟨a, b⟩ := c
    simp only [memSorted, Bool.and_eq_true, decide_eq_true_eq] at h
    simp only [memGet]
    rw [if_neg (by omega), if_pos (by omega)]

theorem memPut_sorted {m : Memory} {lo k : Nat} {v : Byte} (h : memSorted lo m = true) (hl : lo ≤ k) (ht : k < memTop) :
    memSorted lo (memPut m k v) = true := by
  induction m generalizing lo with
  | nil => grind [memPut, memSorted]
  | cons c m ih =>
    obtain ⟨a, b⟩ := c
    simp only [memSorted, Bool.and_eq_true, decide_eq_true_eq] at h
    have h0 : memSorted (a + 1) m = true := h.2
    by_cases e : k = a
    · subst e
      by_cases hv : v = 0
      · simp [memPut, hv]; exact memSorted_mono h0 (by omega)
      · simp only [memPut, hv, if_true, if_false, memSorted, Bool.and_eq_true, decide_eq_true_eq, bne_iff_ne]
        exact ⟨⟨⟨hl, ht⟩, hv⟩, h0⟩
    · by_cases l : k < a
      · by_cases hv : v = 0
        · simp only [memPut, e, l, hv, if_true, if_false, memSorted, Bool.and_eq_true, decide_eq_true_eq]; exact h
        · simp only [memPut, e, l, hv, if_true, if_false, memSorted, Bool.and_eq_true, decide_eq_true_eq, bne_iff_ne]
          exact ⟨⟨⟨hl, ht⟩, hv⟩, ⟨⟨by omega, h.1.1.2⟩, by simpa using h.1.2⟩, h0⟩
      · simp only [memPut, e, l, if_false, memSorted, Bool.and_eq_true, decide_eq_true_eq]
        exact ⟨h.1, ih h0 (by omega)⟩

theorem memSet_wf {m : Memory} (h : Memory.wf m = true) (k : Nat) (v : Byte) : Memory.wf (memSet m k v) = true := by
  unfold memSet
  split
  · exact memPut_sorted h (Nat.zero_le k) ‹_›
  · exact h

theorem memSetBytes_wf {m : Memory} (h : Memory.wf m = true) (a : Nat) (bs : List Byte) :
    Memory.wf (memSetBytes m a bs) = true := by
  induction bs generalizing m a with
  | nil => exact h
  | cons b bs ih => exact ih (memSet_wf h a b) (a + 1)

theorem memSetMasked_wf {m : Memory} (h : Memory.wf m = true) (ws : List WByte) : Memory.wf (memSetMasked m ws) = true := by
  induction ws generalizing m with
  | nil => exact h
  | cons w ws ih => exact ih (memSet_wf h _ _)

theorem filter_sorted {m : Memory} {lo : Nat} (p : Host.Cell → Bool) (h : memSorted lo m = true) :
    memSorted lo (m.filter p) = true := by
  induction m generalizing lo with
  | nil => rfl
  | cons c m ih =>
    obtain ⟨a, b⟩ := c
    simp only [memSorted, Bool.and_eq_true, decide_eq_true_eq] at h
    simp only [List.filter_cons]
    split
    · simp only [memSorted, Bool.and_eq_true, decide_eq_true_eq]; exact ⟨h.1, ih h.2⟩
    · exact memSorted_mono (ih h.2) (by omega)

theorem filter_wf {m : Memory} (p : Host.Cell → Bool) (h : Memory.wf m = true) : Memory.wf (m.filter p) = true :=
  filter_sorted p h

theorem memZero_wf {m : Memory} (h : Memory.wf m = true) (a n : Nat) : Memory.wf (memZero m a n) = true :=
  filter_sorted _ h

/-! ## What is read after a write -/

theorem memGet_memPut {m : Memory} {lo : Nat} (h : memSorted lo m = true) (k : Nat) (v : Byte) (j : Nat) :
    memGet (memPut m k v) j = if j = k then v else memGet m j := by
  induction m generalizing lo with
  | nil => grind [memPut, memGet]
  | cons c m ih =>
    obtain ⟨a, b⟩ := c
    simp only [memSorted, Bool.and_eq_true, decide_eq_true_eq] at h
    have hb : j ≤ a → memGet m j = 0 := fun hi => memGet_below h.2 (Nat.lt_succ_of_le hi)
    have ih' := ih h.2
    grind [memPut, memGet]

theorem memGet_memSet {m : Memory} (h : Memory.wf m = true) (k : Nat) (v : Byte) (j : Nat) :
    memGet (memSet m k v) j = if j = k ∧ k < memTop then v else memGet m j := by
  unfold memSet
  split
  · rw [memGet_memPut h]; simp [*]
  · simp [*]

theorem memGet_memZero {m : Memory} {lo : Nat} (h : memSorted lo m = true) (a n j : Nat) :
    memGet (memZero m a n) j = if a ≤ j ∧ j < a + n then 0 else memGet m j := by
  induction m generalizing lo with
  | nil => simp [memZero, memGet]
  | cons c m ih =>
    obtain ⟨x, b⟩ := c
    simp only [memSorted, Bool.and_eq_true, decide_eq_true_eq] at h
    have ih' := ih h.2
    have hb := fun i (hi : i ≤ x) => memGet_below h.2 (Nat.lt_succ_of_le hi)
    simp only [memZero] at ih' ⊢
    simp only [List.filter_cons]
    split
    · rename_i hc
      simp only [memGet, ih']
      simp only [Bool.or_eq_true, decide_eq_true_eq] at hc
      split
      · rw [if_neg (by omega)]
      · split <;> split <;> rfl
    · rename_i hc
      simp only [Bool.or_eq_true, decide_eq_true_eq] at hc
      simp only [memGet, ih']
      split
      · rfl
      · rw [if_neg (by omega)]
        split
        · exact hb j (by omega)
        · rfl

/-- A byte that no write of the list names stays. -/
theorem memGet_memSetMasked_other {m : Memory} (h : Memory.wf m = true) {ws : List WByte} {j : Nat}
    (hj : ∀ w, w ∈ ws → w.addr ≠ j) : memGet (memSetMasked m ws) j = memGet m j := by
  induction ws generalizing m with
  | nil => rfl
  | cons w ws ih =>
    rw [memSetMasked, ih (memSet_wf h _ _) (fun x hx => hj x (List.mem_cons_of_mem w hx)), memGet_memSet h,
      if_neg (by have := hj w (List.mem_cons_self ..); omega)]

/-- Two canonical memories that read alike are equal. -/
theorem memory_ext {m m' : Memory} {lo : Nat} (h : memSorted lo m = true) (h' : memSorted lo m' = true)
    (e : ∀ k, memGet m k = memGet m' k) : m = m' := by
  induction m generalizing lo m' with
  | nil =>
    cases m' with
    | nil => rfl
    | cons c m' =>
      obtain ⟨a, b⟩ := c
      simp only [memSorted, Bool.and_eq_true, decide_eq_true_eq, bne_iff_ne] at h'
      have := e a; simp only [memGet, if_true] at this; exact absurd this.symm h'.1.2
  | cons c m ih =>
    obtain ⟨a, b⟩ := c
    have h0 := h
    simp only [memSorted, Bool.and_eq_true, decide_eq_true_eq, bne_iff_ne] at h
    cases m' with
    | nil => have := e a; simp only [memGet, if_true] at this; exact absurd this h.1.2
    | cons c' m' =>
      obtain ⟨a', b'⟩ := c'
      simp only [memSorted, Bool.and_eq_true, decide_eq_true_eq, bne_iff_ne] at h'
      have key : a = a' := by
        have e1 := e a
        have e2 := e a'
        simp only [memGet] at e1 e2
        by_cases l : a < a'
        · simp [show ¬ a = a' by omega, l] at e1; exact absurd e1 h.1.2
        · by_cases l' : a' < a
          · simp [show ¬ a' = a by omega, l'] at e2; exact absurd e2.symm h'.1.2
          · omega
      subst key
      have hb : b = b' := by have := e a; simpa [memGet] using this
      subst hb
      congr 1
      refine ih h.2 h'.2 fun k => ?_
      have := e k
      simp only [memGet] at this
      by_cases l : k ≤ a
      · rw [memGet_below h.2 (by omega), memGet_below h'.2 (by omega)]
      · simpa [show ¬ k = a by omega, show ¬ k < a by omega] using this

end Sys2Proof.Machine
end

