-- ==== Sys2Proof/Tests/Slice0.lean ====
section
/-!
SUPPORT. Tests, each a theorem that the kernel evaluates: words of the manual and their instructions, an ill-formed term for
each check of well-formedness, results worked out by hand from the rules, and for each statement of Obligations.lean states
and operands that meet its hypotheses, clause by clause.
-/
namespace Sys2Proof.Tests

set_option Elab.async false
open Sys2Proof Sys2Proof.Machine

/-- The group placed for a word, and its context that issues. -/
def me (w : Who) : CtxRef := { group := groupKey 0 0, who := w }

def g0 : Nat := groupKey 0 0
def t0 : CtxRef := me (.thread 0)
def s0 : CtxRef := me .steward

/-- After reset with a word placed (log 33): one running group of one thread, whose turn it is. -/
def here (w : Who) : State := { placeWord State.reset 0 with cur := me w }

/-- What an instruction takes when its checks pass: the context, and context and state with the operands. -/
def enter (s : State) (row : OpRow) (f : Form) : Option (Env × Env × State) :=
  match envOf s s.cur with
  | none => none
  | some e =>
    if windowHolds e row f = false ∧ e.h.fault = none ∧ decodeTrap s e row f = none ∧ e.h.pendingPred f.guard.val = false ∧ e.h.pred f.guard.val ≠ f.gneg
        ∧ hazard s e row f = none ∧ (needsDup e row f = true → e.h.dup ≠ none) then
      match operandsOf s e row f with
      | some (e', u) => if usesDrain f = true → drainHazard s e' row f = none then some (e, e', u) else none
      | none => none
    else none

/-- What `enter` gives executes. -/
theorem executes_of_enter {s u : State} {e e' : Env} {row : OpRow} {f : Form} (h : enter s row f = some (e, e', u)) :
    Executes s row f e e' u := by
  unfold enter at h
  split at h
  · cases h
  · rename_i e0 h0
    split at h
    · rename_i c
      split at h
      · rename_i h2
        split at h
        · rename_i h3
          cases h
          exact ⟨h0, c.1, c.2.1, c.2.2.1, ⟨c.2.2.2.1, c.2.2.2.2.1⟩, c.2.2.2.2.2.1, h2, h3, c.2.2.2.2.2.2⟩
        · cases h
      · cases h
    · cases h

/-- An instruction of the row executes in the state, and its operands are as the condition says. -/
def runs (s : State) (row : OpRow) (f : Form) (cond : Env → State → Bool := fun _ _ => true) : Bool :=
  match enter s row f with
  | some (_, e', u) => cond e' u
  | none => false

theorem executes_of_runs {s : State} {row : OpRow} {f : Form} {cond : Env → State → Bool} (h : runs s row f cond = true) :
    ∃ e e' u, Executes s row f e e' u ∧ cond e' u = true := by
  unfold runs at h
  split at h
  · rename_i e e' u h'
    exact ⟨e, e', u, executes_of_enter h', h⟩
  · cases h

/-- An operand for a position. -/
def operandFor (steward : Bool) (k : Nat) : Sys2Proof.Slot → Operand
  | .dst _ | .dstSrc _ | .dstEven => if steward then .g 8 else .x 8
  | .src _ | .srcReg _ | .srcOfCode | .base | .index | .coord | .mask =>
    if steward then .g (Fin.ofNat 128 (16 + 4 * k)) else .x (Fin.ofNat 64 (16 + 4 * k))
  | .psrc => .p 1
  | .pdst => .p 2
  | .blk _ => .g 32
  | .unused | .ordFlag | .psrcIfOp2 | .srcIfPack => .x 0

/-- A form of a row: D is register 8 or P2, A, B and C are registers 16, 20 and 24, or P1, or the block from G32. -/
def formOf (row : OpRow) (steward : Bool) : Form :=
  let ty := (if steward then row.stewTypes else row.types).headD .i32
  let op2 := row.op2.headD 0
  let imm := ([0, 4, 5, 7].find? fun k => row.extra ty 0 op2 k).getD 0
  { guard := 7, gneg := false, park := false, yield := false, fuse := false, last := false, ty := ty
    d := operandFor steward 0 row.d, a := operandFor steward 0 row.a, b := operandFor steward 1 row.b, c := operandFor steward 2 row.c
    sub := 0, op2 := BitVec.ofNat 4 op2, imm := BitVec.ofNat 32 imm }

/-- The row executes in each stream it belongs to. -/
def runsIn (row : OpRow) : Bool :=
  (!row.stream.has false || runs (here (.thread 0)) row (formOf row false))
    && (!row.stream.has true || row.stewTypes.isEmpty || runs (here .steward) row (formOf row true))

/-! Scenes: states of `here` with something more in it. -/
def withReg (n v : Nat) (s : State) : State := s.modHart s.cur fun h => { h with regs := h.regs.set n (BitVec.ofNat 32 v) }
def withHart (k : Hart → Hart) (s : State) : State := s.modHart s.cur k
def withGroup (k : Group → Group) (s : State) : State := s.modGroup s.cur.group k
/-- The header of the grid with a bit set. -/
def withBit (b : Nat) (s : State) : State := s.modGrid 0 fun g => { g with header := g.header ||| BitVec.ofNat 1024 (2 ^ b) }
def th : State := here (.thread 0)
def st : State := here .steward
/-- A `.det` kernel. -/
def det (s : State) : State := (withBit 94 s).modCore 0 fun c => { c with running := some s.cur.group }
def aStore : Store := { act := .bytes [{ addr := 0x300000, val := 1, mask := 0xFF }] false, agreed := true }
def withStore (s : State) : State := withHart (fun h => { h with stores := [aStore] }) s
/-- An operation of the context over a link without its answer. -/
def anOp (s : State) (dst : Option Nat) : OutOp :=
  { link := 0, ctx := 0, who := some s.cur, chip := false, addr := 0, kind := .read 4, dst := dst, sent := 0 }
def withLink (s : State) : State := s.modTovor fun t => { t with outbound := [anOp s none] }
/-- Behind an acquire, with a read of a peer from before it outstanding. -/
def behindAcquire (s : State) : State :=
  withHart (fun h => { h with acqId := 1 }) (s.modTovor fun t => { t with outbound := [anOp s (some 0)] })
/-- The grid's groups have two threads, both of them there. -/
def withTwo (s : State) : State := withGroup (fun g => { g with threads := g.threads ++ g.threads }) (withBit 73 s)
def frm (row : OpRow) : Form := formOf row false
def sfrm (row : OpRow) : Form := formOf row true

/-- Executes for the statements on integer and floating-point instructions, in each stream that has them. -/
theorem test_witness_integer : (integerOnly.all fun p => runsIn p.2) = true := by decide +kernel
theorem test_witness_float : (floatOnly.all fun p => runsIn p.2) = true := by decide +kernel

/-- Witnesses for Branches, NOP. -/
def chkControl : List Bool :=
  [runs th rowBra (frm rowBra), runs st rowBra (sfrm rowBra), runs th rowBrx (frm rowBrx), runs th rowCall (frm rowCall),
   runs th rowRet (frm rowRet),
   runs (withReg 16 2 st) rowBrdec (sfrm rowBrdec) fun e s => decide (1 < e.A s rowBrdec (sfrm rowBrdec)),
   runs (withReg 16 1 st) rowBrdec (sfrm rowBrdec) fun e s => decide (e.A s rowBrdec (sfrm rowBrdec) ≤ 1),
   runs th rowNop (frm rowNop), runs st rowNop (sfrm rowNop)]

theorem test_witness_branches : chkControl.all id = true := by decide +kernel

/-- Witnesses for ContextControl. -/
def chkContext : List Bool :=
  let free (e : Env) (s : State) : Bool := e.h.results = [] && e.h.stores = [] && !linkBusy s e.r && e.g.image = none && !e.g.rollback
    && (!e.steward || s.cmdsOf e.r.group e.g = [])
  let f := frm rowReconv
  let mask (e : Env) (s : State) : BitVec 64 := BitVec.ofNat 64 (e.A s rowReconv f)
  let named (e : Env) (s : State) : Bool := (mask e s).toNat.testBit (e.tid % 64) && !e.det
  let met (e : Env) (s : State) : Bool := reconvMet s e.g e.h.pc (e.tid / 64) (e.tid % 64) (e.tid % 64) (mask e s)
  [runs th rowExit (frm rowExit) free, runs st rowExit (sfrm rowExit) free, runs (withStore th) rowExit (frm rowExit) fun e s => !free e s,
   runs th rowYield (frm rowYield) fun e _ => !e.det, runs (det th) rowYield (frm rowYield) fun e _ => e.det,
   runs (withReg 16 5 th) rowSleep (frm rowSleep) fun e s => e.A s rowSleep (frm rowSleep) != 0,
   runs th rowSleep (frm rowSleep) fun e s => e.A s rowSleep (frm rowSleep) = 0 && !e.det,
   runs (det th) rowSleep (frm rowSleep) fun e s => e.A s rowSleep (frm rowSleep) = 0 && e.det,
   runs th rowOflush (frm rowOflush) fun e _ => !e.det, runs (det th) rowOflush (frm rowOflush) fun e _ => e.det,
   runs (withReg 16 2 th) rowReconv f fun e s => (e.A s rowReconv f).testBit (e.tid % 64) = false,
   runs (withReg 16 1 (det th)) rowReconv f fun e s => e.det && (mask e s).toNat.testBit (e.tid % 64),
   runs (withReg 16 3 th) rowReconv f fun e s => named e s && namesGone e (mask e s),
   runs (withReg 16 1 th) rowReconv f fun e s => named e s && !namesGone e (mask e s) && met e s,
   runs (withReg 16 3 (withTwo th)) rowReconv f fun e s => named e s && !namesGone e (mask e s) && !met e s,
   runs th rowRegion (frm rowRegion) fun e _ => e.h.stores = [], runs (withStore th) rowRegion (frm rowRegion) fun e _ => e.h.stores != []]

theorem test_witness_context_control : chkContext.all id = true := by decide +kernel

/-- Witnesses for TrapInstructions. -/
def chkTraps : List Bool :=
  let handling : State := withHart (fun h => { h with handler := true }) th
  let inside (e : Env) : Bool := e.h.handler && e.h.results = []
  let chunks (e : Env) (s : State) : Option (State × List Loc) :=
    let va := privBase e.gr e.g.index e.tid + Hdr.privBytes e.hdr
    let z := walkFrame s e.g.coreNo e.n va 16
    (frameChunks z e.g va needRead 16).map fun ls => (z, ls)
  let frame (e : Env) (s : State) : Option (Option (List Byte)) :=
    ((chunks e s).filter fun p => framePeers p.2 = []).map fun p => (readFrame p.1 e p.2).2
  let far (s : State) : State := s.modCore 0 fun c => { c with tlb := [{ ctx := 0, page := 0, size := 2 ^ 29, ipa := 0, pa := 0, attr := 2, perm1 := 7, perm2 := 7 }] }
  let come : State := withHart (fun h => { h with frame := (List.range 16).map fun k => (k, (k, some 0)) }) (far handling)
  [runs th rowTrap (frm rowTrap), runs st rowTrap (sfrm rowTrap), runs th rowBkpt (frm rowBkpt),
   runs th rowTret (frm rowTret) fun e _ => e.h.handler = false,
   runs handling rowTret (frm rowTret) fun e s => inside e && decide (e.gr.level < 2) && (frame e s).any fun r => r.isSome,
   runs (handling.modGrid 0 fun g => { g with level := 2 }) rowTret (frm rowTret) fun e s =>
     inside e && decide (2 ≤ e.gr.level) && (s.hart? e.r).isSome && (frame e s).any fun r => r.isSome,
   runs (handling.modCtx 0 fun c => { c with s1Root := 0 }) rowTret (frm rowTret) fun e s => inside e && (chunks e s).isNone,
   runs (far handling) rowTret (frm rowTret) fun e s => inside e && e.h.frame = [] && (chunks e s).any fun p => framePeers p.2 != [],
   runs come rowTret (frm rowTret) fun e s => inside e && e.h.frame != [] && (chunks e s).any fun p => (readFrame p.1 e p.2).2.isSome,
   runs (handling.modTovor fun t => { t with poison := [(dramBase + 0x200000) / 64] }) rowTret (frm rowTret) fun e s =>
     inside e && (frame e s).any fun r => r.isNone,
   runs (withHart (fun h => { h.addResult [8] [] none with handler := true }) th) rowTret (frm rowTret) fun e _ =>
     e.h.handler && e.h.results != []]

theorem test_witness_trap_instructions : chkTraps.all id = true := by decide +kernel

/-! Of a context, and of the group of `here`. -/
def hartOf (s : State) (r : CtxRef) (c : Hart → Bool) : Bool := match s.hart? r with | some h => c h | none => false

def groupOf (s : State) (c : Group → Bool) : Bool := match s.group? g0 with | some g => c g | none => false

def rdvRows : List OpRow := [rowRdv, rowRshfl, rowRvote, rowRvoteBallot, rowRred, rowRscan, rowRrank]

/-- Witnesses for RendezvousArrivals: first, joining, self left out, for each instruction. -/
def chkArrivals : List Bool :=
  let mask (row : OpRow) (e : Env) (s : State) : BitVec 64 := BitVec.ofNat 64 (e.A s row (frm row))
  let named (row : OpRow) (e : Env) (s : State) : Bool := (mask row e s).toNat.testBit (e.tid % 64) && !namesGone e (mask row e s)
  let opened (row : OpRow) (e : Env) (s : State) : Rdv := openRdv e row (frm row) (mask row e s)
  let two : State := withTwo th
  let ended (row : OpRow) : Rdv := { set := 0, opc := row.opc.toNat, ty := (frm row).ty, sub := 0, op2 := (frm row).op2.toNat, mask := 1
                                     arrivals := [{ tid := 0, b := 0, c := 0, p := false, form := frm row }] }
  [groupOf th (fun g => (th.grid? g.grid).any (fun gr => !Hdr.trapEn gr.header) && !g.rollback && g.state = .resident
     && g0 ∈ th.peers g0 && (ended rowRdv).arrivals.any fun a => (g.threads[a.tid]?).isSome)] ++
  rdvRows.map (fun row => runs (withReg 16 1 th) row (frm row) fun e s =>
      named row e s && e.g.rdvs.all fun j => !(opened row e s).overlaps j)
  -- A complete instance is not met; another key is a mismatch; a thread that is not there has exited.
  ++ rdvRows.map (fun row => runs (withReg 16 3 (withGroup (fun g => { g with rdvs := [ended row] }) two)) row (frm row) fun e s =>
      named row e s && (e.g.rdvs.any fun j => (opened row e s).overlaps j && j.complete)
        && (e.g.rdvs.filter fun j => (opened row e s).overlaps j && !j.complete) = [])
  ++ rdvRows.map (fun row => runs (withReg 16 1 (withGroup (fun g => { g with rdvs := [{ ended row with mask := 3 }] }) two)) row (frm row) fun e s =>
      named row e s && e.g.rdvs.any fun j => (opened row e s).overlaps j && !j.complete && !(opened row e s).sameKey j)
  ++ rdvRows.map (fun row => runs (withReg 16 3 th) row (frm row) fun e s =>
      (mask row e s).toNat.testBit (e.tid % 64) && namesGone e (mask row e s))
  ++ rdvRows.map (fun row =>
      let other : Rdv := { set := 0, opc := row.opc.toNat, ty := (frm row).ty, sub := 0, op2 := (frm row).op2.toNat, mask := 3
                           arrivals := [{ tid := 1, b := 0, c := 0, p := false, form := frm row }] }
      runs (withReg 16 3 (withGroup (fun g => { g with rdvs := [other] }) two)) row (frm row) fun e s =>
        named row e s && (e.g.rdvs.any fun j => (opened row e s).overlaps j)
          && e.g.rdvs.all fun j => !(opened row e s).overlaps j || (opened row e s).sameKey j)
  ++ rdvRows.map fun row => runs (withReg 16 2 th) row (frm row) fun e s => (mask row e s).toNat.testBit (e.tid % 64) = false

theorem test_witness_rendezvous_arrivals : chkArrivals.all id = true := by decide +kernel

def fits (cluster : Bool) (f : Form) (e : Env) : Bool :=
  (if cluster then decide (f.imm.toNat ≤ 7) && Hdr.cgroup e.hdr != 1 else decide (f.imm.toNat ≤ 15))
    && (!e.steward || Hdr.stewardMember e.hdr)

/-- Witnesses for BarrierInstructions, at the last barrier of each kind. -/
def chkBarriers : List Bool :=
  -- A number above the last, and the first barrier, of a steward that is no member.
  let refused (c : Bool) (row : OpRow) : List Bool :=
    let two (s : State) : State := if c then withBit 96 s else s
    [runs (two th) row { frm row with imm := if c then 8 else 16 } fun e _ => !c || Hdr.cgroup e.hdr != 1,
     runs (two st) row (sfrm row) fun e _ => e.steward && !Hdr.stewardMember e.hdr && (!c || Hdr.cgroup e.hdr != 1)]
  let one (c : Bool) (rowB rowA rowW : OpRow) : List Bool :=
    -- The last barrier of its kind; cluster barriers in a cluster-group of two.
    let n := if c then 7 else 15
    let b := if c then 23 else 15
    let at_ (row : OpRow) : Form := { frm row with imm := BitVec.ofNat 32 n }
    let s := if c then withBit 96 th else th
    let bar (v : BarState) : State := withHart (fun h => h.setBar b v) s
    [runs s rowB (at_ rowB) fun e _ => fits c (at_ rowB) e && e.h.barAt b = .idle && e.h.taken != some b,
     runs (withHart (fun h => { h with taken := some b, regionPc := 12 }) s) rowB (at_ rowB) fun e _ =>
       fits c (at_ rowB) e && e.h.barAt b = .idle && e.h.regionPc != e.h.pc,
     runs (withHart (fun h => { h with taken := some b }) (bar .arrived)) rowB (at_ rowB) fun e _ =>
       fits c (at_ rowB) e && e.h.taken = some b && e.h.regionPc = e.h.pc,
     runs s rowA (at_ rowA) fun e _ => fits c (at_ rowA) e && e.h.barAt b = .idle,
     runs (bar .done) rowW (at_ rowW) fun e _ => fits c (at_ rowW) e && e.h.barAt b = .done && e.h.stores = [],
     runs (bar .arrived) rowW (at_ rowW) fun e _ => fits c (at_ rowW) e && e.h.barAt b = .arrived && e.h.stores = [],
     runs (withStore (bar .done)) rowW (at_ rowW) fun e _ => fits c (at_ rowW) e && e.h.barAt b != .idle && e.h.stores != [],
     runs s rowW (at_ rowW) fun e _ => fits c (at_ rowW) e && e.h.barAt b = .idle,
     runs (bar .arrived) rowA (at_ rowA) fun e _ => fits c (at_ rowA) e && e.h.barAt b != .idle,
     runs (withHart (fun h => { h with taken := some b, regionPc := 12 }) (bar .done)) rowB (at_ rowB) fun e _ =>
       fits c (at_ rowB) e && e.h.barAt b != .idle && e.h.regionPc != e.h.pc]
    ++ ([rowB, rowA, rowW].map (refused c)).flatten ++ [!c || runs th rowB (frm rowB) fun e _ => Hdr.cgroup e.hdr = 1]
  let test (k : Nat) : Form := { frm rowBtest with op2 := BitVec.ofNat 4 k }
  one false rowBar rowBarrive rowBwait ++ one true rowCbar rowCbarrive rowCbwait
  ++ refused false rowBtest ++ [runs (withHart (fun h => h.setBar 0 .done) th) rowBtest (test 0) fun e _ => fits false (test 0) e && e.h.barAt 0 = .done,
      runs (withHart (fun h => h.setBar 16 .arrived) (withBit 96 th)) rowBtest (test 1) fun e _ =>
        fits true (test 1) e && e.h.barAt 16 = .arrived,
      runs th rowBtest (test 0) fun e _ => fits false (test 0) e && e.h.barAt 0 = .idle,
      runs (withBit 93 st) rowBarrive (sfrm rowBarrive) fun e _ => fits false (sfrm rowBarrive) e && e.h.barAt 0 = .idle]

theorem test_witness_barrier_instructions : chkBarriers.all id = true := by decide +kernel

/-- Witnesses for FenceAndEvents. -/
def chkFence : List Bool :=
  let fence (op2 sub : Nat) : Form := { frm rowFence with op2 := BitVec.ofNat 4 op2, sub := BitVec.ofNat 4 sub }
  let wait (v : Nat) : State := withReg 25 v (withReg 16 0x300000 th)
  let waitf : Form := { frm rowWaita with op2 := 4, c := .x 25 }
  let acc (e : Env) (s : State) : Access :=
    { space := 4, addr := memAddr s e rowWaita waitf 4 0, size := 4, write := false, atomic := true, need := { perm := 1, host := false, peer := false } }
  let read (e : Env) (s : State) : Option Nat :=
    let z := meetPath s e (acc e s)
    if acquireHeld z e.r e.h then none
    else match checkAccess z e (acc e s) with
    | .ok (.flat p _) => if (readFlat z e 0 p 4).2.2 = none then some (readFlat z e 0 p 4).1 else none
    | _ => none
  let free (e : Env) (s : State) : Bool := e.h.stores = [] && !linkBusy s e.r
  let waits (e : Env) (s : State) : Bool := !free e s
  [runs th rowFence (fence 2 0), runs th rowFence (fence 1 7), runs th rowFence (fence 2 1) free, runs th rowFence (fence 3 7) free,
   runs (withStore th) rowFence (fence 3 1) waits, runs (withLink th) rowFence (fence 2 7) waits,
   runs th rowTrig (frm rowTrig) free, runs (withStore th) rowTrig (frm rowTrig) waits, runs (withLink st) rowTrig (sfrm rowTrig) waits,
   runs (withReg 16 2 th) rowWaita waitf fun e s => checkAccess (meetPath s e (acc e s)) e (acc e s) matches .error .misalign,
   runs (wait 0) rowWaita waitf fun e s => match read e s with | some v => decide (e.C s rowWaita waitf % 2 ^ 32 ≤ v) | none => false,
   runs (wait 9) rowWaita waitf fun e s => match read e s with | some v => decide (v < e.C s rowWaita waitf % 2 ^ 32) | none => false]

theorem test_witness_fence_and_events : chkFence.all id = true := by decide +kernel

/-! A page of a peer, tensors and a slot. -/

/-- A mapping of the second 512 MiB to the peer of link 0, in the TLB of the core. -/
def withPeer (s : State) : State := s.modCore 0 fun c => { c with tlb := [{ ctx := 0, page := 1, size := 2 ^ 29, ipa := 0, pa := 0, attr := 2, perm1 := 7, perm2 := 7 }] }

/-- A 1-dimensional tensor of four elements in space `g`. -/
def plainDesc (fmt base clip : Nat) : BitVec 1024 :=
  BitVec.ofNat 1024 (clip * 2 ^ 14 + fmt * 2 ^ 20 + 4 * 2 ^ 24 + 1 * 2 ^ 27 + 2 ^ 31 + base * 2 ^ 64 + 4 * 2 ^ 384 + 1 * 2 ^ 416)

/-- A BLOCKED tensor of I8 elements, K by V, in space `g`, watched. -/
def blockedDesc (role k v base : Nat) : BitVec 1024 :=
  BitVec.ofNat 1024 (role * 2 ^ 13 + 2 * 2 ^ 18 + 9 * 2 ^ 20 + 4 * 2 ^ 24 + 2 * 2 ^ 27 + 2 ^ 30 + 2 ^ 31 + base * 2 ^ 64 + k * 2 ^ 384 + v * 2 ^ 448)

/-- A 32 by 32 tensor of F32. -/
def squareDesc : BitVec 1024 :=
  BitVec.ofNat 1024 (4 * 2 ^ 20 + 4 * 2 ^ 24 + 2 * 2 ^ 27 + 2 ^ 31 + 0x300000 * 2 ^ 64 + 32 * 2 ^ 384 + 2 ^ 416 + 32 * 2 ^ 448 + 32 * 2 ^ 480)

def withDescs (ds : Map (BitVec 1024)) (s : State) : State := s.modCtx 0 fun c => { c with descs := ds }

/-- Words from a register on. -/
def withWords (n : Nat) (ws : List Nat) (s : State) : State :=
  withHart (fun h => { h with regs := ws.zipIdx.foldl (fun r p => r.set (n + p.2) (BitVec.ofNat 32 p.1)) h.regs }) s

def accOf (f : Form) (row : OpRow) (n : Nat) (write atomic : Bool) (off : Nat) (need : Need) (e : Env) (s : State) : Access :=
  { space := f.op2.toNat, addr := memAddr s e row f n (sext f.imm.toNat off), size := n, write := write, atomic := atomic
    far := farBase s e row f, need := need }

/-- The checks of an access, its walk made. -/
def reach (s : State) (e : Env) (a : Access) : Except Cause Loc := checkAccess (meetPath s e a) e a

def isFlat (s : State) (e : Env) (a : Access) : Bool := match reach s e a with | .ok (.flat ..) => true | _ => false

def isPeer (s : State) (e : Env) (a : Access) : Bool := match reach s e a with | .ok (.peer ..) => true | _ => false

def isTrap (s : State) (e : Env) (a : Access) : Bool := match reach s e a with | .error c => c != .walkUe | _ => false

def readsWell (s : State) (e : Env) (a : Access) : Bool :=
  match reach s e a with | .ok (.flat p _) => (readFlat (meetPath s e a) e 0 p a.size).2.2 = none | _ => false

/-- Witnesses for AccessChecks, at the bounds of spaces p, c and g. -/
def chkAccess : List Bool :=
  let at_ (s : State) (c : Env → Bool) : Bool := match envOf s s.cur with | some e => c e | none => false
  let a (space : Nat) (addr : Int) (atomic : Bool) : Access :=
    { space := space, addr := addr, size := 4, write := false, atomic := atomic, need := needRead }
  [at_ th fun e => inBounds th e 0 255, at_ th fun e => !inBounds th e 0 256, at_ th fun e => !inBounds th e 0 (-1),
   at_ th fun e => checkAccess th e (a 0 0 true) matches .error .atomicSpace,
   at_ th fun e => inBounds th e 4 0 && checkAccess th e { a 4 0 false with far := true } matches .error .spaceBounds,
   at_ th fun e => inBounds th e 0 2 && checkAccess th e (a 0 2 false) matches .error .misalign,
   at_ th fun e => checkAccess th e (a 0 256 false) matches .error .spaceBounds,
   at_ th fun e => inBounds th e 1 65535 && !inBounds th e 1 65536 && isFlat th e (a 1 65532 false),
   at_ th fun e => inBounds th e 4 (2 ^ 48 - 1) && !inBounds th e 4 (2 ^ 48) && isTrap th e (a 4 (2 ^ 48 - 4) false),
   at_ th fun e => isFlat th e (a 4 (2 ^ 29 - 4) false), at_ (withPeer th) fun e => isPeer (withPeer th) e (a 4 (2 ^ 29) false)]

theorem test_witness_access_checks : chkAccess.all id = true := by decide +kernel

/-- Witnesses for LoadsAndStores and MemoryFrame. -/
def chkLoads : List Bool :=
  let g (row : OpRow) (d : Operand) : Form := { frm row with op2 := 4, d := d }
  let ld := frm rowLd
  let ldp := frm rowLdp
  let stf := frm rowSt
  let far (row : OpRow) : Form := { frm row with imm := 256 }
  let atPeer : State := withReg 16 (2 ^ 29) (withPeer th)
  let ord := g rowSt (.x 1)
  let tensor (clip : Nat) (x : Nat) : State := withReg 16 x (withReg 20 5 (withDescs [(5, plainDesc 0 0x300000 clip)] th))
  let nibbles : State := withReg 16 3 (withReg 20 5 (withDescs [(5, plainDesc 14 0x300000 0)] th))
  let unmapped (s : State) : State := s.modCtx 0 fun c => { c with s1Root := 0 }
  let elem (row : OpRow) (e : Env) (s : State) : Element := findElement s e (frm row) (e.B s row (frm row))
  let clear (e : Env) (s : State) : Bool := !acquireHeld s e.r e.h
  -- A tensor of four elements at an address of a space, of which the third is named.
  let tensorAt (base space : Nat) : State := withReg 16 3 (withReg 20 5 (withDescs [(5, BitVec.ofNat 1024
    (space * 2 ^ 24 + 1 * 2 ^ 27 + 2 ^ 31 + base * 2 ^ 64 + 4 * 2 ^ 384 + 1 * 2 ^ 416))] th))
  let elemIs (row : OpRow) (write : Bool) (is : State → Env → Access → Bool) (e : Env) (s : State) : Bool := match elem row e s with
    | .at d a _ => is s e { space := Desc.space d, addr := a, size := 4, write := write, need := if write then needWrite else needRead }
    | _ => false
  let sttOrd : Form := { frm rowStt with d := .x 1 }
  [runs th rowLd ld fun e s => readsWell s e (accOf ld rowLd 4 false false 32 needRead e s) && clear e s,
   runs (behindAcquire th) rowLd ld fun e s => isFlat s e (accOf ld rowLd 4 false false 32 needRead e s) && !clear e s,
   runs st rowLd { sfrm rowLd with op2 := 4 } fun e s => readsWell s e (accOf { sfrm rowLd with op2 := 4 } rowLd 4 false false 32 needRead e s),
   runs th rowLdp ldp fun e s => readsWell s e (accOf ldp rowLdp 16 false false 32 needRead e s),
   runs th rowLd (far rowLd) fun e s => isTrap s e (accOf (far rowLd) rowLd 4 false false 32 needRead e s),
   runs th rowSt stf fun e s => isFlat s e (accOf stf rowSt 4 true false 32 needWrite e s) && stf.d != .x 1,
   runs atPeer rowLd (g rowLd (.x 8)) fun e s => isPeer s e (accOf (g rowLd (.x 8)) rowLd 4 false false 32 needRead e s)
     && clear e s && e.h.stores = [],
   runs atPeer rowSt (g rowSt (.x 0)) fun e s => isPeer s e (accOf (g rowSt (.x 0)) rowSt 4 true false 32 needWrite e s) && !e.det,
   runs (withReg 16 0x300000 (det th)) rowSt ord fun e s => isFlat s e (accOf ord rowSt 4 true false 32 needWrite e s)
     && e.det && ord.op2 != 0 && e.gr.level = 0 && decide (e.g.batchWords < 256) && clear e s && e.h.stores = [],
   runs (det th) rowSt { frm rowSt with d := .x 1 } fun e _ => e.det,
   runs th rowSt (far rowSt) fun e s => isTrap s e (accOf (far rowSt) rowSt 4 true false 32 needWrite e s),
   runs th rowPf (frm rowPf) fun e s => !farBase s e rowPf (frm rowPf) && inBounds s e 0 (memAddr s e rowPf (frm rowPf) 4 0) && (memAddr s e rowPf (frm rowPf) 4 0).toNat % 4 = 0,
   runs (tensor 0 3) rowLdt (frm rowLdt) fun e s => match elem rowLdt e s with
     | .at d a _ => readsWell s e { space := Desc.space d, addr := a, size := 4, write := false, need := needRead }
     | _ => false,
   runs (tensor 0 4) rowLdt (frm rowLdt) fun e s => elem rowLdt e s matches .outside _,
   runs (tensor 0 4) rowStt (frm rowStt) fun e s => elem rowStt e s matches .outside _,
   runs (tensor 0 3) rowStt (frm rowStt) fun e s => match elem rowStt e s with
     | .at d a _ => Desc.fmt d != 14 && isFlat s e { space := Desc.space d, addr := a, size := 4, write := true, need := needWrite } && !e.det
     | _ => false,
   runs nibbles rowStt { frm rowStt with ty := .n8 } fun e s => match findElement s e { frm rowStt with ty := .n8 } (e.B s rowStt (frm rowStt)) with
     | .at d a _ => Desc.fmt d = 14 && isFlat s e { space := Desc.space d, addr := a, size := 1, write := true, need := needWrite } && !e.det
     | _ => false,
   runs th rowLdt (frm rowLdt) fun e s => elem rowLdt e s matches .trap _, runs th rowStt (frm rowStt) fun e s => elem rowStt e s matches .trap _,
   runs (unmapped (tensor 0 3)) rowLdt (frm rowLdt) fun e s => match elem rowLdt e s with
     | .at d a _ => isTrap s e { space := Desc.space d, addr := a, size := 4, write := false, need := needRead }
     | _ => false,
   runs (unmapped (tensor 0 3)) rowStt (frm rowStt) fun e s => match elem rowStt e s with
     | .at d a _ => isTrap s e { space := Desc.space d, addr := a, size := 4, write := true, need := needWrite } && !e.det
     | _ => false]
  ++ [runs th rowLdp (far rowLdp) fun e s => isTrap s e (accOf (far rowLdp) rowLdp 16 false false 32 needRead e s),
   runs atPeer rowLdp (g rowLdp (.x 8)) fun e s => isPeer s e (accOf (g rowLdp (.x 8)) rowLdp 16 false false 32 needRead e s) && clear e s && e.h.stores = [],
   runs (behindAcquire th) rowLdp ldp fun e s => isFlat s e (accOf ldp rowLdp 16 false false 32 needRead e s) && !clear e s,
   runs (behindAcquire th) rowSt stf fun e s => isFlat s e (accOf stf rowSt 4 true false 32 needWrite e s) && !clear e s && stf.d != .x 1,
   runs th rowPf (far rowPf) fun e s => !farBase s e rowPf (far rowPf) && !inBounds s e 0 (memAddr s e rowPf (far rowPf) 4 256),
   runs th rowPf { frm rowPf with imm := 2 } fun e s => !farBase s e rowPf { frm rowPf with imm := 2 }
     && inBounds s e 0 (memAddr s e rowPf { frm rowPf with imm := 2 } 4 2) && (memAddr s e rowPf { frm rowPf with imm := 2 } 4 2).toNat % 4 != 0,
   runs (withPeer (tensorAt (2 ^ 29) 4)) rowLdt (frm rowLdt) fun e s => elemIs rowLdt false isPeer e s && clear e s && e.h.stores = [],
   runs (withPeer (tensorAt (2 ^ 29) 4)) rowStt (frm rowStt) fun e s => elemIs rowStt true isPeer e s && clear e s && !e.det,
   runs (behindAcquire (tensor 0 3)) rowLdt (frm rowLdt) fun e s => elemIs rowLdt false isFlat e s && !clear e s,
   runs (behindAcquire (tensor 0 3)) rowStt (frm rowStt) fun e s => elemIs rowStt true isFlat e s && !clear e s && (frm rowStt).d != .x 1,
   runs (det (tensor 0 3)) rowStt sttOrd fun e s => elemIs rowStt true isFlat e s && clear e s && e.det && e.gr.level = 0 && e.h.stores = [],
   runs (withHart (fun h => { h with stores := [{ aStore with act := .bytes [{ addr := dramBase + 0x30000F, val := 1, mask := 0xFF }] false }] })
       (det (tensor 0 3))) rowStt sttOrd fun e s =>
     elemIs rowStt true isFlat e s && clear e s && e.det && e.h.storesMeet (.flat (dramBase + 0x30000C) false) 4,
   runs (det nibbles) rowStt { sttOrd with ty := .n8 } fun e s => match findElement s e { sttOrd with ty := .n8 } (e.B s rowStt sttOrd) with
     | .at d a _ => Desc.fmt d = 14 && isFlat s e { space := Desc.space d, addr := a, size := 1, write := true, need := needWrite } && e.det
     | _ => false,
   runs (det (tensorAt 0 0)) rowStt sttOrd fun e s => e.det && (match elem rowStt e s with | .at d _ _ => Desc.space d = 0 | _ => false)]

theorem test_witness_loads_and_stores : chkLoads.all id = true := by decide +kernel

/-- Witnesses for Atomics. -/
def chkAtomics : List Bool :=
  let f (row : OpRow) (sub : Nat) : Form := { frm row with op2 := 4, sub := BitVec.ofNat 4 sub }
  let at_ (s : State) : State := withReg 16 0x300000 s
  let acc (row : OpRow) (sub : Nat) (e : Env) (s : State) : Access :=
    let k : AtomKind := if row.opc = 0x289 then .cas 4 (e.D s row (f row sub)) (e.C s row (f row sub)) else .op 0 .i32 (e.C s row (f row sub))
    accOf (f row sub) row 4 true true 28 (atomNeed (row.opc == 0x28A) k) e s
  let good (row : OpRow) (sub : Nat) (e : Env) (s : State) : Bool :=
    match reach s e (acc row sub e s) with | .ok (.flat p _) => (meetMemory (meetPath s e (acc row sub e s)) e.n p).2 = none | _ => false
  let free (e : Env) (s : State) : Bool := e.h.stores = [] && !acquireHeld s e.r e.h
  [runs (withReg 16 (2 ^ 29) (withPeer th)) rowRed (f rowRed 7) fun e s => isPeer s e (acc rowRed 7 e s) && free e s && !e.det] ++
  ([rowAtom, rowAcas, rowRed].map fun row =>
    [runs (at_ th) row (f row 7) fun e s => good row 7 e s && free e s && !e.det,
     runs (det (at_ th)) row (f row 3) fun e s => good row 3 e s && free e s && e.det && e.g.batches = [] && e.h.ord = [],
     runs (det (at_ th)) row (f row 4) fun e s => good row 4 e s && free e s && e.det && decide (e.g.batchWords < 256),
     runs (withStore (at_ th)) row (f row 0) fun e s => good row 0 e s && !free e s,
     runs (behindAcquire (at_ th)) row (f row 0) fun e s => good row 0 e s && !free e s,
     runs (withReg 16 2 th) row (f row 0) fun e s => isTrap s e (acc row 0 e s)]).flatten

theorem test_witness_atomics : chkAtomics.all id = true := by decide +kernel

/-- Witnesses for DecisionQueue. -/
def chkQueue : List Bool :=
  let n (k : Nat) : List DqEntry := List.replicate k { word := 7, after := [] }
  let free (e : Env) (s : State) : Bool := e.h.stores = [] && !linkBusy s e.r
  [runs st rowDqpush (sfrm rowDqpush) fun e s => free e s && e.g.threadLive && decide (e.g.dq.length < 32),
   runs (withStore st) rowDqpush (sfrm rowDqpush) fun e s => !free e s,
   runs (withStore th) rowDqpop (frm rowDqpop) fun e _ => e.h.stores != [],
   runs (withGroup (fun g => { g with dq := n 32 }) st) rowDqpush (sfrm rowDqpush) fun e s => free e s && e.g.threadLive && decide (32 ≤ e.g.dq.length),
   runs (withGroup (fun g => { g with threads := g.threads.map fun h => { h with status := .exited } }) st) rowDqpush (sfrm rowDqpush) fun e s =>
     free e s && !e.g.threadLive,
   runs (withGroup (fun g => { g with dq := n 1 }) th) rowDqpop (frm rowDqpop) fun e _ =>
     e.h.stores = [] && (e.g.nextEntry e.h).isSome,
   runs th rowDqpop (frm rowDqpop) fun e _ => e.h.stores = [] && (e.g.nextEntry e.h).isNone && e.g.steward.status != .exited,
   runs (withGroup (fun g => { g with steward := { g.steward with status := .exited } }) th) rowDqpop (frm rowDqpop) fun e _ =>
     e.h.stores = [] && (e.g.nextEntry e.h).isNone && e.g.steward.status = .exited,
   runs th rowDqlen (frm rowDqlen) fun e _ => !e.steward, runs st rowDqlen (sfrm rowDqlen) fun e _ => e.steward]

theorem test_witness_decision_queue : chkQueue.all id = true := by decide +kernel

/-- A descriptor in the block of a steward, word by word. -/
def descWords (d : BitVec 1024) : List Nat := (List.range 32).map fun i => field d (32 * i) 32

/-- Witnesses for TensorDescriptors. -/
def chkDescriptors : List Bool :=
  let f := sfrm rowTdw
  let d (e : Env) (s : State) : BitVec 1024 := BitVec.ofNat 1024 (e.A s rowTdw f)
  let blk (tid : Nat) (x : BitVec 1024) : State := withReg 20 tid (withWords 32 (descWords x) st)
  [runs (blk 255 (blockedDesc 0 16 32 0x300000)) rowTdw f fun e s => e.B s rowTdw f % 2 ^ 32 = 255 && tdwOk (d e s) && Desc.watch (d e s)
     && decide (watchCount (s.ctx e.n) 255 < 64),
   runs (blk 0 0) rowTdw f fun e s => tdwOk (d e s),
   runs (blk 256 0) rowTdw f fun e s => decide (255 < e.B s rowTdw f % 2 ^ 32),
   runs (blk 0 (BitVec.ofNat 1024 (2 ^ 31))) rowTdw f fun e s => !tdwOk (d e s),
   runs ((blk 255 (blockedDesc 0 16 32 0x300000)).modCtx 0 fun c => { c with descs := (List.range 64).map fun i => (i, blockedDesc 0 16 32 0x300000) })
     rowTdw f fun e s => e.B s rowTdw f % 2 ^ 32 = 255 && tdwOk (d e s) && Desc.valid (d e s) && Desc.watch (d e s)
       && watchCount (s.ctx e.n) 255 = 64,
   runs (withReg 16 256 th) rowTdr (frm rowTdr) fun e s => e.A s rowTdr (frm rowTdr) % 2 ^ 32 = 256,
   runs (withReg 16 255 (withReg 20 16 th)) rowTdr (frm rowTdr) fun e s =>
     decide (e.A s rowTdr (frm rowTdr) % 2 ^ 32 ≤ 255) && e.B s rowTdr (frm rowTdr) % 2 ^ 32 = 16,
   runs (withReg 16 255 (withReg 20 15 th)) rowTdr (frm rowTdr) fun e s =>
     decide (e.A s rowTdr (frm rowTdr) % 2 ^ 32 ≤ 255) && decide (e.B s rowTdr (frm rowTdr) % 2 ^ 32 ≤ 15)]

theorem test_witness_tensor_descriptors : chkDescriptors.all id = true := by decide +kernel

/-! Engine commands. -/

/-- W of 16 by 32 at descriptor 5, X of 16 by 1 at descriptor 6, and the slot record over them. -/
def slotWords (k : Nat) : List Nat := [k + 5 * 2 ^ 8 + 9 * 2 ^ 16, 3 + 4 * 2 ^ 8 + 4 * 2 ^ 16 + 4 * 2 ^ 19, 32 + 1 * 2 ^ 16, 1, 0x400000, 0, 0x500000, 0]

def wordsOf (ns : List Nat) : List Word := ns.map (BitVec.ofNat 32)

def slotRec : BitVec 512 := bindRecord (wordsOf (slotWords 63)) 0

def slotDescs : Map (BitVec 1024) := [(5, blockedDesc 0 16 32 0x300000), (6, blockedDesc 1 16 1 0x310000)]

def withSlot (k : Nat) (s : State) : State := s.modCtx 0 fun c => { c with slots := [(k, { bits := slotRec, serial := 1 })] }

/-- A command of the group of `here`. -/
def aCmd (kind : CmdKind) (block : List Nat) (descs : Map (BitVec 1024)) : Cmd :=
  { id := 3, gid := groupKey 0 0, pc := 0, kind := kind, block := wordsOf block, descs := descs, region := 0, issued := some 0, ready := true
    started := true, progress := 0, asked := 0, matched := 0, rows := [], reads := List.replicate 32 0, snapshot := [], slotRec := slotRec, version := 0, event := none }

def withCmd (c : Cmd) (s : State) : State := s.modCore 0 fun k => { k with cmds := [c] }

def withClaimOf (key : Nat) (s : State) : State := s.modCore 0 fun k => { k with claim := some key }

def bits0 (s : State) (e : Env) (row : OpRow) (n : Nat) : Nat → Nat → Nat → Nat := blkBits (blockWords s e row (sfrm row) n)

/-- Witnesses for ReuseSlots, at slot 63 and beyond. -/
def chkSlots : List Bool :=
  let at_ (n : Nat) : State := withReg 16 n st
  let r (e : Env) (s : State) (k : Nat) : BitVec 512 := ((s.ctx e.n).slot k).bits
  -- A false value says that `WaitsForSlot` does not hold, with nobody in the queue; a true one that a DLT holds the slot.
  let waits (s : State) (e : Env) (k : Nat) : Bool := slotHeld s e.n k || slotWaiters s e.n k != []
  let bindFields (e : Env) (s : State) : Bool :=
    let b := bits0 s e rowRsbind 8
    b 0 24 8 = 0 && b 0 6 2 = 0 && b 1 22 10 = 0 && b 3 16 16 = 0
  let paramFields (e : Env) (s : State) : Bool :=
    let b := bits0 s e rowRsparam 2
    b 0 24 8 = 0 && b 0 6 2 = 0 && b 1 22 10 = 0
  let binds (ds : Map (BitVec 1024)) (c : List Word → Env → State → Bool) : Bool :=
    runs (withWords 32 (slotWords 63) (withDescs ds st)) rowRsbind (sfrm rowRsbind) fun e s =>
      let b := blockWords s e rowRsbind (sfrm rowRsbind) 8
      bindFields e s && !waits s e 63 && Slot.state (r e s 63) = 0 && decide (blkBits b 0 16 8 ≤ 127) && blkBits b 0 8 8 = 5 && c b e s
  -- A DLT holds slot 63 as the instruction comes to it, for the first time or with its place taken.
  let waitsAre (row : OpRow) (s : State) (reaches : Env → State → Bool) (k : Env → State → Nat) : List Bool :=
    let s := withCmd (aCmd .dlt [63] slotDescs) s
    [runs s row (sfrm row) fun e s => reaches e s && k e s = 63 && slotHeld s e.n 63 && e.h.slotAt = none,
     runs (withHart (fun h => { h with slotAt := some (63, 0) }) s) row (sfrm row) fun e s =>
       reaches e s && k e s = 63 && slotHeld s e.n 63 && e.h.slotAt = some (63, 0)]
  [runs (withWords 32 (slotWords 63) (withDescs slotDescs st)) rowRsbind (sfrm rowRsbind) fun e s =>
      let b := blockWords s e rowRsbind (sfrm rowRsbind) 8
      let w := (s.ctx e.n).desc 5
      blkBits b 0 8 8 = 5 && blkBits b 0 0 6 = 63 && blkBits b 0 24 8 = 0 && blkBits b 0 6 2 = 0 && blkBits b 1 22 10 = 0
        && blkBits b 3 16 16 = 0 && !waits s e 63
        && Slot.state (r e s 63) = 0 && decide (blkBits b 0 16 8 ≤ 127) && (storeOf (s.ctx e.n).desc w).isSome
        && Desc.watch w && bindOk w (bindRecord b (Desc.version w)),
   runs (withSlot 63 (withWords 32 [63 + 127 * 2 ^ 16, 5] st)) rowRsparam (sfrm rowRsparam) fun e s =>
      let b := bits0 s e rowRsparam 2
      b 0 24 8 = 0 && b 0 6 2 = 0 && b 1 22 10 = 0 && !waits s e (b 0 0 6) && Slot.state (r e s (b 0 0 6)) != 0 && decide (b 0 16 8 ≤ 127),
   runs (withSlot 63 (at_ 63)) rowRsinv (sfrm rowRsinv) fun e s => e.A s rowRsinv (sfrm rowRsinv) % 2 ^ 32 = 63 && !waits s e 63
      && Slot.state (r e s 63) != 0 && Slot.state (r e s 63) != 5,
   runs (at_ 63) rowRsinv (sfrm rowRsinv) fun e s => e.A s rowRsinv (sfrm rowRsinv) % 2 ^ 32 = 63 && !waits s e 63
      && Slot.state (r e s 63) = 0,
   runs (at_ 63) rowRsinvRel (sfrm rowRsinvRel) fun e s => e.A s rowRsinvRel (sfrm rowRsinvRel) % 2 ^ 32 = 63 && !waits s e 63,
   runs (withSlot 63 (withReg 24 1 (at_ 63))) rowRsref (sfrm rowRsref) fun e s =>
      e.A s rowRsref (sfrm rowRsref) % 2 ^ 32 = 63 && !waits s e 63 && Slot.state (r e s 63) != 0 && Slot.state (r e s 63) != 5
        && decide (e.B s rowRsref (sfrm rowRsref) % 2 ^ 32 < e.C s rowRsref (sfrm rowRsref) % 2 ^ 32)
        && decide (e.C s rowRsref (sfrm rowRsref) % 2 ^ 32 ≤ Slot.cols (r e s 63)),
   runs (withReg 20 7 (at_ 63)) rowRsq (sfrm rowRsq) fun e s => decide (e.A s rowRsq (sfrm rowRsq) % 2 ^ 32 ≤ 63)
      && e.B s rowRsq (sfrm rowRsq) % 2 ^ 32 = 7,
   runs (at_ 64) rowRsinvRel (sfrm rowRsinvRel) fun e s => decide (63 < e.A s rowRsinvRel (sfrm rowRsinvRel) % 2 ^ 32),
   runs (at_ 64) rowRsinv (sfrm rowRsinv) fun e s => decide (63 < e.A s rowRsinv (sfrm rowRsinv) % 2 ^ 32),
   runs (at_ 64) rowRsref (sfrm rowRsref) fun e s => decide (63 < e.A s rowRsref (sfrm rowRsref) % 2 ^ 32),
   runs (at_ 63) rowRsref (sfrm rowRsref) fun e s => decide (e.A s rowRsref (sfrm rowRsref) % 2 ^ 32 ≤ 63) && !waits s e 63 && Slot.state (r e s 63) = 0,
   runs (withReg 20 8 (at_ 63)) rowRsq (sfrm rowRsq) fun e s => decide (7 < e.B s rowRsq (sfrm rowRsq) % 2 ^ 32),
   runs (withWords 32 [2 ^ 24] st) rowRsbind (sfrm rowRsbind) fun e s => bits0 s e rowRsbind 8 0 24 8 != 0,
   runs (withWords 32 [2 ^ 24] st) rowRsparam (sfrm rowRsparam) fun e s => bits0 s e rowRsparam 2 0 24 8 != 0,
   runs (withSlot 63 (withWords 32 (slotWords 63) (withDescs slotDescs st))) rowRsbind (sfrm rowRsbind) fun e s => bindFields e s && !waits s e 63
      && Slot.state (r e s 63) != 0,
   binds [] fun _ e s => (storeOf (s.ctx e.n).desc ((s.ctx e.n).desc 5)).isNone,
   binds [(5, blockedDesc 0 16 32 0x300000 ^^^ BitVec.ofNat 1024 (2 ^ 30))] fun _ e s =>
      (storeOf (s.ctx e.n).desc ((s.ctx e.n).desc 5)).isSome && !Desc.watch ((s.ctx e.n).desc 5),
   binds [(5, blockedDesc 0 32 32 0x300000)] fun b e s => let w := (s.ctx e.n).desc 5
      (storeOf (s.ctx e.n).desc w).isSome && Desc.watch w && !bindOk w (bindRecord b (Desc.version w)),
   runs (withWords 32 [63] st) rowRsparam (sfrm rowRsparam) fun e s => paramFields e s && !waits s e 63 && Slot.state (r e s 63) = 0]
  ++ waitsAre rowRsbind (withWords 32 (slotWords 63) st) bindFields (fun e s => bits0 s e rowRsbind 8 0 0 6)
  ++ waitsAre rowRsparam (withWords 32 [63] st) paramFields (fun e s => bits0 s e rowRsparam 2 0 0 6)
  ++ ([rowRsinv, rowRsinvRel, rowRsref].map fun row =>
      waitsAre row (at_ 63) (fun e s => decide (e.A s row (sfrm row) % 2 ^ 32 ≤ 63)) (fun e s => e.A s row (sfrm row) % 2 ^ 32)).flatten
  ++ waitsAre rowDlt (withWords 32 [63] st) (fun e s =>
      let b := bits0 s e rowDlt 1
      b 0 26 6 = 0 && b 0 21 3 = 0 && b 0 6 2 = 0 && e.h.stores = [] && !linkBusy s e.r) (fun e s => bits0 s e rowDlt 1 0 0 6)

theorem test_witness_reuse_slots : chkSlots.all id = true := by decide +kernel

/-- Witnesses for EngineCommands. -/
def chkEngine : List Bool :=
  let mine (s : State) (e : Env) : Bool := (s.core e.g.coreNo).claim = none || (s.core e.g.coreNo).claim = some e.r.group
  let quadsOk (b : Nat → Nat → Nat → Nat) : Bool := b 0 28 4 = 0 && b 0 21 3 = 0 && b 0 24 4 != 0 && decide (b 0 16 5 ≤ 23)
  let mxz := withWords 32 [23 * 2 ^ 16 + 15 * 2 ^ 24] st
  let mxDescs : Map (BitVec 1024) := [(5, blockedDesc 0 64 32 0x300000), (6, blockedDesc 1 64 32 0x310000)]
  let look (s : State) (e : Env) : Nat → BitVec 1024 := (s.ctx e.n).desc
  let copyDescs : Map (BitVec 1024) := [(5, plainDesc 0 0x300000 0), (6, plainDesc 0 0x310000 0)]
  let cpy := withWords 32 [5 + 6 * 2 ^ 8, 0, 65532] (withDescs copyDescs st)
  let aCpy := aCmd .cpy [0, 0, 65532] [(1, plainDesc 0 0x310000 0)]
  let mxAt (steps : Nat) : State := withWords 32 [5 + 6 * 2 ^ 8 + 23 * 2 ^ 16 + 15 * 2 ^ 24, 0, 0, steps] (withDescs mxDescs st)
  let deep : State := (mxAt 1).modCore 0 fun c => { c with depth := [(23, 32704)] }
  let mxOk (e : Env) (s : State) : Bool :=
    let b := bits0 s e rowMx 4
    quadsOk b && b 3 9 23 = 0 && blkWord (blockWords s e rowMx (sfrm rowMx) 4) 1 % 64 = 0 && b 3 0 9 != 0
      && (storeOf (look s e) (look s e (b 0 0 8))).isSome && (storeOf (look s e) (look s e (b 0 8 8))).isSome
      && operandOk (look s e (b 0 0 8)) false 9 && operandOk (look s e (b 0 8 8)) true 9
      && Desc.size (look s e (b 0 0 8)) 0 = Desc.size (look s e (b 0 8 8)) 0
  let shallow (e : Env) (s : State) : Bool :=
    let b := bits0 s e rowMx 4
    (List.range 4).all fun q => decide (depthAhead s e.g.coreNo (q * 24 + b 0 16 5) + 64 * b 3 0 9 ≤ 32767)
  let mxdOk (e : Env) (s : State) : Bool :=
    let b := blockWords s e rowMxd (sfrm rowMxd) 5
    drainCheck s e b false = none && (match epiDesc s e b with | .ok _ => true | _ => false)
  let mxsAt : State := withWords 32 [23, 0, 0, 0, 0, 5] (withDescs [(5, squareDesc)] st)
  let mxsOk (e : Env) (s : State) : Bool :=
    let b := blockWords s e rowMxs (sfrm rowMxs) 8
    let d := look s e 5
    drainCheck s e b true = none && (match epiDesc s e b with | .ok _ => true | _ => false) && blkBits b 5 0 8 = 5
      && (storeOf (look s e) d).isSome && Desc.kind d != 1 && Desc.rank d = 2 && Desc.fmt d = drainFmt (blkBits b 0 23 3)
      && tilePoints.all fun p => match resolveTensor (look s e) d (mxsCoord b p.1 p.2) with | .trap _ => false | _ => true
  let dltAt : State := withSlot 63 (withWords 32 [63 + 6 * 2 ^ 8 + 23 * 2 ^ 16] (withDescs slotDescs st))
  let dltOk (e : Env) (s : State) : Bool :=
    let b := bits0 s e rowDlt 1
    let r := ((s.ctx e.n).slot (b 0 0 6)).bits
    let w := look s e (Slot.wTid r)
    let x := look s e (b 0 8 8)
    b 0 26 6 = 0 && b 0 21 3 = 0 && b 0 6 2 = 0 && !slotHeld s e.n (b 0 0 6) && slotWaiters s e.n (b 0 0 6) = [] && Slot.state r != 0 && Slot.state r != 5
      && (storeOf (look s e) w).isSome && (storeOf (look s e) x).isSome && Desc.watch w && bindOk w r && operandOk x true 9
      && Desc.size x 0 = 16 * Slot.kb r && Desc.size x 1 = Slot.cols r
      && decide (b 0 16 5 + ceilDiv (Slot.rows r) 32 * ceilDiv (Slot.cols r) 32 ≤ 24)
  [runs mxz rowMxz (sfrm rowMxz) fun e s => quadsOk (bits0 s e rowMxz 1) && mine s e,
   runs (withClaimOf 7 (mxAt 1)) rowMx (sfrm rowMx) fun e s => mxOk e s && !mine s e,
   runs deep rowMx (sfrm rowMx) fun e s => mxOk e s && mine s e && !shallow e s,
   runs (withClaimOf 7 (withWords 32 [23] st)) rowMxd (sfrm rowMxd) fun e s => mxdOk e s && !mine s e,
   runs (withClaimOf 7 mxsAt) rowMxs (sfrm rowMxs) fun e s => mxsOk e s && !mine s e,
   runs (withClaimOf 7 dltAt) rowDlt (sfrm rowDlt) fun e s => dltOk e s && !mine s e && e.h.stores = [] && !linkBusy s e.r,
   runs (withStore dltAt) rowDlt (sfrm rowDlt) fun e s => dltOk e s && e.h.stores != [],
   runs (withClaimOf 7 mxz) rowMxz (sfrm rowMxz) fun e s => quadsOk (bits0 s e rowMxz 1) && !mine s e,
   runs (mxAt 1) rowMx (sfrm rowMx) fun e s => mxOk e s && mine s e && shallow e s,
   runs (withWords 32 [23] st) rowMxd (sfrm rowMxd) fun e s => mxdOk e s && mine s e,
   runs mxsAt rowMxs (sfrm rowMxs) fun e s => mxsOk e s && mine s e,
   runs st rowMxw (sfrm rowMxw) fun e s => (s.cmdsOf e.r.group e.g).all fun c => c.kind = .cpy,
   runs (withCmd (aCmd .mxz [0] []) st) rowMxw (sfrm rowMxw) fun e s => (s.cmdsOf e.r.group e.g).any fun c => c.kind != .cpy,
   runs cpy rowCpy (sfrm rowCpy) fun e s =>
     let w := blockWords s e rowCpy (sfrm rowCpy) 8
     let b := blkBits w
     let src := look s e (b 0 0 8)
     let dst := look s e (b 0 8 8)
     let r := Desc.rank dst
     storeOf (look s e) src = some src && (storeOf (look s e) dst).isSome && b 0 19 13 = 0 && b 1 21 11 = 0 && blkWord w 2 % 4 = 0
       && decide (blkWord w 2 + 4 ≤ Hdr.cbytes e.hdr) && Desc.kind dst != 1 && Desc.rank src = r && Desc.fmt src = Desc.fmt dst
       && blkWord w 1 / 2 ^ (3 * r) = 0 && decide ((List.range r).map (cpyPerm w)).Nodup && ((List.range r).all fun i => decide (cpyPerm w i < r))
       && ((extentPoints (cpyExtents dst)).all fun p => match resolveTensor (look s e) src (cpySource w r p) with | .trap _ => false | _ => true)
       && !overlapAsks (lockOf s e src false) (lockOf s e dst true)
       && decide (((s.core e.g.coreNo).cmds.filter fun c => c.kind == .cpy).length < 16),
   runs (withCmd aCpy (withReg 16 65532 st)) rowCpyq (sfrm rowCpyq) fun e s => (findCpy s e (e.A s rowCpyq (sfrm rowCpyq) % 2 ^ 32)).isSome,
   runs st rowCpyq (sfrm rowCpyq) fun e s => (findCpy s e (e.A s rowCpyq (sfrm rowCpyq) % 2 ^ 32)).isNone,
   runs (withCmd aCpy (withReg 16 65532 st)) rowCpyc (sfrm rowCpyc) fun e s => (findCpy s e (e.A s rowCpyc (sfrm rowCpyc) % 2 ^ 32)).isSome,
   runs st rowCpyc (sfrm rowCpyc) fun e s => (findCpy s e (e.A s rowCpyc (sfrm rowCpyc) % 2 ^ 32)).isNone,
   st.tovor.due = [] && engReleased st 3,
   let sent := st.modTovor fun t => { t with outbound := [{ anOp st none with cmd := some 3 }] }
   sent.tovor.due = [] && !engReleased sent 3,
   runs dltAt rowDlt (sfrm rowDlt) fun e s => dltOk e s && mine s e]

theorem test_witness_engine_commands : chkEngine.all id = true := by decide +kernel

/-- Witnesses for the traps of EngineCommands, each where the checks before it pass. -/
def chkEngineTraps : List Bool :=
  let put (ns : List Nat) (ds : Map (BitVec 1024)) : State := withWords 32 ns (withDescs ds st)
  let look (s : State) (e : Env) : Nat → BitVec 1024 := (s.ctx e.n).desc
  let store (s : State) (e : Env) (k : Nat) : Bool := (storeOf (look s e) (look s e k)).isSome
  let fields (row : OpRow) (n : Nat) (e : Env) (s : State) : Bool :=
    let b := bits0 s e row n
    b 0 28 4 = 0 && b 0 21 3 = 0 && (n != 4 || b 3 9 23 = 0)
  let tile (row : OpRow) (n : Nat) : List Bool :=
    [runs (put [2 ^ 23] []) row (sfrm row) fun e s => !fields row n e s,
     runs (put [0] []) row (sfrm row) fun e s => fields row n e s && bits0 s e row n 0 24 4 = 0,
     runs (put [24 * 2 ^ 16 + 2 ^ 24] []) row (sfrm row) fun e s =>
       fields row n e s && bits0 s e row n 0 24 4 != 0 && bits0 s e row n 0 16 5 = 24]
  let mx (ns : List Nat) (ds : Map (BitVec 1024)) (c : Env → State → Bool) : Bool :=
    runs (put ns ds) rowMx (sfrm rowMx) fun e s =>
      let b := bits0 s e rowMx 4
      fields rowMx 4 e s && b 0 24 4 != 0 && decide (b 0 16 5 ≤ 23) && c e s
  let mxWord (e : Env) (s : State) : Bool := blkWord (blockWords s e rowMx (sfrm rowMx) 4) 1 % 64 = 0 && bits0 s e rowMx 4 3 0 9 != 0
  let head : Nat := 5 + 6 * 2 ^ 8 + 2 ^ 24
  let drain (row : OpRow) (n : Nat) (mxs : Bool) (s : State) (c : Cause) : Bool :=
    runs s row (sfrm row) fun e s => drainCheck s e (blockWords s e row (sfrm row) n) mxs = some c
  let mxs (origin : Nat) (ds : Map (BitVec 1024)) (c : Env → State → List Word → BitVec 1024 → Bool) : Bool :=
    runs (put [23, 0, 0, 0, 0, 5, origin] ds) rowMxs (sfrm rowMxs) fun e s =>
      let b := blockWords s e rowMxs (sfrm rowMxs) 8
      drainCheck s e b true = none && (match epiDesc s e b with | .ok _ => true | _ => false) && c e s b (look s e (blkBits b 5 0 8))
  let shaped (b : List Word) (d : BitVec 1024) : Bool := Desc.kind d != 1 && Desc.rank d = 2 && Desc.fmt d = drainFmt (blkBits b 0 23 3)
  let dlt (s : State) (c : Env → State → BitVec 512 → Bool) : Bool := runs s rowDlt (sfrm rowDlt) fun e s =>
    let b := bits0 s e rowDlt 1
    b 0 26 6 = 0 && b 0 21 3 = 0 && b 0 6 2 = 0 && e.h.stores = [] && !linkBusy s e.r && !slotHeld s e.n (b 0 0 6)
      && slotWaiters s e.n (b 0 0 6) = [] && c e s ((s.ctx e.n).slot (b 0 0 6)).bits
  let bound (r : BitVec 512) : Bool := Slot.state r != 0 && Slot.state r != 5
  let slotAt (w : Nat) (ds : Map (BitVec 1024)) : State := withSlot 63 (put [w] ds)
  let fits (e : Env) (s : State) (r : BitVec 512) : Bool :=
    let x := look s e 6
    bindOk (look s e (Slot.wTid r)) r && operandOk x true 9 && Desc.size x 0 = 16 * Slot.kb r && Desc.size x 1 = Slot.cols r
  let unwatched : BitVec 1024 := blockedDesc 0 16 32 0x300000 ^^^ BitVec.ofNat 1024 (2 ^ 30)
  let cpy (ns : List Nat) (ds : Map (BitVec 1024)) (c : Env → State → List Word → Bool) (more : State → State := id) : Bool :=
    runs (more (put ns ds)) rowCpy (sfrm rowCpy) fun e s => c e s (blockWords s e rowCpy (sfrm rowCpy) 8)
  let words (b : List Word) : Bool := blkBits b 0 19 13 = 0 && blkBits b 1 21 11 = 0
  let done (e : Env) (b : List Word) : Bool := blkWord b 2 % 4 = 0 && decide (blkWord b 2 + 4 ≤ Hdr.cbytes e.hdr)
  let formed (s : State) (e : Env) (b : List Word) : Bool :=
    let src := look s e 5
    let dst := look s e 6
    Desc.kind dst != 1 && Desc.rank src = Desc.rank dst && Desc.fmt src = Desc.fmt dst && blkWord b 1 / 2 ^ (3 * Desc.rank dst) = 0
      && decide ((List.range (Desc.rank dst)).map (cpyPerm b)).Nodup && (List.range (Desc.rank dst)).all fun i => decide (cpyPerm b i < Desc.rank dst)
  let inside (s : State) (e : Env) (b : List Word) : Bool := (extentPoints (cpyExtents (look s e 6))).all fun p =>
    match resolveTensor (look s e) (look s e 5) (cpySource b (Desc.rank (look s e 6)) p) with | .trap _ => false | _ => true
  let overlap (s : State) (e : Env) : Bool := overlapAsks (lockOf s e (look s e 5) false) (lockOf s e (look s e 6) true)
  let pair (fmt base clip : Nat) : Map (BitVec 1024) := [(5, plainDesc 0 0x300000 clip), (6, plainDesc fmt base 0)]
  let passes (s : State) (e : Env) (b : List Word) : Bool := words b && done e b && store s e 5 && store s e 6
  tile rowMxz 1 ++ tile rowMx 4
  ++ [mx [2 ^ 24] [] fun e s => bits0 s e rowMx 4 3 0 9 = 0,
   mx [head, 0, 0, 1] [] fun e s => mxWord e s && !store s e 5,
   mx [head, 0, 0, 1] [(5, blockedDesc 0 64 32 0x300000), (6, blockedDesc 1 128 32 0x310000)] fun e s => mxWord e s && store s e 5 && store s e 6
     && Desc.size (look s e 5) 0 != Desc.size (look s e 6) 0,
   drain rowMxd 5 false (put [2 ^ 28] []) .tensorGeom, drain rowMxs 8 true (put [0, 0, 0, 0, 0, 2 ^ 8] []) .tensorGeom,
   drain rowMxd 5 false (put [24] []) .accTile, drain rowMxs 8 true (put [24] []) .accTile, drain rowMxd 5 false (put [2 ^ 16] []) .tensorGeom,
   drain rowMxd 5 false (withCmd (aCmd (.mxd false) [0] []) (put [0] [])) .drainBusy,
   runs (put [2 ^ 26] []) rowMxd (sfrm rowMxd) fun e s =>
     let b := blockWords s e rowMxd (sfrm rowMxd) 5
     drainCheck s e b false = none && blkBits b 0 26 1 = 1 && storeOf (look s e) (look s e 0) = none,
   mxs 0 [] fun e s _ _ => !store s e 5, mxs 0 [(5, plainDesc 4 0x300000 0)] fun e s b d => store s e 5 && !shaped b d,
   mxs 1 [(5, squareDesc ||| BitVec.ofNat 1024 (2 ^ 14))] fun e s b d => store s e 5 && shaped b d && tilePoints.any fun p =>
     match resolveTensor (look s e) d (mxsCoord b p.1 p.2) with | .trap _ => true | _ => false,
   runs (put [2 ^ 26] []) rowDlt (sfrm rowDlt) fun e s => bits0 s e rowDlt 1 0 26 6 != 0,
   dlt (put [63] []) fun _ _ r => Slot.state r = 0, dlt (slotAt (63 + 6 * 2 ^ 8) []) fun e s r => bound r && !store s e 6,
   dlt (slotAt (63 + 6 * 2 ^ 8) [(5, unwatched), (6, blockedDesc 1 16 1 0x310000)]) fun e s r =>
     bound r && Slot.wTid r = 5 && store s e 5 && store s e 6 && !Desc.watch (look s e 5),
   dlt (slotAt (63 + 6 * 2 ^ 8) [(5, blockedDesc 0 16 32 0x300000), (6, blockedDesc 1 16 2 0x310000)]) fun e s r =>
     bound r && Slot.wTid r = 5 && store s e 5 && store s e 6 && Desc.watch (look s e 5) && !fits e s r,
   dlt (slotAt (63 + 6 * 2 ^ 8 + 24 * 2 ^ 16) slotDescs) fun e s r =>
     bound r && Slot.wTid r = 5 && store s e 5 && store s e 6 && Desc.watch (look s e 5) && fits e s r
       && decide (24 < bits0 s e rowDlt 1 0 16 5 + ceilDiv (Slot.rows r) 32 * ceilDiv (Slot.cols r) 32),
   cpy [2 ^ 19] [] fun _ _ b => !words b, cpy [0, 0, 65536] [] fun e _ b => words b && !done e b, cpy [0, 0, 2] [] fun e _ b => words b && !done e b,
   cpy [5 + 6 * 2 ^ 8] [] fun e s b => words b && done e b && !store s e 5,
   cpy [5 + 6 * 2 ^ 8] (pair 4 0x310000 0) fun e s b => passes s e b && !formed s e b,
   cpy [5 + 6 * 2 ^ 8, 0, 0, 0, 1] (pair 0 0x310000 1) fun e s b => passes s e b && formed s e b && !inside s e b,
   cpy [5 + 6 * 2 ^ 8] (pair 0 0x300000 0) fun e s b => passes s e b && formed s e b && overlap s e,
   cpy [5 + 6 * 2 ^ 8] (pair 0 0x310000 0) (fun e s b => passes s e b && formed s e b && inside s e b && !overlap s e
     && decide (16 ≤ ((s.core e.g.coreNo).cmds.filter fun c => c.kind == .cpy).length))
     (fun s => s.modCore 0 fun k => { k with cmds := List.replicate 16 (aCmd .cpy [0] []) })]

theorem test_witness_engine_traps : chkEngineTraps.all id = true := by decide +kernel

/-- Witnesses for CommandAcceptance. -/
def chkAccept : List Bool :=
  let ask : LockAsk := { table := 0, space := 4, first := 0, last := 7, write := true }
  let full : State := st.modCore 0 fun k => { k with locks := List.replicate 32 { cmd := 1, ctx := 0, space := 4, first := 64, last := 71, write := false } }
  let taken (s : State) (c : Env → Bool) : Bool := match envOf s s.cur with | some e => locksFit s [ask] && e.h.stores = [] && !linkBusy s e.r && c e | none => false
  [taken st fun e => decide (e.gr.level < 2), taken (st.modGrid 0 fun g => { g with level := 2 }) fun e => e.gr.level = 2,
   !locksFit full [ask], linkBusy (withLink st) s0,
   match envOf (withStore st) st.cur with | some e => e.h.stores != [] | none => false]

theorem test_witness_command_acceptance : chkAccept.all id = true := by decide +kernel

/-! Launch, random numbers, system registers. -/

/-- The record placed at 0x300000 and an active queue 63 of partition 0 that takes two records. -/
def launching (n : Nat) : State :=
  let s := withReg 20 63 (withReg 16 0x300000 st)
  let s := { s with mem := memSetBytes s.mem (dramBase + 0x300000) (bytesOfNat 128 placedRecord.toNat) }
  s.setQueue 0 63 { initQueue with enable := true, launchOk := true, state := .active, log2 := 1, writeIdx := BitVec.ofNat 32 n
                                   qbase := 0x310000 }

/-- Witnesses for LaunchAndSignal. -/
def chkLaunch : List Bool :=
  let f := sfrm rowLaunch
  let a (e : Env) (s : State) : Nat := e.A s rowLaunch f
  let meetsLock (e : Env) (s : State) : Bool := checkAccess (flushL1 s e.g.coreNo) e (launchRead (a e s)) matches .error .rangeLock
  let ready (e : Env) (s : State) : Bool := a e s % 128 = 0 && e.h.stores = [] && !linkBusy s e.r && !meetsLock e s
  let writeLock : State := (launching 1).modCore 0 fun c =>
    { c with locks := [{ cmd := 0, ctx := 0, space := 4, first := 0x300000, last := 0x300000, write := true }] }
  let ahead : OrdEntry := { space := 4, addr := 0x300000, size := 8, mask := 0xFF, kind := .inr 7, flat := dramBase + 0x300000, peer := none, dst := none
                            words := 1, lane := 0, pc := 0, region := 0, rng := 0 }
  let alone (e : Env) (a : Access) (s : State) : Bool :=
    match reach s e a with | .ok l => !e.det || (e.ordMeeting l 8).isEmpty | _ => false
  let goes (full : Bool) (e : Env) (s : State) : Bool :=
    ready e s && (match readRecord (flushL1 s e.g.coreNo) e.n (a e s) e.ownOrd with
      | (w, some r) => recordOk r && e.B s rowLaunch f % 2 ^ 32 = 63 && (w.queue (w.ctx e.n).part 63).launchable e.n
          && decide (Rec.integrity r ≤ (w.ctx e.n).ilMax) && (w.queue (w.ctx e.n).part 63).full = full
          && (s.ctx e.n).part = (w.ctx e.n).part && (s.ctx e.n).ilMax = (w.ctx e.n).ilMax
          && (full || (appendRecord w e.n (w.ctx e.n).part 63 r).isSome)
      | _ => false)
  let sig := { sfrm rowSignal with op2 := 4 }
  [runs (launching 1) rowLaunch f (goes false), runs (launching 2) rowLaunch f (goes true),
   runs (withReg 16 0x310000 (launching 0)) rowLaunch f fun e s => ready e s
     && (match readRecord (flushL1 s e.g.coreNo) e.n (a e s) e.ownOrd with | (_, some r) => !recordOk r | _ => false),
   runs (withReg 20 62 (launching 1)) rowLaunch f fun e s => ready e s
     && (match readRecord (flushL1 s e.g.coreNo) e.n (a e s) e.ownOrd with
         | (w, some r) => recordOk r && !(w.queue (w.ctx e.n).part 62).launchable e.n && (s.ctx e.n).part = (w.ctx e.n).part
         | _ => false),
   runs (withStore (launching 1)) rowLaunch f fun e s => a e s % 128 = 0 && e.h.stores != [],
   runs writeLock rowLaunch f fun e s => a e s % 128 = 0 && e.h.stores = [] && !linkBusy s e.r && meetsLock e s,
   runs (withHart (fun h => { h with ord := [ahead] }) (det (withReg 16 0x300000 st))) rowSignal sig fun e s =>
     isFlat s e (accOf sig rowSignal 8 true false 32 needReadWrite e s) && e.h.stores = [] && !linkBusy s e.r
       && !alone e (accOf sig rowSignal 8 true false 32 needReadWrite e s) s,
   runs (withStore (withReg 16 0x300000 st)) rowSignal sig fun e s =>
     isFlat s e (accOf sig rowSignal 8 true false 32 needReadWrite e s) && e.h.stores != [],
   runs (withReg 16 (2 ^ 29) (withPeer st)) rowSignal sig fun e s =>
     isPeer s e (accOf sig rowSignal 8 true false 32 needReadWrite e s) && e.h.stores = [] && !linkBusy s e.r
       && alone e (accOf sig rowSignal 8 true false 32 needReadWrite e s) s,
   runs (withReg 16 0x300004 st) rowSignal sig fun e s => isTrap s e (accOf sig rowSignal 8 true false 32 needReadWrite e s),
   runs (withReg 16 0x300000 { st with mem := memSetBytes st.mem (dramBase + 0x300000) (List.replicate 8 0xFF) }) rowSignal sig fun e s =>
     (match checkAccess s e (accOf sig rowSignal 8 true false 32 needReadWrite e s) with
      | .ok (.flat p _) => memNat (meetMemory (flushL1 s e.g.coreNo) e.n p).1.mem p 8 = 2 ^ 64 - 1
      | _ => false) && e.h.stores = [] && !linkBusy s e.r && alone e (accOf sig rowSignal 8 true false 32 needReadWrite e s) s,
   runs (withReg 16 0x300040 (launching 0)) rowLaunch f fun e s => a e s % 128 != 0,
   runs (withReg 16 0x300000 st) rowSignal sig fun e s =>
     (match checkAccess s e (accOf sig rowSignal 8 true false 32 needReadWrite e s) with
      | .ok (.flat p _) => (meetMemory (flushL1 s e.g.coreNo) e.n p).2 = none && memNat (meetMemory (flushL1 s e.g.coreNo) e.n p).1.mem p 8 != 2 ^ 64 - 1
      | _ => false) && e.h.stores = [] && !linkBusy s e.r && alone e (accOf sig rowSignal 8 true false 32 needReadWrite e s) s]

theorem test_witness_launch_and_signal : chkLaunch.all id = true := by decide +kernel

/-- Witnesses for RandomNumbers. -/
def chkRandom : List Bool :=
  [runs th rowRand { frm rowRand with ty := .n64 }, runs th rowRand { frm rowRand with ty := .n32 }, runs th rowRand { frm rowRand with ty := .f32 },
   runs th rowRseed { frm rowRseed with op2 := 1 }, runs th rowRseed { frm rowRseed with op2 := 0 }]

theorem test_witness_random_numbers : chkRandom.all id = true := by decide +kernel

/-- Witnesses for SystemRegisters. -/
def chkSysregs : List Bool :=
  ([0, 1, 2, 3, 4, 5, 0x810, 0x811, 0x840, 0x84F, 6, 0x83F, 0x850].map fun n =>
    runs th rowSysr { frm rowSysr with imm := BitVec.ofNat 32 n })
  ++ ([0x810, 0x811, 0, 5, 0x840, 0x84F, 6, 0x83F, 0x850].map fun n => runs th rowSysw { frm rowSysw with imm := BitVec.ofNat 32 n })

theorem test_witness_system_registers : chkSysregs.all id = true := by decide +kernel

/-! Issue and traps. -/
def chkIssue : List Bool :=
  let at_ (s : State) (c : State → Env → Bool) : Bool :=
    match envOf s s.cur with
    | some e => e.h.fault = none && !e.g.rollback && c s e
    | none => false
  let ok (row : OpRow) (f : Form) (e : Env) : Bool := row.stream.has e.steward && row.encOk e.steward f.fields && row.opndOk e.steward f.fields
  let inFile (row : OpRow) (f : Form) (e : Env) : Bool := (overSlots row f (regallocBad e f)).isEmpty
  let paired (row : OpRow) (f : Form) : Bool := (overSlots row f (alignBad f)).isEmpty
  let add := frm rowAdd
  let wide : Form := { add with ty := .i64, d := .x 9 }
  let narrow : State := th.modGrid 0 fun g => { g with header := g.header &&& ~~~BitVec.ofNat 1024 (2 ^ 64) }
  let special : Form := { frm rowSysr with imm := 0x810 }
  let plain : State := th.modCtx 0 fun c => { c with ctl := c.ctl &&& ~~~BitVec.ofNat 512 (2 ^ 59) }
  let good (e : Env) : Bool := ok rowAdd add e && inFile rowAdd add e && paired rowAdd add
  let waits (regs : List Nat) (p : List Nat) (s : State) : State := withHart (fun h => h.addResult regs p none) s
  let drain : State := withCmd { aCmd (.mxd false) [0] [] with rows := [List.replicate 32 64] } { th with cycles := [(0, 1)] }
  let pick : Form := { frm rowXget with a := .drain }
  -- A group between its integrity event and its halt.
  let halting : State := withGroup (fun g => { g with rollback := true, halting := some 99 }) th
  -- A register that a restore left dead, read through the selected number.
  let deadSel (c : Option Cause) : Selected := { bad := c, index := 5, reads := [16], preads := [], writes := [], pwrites := [] }
  let spent : State := withHart (fun h => { h with dead := [16] }) th
  let sameTick : State := withGroup (fun g => { g with rollback := true, halting := some 99, mark := true,
                                                       event := some { cycle := 0, code := 0, seq := 0, report := 0 } }) th
  let free (s : State) (e : Env) (row : OpRow) (f : Form) : Bool := e.h.fault = none && decodeTrap s e row f = none
    && !e.h.pendingPred f.guard.val && e.h.pred f.guard.val != f.gneg && hazard s e row f = none && !usesDrain f && !readsCycLo row f && !needsDup e row f
  [(match envOf halting t0 with
    | some e => windowHolds e rowBar (frm rowBar) && !sameCycle halting e.g && !windowHolds e rowAdd (frm rowAdd) | none => false),
   (match envOf sameTick t0 with
    | some e => windowHolds e rowFence { frm rowFence with op2 := 2 } && sameCycle sameTick e.g && free sameTick e rowFence { frm rowFence with op2 := 2 }
    | none => false),
   at_ spent fun _ e => hazardWith e rowNop (frm rowNop) (deadSel none) = some (.deadRead, 5)
     && hazardWith e rowNop (frm rowNop) (deadSel (some .regalloc)) = some (.regalloc, 5),
   (match envOf (withHart (fun h => { h with fault := some .xregUe }) th) t0 with | some e => e.h.fault.isSome && !windowHolds e rowAdd add | none => false),
   at_ drain fun s e => ok rowXget pick e && hazard s e rowXget pick = none && usesDrain pick && !readsCycLo rowXget pick && e.h.stores = []
     && (match readDrain s e with | .value v _ => (drainHazard s { e with drain := v } rowXget pick).isSome | _ => false),
   at_ th fun _ e => !rowMxz.stream.has e.steward,
   at_ th fun _ e => rowAdd.stream.has e.steward && !rowAdd.encOk e.steward { add with op2 := 2 }.fields,
   at_ th fun _ e => rowAdd.encOk e.steward { add with a := .p 1 }.fields && !rowAdd.opndOk e.steward { add with a := .p 1 }.fields,
   at_ narrow fun _ e => ok rowAdd { add with a := .x 48 } e && !inFile rowAdd { add with a := .x 48 } e,
   at_ th fun _ e => ok rowAdd wide e && inFile rowAdd wide e && !paired rowAdd wide,
   at_ plain fun t e => ok rowSysr special e && inFile rowSysr special e && paired rowSysr special && !(t.ctx e.n).privileged,
   at_ (waits [] [1] th) fun _ e => good e && e.h.pendingPred 1,
   at_ th fun _ e => good e && !e.h.pendingPred 1 && e.h.pred 1 = false,
   at_ (waits [16] [] th) fun s e => good e && (hazard s e rowAdd add).map Prod.fst = some .hazardRaw,
   at_ (waits [8] [] th) fun s e => good e && (hazard s e rowAdd add).map Prod.fst = some .hazardWaw,
   at_ (withHart (fun h => { h with dead := [16] }) th) fun s e => good e && hazard s e rowAdd add = some (.deadRead, 0)]

theorem test_witness_issue_checks : chkIssue.all id = true := by decide +kernel

/-- Witnesses for TrapEntry. -/
def chkTrapEntry : List Bool :=
  let handled : State := (withBit 101 th).modGrid 0 fun g => { g with header := g.header ||| BitVec.ofNat 1024 (12 * 2 ^ 256) }
  let at_ (s : State) (c : Group → Grid → Hart → Bool) : Bool :=
    match s.group? s.cur.group, s.hart? s.cur, s.grid? 0 with
    | some g, some h, some gr => g.state != .killed && g.state != .retired && c g gr h
    | _, _, _ => false
  -- The tables are walked, and what the context was in the middle of is put aside, before the frame is placed.
  let walked (s : State) (g : Group) (gr : Grid) : State :=
    walkFrame (withHart (fun h => { h with wait := .none, dup := none, parkS := false, starve := 0, urgent := false, slotAt := none
                                           reconvAt := none, spin := { last := none, count := 0 } }) s)
      g.coreNo g.ctx (privBase gr g.index 0 + Hdr.privBytes gr.header) 5
  let chunks (s : State) (g : Group) (gr : Grid) : Bool :=
    (frameChunks (walked s g gr) g (privBase gr g.index 0 + Hdr.privBytes gr.header) needWrite 5).isSome
  let twice : State := handled.modGrid 0 fun g => { g with level := 2 }
  let lost : State := handled.modCtx 0 fun c => { c with s1Root := 0 }
  [at_ (withGroup (fun g => { g with rollback := true }) th) fun g _ _ => g.rollback,
   at_ twice fun g gr h => Hdr.trapEn gr.header && !h.handler && h.results = [] && gr.level = 2 && chunks twice g gr,
   at_ st fun _ _ _ => st.cur.who = .steward, at_ th fun _ gr _ => !Hdr.trapEn gr.header,
   at_ (withHart (fun h => { h with handler := true }) handled) fun _ gr h => Hdr.trapEn gr.header && h.handler,
   at_ handled fun g gr h => Hdr.trapEn gr.header && !h.handler && h.results = [] && decide (gr.level < 2)
     && chunks handled g gr,
   at_ (withHart (fun h => { h with results := [{ id := 0, regs := [8], preds := [], value := some 5, region := 0 }] }) handled) fun _ gr h =>
     Hdr.trapEn gr.header && !h.handler && !h.results.isEmpty,
   at_ lost fun g gr h => Hdr.trapEn gr.header && !h.handler && h.results = [] && !chunks lost g gr]

theorem test_witness_trap_entry : chkTrapEntry.all id = true := by decide +kernel

/-! Happenings. -/
/-- Witnesses for ContextHappenings. -/
def chkContextHappenings : List Bool :=
  let at_ (s : State) (c : Group → Hart → Bool) : Bool := match s.group? g0, s.hart? s.cur with | some g, some h => c g h | _, _ => false
  let result : Result := { id := 0, regs := [8], preds := [], value := some 5, region := 0 }
  let trapping := withHart (fun h => { h with status := .parked, trapping := some { cause := .swtrap, pc := 0 } }) th
  let asleep (n : Nat) := withHart (fun h => { h with status := .blocked, wait := .sleep n }) th
  let reconv (n : Nat) : State := { withHart (fun h => { h with status := .blocked, wait := .reconv 3 0 1 }) th with cycles := [(0, n)] }
  let excluded (n : Nat) : State := { withHart (fun h => { h with yieldExcl := some 0 }) th with cycles := [(0, n)] }
  [at_ (withHart (fun h => { h with results := [result] }) th) fun g h => (h.results[0]?.bind (·.value)).isSome && g.present,
   at_ (withStore th) fun g h => (match h.stores with | x :: _ => x.agreed | _ => false) && g.present,
   at_ (withHart (fun h => { h with stores := [{ aStore with agreed := false }] }) th) fun _ h =>
     match h.stores with | x :: _ => !x.agreed | _ => false,
   at_ (withStore (withGroup (fun g => { g with halting := some 12, rollback := true }) th)) fun g h => h.stores != [] && g.halting.isSome,
   at_ th fun g _ => g.halting = none,
   at_ trapping fun g h => h.trapping.isSome && trapping.groupLive g && h.results = [],
   at_ (asleep 0) fun g h => h.wait = .sleep 0 && th.refNs = 0 && h.status = .blocked && th.groupLive g && !g.isEvicting,
   at_ (asleep 1) fun _ h => h.wait = .sleep 1,
   at_ (reconv 1) fun g h => h.wait = .reconv 3 0 1 && (reconv 1).groupLive g && h.status = .blocked && !g.isEvicting
     && decide (0 < (reconv 1).clusterCycles g.cluster),
   at_ (reconv 0) fun g _ => (reconv 0).groupLive g && decide ((reconv 0).clusterCycles g.cluster ≤ 0),
   at_ (excluded 9) fun g h => h.yieldExcl = some 0 && decide (0 + 8 < (excluded 9).clusterCycles g.cluster),
   at_ (excluded 8) fun g h => h.yieldExcl = some 0 && decide ((excluded 8).clusterCycles g.cluster ≤ 0 + 8),
   (match envOf (withHart (fun h => { h with starve := 48 }) th) t0 with
     | some e => !e.steward && decide (48 ≤ e.h.starve) && decide (e.h.spin.count < 4)
     | none => false),
   (match envOf (withHart (fun h => { h with starve := 16 }) th) t0 with | some e => !e.steward && decide (16 ≤ e.h.starve) | none => false),
   (match envOf th th.cur with | some e => e.h.fault = none | none => false)]

theorem test_witness_context_happenings : chkContextHappenings.all id = true := by decide +kernel

/-- Witnesses for BarrierHappenings. -/
def chkBarrierHappenings : List Bool :=
  let arrived (b : Nat) (isBar : Bool) := withHart (fun h => { h with arrival := some (b, isBar, 12) }) th
  let at_ (s : State) (c : Group → Hart → Bool) : Bool := match s.group? g0, s.hart? s.cur with | some g, some h => c g h | _, _ => false
  let all (v : BarState) := withHart (fun h => h.setBar 0 v) th
  let arr : Arrival := { tid := 0, b := 0, c := 0, p := false, form := frm rowRrank }
  let open_ (as : List Arrival) : State :=
    withGroup (fun g => { g with rdvs := [{ set := 0, opc := 0x215, ty := .i32, sub := 0, op2 := 0, mask := 1, arrivals := as }] }) th
  [at_ (arrived 0 false) fun g h => h.arrival = some (0, false, 12) && th.groupLive g && h.stores = [] && !linkBusy th t0,
   at_ (arrived 23 true) fun g h => h.arrival = some (23, true, 12) && th.groupLive g && h.stores = [] && !linkBusy th t0,
   at_ (withStore (arrived 0 true)) fun _ h => h.stores != [],
   at_ (all .arrived) fun g _ => (all .arrived).groupLive g && phaseDue (all .arrived) g0 0
     && ((all .arrived).peers g0).all fun k => match (all .arrived).group? k with | some p => (all .arrived).groupLive p | none => true,
   at_ (all .arrived) fun g _ => (barMembers (all .arrived) g0 0).all fun _ => g.arrived != some ((all .arrived).clusterCycles g.cluster),
   t0 ∈ barMembers (all .arrived) g0 0, groupOf (withGroup (fun g => { g with arrived := some 0 }) (all .arrived)) fun g =>
     g.arrived = some ((all .arrived).clusterCycles g.cluster),
   at_ (all .idle) fun _ _ => !phaseDue (all .idle) g0 0,
   at_ (open_ [arr]) fun g _ => (g.rdvs[0]?.any fun i => i.complete) && (open_ [arr]).groupLive g
     && !linkBusy (open_ [arr]) t0 && (g.threads.all fun h => h.stores = []) && g.rdvs[0]?.any fun i => i.members = [arr],
   at_ (open_ [arr]) fun g _ => (g.threads[arr.tid]?).isSome,
   at_ (open_ []) fun g _ => g.rdvs[0]?.any fun i => !i.complete]

theorem test_witness_barrier_happenings : chkBarrierHappenings.all id = true := by decide +kernel

/-- Witnesses for GroupHappenings. -/
def chkGroupHappenings : List Bool :=
  let retiring := withGroup (fun g => { g with state := .retiring }) th
  let ended : State := th.modGrid 0 fun g => { g with retired := 1 }
  let fresh : State := { (th.modGrid 0 fun g => { g with next := 0 }) with groups := [] }
  let waiting (w : Wait) : State := { withGroup (fun g => { g with state := .waiting, timer := some (0, 0) })
    (withHart (fun h => { h with status := .blocked, wait := w }) th) with refNs := 1 }
  let image : Image := { pieces := [(0, 1)], bytes := [0], writing := true }
  let evicted := withGroup (fun g => { g with state := .waiting, image := some image }) th
  let batch : State := withGroup (fun g => { g with batches := [[]] }) (det th)
  [groupOf retiring fun g => g.state = .retiring && (retiring.ctx g.ctx).state = .running && retiring.cmdsOf g0 g = [] && g.batches = []
     && !g.rollback && !g.padWaits retiring
     && g.harts.all fun p => p.2.ord = [] && p.2.stores = [] && !linkBusy retiring { group := g0, who := p.1 },
   (match ended.grid? 0 with | some gr => gr.retired + gr.killed = gr.total && !gr.ended && ended.cores.all fun c => c.2.cmds = [] | none => false),
   gridReleased ended 0 0, !gridReleased { ended with tovor := { ended.tovor with outbound := [anOp ended none] } } 0 0,
   (match fresh.grid? (g0 / 2 ^ 64) with
    | some gr => (match (placeCands fresh gr.part).find? fun c => c.key == g0 with
      | some c => placesNow fresh gr.part c 0 0 0
      | none => false)
    | none => false),
   groupOf (waiting (.sleep 9)) fun g => th.groupLive g && g.state = .waiting && g.timer = some (0, 0)
     && ((waiting (.sleep 9)).peers g0 = [g0]) && g.image = none && !wakeDue (waiting (.sleep 9)) g0 g && decide (0 + 0 < (waiting (.sleep 9)).refNs)
     && g.waiters.any fun q => waitExternal q.2.wait,
   groupOf (waiting .dqpop) fun g => !wakeDue (waiting .dqpop) g0 g && g.waiters.all fun q => !waitExternal q.2.wait,
   groupOf evicted fun g => g.image = some image && g.state = .waiting && evicted.peers g0 = [g0] && g.atRest evicted g0
     && (match saveFault evicted [g0] with | .ok _ => true | .error _ => false),
   -- 03 R89: the group that is killed, and what it leaves.
   groupOf (killOne (withCmd (aCmd .cpy [] []) (withStore th)) g0 .swtrap 12 0 0 false) fun g => g.state = .killed
     && g.harts.all fun p => p.2.status = .exited && p.2.stores = [],
   ((killOne th g0 .swtrap 12 0 0 false).ctx 0).kills = 1, g0 ∈ th.peers g0,
   ((killOne th g0 .swtrap 12 0 0 false).grid? 0).any fun gr => gr.killed = 1 && gr.cause = some .swtrap && gr.firstGroup = some 0,
   (match batch.grid? 0 with
    | some gr => groupKey 0 gr.tokenIndex = g0 && Hdr.det gr.header && groupOf batch fun g =>
        g.batches = [[]] && g.present && groupReleased batch g0 g && (applyBatch g0 g gr batch []).2 = ([], none)
    | none => false),
   groupOf (withStore batch) fun g => !groupReleased (withStore batch) g0 g && g.batches != [],
   (match (det retiring).grid? 0 with
    | some gr => Hdr.det gr.header && groupOf retiring fun g => g.batches = [] && g.state = .retiring
    | none => false)]

theorem test_witness_group_happenings : chkGroupHappenings.all id = true := by decide +kernel

/-- Witnesses for EngineHappenings. -/
def chkEngineHappenings : List Bool :=
  let at_ (s : State) (c : Cmd → Env → Bool) : Bool :=
    match cmdAt s 0 0 with
    | some (k, _) => (match cmdEnv s k with | some e => c k e | none => false)
    | none => false
  let one : Map (BitVec 1024) := [(0, blockedDesc 0 1 1 0x300000), (1, blockedDesc 1 1 1 0x310000)]
  let mxz := aCmd .mxz [23 * 2 ^ 16 + 15 * 2 ^ 24] []
  let mx := aCmd (.mx .i8 false) [15 * 2 ^ 24, 0, 0, 1] one
  let copy (base : Nat) : Cmd := aCmd .cpy [0, 0, 0] [(0, plainDesc 0 base 0), (1, plainDesc 0 0x310000 0), (2, plainDesc 0 base 0)]
  let mxd (rows reads : Nat) : Cmd :=
    { aCmd (.mxd true) [0] [] with rows := List.replicate rows (List.replicate 32 0), reads := List.replicate 32 reads }
  let corner := squareDesc - BitVec.ofNat 1024 (31 * 2 ^ 384 + 31 * 2 ^ 448)
  let mxs := aCmd (.mxs true) [0, 0, 0, 0, 0, 5, 0, 0] [(1, corner)]
  let dlt (n : Nat) : Cmd := { aCmd .dlt [63 + 6 * 2 ^ 8] [(0, blockedDesc 0 16 32 0x300000), (1, blockedDesc 1 16 1 0x310000)] with progress := n }
  let with_ (c : Cmd) : State := withSlot 63 (withCmd c st)
  let zeroed : State := (with_ mxs).modCore 0 fun q => q.setTile 0 0 []
  [at_ (with_ { mxz with started := false }) fun c _ => canStart (with_ { mxz with started := false }) 0 c && c.kind != .dlt,
   at_ (with_ mxz) fun c _ => !canStart (with_ mxz) 0 c && c.started && c.kind = .mxz,
   at_ (with_ mx) fun c e => c.started && (c.quads.all fun q => !((with_ mx).core 0).accUe.contains (q * 24))
     && (match mxCols e c (blkBits c.block 3 0 9) (with_ mx) with
         | .ok (_, u) => (match engFold (mxRows e c (blkBits c.block 3 0 9)) u (List.range c.quads.length) with | .ok _ => true | _ => false)
         | _ => false),
   at_ (with_ (copy 0x300000)) fun c e => c.started && decide (e.gr.level < 2) &&
     (match cpyMove e 0 c (cpyCount (mapGet 0 c.descs 1)) (with_ (copy 0x300000)) with | .ok u => engReleased u c.id | _ => false),
   let unanswered : State := (with_ (copy 0x300000)).modTovor fun t => { t with outbound := [{ anOp st none with cmd := some 3 }] }
   at_ unanswered fun c e => c.started && decide (e.gr.level < 2) &&
     (match cpyMove e 0 c (cpyCount (mapGet 0 c.descs 1)) unanswered with | .ok u => !engReleased u c.id | _ => false),
   at_ (with_ { dlt 0 with started := false }) fun c _ => canStart (with_ { dlt 0 with started := false }) 0 c && c.kind = .dlt && c.progress = 0,
   at_ (with_ (copy (2 ^ 30))) fun c e => c.started &&
     (match cpyMove e 0 c (cpyCount (mapGet 0 c.descs 1)) (with_ (copy (2 ^ 30))) with | .error (.page _) => true | _ => false),
   at_ { with_ mx with cores := ((with_ mx).modCore 0 fun q => { q with accUe := [72] }).cores } fun c _ =>
     c.quads.any fun q => q * 24 = 72,
   !engReleased { with_ mx with tovor := { st.tovor with outbound := [{ anOp st none with cmd := some 3 }] } } 3,
   at_ (with_ (mxd 31 31)) fun c e => c.started && decide (c.rows.length < 32) && decide (c.rows.length < rowsFreed (with_ (mxd 31 31)) e c + 8)
     && (match engFold (drainElem e 0 c) (with_ (mxd 31 31)) ((List.range 32).map fun n => (c.rows.length, n)) with | .ok _ => true | _ => false),
   at_ (with_ (mxd 32 32)) fun c e => c.started && c.rows.length = 32 && rowsFreed (with_ (mxd 32 32)) e c = 32,
   at_ zeroed fun c e => c.started && decide (e.gr.level < 2)
     && (drainUntil e 0 c (mapGet 0 c.descs 1) zeroed (mxsPoints c 32)).2.2 = none,
   at_ (with_ (dlt 0)) fun c e => c.started && decide (e.gr.level < 2) && decide (c.progress < Slot.cols c.slotRec * Slot.kb c.slotRec)
     && (match blockStep (with_ (dlt 0)) e c 0 0 with | .ok _ => true | _ => false),
   at_ (with_ (dlt 1)) fun c e => c.started && engReleased (with_ (dlt 1)) c.id && c.progress = Slot.cols c.slotRec * Slot.kb c.slotRec
     && (match engFold (deliverTile e c.slotRec) (with_ (dlt 1)) (List.range (ceilDiv (Slot.rows c.slotRec) 32 * ceilDiv (Slot.cols c.slotRec) 32)) with
         | .ok _ => true
         | _ => false)]

theorem test_witness_engine_happenings : chkEngineHappenings.all id = true := by decide +kernel

/-- Witnesses for QueueHappenings. -/
def chkQueueHappenings : List Bool :=
  let q (f : Queue → Queue) : State := th.setQueue 11 63 (f { initQueue with enable := true, state := .active, log2 := 12, qbase := 0x310000 })
  let at_ (s : State) (c : Queue → Bool) : Bool := !noQueue s ⟨0, 11⟩ 63 && c (s.queue 11 63)
  let bell (s : State) (v : Word) : Bool := at_ s fun x => !queueHeld s x && x.state = .active && decide ((v - x.writeIdx).toNat < 2 ^ 31)
    && decide ((v - x.readIdx).toNat ≤ 2 ^ x.log2)
  let object : State := { th with mem := memSetBytes (memSetBytes th.mem (dramBase + 0x310000) (bytesOfNat 128 placedRecord.toNat))
                                    (dramBase + 0x100000) (bytesOfNat 128 placedHeader.toNat) }
  let due (s : State) : State :=
    s.setQueue 11 63 { initQueue with enable := true, state := .active, log2 := 12, qbase := 0x310000, writeIdx := 1 }
  let known : State := (due object).modCtx 0 fun c => { c with code := [{ addr := 0x100000, len := 192, measure := 0, stale := false, lines := [] }] }
  let wait : State := (due object).modQueue 11 63 fun x => { x with head := some (placedRecord ||| BitVec.ofNat 1024 (2 ^ 357 + 0x320000 * 2 ^ 384 + 2 ^ 448)) }
  let head (s : State) (c : State → BitVec 1024 → Bool) : Bool := at_ s fun x =>
    (x.state = .active || x.state = .headWait) && !x.held && x.writeIdx != x.readIdx && decide (x.inflight < 8)
      && (s.ctx x.ctx).state != .free && (s.ctx x.ctx).state != .resetting
      && (match headRecord s x with | (w, some r) => c w r | _ => false)
  let held := withHart (fun h => { h with status := .blocked, wait := .launch 11 63 placedRecord }) (due st)
  let held' : State := held.modQueue 11 63 fun x => { x with launchOk := true }
  let lost : State := (due object).modQueue 11 63 fun x => { x with head := some (placedRecord ||| BitVec.ofNat 1024 (2 ^ 357 + 2 ^ 40 * 2 ^ 384)) }
  let waitsAre (w : State) (r : BitVec 1024) (all : Bool) : Bool :=
    match readWaits 0 r [] w (List.range (Rec.nwaits r)) with
    | .known _ met => ((List.range (Rec.nwaits r)).all met.contains) == all
    | _ => false
  [bell (q id) 4096, !bell (q id) 4097, at_ (q fun x => { x with held := true }) fun x => x.held, noQueue th ⟨5, 11⟩ 63, noQueue th ⟨0, 12⟩ 0,
   let resetting : State := (q id).modCtx 0 fun c => { c with ctl := c.ctl ||| BitVec.ofNat 512 (5 * 2 ^ 62 + 11 * 2 ^ 54), state := .resetting }
   !noQueue resetting ⟨5, 11⟩ 63 && !queueHeld resetting (resetting.queue 11 63) && (resetting.ctx (resetting.queue 11 63).ctx).state = .resetting,
   !hostBusy (q id), hostBusy ((q id).modTovor fun t => { t with posted := [.queue ⟨0, 11⟩ 63 (.doorbell 1)] }),
   at_ th fun x => !queueHeld th x && x.state = .disabled, at_ (q id) fun x => !queueHeld (q id) x && x.enable,
   at_ (q id) fun x => x.state != .disabled, at_ (q fun x => { x with state := .draining }) fun x => x.state = .draining,
   head (due th) fun _ r => !recordOk r,
   head wait fun w r => recordOk r && waitsAre w r false,
   head lost fun w r => recordOk r && (readWaits 0 r [] w (List.range (Rec.nwaits r)) matches .fault _),
   head known fun w r => recordOk r && waitsAre w r true && (match judgeRecord w 0 r with | (_, .ok _) => true | _ => false),
   head (due object) fun w r => recordOk r && waitsAre w r true && (match judgeRecord w 0 r with | (_, .error _) => true | _ => false),
   at_ ((due th).modQueue 11 63 fun x => { x with qbase := BitVec.ofNat 64 (2 ^ 40) }) fun x =>
     (headRecord ((due th).modQueue 11 63 fun x => { x with qbase := BitVec.ofNat 64 (2 ^ 40) }) x).2.isNone,
   groupOf held' fun g => held'.groupLive g && !g.isEvicting && hartOf held' s0 (fun h => h.wait = .launch 11 63 placedRecord && h.status = .blocked)
     && !(held'.queue 11 63).full && (held'.queue 11 63).launchable g.ctx && (appendRecord held' g.ctx 11 63 placedRecord).isSome]

theorem test_witness_queue_happenings : chkQueueHappenings.all id = true := by decide +kernel

def ctxIn (f : Ctx → Ctx) : State := th.modCtx 0 f

/-- Witnesses for ContextRegisters. -/
def chkContextRegisters : List Bool :=
  let free : State := { State.reset with tovor := { State.reset.tovor with active := placedParts } }
  let ready : State := free.modCtx 7 fun c => { c with ctl := BitVec.ofNat 512 (4 * 2 ^ 128) }
  let two : State := (ctxIn fun c => { c with sliceAt := some (0, 0) }).setCtx 1 { placedCtx with state := .saved }
  let due : State := { two with refNs := 5000 }.modCtx 0 fun c => { c with sliceAt := some (0, 5) }
  let is (c : Ctx) (x : CState) : Bool := c.state = x
  let other : BitVec 512 := 2 ^ 256
  [ready.tovor.released && !createDenied ready 7, createDenied th 0, is ((ctxIn fun c => { c with state := .idle }).ctx 0) .idle,
   is (th.ctx 0) .running, is (th.ctx 1) .free, is ((ctxIn fun c => { c with state := .saved }).ctx 0) .saved,
   (other &&& ctlMask ^^^ (th.ctx 0).ctl) &&& ~~~timerMask != 0,
   (due.ctx 0).sliceAt = some (0, 5) && is (due.ctx 0) .running && decide (0 + 5 * 1000 ≤ due.refNs) && turnWanted due 0]

theorem test_witness_context_registers : chkContextRegisters.all id = true := by decide +kernel

/-- Witnesses for ContextSequences. Whether a command meets an event behind the element that it has reached is a free value (log 27). -/
def chkContextSequences : List Bool :=
  let resetting (held : Bool) (t : Nat) : State := { ctxIn fun c => { c with state := .resetting, reset := some { start := 0, cause := .contextKill, queuesHeld := held } } with refNs := t }
  let saving := withGroup (fun g => { g with state := .halted }) (ctxIn fun c => { c with state := .saving })
  let away : State := (ctxIn fun c => { c with state := .saved }).modGroup g0 fun g =>
    { g with state := .halted, image := some { pieces := [(0x400000, 1)], bytes := [0], writing := false } }
  let far : State := { away with tovor := { away.tovor with active := resetPart } }
  [((resetting true 20000).ctx 0).reset.any (fun r => r.queuesHeld && decide (r.start + 20000 ≤ 20000)),
   ((resetting true 19999).ctx 0).reset.any (fun r => decide (19999 < r.start + 20000)),
   (({ resetting false 0 with grids := [] } : State).ctx 0).reset.any (fun r => !r.queuesHeld),
   ({ resetting true 20000 with grids := [] } : State).grids = [], (resetting true 20000).grids.any fun p => p.2.ctx = 0,
   (saving.ctx 0).state = .saving && saving.groups.all (fun p => p.2.ctx = 0 && saveReady saving p.1 p.2)
     && (match saveFault saving (savedKeys saving 0) with | .ok _ => true | .error _ => false) && (moveCmds saving (cmdsToMove saving (savedKeys saving 0))).2,
   (let hurt : State := withHart (fun h => { h with fault := some .xregUe }) saving
    (match saveFault hurt (savedKeys hurt 0) with | .error _ => true | .ok _ => false) && hurt.groups.all fun p => saveReady hurt p.1 p.2),
   (away.ctx 0).state = .saved && (restored away 0).isSome && hasTurn away (away.ctx 0).part 0 && away.ctxs.all fun x => x.1 = 0 || x.2.state != .saved,
   (far.ctx 0).state = .saved && (restored far 0).isNone]

theorem test_witness_context_sequences : chkContextSequences.all id = true := by decide +kernel

/-- A code object of a header alone, its digest in its place (15 R323). -/
def anObject : List Byte :=
  let h := bytesOfNat 128 placedHeader.toNat ++ List.replicate 64 0
  h.take 80 ++ sha384 (h.take 80 ++ List.replicate 48 0 ++ h.drop 128) ++ h.drop 128

def mail (args : Nat) : MailArgs := { tag := 5, args := BitVec.ofNat 448 args }

/-- Witnesses for MailboxCommands. -/
def chkMailbox : List Bool :=
  let ok (s : State) (m : MailArgs) (used : Nat) : Bool :=
    s.tovor.released && field s.tovor.response 0 8 != 0xFF && m.args &&& ~~~BitVec.ofNat 448 used = 0
  let wide : PartSet := { resetPart with parts := BitVec.ofNat 128 (3 + 2 ^ 56) :: List.replicate 11 0 }
  let r : State := { State.reset with tovor := { State.reset.tovor with active := wide } }
  let formed : State := r.setPair 0 { initPair with formed := true }
  let set_ : State := { State.reset with mem := memSetBytes [] (dramBase + 192) ((List.replicate 96 [0xFF, 0]).flatten) }
  let object (bs : List Byte) : State := { th with mem := memSetBytes th.mem (dramBase + 0x100000) bs }
  let reg (s : State) (match_ : Bool) : Bool :=
    match readRecord (s.modTovor fun t => { t with request := requestBits 4 (mail (0x100000 * 2 ^ 64)) }) 0 0x100000 with
    | (v, some h) => decide (128 ≤ Hdr.totalLen h) && (match readObject v 0 0x100000 (Hdr.totalLen h) with
      | (_, some (_, bs)) => (sha384 (bs.take 80 ++ List.replicate 48 0 ++ bs.drop 128) = (bs.drop 80).take 48) = match_
      | _ => false)
    | _ => false
  let stepping : State := r.modTovor fun t => { t with stepTo := some true }
  let forming : State := r.setPair 0 { initPair with formed := true, forming := true }
  let faulted : State := r.modTovor fun t => { t with faultSeq := some 9 }
  [ok r (mail 0) 7 && r.partOf 0 = some 0 && r.partOf 1 = some 0 && !(r.pair 0).formed && r.retiredPairs = [] && !pairBusy r 0 && r.tovor.stepTo = none,
   stepping.tovor.stepTo = some true, forming.pairs.any fun p => p.2.forming, r.pairs = [],
   ok formed (mail 0) 7 && (formed.pair 0).formed && !pairBusy formed 0,
   ok set_ (mail 0) (2 ^ 64 - 1) && (match readPf set_ 0 384 with | (t, some v) => setOk t (setOf v) | _ => false) && set_.tovor.waiting = none,
   (match readPf r 0 384 with | (t, some v) => !setOk t (setOf v) | _ => true),
   ok (object anObject) (mail (0x100000 * 2 ^ 64)) ((2 ^ 10 - 1) + (2 ^ 64 - 1) * 2 ^ 64) && reg (object anObject) true,
   reg (object (bytesOfNat 128 placedHeader.toNat)) false,
   ok formed (mail (2 ^ 8 * 2 ^ 32 + 2 ^ 64)) (0x1F + (2 ^ 64 - 1) * 2 ^ 32) && (formed.pair 0).formed && (formed.pair 0).inj = none,
   ok th (mail (2 ^ 8 * 2 ^ 32 + 2 ^ 64)) (0x1F + (2 ^ 64 - 1) * 2 ^ 32) && !(th.pair 0).formed,
   ok formed (mail (3 * 2 ^ 3 + 2 ^ 64)) (0x1F + (2 ^ 64 - 1) * 2 ^ 32), ok formed (mail 0) (0x1F + (2 ^ 64 - 1) * 2 ^ 32),
   ok faulted (mail 9) (2 ^ 24 - 1) && faulted.tovor.faultSeq = some 9, ok r (mail 9) (2 ^ 24 - 1) && r.tovor.faultSeq != some 9,
   ok r (mail (7 * 2 ^ 4)) (2 ^ 13 - 1) && decide (mailArg (mail (7 * 2 ^ 4)) 4 9 < 8), ok r (mail (511 * 2 ^ 4 + 1)) (2 ^ 13 - 1),
   ok r (mail (8 * 2 ^ 4)) (2 ^ 13 - 1), ok r (mail 2) (2 ^ 13 - 1), ok r (mail 1) 1, ok r (mail 0) 1,
   ok r (mail (4096 + 7 * 2 ^ 64)) (2 ^ 68 - 1), ok r (mail (4096 + 6 * 2 ^ 64)) (2 ^ 68 - 1), ok r (mail (1 + 7 * 2 ^ 64)) (2 ^ 68 - 1),
   ok r (mail (64 * 2 ^ 256 + 1023 * 2 ^ 320)) (2 ^ 330 - 1)
     && decide (mailArg (mail (64 * 2 ^ 256 + 1023 * 2 ^ 320)) 256 64 + (attestBytes r 0 none).length ≤ dramBytes),
   usedBits 0x0C = none, usedBits 0 = none, ¬ (mail 8).args &&& ~~~BitVec.ofNat 448 7 = 0,
   field (set_.modTovor fun t => { t with response := 0xFF }).tovor.response 0 8 = 0xFF,
   ({ r with tovor := { r.tovor with waiting := some (wide, 3) } } : State).tovor.waiting.isSome, r.tovor.waiting = none,
   r.tovor.ports.all fun p => !NetCtl.enabled p.ctl]

theorem test_witness_mailbox_commands : chkMailbox.all id = true := by decide +kernel

/-- Witnesses for RedundancyHappenings. -/
def chkRedundancy : List Bool :=
  let d (x y : Nat) : Dup := { row := 0, first := [x], second := [y] }
  let rec_ (x y : Nat) : State := st.modCore 0 fun c => { c with records := [(s0, d x y)] }
  let silent : State := { (rec_ 1 1).setPair 0 { initPair with formed := true, silent := true } with cycles := [(0, 64)] }
  let armed (n : Nat) : State := (st.modCore 0 fun c => { c with records := [(s0, { d 1 1 with row := 1 })] }).setPair 0
    { initPair with formed := true, inj := some { kind := 0, mask := 1, count := n } }
  let lost : State := { st.modCore 0 fun c => { c with records := [(s0, { d 1 1 with lost := true, met := true })] } with cycles := [(0, 72)] }
  let late : State := { (rec_ 1 1).setPair 0 { initPair with formed := true } with cycles := [(0, 64)] }
  let met (n : Nat) : Bool := ((armed n).core 0).records.all (fun p => !p.2.met) && ((armed n).pair 0).inj.any (fun i => injectRow i.kind = 1 && i.count = n)
    && !((armed n).pair 0).silent
  let clone (x y : Nat) := withHart (fun h => { h with dup := some (d x y) }) st
  let clonable (s : State) : Bool := groupOf s fun g => s.groupLive g && hartOf s s0 fun h => h.dup.any fun d => d.row = 0 && !d.agreed && !d.queued
  let entry : Replay := { quad := 0, cycle := 0, pc := 0, refs := [t0] }
  let replay (n : Nat) : State := { (withHart (fun h => { h with dup := some { d 1 1 with queued := true } }) th).modCore 0 fun c =>
    { c with replay := [entry] } with cycles := [(0, n)] }
  let roll := withGroup (fun g => { g with rollback := true, state := .halted }) th
  [((rec_ 1 1).core 0).records = [(s0, d 1 1)] && !((rec_ 1 1).pair 0).silent && ((rec_ 1 1).pair 0).inj = none,
   ((rec_ 1 2).core 0).records = [(s0, d 1 2)] && (d 1 2).first != (d 1 2).second, (st.core 0).records = [],
   ((meetRecord 0 (rec_ 1 2) 0).core 0).records = [(s0, { d 1 2 with met := true })],
   met 1, met 2, ((meetRecord 0 silent 0).core 0).records = [(s0, d 1 1)], ((meetRecord 0 lost 0).core 0).records.all fun p => p.2.lost && p.2.met,
   (waitingRecord lost 0).isSome, (waitingRecord late 0).isSome, (waitingRecord st 0).isNone,
   (waitingRecord silent 0).isSome && (silent.pair 0).silent, clonable (clone 1 1), clonable (clone 1 2),
   (replaysOf (replay 1) 0 0).head? = some entry && decide (entry.cycle < (replay 1).clusterCycles 0) && cloneLanesFree (replay 1) 0 entry,
   (replaysOf (replay 0) 0 0).head? = some entry && decide ((replay 0).clusterCycles 0 ≤ entry.cycle),
   groupOf roll fun g => roll.peers g0 = [g0] && g.rollback && g.state != .killed && (roll.ctx g.ctx).state = .running
     && g.halting = none && g.resultsBack roll && g.harts.any fun p => p.2.status != .exited,
   (let saving := roll.modCtx 0 fun c => { c with state := .saving }
    groupOf saving fun g => g.rollback && (saving.ctx g.ctx).state != .running),
   hartOf th t0 fun h => h.status != .exited, th.tovor.poison = [], mapFind th.tovor.latent (errUnit 64) != some false,
   mapFind (th.modTovor fun t => { t with latent := putError [] (errUnit 64) false }).tovor.latent (errUnit 64) = some false,
   groupOf th fun g => th.groupLive g]

theorem test_witness_redundancy_happenings : chkRedundancy.all id = true := by decide +kernel

/-- Witnesses for IntegrityEvents. -/
def chkIntegrity : List Bool :=
  let marked := withGroup (fun g => { g with mark := true }) th
  let second := withGroup (fun g => { g with state := .halted, mark := true, rollback := true
                                             event := some { cycle := 0, code := 0, seq := 0, report := 0 } }) th
  let fixed : State := { th with fixed := [(0, true)] }
  let due : State := { withGroup (fun g => { g with rollback := true, halting := some 12 }) th with cycles := [(0, 12)] }
  let ring (base : Nat) : State := th.modTovor fun t => { t with ring := some (base, 4) }
  let logged (size : Nat) : State := th.modTovor fun t => { t with block := { t.block with dlogSize := BitVec.ofNat _ size } }
  let logAt (s : State) : Nat := (s.ctx 0).logBase + 32 * ((s.ctx 0).logIdx.toNat % 2 ^ (s.ctx 0).logSize)
  let far : State := th.modCtx 0 fun c => { c with ctl := BitVec.ofNat 512 (2 ^ 512 - 1) }
  [groupOf th fun g => th.peers g0 = [g0] && !Cause.inContext .eccPoison && !Cause.ofCore .eccPoison && g.state = .resident && !g.mark && g.present
     && (th.ctx g.ctx).state = .running,
   groupOf fixed fun g => fixed.isFixed g.cluster && g.state = .resident && !g.mark && g.present,
   groupOf (withGroup (fun g => { g with state := .retiring }) th) fun g => g.state = .retiring && !g.mark && g.present,
   groupOf due fun g => g.rollback && g.halting = some 12 && due.clusterCycles g.cluster = 12,
   groupOf th fun g => g.harts.any fun p => p.2.status != .exited,
   Memory.wf th.mem, decide (logAt th + 32 ≤ dramBytes), decide (dramBytes < logAt far + 32),
   (logged 4).tovor.block.dlogSize.toNat = 4 && decide ((logged 4).tovor.block.dlogBase.toNat + 32 * ((logged 4).tovor.block.dlogIdx.toNat % 16) + 32 ≤ dramBytes),
   decide ((logged 3).tovor.block.dlogSize.toNat < 4),
   ((ring 0).tovor.ring = some (0, 4)) && decide (32 * ((ring 0).tovor.reportSeq.toNat % 16) + 32 ≤ dramBytes),
   groupOf th fun g => th.peers g0 = [g0] && !Cause.inContext .eccPoison && g.state = .resident && !g.mark,
   groupOf marked fun g => marked.peers g0 = [g0] && g.state = .resident && g.mark && !g.rollback,
   groupOf second fun g => second.peers g0 = [g0] && g.state = .halted && g.mark && g.rollback
     && (match g.event with | some d => d.cycle == second.clusterCycles g.cluster | none => false),
   Cause.inContext .accUe, Cause.ofCore .rdvUe && !Cause.inContext .rdvUe]

theorem test_witness_integrity_events : chkIntegrity.all id = true := by decide +kernel

/-- Witnesses for ClockAndPower. -/
def chkClock : List Bool :=
  let fixed : State := { State.reset with fixed := [(15, true)] }
  let trig : State := State.reset.modTovor fun t => { t with triggerAt := some 0, degraded := true }
  let up : State := { State.reset with tovor := { State.reset.tovor with active := placedParts } }
  [fixed.isFixed 15 && !(fixed.pair 7).formed && fixed.groups = [], !up.isFixed 0 && up.partOf 0 = some 0 && up.groups = [],
   th.groups.any fun p => p.2.cluster = 0 && th.occupies p.2,
   trig.tovor.triggerAt = some 0 && trig.tovor.degraded && !trig.tovor.clockAsked && decide (0 + 10000000 ≤ ({ trig with refNs := 10000000 } : State).refNs),
   decide (({ trig with refNs := 9999999 } : State).refNs < 0 + 10000000), Part.valid (up.part 0),
   (trig.modTovor fun t => { t with stepTo := some false }).tovor.stepTo = some false, State.reset.tovor.released,
   !(State.reset.modTovor fun t => { t with released := false }).tovor.released]

theorem test_witness_clock_and_power : chkClock.all id = true := by decide +kernel

/-- Witnesses for Translation. -/
def chkTranslation : List Bool :=
  let asked : State := ctxIn fun c => { c with invCmds := [(2, 0)] }
  let busy := withStore asked
  let hit : State := { th with tlb2 := [(0, [{ ctx := 0, page := 0, size := 65536, ipa := 0, pa := 0, attr := 0, perm1 := 7, perm2 := 7 }])] }
  let no1 : State := th.modCore 0 fun c => { c with tlb := [{ ctx := 0, page := 0, size := 65536, ipa := 0, pa := 0, attr := 0, perm1 := 1, perm2 := 7 }] }
  let no2 : State := th.modCore 0 fun c => { c with tlb := [{ ctx := 0, page := 0, size := 65536, ipa := 0, pa := 0, attr := 0, perm1 := 7, perm2 := 1 }] }
  let shared : State := recordWalk th 0 0 0x300000
  let mapped (s : State) : Bool := match walkBoth s 0 0x300000 with | .ok _ => true | _ => false
  let vf (x : CState) : Ctx := (ctxIn fun c => { c with ctl := c.ctl ||| BitVec.ofNat 512 (5 * 2 ^ 62), state := x }).ctx 0
  [(vf .running).func != 0 && (vf .running).state != .free, (vf .resetting).func != 0 && (vf .resetting).state = .resetting, (th.ctx 0).func = 0,
   th.tovor.released && (th.ctx 0).state != .resetting, (asked.ctx 0).invCmds = [(2, 0)] && accessesDone asked 0, (busy.ctx 0).invCmds != [] && !accessesDone busy 0,
   0 ∈ hit.partClusters (hit.ctx 0).part && tlbHit (hit.core 0).tlb 0 0 = none && (tlbHit (mapGet [] hit.tlb2 0) 0 0).isSome,
   tlbHit (th.core 0).tlb 0 0x300000 = none && tlbHit (mapGet [] th.tlb2 0) 0 0x300000 = none && mapped th && th.tovor.latent = [],
   (sharedWalk th 0 0 0x300000).isNone, cachedEntry shared 0 0 0x300000 = none
     && (match sharedWalk shared 0 0 0x30FFFF with | some w => (match w.result with | .inr (_, .inr _) => true | _ => false) | none => false),
   (match walkBoth th 0 (2 ^ 29) with | .error _ => true | _ => false),
   (match cachedEntry no1 0 0 0 with | some e => e.perm1 &&& needWrite.perm != needWrite.perm | _ => false),
   (match cachedEntry no2 0 0 0 with | some e => e.perm1 &&& needWrite.perm = needWrite.perm && e.perm2 &&& needWrite.perm != needWrite.perm | _ => false),
   cachedEntry th 0 0 0x300000 = none && (match walkBoth th 0 0x300000 with
     | .ok e => e.perm1 &&& needRead.perm = needRead.perm && e.perm2 &&& needRead.perm = needRead.perm && e.attr = 0 | _ => false),
   ((State.reset.ctx 0).s1Root = 0), ((ctxIn fun c => { c with state := .resetting }).ctx 0).state = .resetting,
   (let bare : State := { th with mem := memSetBytes th.mem (dramBase + 0x20000) (bytesOfNat 8 0x05) }
    cachedEntry bare 0 0 0 = none && sharedWalk bare 0 0 0x300000 = none && (match stage1Walk bare (bare.ctx 0) 0x300000 with
      | .ok l1 => l1.perm &&& needWrite.perm != needWrite.perm
      | _ => false)),
   (match stage1Walk th (th.ctx 0) 0x300000 with
    | .ok l1 => (match stage2Walk th (th.ctx 0).s2Root (l1.base + 0x300000 % l1.size) with
      | .ok l2 => (l1.size = 2 ^ 16 || l1.size = 2 ^ 29) && (l2.size = 2 ^ 16 || l2.size = 2 ^ 29) && l1.base % l1.size = 0
      | _ => false)
    | _ => false),
   (match stage1Walk State.reset (State.reset.ctx 0) 0 with | .ok _ => false | _ => true)]

theorem test_witness_translation : chkTranslation.all id = true := by decide +kernel

/-- Witnesses for MemoryIntegrity. -/
def chkMemoryIntegrity : List Bool :=
  let last : Nat := dramBytes / 64 - 1
  let latent (ok : Bool) : State := State.reset.modTovor fun t => { t with latent := [(8 * last, ok)] }
  let spare (n : Nat) : State := State.reset.modTovor fun t => { t with spares := [(9, { entry := none, copy := some (5, n) })] }
  [State.reset.tovor.released && !(State.reset.modTovor fun t => { t with released := false }).tovor.released,
   decide (64 * last < dramBytes) && (State.reset.channel (blockChannel last)).patrolEn && mapFind State.reset.tovor.latent (8 * last) = none,
   (State.reset.channel (blockChannel last)).seen = [],
   mapFind (latent true).tovor.latent (8 * last) = some true, mapFind (latent false).tovor.latent (8 * last) = some false
     && decide ((latent false).tovor.block.dlogSize.toNat < 4),
   (State.reset.channel 31).patrolEn, mapFind (spare 30).tovor.spares 9 = some { entry := none, copy := some (5, 30) },
   mapFind (spare 31).tovor.spares 9 = some { entry := none, copy := some (5, 31) }, mapFind State.reset.tovor.spares 9 = none,
   (latent false).tovor.ring = none && (8 * last, false) ∈ (latent false).tovor.latent,
   (latent false).tovor.badCopies = [] && (latent false).tovor.poison = [], decide (scrBase < coreBase) && decide (coreBase < hostBase),
   isCorePad coreBase && ((State.reset.modTovor fun t => { t with poison := [coreBase / 64] }).tovor.poison = [coreBase / 64]),
   ((latent false).modTovor fun t => { t with poison := [last] }).tovor.poison = [last]]

theorem test_witness_patrol_visited :
    (let k := blockChannel 0; 0 ∈ ((markSeen State.reset k 0).channel k).seen) := by
  simp [markSeen, State.channel, State.modTovor, State.reset, resetTovor, mapGet, mapPut, mapFind]

theorem test_witness_memory_integrity : chkMemoryIntegrity.all id = true := by decide +kernel

/-- Witnesses for LinkHappenings. -/
def chkLinks : List Bool :=
  let op (addr : Nat) : LinkOp := { link := 1, ctx := 0, peer := 3, chip := false, addr := addr, kind := .read 8 }
  let bound : State := th.modTovor fun t => { t with bindings := [(1024, BitVec.ofNat 128 (3 * 2 ^ 64 + 2 ^ 80))] }
  let aSignal : OutOp := { link := 0, ctx := 0, who := none, chip := false, addr := 0, kind := .signal, dst := none, sent := 0 }
  let sent (t : Nat) : State := { th with refNs := t }.modTovor fun v => { v with outbound := [aSignal] }
  let twice (t : Nat) : State := { th with refNs := t }.modTovor fun v => { v with outbound := [aSignal, aSignal] }
  let body : List Byte := List.replicate 60 1
  let frame := body ++ bytesOfNat 4 (fcs body)
  let on : BitVec 64 := BitVec.ofNat 64 (1 + 4 * 2 ^ 24)
  let port (v : BitVec 64) : State := th.modTovor fun t => { t with ports := List.replicate 4 { ctl := v, frames := 0, bad := 0 } }
  let base := ringBase (port on) on
  let room (n : Nat) : State := { port on with mem := memSetBytes (port on).mem base (bytesOfNat 8 n) }
  let at_ (off : Nat) : Nat := windowAddr th 0 off
  let places (off : Nat) (need : Need) : Option (List Loc) := bytePlaces (walkRange th 0 (at_ off) 4 need) 0 (at_ off) need 4
  let swap : State := { th with mem := memSetBytes th.mem (dramBase + 0x300000) (bytesOfNat 8 5) }
  let vf : State := ctxIn fun c => { c with state := .resetting, ctl := c.ctl ||| BitVec.ofNat 512 (7 * 2 ^ 62) }
  [th.tovor.released && windowCtx th 0 = some 0 && (th.ctx 0).state != .resetting
     && (match places (2 ^ 28) needRead with
       | some ls => (meetAll 0 th (flatPlaces ls)).2 && ls.all (fun l => match l with | .flat .. => true | .peer .. => false)
       | none => false),
   (places (2 ^ 29 - 4) needWrite).isSome, (places (2 ^ 32 - 4) needRead).isNone,
   !(meetAll 0 (th.modTovor fun t => { t with poison := [1] }) [64]).2,
   (peerRuns [.peer 0 false 64, .peer 0 false 65, .flat 9 false, .peer 0 false 66] 0).map PeerRun.len = [2, 1],
   (match walked swap 0 (windowAddr swap 0 0x300000) needAtomic with
     | (v, .ok (.flat a _)) => (meetMemory v 0 a).2 = none && memNat v.mem a 8 = 5 | _ => false),
   (match exec (.hostWindowWrite 0 0x300000 (.fetchAdd 8 3)) swap with | .next u => memNat u.mem (dramBase + 0x300000) 8 = 8 | _ => false),
   (match exec (.hostWindowWrite 0 0x300000 (.cas 8 4 9)) swap with | .next u => memNat u.mem (dramBase + 0x300000) 8 = 5 | _ => false),
   (vf.ctx 0).state = .resetting && windowCtx vf 7 = some 0 && funcResets vf 7, !funcResets th 0 && funcReaches th 0 0 && !funcReaches th 3 0,
   (match exec (.registerWrite (.miCtl 31 (2 ^ 16 + 7))) th with | .next u => (u.channel 31).patrolEn && (u.channel 31).passMs = 7 | _ => false),
   windowCtx State.reset 512 = none && readWord State.reset 512 0 = 0,
   (bound.tovor.linkUp.getD 1 false && flag (bound.binding 1 0) 80 && field (bound.binding 1 0) 64 10 = 3 && (inboundPlace bound (op 0x300000)).2.isSome),
   (inboundPlace bound (op (2 ^ 40))).2.isNone, (op 0).kind != .abort && ({ op 0 with kind := .abort } : LinkOp).kind = .abort,
   th.tovor.linkUp.getD 1 false && !flag (th.binding 1 0) 80] ++ [
   ((sent 0).tovor.outbound[0]?).isSome && (sent 0).tovor.linkUp.getD 0 false && (match (sent 0).tovor.outbound[0]? with
     | some o => !orderedBehind (sent 0) 0 o && decide (o.sent + 10000 ≤ (sent 10000).refNs) | none => false),
   !hostBusy th, hostBusy (th.modTovor fun t => { t with outbound := [{ aSignal with win := some .write }] }), th.tovor.posted.isEmpty,
   (postHost th (.queue ⟨0, 0⟩ 0 (.doorbell 1))).tovor.posted == [.queue ⟨0, 0⟩ 0 (.doorbell 1)] && (postHost th (.queue ⟨0, 0⟩ 0 (.doorbell 1))).tovor.outbound.isEmpty,
   decide (aSignal.sent + 10000 < (sent 10001).refNs), (ringIndices (port on) base).2.isSome,
   (ringIndices ((port on).modTovor fun t => { t with latent := [(errUnit base, false)] }) base).2.isNone,
   (meetShared (port on) none (base + 8)).2.isNone,
   (meetShared ((port on).modTovor fun t => { t with badCopies := [base / 8 + 1] }) none base).2.isNone
     && (meetShared ((port on).modTovor fun t => { t with badCopies := [base / 8 + 1] }) none (base + 8)).2.isSome,
   ({ aSignal with va := some 8 } : OutOp).who = none && aSignal.win = none, (meetShared (port on) none (base + 16)).2.isNone, (meetShared ((port on).modTovor fun t => { t with poison := [base / 64] }) none (base + 16)).2.isSome,
   th.tovor.linkUp.length = 2, orderedBehind (twice 0) 1 { aSignal with addr := 0 }, decide ((sent 9999).refNs < 0 + 10000),
   (match exec (.linkDown 0) (sent 0) with | .next u => u.tovor.linkUp = [false, true] && u.tovor.outbound = [] | _ => false),
   ({ aSignal with who := some t0 } : OutOp).win = none && (th.hart? t0).isSome, !ringOk th (BitVec.ofNat 64 1),
   NetCtl.enabled on && frameOk frame && !frameOk body, (port on).tovor.ports[3]?.isSome,
   decide ((memNat (room 15).mem base 8 + 2 ^ 64 - memNat (room 15).mem (base + 8) 8) % 2 ^ 64 < 2 ^ NetCtl.log2 on),
   decide (2 ^ NetCtl.log2 on ≤ (memNat (room 16).mem base 8 + 2 ^ 64 - memNat (room 16).mem (base + 8) 8) % 2 ^ 64), !NetCtl.enabled 0]

theorem test_witness_link_happenings : chkLinks.all id = true := by decide +kernel

/-- Witnesses for StepRunsTheDecodedInstruction. -/
def chkStep : List Bool :=
  -- The word of ADD.N32 X5, X6, -1 (10 R225), where the next step fetches.
  let s := State.reset.withFetchWord 96 0xFFFFFFFF_00004906_05101C08
  let u : State := { passTime exec { s with agenda := [] } 0 [] 0 with cur := t0 }
  let at_ (va : Nat) : Option Nat := match translate u 0 0 va needFetch with | .ok (.flat a _) => some a | _ => none
  -- Two stewards of a core, the first of which issued later.
  let two : State := (u.modHart s0 fun h => { h with lastIssue := some 5 }).modGroup g0 id
  let two : State := { two with groups := two.groups ++ u.groups.map fun p => (p.1 + 1, p.2) }
  let bad := State.reset.withFetchWord 96 0x00000000_00000001_00E01C08
  -- The end of a command stands behind an issue of its cycle, and is taken first.
  let ends (w : TurnOf) : Turn := { cycles := 0, ns := 0, what := w }
  let late : State := { withCmd { aCmd .cpy [] [] with progress := 1 } u with agenda := [ends (.event (.cpyComplete 0 0))] }
  [s.agenda = [{ cycles := 0, ns := 0, what := .issue t0 }] && overtaker exec u (.issue t0) [] = none,
   overtaker exec u (.issue t0) [ends (.issue s0)] = none, (sameCycleTurns late (.issue t0) late.agenda).length = 1,
   overtakes exec late (.event (.cpyComplete 0 0)) (.issue t0), !overtakes exec late (.issue t0) (.event (.cpyComplete 0 0)),
   firstEvent exec State.reset (ownEvents State.reset) = none && issuers exec State.reset = [] && State.reset.agenda = [],
   s.agenda = [{ cycles := 0, ns := 0, what := .issue t0 }],
   (match envOf u t0 with
    | some e => (takePort exec u e).isSome && (coreWalk u 0 0 0x100080).mem = u.mem && !e.g.tainted && e.h.fault = none && !breaks u e && e.h.pc.toNat % 4 = 0
        && decide (e.h.pc.toNat + 12 ≤ (streamOf e).2)
        && (let va := (Rec.code e.gr.record + (streamOf e).1 + e.h.pc.toNat) % 2 ^ 48
            (match at_ va, at_ (va + 4), at_ (va + 8) with
             | some a0, some a1, some a2 =>
               (meetMemory u 0 a0).2 = none && (meetMemory u 0 a1).2 = none && (meetMemory u 0 a2).2 = none
                 && BitVec.ofNat 96 (natOfBytes (memBytes u.mem a0 4 ++ memBytes u.mem a1 4 ++ memBytes u.mem a2 4)) = 0xFFFFFFFF_00004906_05101C08#96
             | _, _, _ => false))
    | none => false),
   (match decode 0xFFFFFFFF_00004906_05101C08#96 with | .ok _ => true | _ => false),
   (match decode 0x00000000_00000001_00E01C08#96 with | .error _ => bad.agenda != [] | _ => false),
   (envOf { u with groups := [] } t0).isNone, encode? .slotSetSwitch = none,
   (match envOf two s0 with | some e => (takePort exec two e).isNone | none => false),
   (let hurt := withHart (fun h => { h with fault := some .xregUe }) u
    match envOf hurt t0 with | some e => (takePort exec hurt e).isSome && e.h.fault.isSome | none => false),
   (let rewritten := withGroup (fun g => { g with tainted := true }) u
    match envOf rewritten t0 with | some e => e.g.tainted && !breaks rewritten e | none => false)]

theorem test_witness_step : chkStep.all id = true := by decide +kernel

/-- Witnesses for RegisterFrame, MemoryFrame, DecodeOfEncode, MemoryKept. -/
def chkFrames : List Bool :=
  [Memory.wf th.mem, Memory.wf [(memTop - 1, 7)], mapFind th.tovor.latent 0 = none && th.tovor.badCopies = [], (th.core 0).l1 = [],
   (envOf th t0).any (fun e => e.det = false), th.tovor.latent = [],
   (let behind : OrdEntry := { space := 0, addr := 0x2FFFF9, size := 8, mask := 0xFF, kind := .inr 0, flat := 0x2FFFF9, peer := none, dst := none
                               words := 1, lane := 0, pc := 0, region := 0, rng := 0 }
    -- One byte, the last of the ordered access, is shared.
    groupOf th fun g => hartOf (withHart (fun h => { h with ord := [behind] }) th) t0 fun h =>
      g.pendingOrd t0.who h = [behind] && aStore.act.meets behind.peer behind.flat 8 && !aStore.act.meets behind.peer behind.flat 7),
   (groupOf th fun g => hartOf th t0 fun h => g.pendingOrd t0.who h = []),
   (let r := performAtomic th 0 (.cas 4 1 2) (memTop - 4) true { lane := 0, pc := 0 }
    !(AtomKind.cas 4 1 2).writes r.2 && (AtomKind.cas 4 r.2 2).writes r.2),
   (match step State.reset with | .next _ => true | _ => false),
   (match encode? (.add { formOf rowAdd false with ty := .n32 }) with | some _ => Instr.wellFormed (.add { formOf rowAdd false with ty := .n32 }) | none => false)]

theorem test_witness_frames_and_encoding : chkFrames.all id = true := by decide +kernel

/-! ## Operations -/
def chkOperations : List Bool :=
  let nanTag : NanTag := { lane := 0, pc := 0 }
  let x (t : Nat) (c : Nat) : Arrival := { tid := t, b := 7, c := c, p := true, form := frm rowRshfl }
  let i (opc op2 : Nat) : Rdv := { set := 1, opc := opc, ty := .n32, sub := 0, op2 := op2, mask := 2 ^ 63 + 1, arrivals := [x 64 0, x 127 63] }
  let drains : State :=
    withCmd { aCmd (.mxd false) [0] [] with rows := [List.replicate 32 0] } { th with cycles := [(0, 1)] }
  let beyond (s : State) (row : OpRow) (f : Form) (n : Env → Nat) : Bool :=
    match envOf s s.cur with
    | some e => e.h.fault = none && decodeTrap s e row f = none && !e.h.pendingPred f.guard.val && e.h.pred f.guard.val != f.gneg
        && hazardWith e row f {} = none && f.a != .drain && decide (n e ≤ e.A s row f)
    | none => false
  [(i 0x211 0).complete, (i 0x211 0).arrivals.all fun a => a.tid / 64 = 1 && (i 0x211 0).mask.toNat.testBit (a.tid % 64),
   tySigned (i 0x213 0).ty = false && (i 0x213 0).ty != .f32, { i 0x213 2 with ty := .f32 }.complete,
   -- RSCAN, with .EXCL and without, at the first member and the second; the signed types.
   rdvValue (i 0x214 0) nanTag (x 64 0) = 7 && rdvValue (i 0x214 0) nanTag (x 127 63) = 14,
   rdvValue (i 0x214 8) nanTag (x 64 0) = 0 && rdvValue (i 0x214 8) nanTag (x 127 63) = 7,
   rdvValue { i 0x214 9 with ty := .i32 } nanTag (x 64 0) = 0x7FFFFFFF && rdvValue { i 0x214 10 with ty := .f32 } nanTag (x 64 0) = 0xFF800000,
   rdvValue { i 0x213 2 with ty := .i32, arrivals := [{ x 64 0 with b := 0xFFFFFFFF }, x 127 63] } nanTag (x 64 0) = 7,
   rdvValue (i 0x213 5) nanTag (x 64 0) = 0,
   decide (fF32.mag 0x7F800000 ≤ fF32.infBits) && fF32.isInf 0xFF800000 && fF32.isNan 0x7FC00000 && fF32.isZero 0x80000000,
   fF16.isInf 0x7C00 && !fF16.isInf 0 && !fF32.isZero 1 && fF32.isInf 0x7F800000 && !fF32.sign 0x7F800000 && fF32.sign 0xFF800000,
   decide (0 < fF32.mag 1) && decide (fF32.mag 1 < 2 ^ fF32.fbits) && decide (2 ^ fF32.fbits ≤ fF32.mag 0x00800000),
   decide (tyMin .n8 ≤ 0) && decide (0 ≤ tyMax .n8) && fF16 != fF32 && fF32 != fBF16, decide (0 < fF16.mag 1) && decide (fF16.mag 0x7BFF < fF16.infBits), fBF16.mag 0x7F7F < fBF16.infBits,
   decide (accValue 0 = some 0), accValue (accAdd 0 (-536870400)) = some (-536870400), accValue (accAdd 0 536870399) = some 536870399,
   Memory.wf [(0, 1)] && decide (memTop - 8 + 8 ≤ memTop),
   usesDrain { frm rowPsetBulk with a := .drain } && runs drains rowPsetBulk { frm rowPsetBulk with a := .drain },
   usesDrain { frm rowXput with b := .drain } && runs drains rowXput { frm rowXput with b := .drain },
   runs (withReg 20 127 th) rowPsetBulk (frm rowPsetBulk) fun e _ => !usesDrain (frm rowPsetBulk) && (List.range 7).all fun k => !e.h.pendingPred k,
   runs th rowPget (frm rowPget) fun e _ => (List.range 7).all fun k => !e.h.pendingPred k,
   runs (withReg 16 63 th) rowXget (frm rowXget) fun e s => e.A s rowXget (frm rowXget) + 1 = e.xregs && !e.h.pendingReg 63 && e.h.dead = [],
   beyond (withReg 16 64 th) rowXget (frm rowXget) Env.xregs, beyond (withReg 16 64 th) rowXput (frm rowXput) Env.xregs,
   runs (withReg 16 127 st) rowGget (sfrm rowGget) fun e s => e.A s rowGget (sfrm rowGget) + 1 = 128 && !e.h.pendingReg 127,
   beyond (withReg 16 128 st) rowGget (sfrm rowGget) fun _ => 128, beyond (withReg 16 128 st) rowGput (sfrm rowGput) fun _ => 128,
   runs (withReg 16 62 th) rowXput { frm rowXput with ty := .i64 } fun e s => e.A s rowXput { frm rowXput with ty := .i64 } + 2 = e.xregs,
   runs (withReg 16 127 st) rowGput (sfrm rowGput) fun e s => e.A s rowGput (sfrm rowGput) + 1 = 128]

theorem test_witness_operations : chkOperations.all id = true := by decide +kernel

/-! ## Words of the manual and their instructions -/

/-- The bytes of a word from the lowest address. -/
def bytesAre (w : IWord) (bs : List Nat) : Bool := wordBytes w = bs.map (BitVec.ofNat 8)

def zeroForm : Form :=
  { guard := 7, gneg := false, park := false, yield := false, fuse := false, last := false, ty := .i32
    d := .x 0, a := .x 0, b := .x 0, c := .x 0, sub := 0, op2 := 0, imm := 0 }

/-- 08, worked encoding: ?!P2 LD.N32.CLU X6, [g:X10+X3*4+0x40] (yield). -/
theorem test_decode_load : decode 0x00000040_4400030A_0610AA80#96 = .ok (.ld { zeroForm with
    guard := 2, gneg := true, yield := true, ty := .n32, d := .x 6, a := .x 10, b := .x 3, sub := 4, op2 := 4, imm := 0x40 }) := rfl

theorem test_decode_load_bytes : bytesAre 0x00000040_4400030A_0610AA80#96 [0x80, 0xAA, 0x10, 0x06, 0x0A, 0x03, 0x00, 0x44, 0x40, 0, 0, 0] = true := by
  decide +kernel

/-- 10, worked encoding: CMP.I32.LT.AND P2, X4, -100, P1. -/
theorem test_decode_cmp : decode 0xFFFFFF9C_12414904_42001C30#96 = .ok (.cmp { zeroForm with
    d := .p 2, a := .x 4, b := .imm, c := .p 1, sub := 2, op2 := 1, imm := 0xFFFFFF9C }) := rfl

/-- 11, worked dot product: FDOT4.BF16 X9, X4, X6, X8. -/
theorem test_decode_fdot4 : decode 0x00000000_00080604_09601D0D#96 = .ok (.fdot4 { zeroForm with
    ty := .bf16, d := .x 9, a := .x 4, b := .x 6, c := .x 8 }) := rfl

/-- 12, worked reduction: RRED.ADD.F32 X9, X4, X6. -/
theorem test_decode_rred : decode 0x00000000_00000604_09401E13#96 = .ok (.rred { zeroForm with
    ty := .f32, d := .x 9, a := .x 4, b := .x 6 }) := rfl

/-- 13, worked atomic: ATOM.MAX.N64.DEV X6, [g:X10+X3*8+0x100], X8. -/
theorem test_decode_atom : decode 0x50000100_4608030A_06301E88#96 = .ok (.atom { zeroForm with
    ty := .n64, d := .x 6, a := .x 10, b := .x 3, c := .x 8, sub := 6, op2 := 4, imm := 0x50000100 }) := rfl

/-- 14, worked product: MX.I8 G16. -/
theorem test_decode_mx : decode 0x00000000_00000090_00901F11#96 = .ok (.mx { zeroForm with ty := .i8, a := .g 16 }) := rfl

/-- The encoder gives the words back. -/
theorem test_encode : ([0x00000040_4400030A_0610AA80#96, 0xFFFFFF9C_12414904_42001C30#96, 0x00000000_00080604_09601D0D#96,
    0x00000000_00000604_09401E13#96, 0x50000100_4608030A_06301E88#96, 0x00000000_00000090_00901F11#96].all fun w =>
      match decode w with | .ok i => encode? i == some w | .error _ => false) = true := by decide +kernel

/-- Each row of the two streams is the row of its opcode: a form of it encodes, and the word decodes to its opcode. -/
def opcodeRoundTrip (i : Form → Instr) (row : OpRow) : Bool :=
  let f := formOf row (!row.stream.has false)
  match encode? (i f) with
  | some w => wordOpc w = row.opc.toNat && (match decode w with | .ok j => j == i f | .error _ => false)
  | none => false

theorem test_opcodes_integer : (integerOnly.all fun p => opcodeRoundTrip p.1 p.2) = true := by decide +kernel

theorem test_opcodes_float : (floatOnly.all fun p => opcodeRoundTrip p.1 p.2) = true := by decide +kernel

theorem test_opcodes_branches : (branches.all fun p => opcodeRoundTrip p.1 p.2) = true := by decide +kernel

/-! ## An ill-formed term for each check -/
def chkIllFormed : List Bool :=
  let add := { zeroForm with d := .x 1, a := .x 2, b := .x 3 }
  let bad (i : Instr) : Bool := !i.wellFormed
  -- 08 R178 step 4: type, SUB, OP2, an unused operand, .ORD, IMM unused, IMM too large, and what a row asks beside.
  [(Instr.add add).wellFormed, bad (.add { add with ty := .f32 }), bad (.add { add with sub := 1 }), bad (.add { add with op2 := 2 }),
   bad (.add { add with c := .x 5 }), bad (.st { zeroForm with d := .x 2 }), bad (.add { add with imm := 1 }),
   bad (.logic3 { add with imm := 256 }), bad (.fcvt { zeroForm with ty := .f32, imm := 4 }),
   bad (.cmp { zeroForm with d := .p 1, a := .x 1, b := .x 2, c := .p 1 }), bad (.cmp { zeroForm with d := .p 1, a := .x 1, b := .x 2, sub := 6 }),
   -- Step 5: the class of each kind of position, and DRAIN twice.
   bad (.add { add with d := .imm }), bad (.add { add with a := .p 1 }), bad (.lea { add with ty := .n32, b := .imm }),
   bad (.sel { add with c := .x 1 }), bad (.cmp { zeroForm with d := .x 1, a := .x 1, b := .x 2 }), bad (.ld { zeroForm with a := .imm }),
   bad (.ld { zeroForm with b := .imm }), bad (.reconv { zeroForm with d := .p 1, a := .imm }), bad (.reconv { zeroForm with d := .p 1, a := .g 4 }),
   bad (.mxz { zeroForm with a := .x 0 }),
   bad (.ldt { zeroForm with a := .imm }), bad (.acas { zeroForm with d := .imm }), bad (.rvoteBallot { zeroForm with d := .x 1, b := .p 1, op2 := 2 }),
   bad (.fcvt { zeroForm with ty := .bf16x2, b := .p 0, imm := 4 }), bad (.cvti { zeroForm with a := .imm }), bad (.add { add with a := .drain, b := .drain }),
   bad (.rsbind { zeroForm with a := .g 121 }),
   -- What happenings name.
   bad (.storeCommit { group := 0, who := .thread 1024 }), bad (.comparatorCompare 128), bad (.create 1024), bad (.queueEnable ⟨0, 12⟩ 0), bad (.queueEnable ⟨513, 0⟩ 0),
   bad (.queueDisable ⟨0, 0⟩ 64), bad (.powerCap 0 799), bad (.patrolPassComplete 32), bad (.linkDown 2),
   bad (.netCtlWrite 4 0), bad (.clusterModeChange 16 true), bad (.groupPlacement 0 0 8 0), bad (.functionLevelReset 512),
   bad (.unassignedOpcode 8), (Instr.unassignedOpcode 7).wellFormed]

theorem test_ill_formed : chkIllFormed.all id = true := by decide +kernel

/-! ## The fates of altered words (08, worked encoding), in a kernel of 32 registers -/

/-- The cause of the group's end, with no trap vector (02 R53); the variants are of ADD.N32 X5, X6, -1. -/
def fate (w : IWord) (plain : State → State) : Option Cause :=
  match step (plain (State.reset.withFetchWord 96 w.toNat)) with
  | .next s => (s.grid? 0).bind (·.cause)
  | _ => none

def regs32 (s : State) : State := s.modGrid 0 fun g => { g with header := g.header &&& ~~~BitVec.ofNat 1024 (2 ^ 65) }

def chkFates : List Bool :=
  let is (w : IWord) (c : Cause) : Bool := fate w regs32 == some c
  [is 0x00000000_00000000_00001C07#96 .illop, is 0x00000000_00000000_00003F81#96 .emu,
   is 0xFFFFFFFF_00004906_05141C08#96 .illenc, is 0x00000000_00050706_05001C08#96 .illenc, is 0x00000000_00004B06_05001C08#96 .illopnd,
   is 0x00000000_00000706_85001C08#96 .illopnd, is 0x00000000_00000706_49001C08#96 .illopnd, is 0x00000000_00000728_05001C08#96 .regalloc,
   is 0x00000000_00010728_05001C08#96 .illenc, is 0x00000000_00000803_06201C08#96 .pairAlign,
   fate 0x00000000_00000706_48001C08#96 regs32 == none]

theorem test_fates_of_altered_words : chkFates.all id = true := by decide +kernel

/-! ## Results of the manual -/

/-- The state after a thread executes a form on values in X16, X20 and X24 (pairs for 64 bits). -/
def afterOf (i : Form → Instr) (f : Form) (a b c : Nat) (s : State := th) : Option State :=
  let s := withWords 16 [a % 2 ^ 32, a / 2 ^ 32] (withWords 20 [b % 2 ^ 32, b / 2 ^ 32] (withWords 24 [c % 2 ^ 32, c / 2 ^ 32] s))
  match exec (i f) s with | .next u => some u | _ => none

/-- What the instruction leaves in X8, or as its outstanding result. -/
def resultOf (i : Form → Instr) (row : OpRow) (ty : Ty) (op2 : Nat) (a b : Nat) (c : Nat := 0) (imm : Nat := 0) (sub : Nat := 0)
    (s : State := th) : Option Nat :=
  match afterOf i { frm row with ty := ty, op2 := BitVec.ofNat 4 op2, imm := BitVec.ofNat 32 imm, sub := BitVec.ofNat 4 sub } a b c s with
  | some u => (u.hart? t0).map fun h => match h.results with
    | q :: _ => (q.value.getD 0).toNat
    | [] => (h.regs.getD 8 0).toNat
  | none => none

/-- The table of 10 R225. -/
def chkEdges : List Bool :=
  [resultOf .add rowAdd .i32 0 0x7FFFFFFF 1 == some 0x80000000, resultOf .add rowAdd .i32 1 0x7FFFFFFF 1 == some 0x7FFFFFFF,
   resultOf .add rowAdd .i8 0 100 100 == some 0xFFFFFFC8, resultOf .add rowAdd .n8 1 200 100 == some 0xFF,
   resultOf .sub rowSub .n32 1 3 5 == some 0, resultOf .mulh rowMulh .i32 0 0xFFFFFFFF 1 == some 0xFFFFFFFF,
   resultOf .mulh rowMulh .n32 0 0xFFFFFFFF 1 == some 0, resultOf .div rowDiv .i32 0 0xFFFFFFF9 2 == some 0xFFFFFFFD,
   resultOf .rem rowRem .i32 0 0xFFFFFFF9 2 == some 0xFFFFFFFF, resultOf .div rowDiv .i32 0 9 0 == some 0xFFFFFFFF,
   resultOf .rem rowRem .i32 0 9 0 == some 9, resultOf .div rowDiv .i32 0 0x80000000 0xFFFFFFFF == some 0x80000000,
   resultOf .div rowDiv .i32 1 0x80000000 0xFFFFFFFF == some 0x7FFFFFFF, resultOf .abs rowAbs .i32 0 0x80000000 0 == some 0x80000000,
   resultOf .abs rowAbs .i32 1 0x80000000 0 == some 0x7FFFFFFF, resultOf .shl rowShl .i32 0 1 32 == some 0]
  ++ [resultOf .sar rowSar .i32 0 0x80000000 40 == some 0xFFFFFFFF, resultOf .rol rowRol .i32 0 0x80000001 36 == some 0x18,
   resultOf .fshl rowFshl .i32 0 0x12345678 0x9ABCDEF0 8 == some 0x3456789A, resultOf .bfx rowBfx .i32 0 0xF00 0x408 == some 0xFFFFFFFF,
   resultOf .bfx rowBfx .n32 0 0xF00 0x408 == some 0xF, resultOf .bfi rowBfi .i32 0 0xFF 0x408 0x12345678 == some 0x12345F78,
   resultOf .clz rowClz .i64 0 1 0 == some 63, resultOf .perm rowPerm .i32 0 0x44332211 0x88776655 0xC1E7 == some 0x00FF5588,
   resultOf .cvti rowCvti .i8 1 300 0 == some 0x7F, resultOf .cvti rowCvti .i8 0 300 0 == some 0x2C,
   resultOf .pack rowPack .i8 1 0x12C 0xFF80FFF6 == some 0x80F6007F, resultOf .dp4 rowDp4 .i8 0 0x80808080 0x80808080 == some 0x10000,
   resultOf .dp4 rowDp4 .i8 2 0xFFFFFFFF 0xFFFFFFFF == some 0xFFFFFC04,
   resultOf .logic3 rowLogic3 .i32 0 0xF0F0F0F0 0xCCCCCCCC 0xAAAAAAAA (imm := 0xCA) == some 0xD8D8D8D8,
   resultOf .mad rowMad .i32 0 3 5 0xFFFFFFFF == some 14, resultOf .madw rowMadw .n32 0 0xFFFFFFFF 2 1 == some 0xFFFFFFFF,
   resultOf .min rowMin .i32 0 0xFFFFFFFF 1 == some 0xFFFFFFFF, resultOf .max rowMax .n32 0 0xFFFFFFFF 1 == some 0xFFFFFFFF,
   resultOf .clamp rowClamp .i32 0 5 0 3 == some 3, resultOf .unpack rowUnpack .i8 0 0x807F 0 == some 0xFF80007F,
   resultOf .lea rowLea .n32 0 0x1000 0xFFFFFFFF (imm := 4) (sub := 2) == some 0x1000]

theorem test_edges_integer : chkEdges.all id = true := by decide +kernel

/-- The thread's lane and PC of the example of 01 R28. -/
def nanScene : State := withHart (fun h => { h with pc := 0xC0C, lane := 5 }) th

def nanOf (code : Nat) : Nat := 0x7FC00000 + code * 2 ^ 16 + 5 * 2 ^ 11 + 0x303

/-- The table of 11 R246; 01 R28 and the rounding of −42.125; the worked dot product of 11. -/
def chkFloatEdges : List Bool :=
  [resultOf .fadd rowFadd .f32 0 0x7F800000 0xFF800000 (s := nanScene) == some 0x7FC12B03,
   resultOf .fadd rowFadd .f32 0 0x7F7FFFFF 0x7F7FFFFF == some 0x7F800000, resultOf .fadd rowFadd .f32 0 0x7F7FFFFF 0x7F7FFFFF (sub := 1) == some 0x7F7FFFFF,
   resultOf .fadd rowFadd .f32 1 0x7F7FFFFF 0x7F7FFFFF == some 0x7F7FFFFF, resultOf .fadd rowFadd .f32 0 0 0x80000000 == some 0,
   resultOf .fadd rowFadd .f32 0 0 0x80000000 (sub := 3) == some 0x80000000, resultOf .fmul rowFmul .f32 0 1 0x3F000000 == some 0,
   resultOf .fmul rowFmul .f32 0 1 0x3F000000 (sub := 2) == some 1, resultOf .frnd rowFrnd .f32 0 0xC0200000 0 == some 0xC0000000,
   resultOf .frnd rowFrnd .f32 0 0x3F000000 0 == some 0, resultOf .frnd rowFrnd .f32 0 0xBE800000 0 == some 0x80000000,
   resultOf .fscale rowFscale .f32 0 0x3F800000 0x406CCCCD == some 0x41000000, resultOf .f2i rowF2i .i32 0 0x40200000 0 (imm := 4) == some 2,
   resultOf .f2i rowF2i .i32 0 0x40200000 0 (imm := 4) (sub := 2) == some 3, resultOf .f2i rowF2i .i32 0 0x7FC00000 0 (imm := 4) == some 0x80000000,
   resultOf .f2i rowF2i .n8 0 0xC0400000 0 (imm := 4) == some 0, resultOf .i2f rowI2f .f32 0 16777217 0 == some 0x4B800000]
  ++ [resultOf .i2f rowI2f .f32 0 16777217 0 (sub := 2) == some 0x4B800001, resultOf .fcvt rowFcvt .bf16 0 0x3F808000 0 (imm := 4) == some 0x3F80,
   resultOf .fquant rowFquant .i8 0 0x3FA66666 0x42C80000 == some 0x7F,
   resultOf .fquant rowFquant .i8 1 0x7FC00000 0x3F800000 (s := nanScene) == some (nanOf 0x3F),
   resultOf .fdeq rowFdeq .i8 0 0 0x7F800000 (s := nanScene) == some (nanOf 5), resultOf .fsqrt rowFsqrt .f32 0 0x80000000 0 == some 0x80000000,
   resultOf .fsqrt rowFsqrt .f32 0 0xBF800000 0 (s := nanScene) == some (nanOf 2), resultOf .fcos rowFcos .f32 0 0x7F800000 0 (s := nanScene) == some (nanOf 4),
   resultOf .flog2 rowFlog2 .f32 0 1 0 == some 0xC3150000, resultOf .fexp2 rowFexp2 .f32 0 0x43000000 0 == some 0x7F800000,
   resultOf .ffma rowFfma .f32 0 0 0x7F800000 0x7F800001 == some 0x7FC00001, resultOf .fadd rowFadd .f16 0 0x12343C00 0 == some 0x3C00,
   (List.range 4).map (fconvert fF32 fBF16 · 0xC2288000) == [0xC228, 0xC228, 0xC228, 0xC229],
   resultOf .fdot4 rowFdot4 .bf16 0 0x3F80C5803F804580 0x3F8045803F804580 == some 0x40000000,
   resultOf .fmin rowFmin .f32 0 0x80000000 0 == some 0x80000000, resultOf .fmin rowFmin .f32 0 0x7FC00000 0x3F800000 == some 0x3F800000,
   resultOf .frcp rowFrcp .f32 0 0x40000000 0 == some 0x3F000000, resultOf .frsq rowFrsq .f32 0 0x40800000 0 == some 0x3F000000,
   resultOf .fclass rowFclass .f32 0 0 0 != none, resultOf .fadd2 rowFadd2 .bf16x2 0 0x3F803F80 0x3F803F80 == some 0x40004000,
   resultOf .fkey rowFkey .f32 0 0 0 == some 0x80000000]

theorem test_edges_float : chkFloatEdges.all id = true := by decide +kernel

/-- 01, worked drain; 12, worked reduction. -/
def chkAccumulator : List Bool :=
  let w := accAdd (accAdd 0 (-700)) (-150)
  let f (v : Nat) : Nat := v
  [w = 0x560AF2B8AD, accValue w = some (-850), resA w = 173, resB w = 174, resC w = 175, resChk w = 172,
   epilogue (-850) 0x3DCCCCCD 0x3F000000 0x3EC00000 0 0 0 0 { lane := 0, pc := 0 } = 0xC2288000,
   epilogue (-850) 0x3DCCCCCD 0x3F000000 0x3EC00000 0 0 0 1 { lane := 0, pc := 0 } = 0xC228,
   treeReduce (reduceOp .f32 0 { lane := 0, pc := 0 }) 6 ([0x4B800000, 0x3F800000, 0x3F800000, 0xCB800000, 0x3F800000].map f) = 0x40000000]

theorem test_worked_drain_and_reduction : chkAccumulator.all id = true := by decide +kernel

/-- 06: the worked window access, BPERM; 19: the table indexes of an address. -/
def chkTensors : List Bool :=
  let image := BitVec.ofNat 1024 (9 * 2 ^ 20 + 1 * 2 ^ 24 + 2 * 2 ^ 27 + 2 ^ 31 + 0x400 * 2 ^ 64 + 20 * 2 ^ 384 + 1 * 2 ^ 416 + 12 * 2 ^ 448 + 20 * 2 ^ 480)
  let win (dim stride dil pad taps : Nat) : Nat := 2 ^ 7 + dim * 2 ^ 8 + (stride - 1) * 2 ^ 16 + (dil - 1) * 2 ^ 24 + pad * 2 ^ 32 + pad * 2 ^ 40 + (taps - 1) * 2 ^ 48
  let view := BitVec.ofNat 1024 (3 + 1 * 2 ^ 18 + 4 * 2 ^ 27 + 2 ^ 31 + 3 * 2 ^ 512 + 3 * 2 ^ 576 + win 0 2 1 1 3 * 2 ^ 832 + win 1 2 5 5 3 * 2 ^ 896)
  let look : Nat → BitVec 1024 := fun k => if k = 3 then image else 0
  let at_ (a b c d : Int) : Where := resolveTensor look view [a, b, c, d]
  [tdwOk image, tdwOk view, viewSize view image 0 = 10, viewSize view image 1 = 6, at_ 0 0 0 1 = .outside, at_ 3 2 2 2 = .at 0x4BB false,
   at_ 9 5 1 0 = .at 0x476 false, at_ 9 5 1 2 = .outside, at_ 0 6 1 1 = .outside, permuteOffset 1 0xA13 = 0xA3B,
   [0, 1, 2].map (vaIndex 0x7F123456789A) = [31, 0x1891, 0x1456]]

theorem test_worked_window_and_table_indexes : chkTensors.all id = true := by decide +kernel

/-- Effects on the PC, the context and memory: one field each. -/
def chkEffects : List Bool :=
  let hart (u : Option State) (r : CtxRef) (c : Hart → Bool) : Bool := u.any fun s => hartOf s r c
  let run (i : Instr) (s : State) : Option State := match exec i s with | .next u => some u | _ => none
  let g4 (row : OpRow) : Form := { frm row with op2 := 4, sub := 6 }
  let cell : State := withReg 24 7 (withReg 16 0x300000 { th with mem := memSetBytes th.mem (dramBase + 0x300000) (bytesOfNat 8 0x1122334480) })
  let value (u : Option State) (v : Nat) : Bool := hart u t0 fun h => (h.results.head?.bind (·.value)) = some (BitVec.ofNat 128 v)
  let handled : State := withReg 16 1 ((withBit 101 th).modGrid 0 fun g => { g with header := g.header ||| BitVec.ofNat 1024 (12 * 2 ^ 256) })
  [hart (run (.bra { frm rowBra with imm := 0xFFFFFFF4 }) (withHart (fun h => { h with pc := 24 }) th)) t0 fun h => h.pc = 12,
   hart (run (.call { frm rowCall with imm := 24 }) th) t0 fun h => h.pc = 24 && h.regs.getD 8 0 = 12,
   hart (run (.ret (frm rowRet)) (withReg 16 36 th)) t0 fun h => h.pc = 36,
   hart (run (.brdec { sfrm rowBrdec with imm := 24 }) (withReg 16 2 st)) s0 fun h => h.pc = 24 && h.regs.getD 8 0 = 1,
   hart (run (.cmp { frm rowCmp with sub := 2, op2 := 1, c := .p 1 }) (withReg 16 0xFFFFFF00 (withHart (fun h => h.setPred 1 true) th))) t0 fun h => h.pred 2,
   hart (run (.exit (frm rowExit)) th) t0 fun h => h.status = .exited,
   hart (run (.sleep (frm rowSleep)) (withReg 16 100 th)) t0 fun h => h.wait = .sleep 100,
   -- 12 R256: the trap saves the PC, and the thread is at the vector.
   hart (run (.trap { frm rowTrap with imm := 9 }) handled) t0 fun h => h.pc = 12 && h.handler && h.stores.length = 5,
   hart (run (.tret (frm rowTret)) (withHart (fun h => { h with handler := true, pc := 12 })
     { th with mem := memSetBytes th.mem (dramBase + 0x200000) (bytesOfNat 80 (48 + 3 * 2 ^ 512)) })) t0 fun h => h.pc = 48 && !h.handler && h.preds = 3,
   -- 13 R278: a load extends by its type; 13 R285: the old value returns.
   value (run (.ld { g4 rowLd with ty := .i8 }) cell) 0xFFFFFF80, value (run (.ld { g4 rowLd with ty := .n64 }) cell) 0x1122334480,
   value (run (.atom { g4 rowAtom with ty := .n32 }) cell) 0x22334480,
   (run (.atom { g4 rowAtom with ty := .n32 }) cell).any fun u => memNat u.mem (dramBase + 0x300000) 8 = 0x1122334487,
   hart (run (.st { g4 rowSt with ty := .n16 }) cell) t0 fun h => h.stores.length = 1,
   (run (.storeCommit t0) (withHart (fun h => { h with stores := [{ act := .bytes (wholeBytes 0x300000 [5, 6]) true, agreed := true }] }) th)).any
     fun u => memNat u.mem 0x300000 2 = 0x605,
   hart (run (.resultReturn t0 0) (withHart (fun h => h.addResult [8] [] (some 7)) th)) t0 fun h => h.regs.getD 8 0 = 7 && h.results = [],
   (run (.dqpush (sfrm rowDqpush)) (withReg 16 7 st)).any fun u => groupOf u fun g => g.dq.map DqEntry.word = [7],
   (run (.bar (frm rowBar)) th).any fun u => hartOf u t0 fun h => h.arrival = some (0, true, 0) && h.status = .blocked,
   (run (.sysr (frm rowSysr)) th).any fun u => hartOf u t0 fun h => h.regs.getD 8 0 = 0x4A160100,
   (run (.doorbell ⟨0, 0⟩ 0 1) (State.reset.setQueue 0 0 { initQueue with enable := true, state := .idle })).any fun u => (u.queue 0 0).state = .active,
   (run (.slotSetSwitch) State.reset).any fun u => u = State.reset,
   -- 14 R317: RAND adds its constant to the state.
   hart (run (.rand { frm rowRand with ty := .n64 }) (withHart (fun h => { h with rng := 0 }) th)) t0 fun h => h.rng = 0x9E3779B97F4A7C15]

theorem test_effects : chkEffects.all id = true := by decide +kernel

end Sys2Proof.Tests
end

section
/-!
PROOF OF O60. Every step keeps the canonical form of memory (00 R9; 13 R275).

A step writes memory at four places only: `writeHome`, by which every store and every write of the device go; `zeroRange`; the
scratchpad of a group that enters a core; and the filter of power-up. `Laws/Memory` says that each keeps the canonical form. All
else is a chain of updates and of functions that pass the state on. So each function of the model that returns a state has one lemma,
`MemoryOk.<its name>`: where the state it is given has canonical memory, so has the state it returns. The lemmas stand in the order
of the definitions and chain by dots as the definitions do. A function whose result holds a state inside another type has its lemma
about a predicate on that type.

This part: those predicates, the named updates, the writes of memory.
-/
namespace Sys2Proof
open Machine

/-! ## The states inside a result -/

/-- The state an outcome goes on with has canonical memory. -/
def OutcomeOk : Host.Outcome State Fault Refusal → Prop
  | .next s => MemoryOk s
  | .fault _ | .refused _ => True

/-- The state an act leaves has canonical memory. -/
def ActOk : Act → Prop
  | .done s | .jump _ s | .event s _ | .block _ s | .raw s => MemoryOk s
  | .trap _ | .hold => True

/-- The state behind a fetch has canonical memory. -/
def FetchedOk : Fetched → Prop
  | .word _ s | .trap s _ | .event s _ => MemoryOk s

/-- The state with an event that ends an engine's access has canonical memory. -/
def EngStopOk : EngStop → Prop
  | .err s _ _ => MemoryOk s
  | .page _ | .ask .. => True

/-- A result, whether it is reached or stopped on its way, leaves canonical memory: `left` is the state of a result that is
reached, and `stop` says so of what stops it. -/
def ResultOk {ε α : Type} (stop : ε → Prop) (left : α → State) : Except ε α → Prop
  | .ok x => MemoryOk (left x)
  | .error x => stop x

/-- The state behind an engine's access, which ends with a value or stops, has canonical memory. -/
abbrev EngOk {β : Type} (x : Except EngStop (β × State)) : Prop := ResultOk EngStopOk Prod.snd x

/-- The state of a reading of a launch record's wait words has canonical memory. -/
def WaitReadOk : WaitRead → Prop
  | .known s _ | .fault s => MemoryOk s

/-- The state behind an ordered access has canonical memory. -/
def OrdStopOk : OrdStop → Prop
  | .done s | .page s | .event s _ => MemoryOk s

/-- The state of a mailbox answer has canonical memory. -/
def AnswerOk : Answer → Prop
  | .ok _ s | .deny _ s => MemoryOk s
  | .bad => True

/-- Every happening or instruction that a runner gives a meaning keeps memory canonical. -/
def RunnerOk (run : Runner) : Prop := ∀ i s, MemoryOk s → OutcomeOk (run i s)

theorem ActOk.ite {c : Prop} [Decidable c] {a b : Act} (ha : ActOk a) (hb : ActOk b) : ActOk (if c then a else b) := by
  split
  · exact ha
  · exact hb

theorem OutcomeOk.ite {c : Prop} [Decidable c] {a b : Host.Outcome State Fault Refusal} (ha : OutcomeOk a) (hb : OutcomeOk b) :
    OutcomeOk (if c then a else b) := by
  split
  · exact ha
  · exact hb

theorem AnswerOk.ite {c : Prop} [Decidable c] {a b : Answer} (ha : AnswerOk a) (hb : AnswerOk b) : AnswerOk (if c then a else b) := by
  split
  · exact ha
  · exact hb

section
variable {ε α : Type} {stop : ε → Prop} {left : α → State} {r : Except ε α}

theorem ResultOk.of_ok {x : α} (h : ResultOk stop left r) (e : r = .ok x) : MemoryOk (left x) := by
  subst e; exact h

theorem ResultOk.of_ok_mk {r : Except ε (α × State)} {v : α} {s : State} (h : ResultOk stop Prod.snd r) (e : r = .ok (v, s)) :
    MemoryOk s := h.of_ok e

theorem ResultOk.of_error {x : ε} (h : ResultOk stop left r) (e : r = .error x) : stop x := by
  subst e; exact h

end

theorem WaitReadOk.of_known {x : WaitRead} {s : State} {met : List Nat} (h : WaitReadOk x) (e : x = .known s met) : MemoryOk s := by
  subst e; exact h

theorem WaitReadOk.of_fault {x : WaitRead} {s : State} (h : WaitReadOk x) (e : x = .fault s) : MemoryOk s := by
  subst e; exact h

namespace MemoryOk

theorem ite {c : Prop} [Decidable c] {a b : State} (ha : MemoryOk a) (hb : MemoryOk b) : MemoryOk (if c then a else b) := by
  split
  · exact ha
  · exact hb

theorem getD {o : Option State} {s : State} (h : MemoryOk s) (ho : ∀ s', o = some s' → MemoryOk s') : MemoryOk (o.getD s) := by
  cases o with
  | none => exact h
  | some s' => exact ho s' rfl

/-- Things done one after another keep what each of them keeps. -/
theorem foldl {α : Type} {f : State → α → State} {s : State} (h : MemoryOk s) (l : List α)
    (hf : ∀ s x, MemoryOk s → MemoryOk (f s x)) : MemoryOk (l.foldl f s) := by
  induction l generalizing s with
  | nil => exact h
  | cons x l ih => exact ih (hf s x h)

theorem of_fst_eq {α : Type} {p : State × α} {s : State} {x : α} (h : MemoryOk p.1) (e : p = (s, x)) : MemoryOk s := by
  subst e; exact h

variable {s : State} {r : CtxRef} {e : Env} {n k p q j a v : Nat}

theorem next (h : MemoryOk s) : OutcomeOk (.next s) := h

/-! ## The named updates -/

theorem setCore {c : Core} (h : MemoryOk s) : MemoryOk (s.setCore k c) := h
theorem modCore {f : Core → Core} (h : MemoryOk s) : MemoryOk (s.modCore k f) := h
theorem setCtx {c : Ctx} (h : MemoryOk s) : MemoryOk (s.setCtx k c) := h
theorem modCtx {f : Ctx → Ctx} (h : MemoryOk s) : MemoryOk (s.modCtx k f) := h
theorem setQueue {v : Queue} (h : MemoryOk s) : MemoryOk (s.setQueue p q v) := h
theorem modQueue {f : Queue → Queue} (h : MemoryOk s) : MemoryOk (s.modQueue p q f) := h
theorem setPair {v : Pair} (h : MemoryOk s) : MemoryOk (s.setPair j v) := h
theorem setGroup {g : Group} (h : MemoryOk s) : MemoryOk (s.setGroup k g) := h
theorem setGrid {g : Grid} (h : MemoryOk s) : MemoryOk (s.setGrid k g) := h
theorem modTovor {f : Tovor → Tovor} (h : MemoryOk s) : MemoryOk (s.modTovor f) := h
theorem modBlock {f : DevBlock → DevBlock} (h : MemoryOk s) : MemoryOk (s.modBlock f) := h
theorem modHart {f : Hart → Hart} (h : MemoryOk s) : MemoryOk (s.modHart r f) := by simpa [MemoryOk] using h
theorem modGroup {f : Group → Group} (h : MemoryOk s) : MemoryOk (s.modGroup k f) := by simpa [MemoryOk] using h
theorem modGrid {f : Grid → Grid} (h : MemoryOk s) : MemoryOk (s.modGrid k f) := by simpa [MemoryOk] using h

theorem settlePeers (h : MemoryOk s) : MemoryOk (settlePeers s) := h
theorem touch {own : Option (Nat × Nat)} {t : Touched} (h : MemoryOk s) : MemoryOk (touch s own t) := h

/-! ## Writes of memory -/

theorem writeHome {own : Option (Nat × Nat)} {ws : List WByte} (h : MemoryOk s) : MemoryOk (writeHome s own ws) :=
  .ite h (memSetMasked_wf h ws)

theorem writeNat (h : MemoryOk s) : MemoryOk (writeNat s a n v) := h.writeHome

theorem writePf {s' : State} (h : MemoryOk s) (e : writePf s a n v = some s') : MemoryOk s' := by
  unfold Machine.writePf at e
  split at e
  · cases e; exact h.writeNat
  · cases e

end MemoryOk
end Sys2Proof
end

section
/-!
Logs, errors of memory, walks, event words, kills, integrity events and traps keep memory canonical.
-/
namespace Sys2Proof.MemoryOk
open Machine

variable {s : State} {r : CtxRef} {n k q j a len v key core : Nat} {c : Cause}

/-! ## Logs, reports and errors of memory (17 R353, R355; 18 R381, R382) -/

theorem deviceLog {ctx : Option Nat} {x : LogEntry} (h : MemoryOk s) : MemoryOk (deviceLog s ctx n x) :=
  .modBlock (.ite (h.getD fun _ => h.writePf) h)

theorem logEvent {x : LogEntry} (h : MemoryOk s) : MemoryOk (logEvent s n x) := by
  unfold Machine.logEvent
  extract_lets
  split
  · exact (h.writePf ‹_›).modCtx
  · exact h.deviceLog

theorem ringWrite {seq : BitVec 24} {bits : BitVec 256} (h : MemoryOk s) : MemoryOk (ringWrite s seq bits) := by
  unfold Machine.ringWrite
  split
  · exact h.getD fun _ => h.writePf
  · exact h

theorem report {x : Report} (h : MemoryOk s) : MemoryOk (report s x) := h.ringWrite.modTovor

theorem countUeCtx (h : MemoryOk s) : MemoryOk (countUeCtx s n) := h

theorem countUeShared {ctx : Option Nat} (h : MemoryOk s) : MemoryOk (countUeShared s ctx n c) := h.modBlock.deviceLog

theorem correctedIn (h : MemoryOk s) : MemoryOk (correctedIn s n) := h.modBlock.deviceLog.report

theorem remapRow (h : MemoryOk s) : MemoryOk (remapRow s n) := by
  unfold Machine.remapRow
  dsimp only
  split
  · exact h
  · exact h.deviceLog.report

theorem countRow (h : MemoryOk s) : MemoryOk (countRow s n) := .ite h (.ite h.modTovor.remapRow h)

theorem correctedShared (h : MemoryOk s) : MemoryOk (correctedShared s a) := by
  unfold Machine.correctedShared
  exact .ite h.correctedIn.countRow h.correctedIn

theorem poisonBlock (h : MemoryOk s) : MemoryOk (poisonBlock s n) := h

theorem meetShared {ctx : Option Nat} (h : MemoryOk s) : MemoryOk (meetShared s ctx a).1 := by
  unfold Machine.meetShared
  split
  · exact h.modTovor.countUeShared
  · split
    · exact h
    · split
      · exact h
      · exact h.modTovor.correctedShared
      · exact h.poisonBlock.countUeShared

theorem correctedCtx {g : Option Group} (h : MemoryOk s) : MemoryOk (correctedCtx s n g) := by
  unfold Machine.correctedCtx
  dsimp only
  split <;> exact h.modBlock.modCtx.logEvent.report

theorem meetMemory (h : MemoryOk s) : MemoryOk (meetMemory s n a).1 := by
  unfold Machine.meetMemory
  split
  · exact h.meetShared
  · split
    · exact h.countUeCtx
    · split
      · exact h
      · exact h.modTovor.correctedCtx
      · exact h.poisonBlock.countUeCtx

theorem correctEntries {k : Nat} (h : MemoryOk s) : MemoryOk (correctEntries n v k s) := by
  induction k generalizing s with
  | zero => exact h
  | succ k ih =>
    unfold Machine.correctEntries
    split
    · exact .ite h (ih h.meetMemory)
    · exact h

theorem walkCorrect (h : MemoryOk s) : MemoryOk (walkCorrect s n v) := .ite h h.correctEntries

theorem meetWalk (h : MemoryOk s) : MemoryOk (meetWalk s n v) := by
  unfold Machine.meetWalk
  split
  · exact h.meetMemory
  · exact h

theorem walked {need : Need} (h : MemoryOk s) : MemoryOk (walked s n v need).1 := by
  unfold Machine.walked
  dsimp only
  split
  · exact h.walkCorrect.meetWalk
  · exact h.walkCorrect

theorem meetEach {meet : State → Nat → State × Option Cause} (hm : ∀ s a, MemoryOk s → MemoryOk (meet s a).1) (h : MemoryOk s)
    {as : List Nat} : MemoryOk (meetEach meet s as).1 := by
  induction as generalizing s with
  | nil => exact h
  | cons a as ih =>
    unfold Machine.meetEach
    split
    · exact ih ((hm s a h).of_fst_eq ‹_›)
    · exact hm s a h

theorem meetSpan (h : MemoryOk s) : MemoryOk (meetSpan s n a len).1 := meetEach (fun _ _ h => h.meetMemory) h

theorem meetAll {as : List Nat} (h : MemoryOk s) : MemoryOk (meetAll n s as).1 := meetEach (fun _ _ h => h.meetMemory) h

theorem meetPad {as : List Nat} (h : MemoryOk s) : MemoryOk (meetPad n s as).1 := meetEach (fun _ _ h => h.meetMemory) h

theorem recordWalk (h : MemoryOk s) : MemoryOk (recordWalk s core n v) := h

theorem coreWalk (h : MemoryOk s) : MemoryOk (coreWalk s core n v) := .ite h h.walkCorrect.recordWalk

theorem walkRange {need : Need} (h : MemoryOk s) : MemoryOk (walkRange s n v len need) := h.foldl _ fun _ _ h => h.walked

/-! ## Event words and links (14 R316; 20 R412) -/

theorem dropWrite (h : MemoryOk s) : MemoryOk (dropWrite s n v) := h.logEvent

theorem signalFull {x : LogEntry} (h : MemoryOk s) : MemoryOk (signalFull s n x) := h.logEvent

theorem signalFlat {x : LogEntry} (h : MemoryOk s) : MemoryOk (signalFlat s n a x) := by
  unfold Machine.signalFlat
  exact .ite h.signalFull h.writeNat

theorem peerWritten {op : OutOp} (h : MemoryOk s) : MemoryOk (peerWritten s op) := .ite h h

theorem sendLink {op : OutOp} (h : MemoryOk s) : MemoryOk (sendLink s op) := h.peerWritten.modTovor

theorem bumpEvent (h : MemoryOk s) : MemoryOk (bumpEvent s n v) := by
  unfold Machine.bumpEvent
  split
  · exact h
  · split
    · have hw := h.walked.of_fst_eq ‹_›
      split
      · exact (hw.meetSpan.of_fst_eq ‹_›).dropWrite
      · exact (hw.meetSpan.of_fst_eq ‹_›).signalFlat
    · exact (h.walked.of_fst_eq ‹_›).sendLink
    · exact (h.walked.of_fst_eq ‹_›).dropWrite

theorem countTrigger (h : MemoryOk s) : MemoryOk (countTrigger s key) := by
  unfold Machine.countTrigger
  split
  · exact h
  · refine .ite h ?_
    dsimp only
    split
    · exact h
    · exact .ite h.setGroup.setGrid.bumpEvent h

/-! ## The L1 and the completion words of commands -/

theorem flushL1 (h : MemoryOk s) : MemoryOk (flushL1 s core) := h.modCore.writeHome

theorem writeDue {d : DueWord} (h : MemoryOk s) : MemoryOk (writeDue s d) := (MemoryOk.ite h.flushL1 h).writeNat

theorem settleDue (h : MemoryOk s) : MemoryOk (settleDue s) := h.modTovor.foldl _ fun _ _ h => h.writeDue

theorem cancelCpy {g : Group} {x : Cmd} (h : MemoryOk s) : MemoryOk (cancelCpy s g x) := h.modTovor.settleDue

/-! ## Kills (03 R89) -/

variable {g : Group} {x : Cmd} {pc aux quad : Nat}

theorem removeCmd (h : MemoryOk s) : MemoryOk (removeCmd s core n) := h

theorem removeCmds {cs : List Cmd} (h : MemoryOk s) : MemoryOk (removeCmds s core cs) := by
  induction cs generalizing s with
  | nil => exact h
  | cons c cs ih => exact ih h.removeCmd

theorem abandonSlot (h : MemoryOk s) : MemoryOk (abandonSlot s g x) := h
theorem releaseSlot (h : MemoryOk s) : MemoryOk (releaseSlot s g x) := h

theorem cancelCmd (h : MemoryOk s) : MemoryOk (cancelCmd s g x) := by
  unfold Machine.cancelCmd
  dsimp only
  split
  · exact h.removeCmd.cancelCpy
  · exact .ite h h
  · exact h

theorem cancelCmds {cs : List Cmd} (h : MemoryOk s) : MemoryOk (cancelCmds s g cs) := by
  induction cs generalizing s with
  | nil => exact h
  | cons c cs ih => exact ih h.cancelCmd

theorem wakeClaim (h : MemoryOk s) : MemoryOk (wakeClaim s core) := h

theorem releaseClaim (h : MemoryOk s) : MemoryOk (releaseClaim s key g) := .ite h h

theorem settleCtx (h : MemoryOk s) : MemoryOk (settleCtx s n) := .ite h h

theorem killOne {toDevice : Bool} (h : MemoryOk s) : MemoryOk (killOne s key c pc aux quad toDevice) := by
  unfold Machine.killOne
  split
  · exact h
  · refine .ite h ?_
    extract_lets cancelled abandoned unclaimed _ _ _ counted
    have ha : MemoryOk abandoned := h.cancelCmds.foldl _ fun _ _ h => .ite h h
    have hu : MemoryOk unclaimed := .ite ha ha.releaseClaim
    have hc : MemoryOk counted := hu.modCore.modGroup.modGrid.modCtx
    exact (MemoryOk.ite hc.deviceLog hc.logEvent).countTrigger.settleCtx

theorem killGroup (h : MemoryOk s) : MemoryOk (killGroup s key c pc aux quad) :=
  h.foldl _ fun _ _ h => .ite h.killOne h.killOne

/-! ## Integrity events (18 R377, R378) -/

theorem haltGroup (h : MemoryOk s) : MemoryOk (haltGroup s key) := h.modCore.modGroup

theorem beginHalt (h : MemoryOk s) : MemoryOk (beginHalt n s key) := by
  unfold Machine.beginHalt
  split
  · exact h
  · refine .ite h ?_
    extract_lets _ _ _ _ marked
    have hm : MemoryOk marked := h.removeCmds.modCore.modGroup
    exact .ite hm hm.haltGroup

theorem rollBack {keys : List Nat} (h : MemoryOk s) : MemoryOk (rollBack s n keys) :=
  h.foldl _ fun _ _ h => by
    split
    · exact .ite h.beginHalt.modCtx h
    · exact h

theorem countEvent {x : Event} (h : MemoryOk s) : MemoryOk (countEvent s x g) := .ite h (.ite h.deviceLog h)

theorem secondEvent {x : Event} {d : Detected} {entry : LogEntry} {halt : Nat} {halted : List Nat} (h : MemoryOk s) :
    MemoryOk (secondEvent s x d entry n halt halted) :=
  .ite h.rollBack.logEvent.ringWrite.modGroup h.rollBack.logEvent

theorem logRetired (h : MemoryOk s) : MemoryOk (logRetired s n) := by
  unfold Machine.logRetired
  split
  · exact h
  · exact h.foldl _ fun _ _ h => h.logEvent

theorem retireUnit {u : HwUnit} (h : MemoryOk s) : MemoryOk (retireUnit s u) := by
  cases u with
  | none => exact h
  | pair j => exact logRetired (s := { s with retiredPairs := _ }) h
  | quad q => exact logRetired (s := { s with retiredQuads := _ }) h

theorem integrityEvent {x : Event} (h : MemoryOk s) : MemoryOk (integrityEvent s x) := by
  unfold Machine.integrityEvent
  split
  · exact h
  · have hc := fun g => h.countEvent (x := x) (g := g)
    dsimp only
    split
    · exact (hc _).secondEvent
    · exact .ite (hc _).killGroup.rollBack.retireUnit.report (hc _).rollBack.logEvent.modGroup.report

theorem raiseOn (h : MemoryOk s) : MemoryOk (raiseOn s r c) := by
  unfold Machine.raiseOn
  split
  · exact h.integrityEvent.modHart
  · exact h

theorem meetFault {x : CtxRef × Cause} (h : MemoryOk s) : MemoryOk (meetFault s x) := h.modHart.raiseOn

/-! ## Traps (02 R53, R54) -/

theorem addRecord {d : Dup} (h : MemoryOk s) : MemoryOk (addRecord s r core d) := h

theorem recordOf {values : List Nat} {cmd : Option Nat} (h : MemoryOk s) : MemoryOk (recordOf s r n values cmd) := by
  unfold Machine.recordOf
  split
  · exact .ite h h.modHart.addRecord
  · exact h

theorem pushStore {level space : Nat} {x : Action} (h : MemoryOk s) : MemoryOk (pushStore s r level space x) :=
  .ite h.modHart h.modHart.recordOf

theorem frameStores {level : Nat} {ls : List Loc} {bs : List Byte} (h : MemoryOk s) : MemoryOk (frameStores s r level ls bs) := by
  induction ls generalizing s bs with
  | nil => exact h
  | cons l ls ih => exact ih h.pushStore

theorem walkFrame {k : Nat} (h : MemoryOk s) : MemoryOk (walkFrame s core n v k) := by
  induction k generalizing s v with
  | zero => exact h
  | succ k ih => exact ih h.coreWalk

theorem meetFrame {k : Nat} (h : MemoryOk s) : MemoryOk (meetFrame s n v k) := by
  induction k generalizing s v with
  | zero => exact h
  | succ k ih => exact ih h.meetWalk

theorem enterTrap {t : TrapInfo} (h : MemoryOk s) : MemoryOk (enterTrap s r t) := by
  unfold Machine.enterTrap
  split
  · split
    · exact h
    · dsimp only
      split
      · exact h.walkFrame.meetFrame.killGroup
      · exact (MemoryOk.ite h.walkFrame.frameStores h.walkFrame.frameStores.recordOf).modHart
  · exact h

theorem settleSwitch (h : MemoryOk s) : MemoryOk (settleSwitch s key) := by
  unfold Machine.settleSwitch
  split
  · exact h
  · split
    · exact h
    · exact .ite h h

theorem raiseTrap {t : TrapInfo} (h : MemoryOk s) : MemoryOk (raiseTrap s r t) := by
  unfold Machine.raiseTrap
  split
  · split
    · exact h
    · exact .ite h (.ite h.killGroup (.ite h.killGroup (.ite h.killGroup
        (.ite h.modHart.enterTrap h.modHart.modHart.settleSwitch))))
  · exact h

theorem stepAfter {on : Bool} (h : MemoryOk s) : MemoryOk (stepAfter s r on) := by
  unfold Machine.stepAfter
  split
  · exact h
  · exact .ite h.raiseTrap h

end Sys2Proof.MemoryOk
end

section
/-!
Waits, issue, fetch and the passing of time keep memory canonical; an instruction does where what it does itself does.
-/
namespace Sys2Proof
open Machine

variable {s s' : State} {r : CtxRef} {e : Env} {row : OpRow} {f : Form} {w : IWord}
variable {n k q j a v key core : Nat} {c : Cause}

namespace MemoryOk

/-! ## Waits and what wakes them -/

theorem settleMark (h : MemoryOk s) : MemoryOk (settleMark s key) := h.modGroup

theorem settleRetiring (h : MemoryOk s) : MemoryOk (settleRetiring s key) := h.modGroup

theorem settleWaiting (h : MemoryOk s) : MemoryOk (settleWaiting s key) := by
  unfold Machine.settleWaiting
  split
  · exact h
  · split
    · exact h
    · exact .ite (h.foldl _ fun _ _ h => h.modGroup) h

theorem blockOn {on : Wait} (h : MemoryOk s) : MemoryOk (blockOn s e f w on) :=
  (MemoryOk.ite h.modHart.settleSwitch h.modHart).settleWaiting

theorem completeWait (h : MemoryOk s) : MemoryOk (completeWait s r) := by
  unfold Machine.completeWait
  split
  · exact h.modHart.settlePeers.stepAfter
  · exact h

theorem boundaryTo {entry : Word} (h : MemoryOk s) : MemoryOk (boundaryTo s e entry) := h.modHart.settleMark

theorem boundaryAfter (h : MemoryOk s) : MemoryOk (boundaryAfter s e) := h.modHart.settleMark

/-! ## Issue (08 R178; 18 R370, R374) -/

theorem finish {s0 : State} {target : Option Word} (h : MemoryOk s) : MemoryOk (finish s0 e f w target s) :=
  (MemoryOk.ite h.modHart.settleSwitch h.modHart).stepAfter

theorem trapWalk {t : TrapInfo} (h : MemoryOk s) : MemoryOk (trapWalk s e t) := .ite h.coreWalk (.ite h.coreWalk h)

/-- An act performed from canonical memory leaves canonical memory. -/
theorem perform {act : Act} (h : MemoryOk s) (ha : ActOk act) : MemoryOk (perform s e row f act) := by
  cases act with
  | done s' => exact MemoryOk.finish ha
  | jump t s' =>
    have ha : MemoryOk s' := ha
    exact .ite h.raiseTrap (MemoryOk.ite ha ha.recordOf).finish
  | trap t => exact h.trapWalk.raiseTrap
  | hold => exact h
  | event s' c => exact MemoryOk.raiseOn ha
  | block w s' => exact MemoryOk.blockOn ha
  | raw s' => exact ha

theorem useLane {lane : Nat} (h : MemoryOk s) : MemoryOk (useLane s core q lane) := h

theorem askDup {d : Dup} (h : MemoryOk s) : MemoryOk (askDup s e f d) := by
  unfold Machine.askDup
  extract_lets asked
  have ha (q : Bool) : MemoryOk (asked q) := h.modHart
  exact .ite (ha _).addRecord (.ite (ha _) (.ite (ha _).useLane (.ite (ha _).modCore (.ite (ha _).modCore h))))

theorem keepWalks {act : Act} (h : MemoryOk s) : MemoryOk (keepWalks s core act) := by
  unfold Machine.keepWalks
  dsimp only
  split
  · exact h.foldl _ fun _ _ h => h.coreWalk
  · exact h

theorem performDup {act : Act} (h : MemoryOk s) (ha : ActOk act) : MemoryOk (performDup s e row f act) := by
  unfold Machine.performDup
  split
  · exact h.perform ha
  · exact h.perform ha
  · refine .ite (h.perform ha) ?_
    split
    · exact (h.perform ha).modHart
    · exact h.keepWalks.askDup

/-- The state behind a read of DRAIN has canonical memory. -/
theorem readDrain (h : MemoryOk s) (hr : readDrain s e = .value v s') : MemoryOk s' := by
  unfold Machine.readDrain at hr
  split at hr
  · cases hr
  · dsimp only at hr
    split at hr
    · cases hr
    · split at hr
      · cases hr
      · split at hr
        · cases hr
        · cases hr; exact h.modCore

theorem drainAct {act : Act} (ha : ActOk act) : ActOk (drainAct s e act) := by
  cases act with
  | done s' | block w s' | raw s' | jump t s' => exact MemoryOk.boundaryTo ha
  | event s' c => exact MemoryOk.modCore ha
  | trap | hold => exact ha

end MemoryOk

/-- What an instruction does keeps memory canonical. -/
def BodyOk (body : Env → State → Act) : Prop := ∀ e s, MemoryOk s → ActOk (body e s)

namespace MemoryOk

theorem runBody {body : Env → State → Act} (hb : BodyOk body) (h : MemoryOk s) : MemoryOk (runBody s e row f body) := by
  unfold Machine.runBody
  extract_lets latched
  have hl : MemoryOk latched := .ite h.modHart h
  refine .ite (h.performDup (hb _ _ hl)) (.ite h ?_)
  split
  · exact h
  · exact h.raiseTrap
  · exact h.blockOn
  · have hd := hl.readDrain ‹_›
    split
    · exact h.raiseTrap
    · exact h.performDup (drainAct (hb _ _ hd))

theorem issueIn {body : Env → State → Act} (hb : BodyOk body) (h : MemoryOk s) : MemoryOk (issueIn s e row f body) := by
  unfold Machine.issueIn
  split
  · exact h.modHart.raiseOn
  · dsimp only
    split
    · exact h.raiseTrap
    · refine .ite h.raiseTrap (.ite h.finish ?_)
      split
      · exact h.raiseTrap
      · exact h.runBody hb

theorem onlyEvent {act : Act} (ha : ActOk act) : ActOk (onlyEvent act) := by
  unfold Machine.onlyEvent
  split
  · exact ha
  · trivial

/-- An instruction keeps memory canonical where what it does itself keeps it. -/
theorem issue {body : Env → State → Act} (h : MemoryOk s) (hb : BodyOk body) : OutcomeOk (issue row f s body) := by
  unfold Machine.issue
  split
  · exact h
  · exact (MemoryOk.ite (h.issueIn hb) (.ite (h.issueIn fun e s h => onlyEvent (hb e s h)) h)).next

theorem writeDst (h : MemoryOk s) : MemoryOk (writeDst s e row f v) := by
  unfold Machine.writeDst
  dsimp only
  refine .ite h.modHart ?_
  split
  · exact h
  · exact h.modHart

theorem writePred {o : Operand} {v : Bool} (h : MemoryOk s) : MemoryOk (writePred s e row f o v) := by
  unfold Machine.writePred
  refine .ite h.modHart ?_
  split
  · exact h
  · exact h.modHart

theorem markPending (h : MemoryOk s) : MemoryOk (markPending s e row f) := h.modHart

end MemoryOk

theorem compute_bodyOk {v : Env → State → Nat} : BodyOk (compute row f v) := fun _ _ h => h.writeDst

theorem computePred_bodyOk {v : Env → State → Bool} : BodyOk (computePred row f v) := fun _ _ h => h.writePred

namespace MemoryOk

/-! ## Fetch (08 R178, R190) -/

/-- The state behind the words of an instruction has canonical memory, whether they are read or the fetch ends. -/
theorem fetchWords {k : Nat} (h : MemoryOk s) : ResultOk FetchedOk Prod.snd (fetchWords s e a k) := by
  induction k generalizing s a with
  | zero => exact h
  | succ k ih =>
    unfold Machine.fetchWords
    extract_lets walked
    have hw : MemoryOk walked := h.coreWalk
    split
    · exact hw.meetWalk
    · exact hw
    · exact hw
    · extract_lets met
      have hm : MemoryOk met.1 := hw.meetMemory
      split
      · exact hm
      · exact hm
      · split
        · exact (ih hm).of_error ‹_›
        · exact (ih hm).of_ok_mk ‹_›

theorem fetch (h : MemoryOk s) : FetchedOk (fetch s e) := by
  unfold Machine.fetch
  dsimp only
  split
  · exact h
  · split
    · exact h
    · split
      · exact h
      · split
        · exact h.fetchWords.of_error ‹_›
        · have hs := h.fetchWords.of_ok_mk ‹_›
          split
          · exact hs
          · exact hs

theorem compareClone {d : Dup} (h : MemoryOk s) : MemoryOk (compareClone s r d) := .ite h.modHart h.modHart.raiseOn

/-! ## Time (02 R48) -/

theorem replayClone (h : MemoryOk s) : MemoryOk (replayClone s r) := by
  unfold Machine.replayClone
  split
  · exact .ite h.compareClone h
  · exact h

theorem replayEntry {x : Replay} (h : MemoryOk s) : MemoryOk (replayEntry s core x) :=
  (h.modCore.foldl _ fun _ _ h => h.useLane).foldl _ fun _ _ h => h.replayClone

theorem settleReplays {fuel : Nat} (h : MemoryOk s) : MemoryOk (settleReplays core q n fuel s) := by
  induction fuel generalizing s with
  | zero => exact h
  | succ fuel ih =>
    unfold Machine.settleReplays
    split
    · exact h
    · exact .ite h (ih h.replayEntry)

theorem settleQueues {cycles : Nat → Nat} (h : MemoryOk s) : MemoryOk (settleQueues s cycles) :=
  h.foldl _ fun _ _ h => .ite h (h.foldl _ fun _ _ h => h.settleReplays)

theorem settleClones (h : MemoryOk s) : MemoryOk (settleClones s) := h.foldl _ fun _ _ h => .ite h.compareClone h

theorem clockStep {on : Bool} (h : MemoryOk s) : MemoryOk (clockStep s on) :=
  .ite h (h.modTovor.foldl _ fun _ _ h => h.logEvent).report

theorem settleClocks (h : MemoryOk s) : MemoryOk (settleClocks s) := by
  have hs {ps : Map Pair} : MemoryOk { s with pairs := ps } := h
  unfold Machine.settleClocks
  dsimp only
  split
  · exact hs.clockStep.modTovor
  · exact h

theorem wakePair (h : MemoryOk s) : MemoryOk (wakePair s j) := .ite h h

theorem pairEvent {inj : Bool} (h : MemoryOk s) : MemoryOk (pairEvent s j r n c inj) := h.wakePair.integrityEvent

theorem settleTimeout (h : MemoryOk s) : MemoryOk (settleTimeout s j) := by
  unfold Machine.settleTimeout
  split
  · exact h
  · exact h.pairEvent

theorem settleTimeouts (h : MemoryOk s) : MemoryOk (settleTimeouts s) := h.foldl _ fun _ _ h => .ite h h.settleTimeout

theorem meetRecord (h : MemoryOk s) : MemoryOk (meetRecord core s k) := by
  unfold Machine.meetRecord
  split
  · exact h
  · exact .ite h h

theorem meetRecords (h : MemoryOk s) : MemoryOk (meetRecords s core) :=
  h.foldl _ fun _ _ h => by
    split
    · exact .ite h.meetRecord h
    · exact h

theorem settleRecords (h : MemoryOk s) : MemoryOk (settleRecords s) := h.foldl _ fun _ _ h => h.meetRecords

theorem settleHalts (h : MemoryOk s) : MemoryOk (settleHalts s) := h.foldl _ fun _ _ h => h.haltGroup

theorem settleFaultN (h : MemoryOk s) : MemoryOk (settleFaultN s) := by
  unfold Machine.settleFaultN
  split
  · exact .ite h h
  · exact h

theorem advanceTime {run : Runner} {elastic : Map Nat} {ns : Nat} (h : MemoryOk s) : MemoryOk (advanceTime run s n elastic ns) :=
  settleFaultN h

theorem passTime {run : Runner} {elastic : Map Nat} {ns : Nat} (h : MemoryOk s) : MemoryOk (passTime run s n elastic ns) := by
  unfold Machine.passTime
  extract_lets passed
  have hp : MemoryOk passed := (MemoryOk.ite h h.settleClones.settleQueues).advanceTime.settleHalts.settleRecords.settleTimeouts
  exact .ite hp hp.settleClocks

end MemoryOk
end Sys2Proof
end

section
/-!
Values, branches, EXIT, YIELD and the return from a trap keep memory canonical.
-/
namespace Sys2Proof.MemoryOk
open Machine

variable {s : State} {r : CtxRef} {e : Env} {row : OpRow} {f : Form} {g : Group} {w : IWord}
variable {k a v key : Nat} {c : Cause}

/-! ## Arithmetic (10, 11) -/

theorem bitOp {op : Nat → Nat → Nat → Nat → Nat} (h : MemoryOk s) : OutcomeOk (bitOp row f s op) := h.issue compute_bodyOk

theorem intOp {op : Int → Int → Int → Int} (h : MemoryOk s) : OutcomeOk (intOp row f s op) := h.issue compute_bodyOk

theorem floatOp {op : Fmt → Nat → NanTag → Nat → Nat → Nat → Nat} (h : MemoryOk s) : OutcomeOk (floatOp row f s op) :=
  h.issue compute_bodyOk

theorem elemOp {op : Fmt → NanTag → Nat → Nat → Nat → Nat} (h : MemoryOk s) : OutcomeOk (elemOp row f s op) :=
  h.issue compute_bodyOk

theorem execXput (h : MemoryOk s) : OutcomeOk (execXput f s) := h.issue fun _ _ h => h.modHart

theorem execGput (h : MemoryOk s) : OutcomeOk (execGput f s) := h.issue fun _ _ h => h.modHart

theorem execPsetBulk (h : MemoryOk s) : OutcomeOk (execPsetBulk f s) := h.issue fun _ _ h => h.modHart

/-! ## Control (12 R248 to R258) -/

theorem execCall (h : MemoryOk s) : OutcomeOk (execCall f s) := h.issue fun _ _ h => h.writeDst

theorem execBrdec (h : MemoryOk s) : OutcomeOk (execBrdec f s) := h.issue fun _ _ h => .ite h.writeDst h.writeDst

/-! ### What an exit brings (02 R55; 03 R83, R90; 04 R114, R116) -/

theorem trapMembers {ts : List Nat} (h : MemoryOk s) : MemoryOk (trapMembers s key c ts) := by
  induction ts generalizing s with
  | nil => exact h
  | cons t ts ih =>
    unfold Machine.trapMembers
    refine ih ?_
    split
    · exact h.raiseTrap.settlePeers
    · exact h

theorem dissolve {i : Rdv} (h : MemoryOk s) : MemoryOk (dissolve s key c i) := h.modGroup.trapMembers

theorem dissolveAll {is : List Rdv} (h : MemoryOk s) : MemoryOk (dissolveAll s key c is) := by
  induction is generalizing s with
  | nil => exact h
  | cons i is ih => exact ih h.dissolve

theorem endReconv {now : Nat} {v : Bool} (h : MemoryOk s) : MemoryOk (endReconv s r now v) := by
  unfold Machine.endReconv
  split
  · split
    · exact h.modHart.completeWait
    · exact h
  · exact h

theorem exitReconv {tid now : Nat} {hs : List (Who × Hart)} (h : MemoryOk s) : MemoryOk (exitReconv s key tid now hs) := by
  induction hs generalizing s with
  | nil => exact h
  | cons x hs ih =>
    unfold Machine.exitReconv
    refine ih ?_
    split
    · exact .ite h.endReconv h
    · exact h

theorem releaseReconv {pc : Word} {set arriving : Nat} {hs : List (Who × Hart)} (h : MemoryOk s) :
    MemoryOk (releaseReconv s key g pc set arriving hs) := by
  induction hs generalizing s with
  | nil => exact h
  | cons x hs ih =>
    unfold Machine.releaseReconv
    refine ih ?_
    split
    · exact .ite h.endReconv h
    · exact h

theorem drainQueue {hs : List (Who × Hart)} (h : MemoryOk s) : MemoryOk (drainQueue s key hs) := by
  induction hs generalizing s with
  | nil => exact h
  | cons x hs ih => exact ih (.ite h.raiseTrap.settlePeers h)

theorem completeExit (h : MemoryOk s) : MemoryOk (completeExit s r) := by
  unfold Machine.completeExit
  split
  · exact h
  · extract_lets _ exited flushed left
    have he : MemoryOk exited := h.modHart.modGroup
    have hf : MemoryOk flushed := by
      unfold flushed
      split
      · exact .ite he.flushL1 he
      · exact he
    have hl : MemoryOk left := by
      unfold left
      split
      · dsimp only
        split
        · exact hf.dissolveAll.exitReconv.modGroup.settlePeers
        · exact hf.dissolveAll.modGroup.settlePeers
      · split
        · exact hf.drainQueue
        · exact hf
    exact hl.settleMark.settleRetiring.settleSwitch.settleWaiting

theorem tryExit (h : MemoryOk s) : MemoryOk (tryExit s r) := .ite h.completeExit h

theorem execExit (h : MemoryOk s) : OutcomeOk (execExit f s) :=
  h.issue fun _ _ h => (MemoryOk.ite h.modHart.settleSwitch h.modHart).tryExit

/-! ### Yields, boundaries and the return from a trap -/

theorem yieldAct {on : Wait} (h : MemoryOk s) : ActOk (yieldAct s e f w on) := .ite h.modHart h.modHart.settleSwitch

theorem execYield (h : MemoryOk s) : OutcomeOk (execYield f s) := h.issue fun _ _ h => h.yieldAct

theorem execSleep (h : MemoryOk s) : OutcomeOk (execSleep f s) := h.issue fun _ _ h => .ite h.yieldAct h

theorem execOflush (h : MemoryOk s) : OutcomeOk (execOflush f s) := h.issue fun _ _ h => .ite h.yieldAct h

theorem execReconv (h : MemoryOk s) : OutcomeOk (execReconv f s) :=
  h.issue fun _ _ h => .ite trivial (.ite h.writePred (.ite h.releaseReconv.writePred.modHart h.releaseReconv))

theorem execRegion (h : MemoryOk s) : OutcomeOk (execRegion f s) := h.issue fun _ _ h => .ite h.boundaryAfter trivial

theorem sendFrom {link : Nat} {chip : Bool} {x : LinkKind} {d : Option Nat} {ext : LoadExt} {lay : List OrdEntry}
    (h : MemoryOk s) : MemoryOk (sendFrom s e link chip a x d ext lay) := h.sendLink

theorem askFrame {ls : List Loc} (h : MemoryOk s) : MemoryOk (askFrame s e ls) :=
  h.foldl _ fun _ _ h => by
    split
    · exact h
    · exact h.modHart.sendFrom

theorem readChunks {ls : List (Loc × Nat)} (h : MemoryOk s) : MemoryOk (readChunks s e ls).1 := by
  induction ls generalizing s with
  | nil => exact h
  | cons x ls ih =>
    obtain ⟨l, k⟩ := x
    cases l with
    | peer l chip f =>
      unfold Machine.readChunks
      split
      · exact (ih h).of_fst_eq ‹_›
      · exact (ih h).of_fst_eq ‹_›
    | flat f host =>
      unfold Machine.readChunks
      dsimp only
      split
      · exact (ih h.meetSpan).of_fst_eq ‹_›
      · exact (ih h.meetSpan).of_fst_eq ‹_›

theorem readFrame {ls : List Loc} (h : MemoryOk s) : MemoryOk (readFrame s e ls).1 := h.readChunks

theorem execTret (h : MemoryOk s) : OutcomeOk (execTret f s) :=
  h.issue fun e s h => by
    extract_lets w fault va park walked
    have hf {u : State} (hu : MemoryOk u) : ActOk (fault u) := hu.killGroup
    have hp {u : State} (hu : MemoryOk u) : ActOk (park u) := MemoryOk.ite hu.modHart.settleSwitch hu.modHart
    have hw : MemoryOk walked := h.walkFrame
    refine .ite trivial (.ite (hp h) ?_)
    split
    · exact hf hw.meetFrame
    · refine .ite (.ite trivial (hp hw.askFrame)) ?_
      split
      · exact hf (hw.readFrame.of_fst_eq ‹_›)
      · extract_lets restored
        have hr : MemoryOk restored := (hw.readFrame.of_fst_eq ‹_›).modHart
        split
        · exact MemoryOk.ite hr hr.recordOf
        · exact hr

end Sys2Proof.MemoryOk
end

section
/-!
Rendezvous, barriers, accesses, the decision queue, and the acceptance of commands keep memory canonical.
-/
namespace Sys2Proof.MemoryOk
open Machine

variable {s s' : State} {e : Env} {row : OpRow} {f : Form} {g : Group}
variable {n k a b len v core : Nat} {c : Cause}

/-! ## Rendezvous, barriers, fences (12 R259 to R266) -/

theorem rdvAct (h : MemoryOk s) : ActOk (rdvAct s e row f) :=
  .ite trivial (.ite trivial (.ite h.modGroup (.ite h.modGroup h.dissolveAll.raiseTrap)))

theorem waitHalf (h : MemoryOk s) : ActOk (waitHalf s e b) := by
  unfold Machine.waitHalf
  split
  · trivial
  · exact .ite h trivial
  · exact .ite h.modHart.settleMark trivial

theorem barAct {cluster : Bool} (h : MemoryOk s) : ActOk (barAct s e cluster f) := by
  unfold Machine.barAct
  split
  · trivial
  · exact .ite h.waitHalf (.ite trivial h.modHart)

theorem arriveAct {cluster : Bool} (h : MemoryOk s) : ActOk (arriveAct s e cluster f) := by
  unfold Machine.arriveAct
  split
  · trivial
  · exact .ite trivial h.modHart

theorem waitAct {cluster : Bool} (h : MemoryOk s) : ActOk (waitAct s e cluster f) := by
  unfold Machine.waitAct
  split
  · trivial
  · exact h.waitHalf

theorem execBtest (h : MemoryOk s) : OutcomeOk (execBtest f s) :=
  h.issue fun _ _ h => by
    split
    · trivial
    · split
      · trivial
      · exact h.writePred
      · exact h.writePred.modHart

theorem execFence (h : MemoryOk s) : OutcomeOk (execFence f s) :=
  h.issue fun _ s h => by
    extract_lets rel acq flushed
    have hf : MemoryOk flushed := .ite h.flushL1 h
    exact .ite h (.ite trivial (MemoryOk.ite hf.modHart hf))

theorem execTrig (h : MemoryOk s) : OutcomeOk (execTrig f s) := h.issue fun _ _ h => .ite trivial h.flushL1.countTrigger

/-! ## Accesses (05; 13 R276 to R290) -/

theorem meetPath {x : Access} (h : MemoryOk s) : MemoryOk (meetPath s e x) := .ite h.coreWalk h

theorem failAccess {x : Access} (h : MemoryOk s) : ActOk (failAccess s e x c) := .ite h.meetWalk trivial

theorem evictBytes {inside : Nat → Bool} (h : MemoryOk s) : MemoryOk (evictBytes s core inside) := .ite h h.modCore.writeHome

theorem evictRange (h : MemoryOk s) : MemoryOk (evictRange s core a len) := h.evictBytes

theorem readFlat {sub : Nat} (h : MemoryOk s) : MemoryOk (readFlat s e sub a len).2.1 := (MemoryOk.ite h.evictRange h).meetSpan

theorem performBytes {ws : List WByte} {home : Bool} (h : MemoryOk s) : MemoryOk (performBytes s core ws home) :=
  .ite h.evictBytes.modCore.writeHome h.modCore.modTovor.touch

theorem performAtomic {kind : AtomKind} {home : Bool} {tag : NanTag} (h : MemoryOk s) :
    MemoryOk (performAtomic s core kind a home tag).1 := by
  unfold Machine.performAtomic
  extract_lets evicted
  have he : MemoryOk evicted := .ite h.evictRange h
  exact .ite he.performBytes he

theorem spillEntry (h : MemoryOk s) (hs : spillEntry s g k = some s') : MemoryOk s' := by
  unfold Machine.spillEntry at hs
  obtain ⟨a, -, ha⟩ := Option.bind_eq_some_iff.mp hs
  exact writePf (s := { s with free := s.free + 1 }) h ha

theorem bufferOrd {o : OrdEntry} (h : MemoryOk s) : ActOk (bufferOrd s e o) := by
  unfold Machine.bufferOrd
  extract_lets words ordered done
  have ho : MemoryOk ordered := h.modHart
  have hd {u : State} (hu : MemoryOk u) : ActOk (done u) := MemoryOk.ite hu.boundaryAfter hu
  refine .ite ho.killGroup (.ite (hd ho) ?_)
  split
  · exact hd (ho.spillEntry ‹_›)
  · exact ho.killGroup

theorem loadAct {x : Access} {ext : LoadExt} (h : MemoryOk s) : ActOk (loadAct s e row f x ext) := by
  unfold Machine.loadAct
  extract_lets walked
  have hw : MemoryOk walked := h.meetPath
  split
  · exact hw.failAccess
  · refine .ite trivial ?_
    split
    · dsimp only
      split
      · exact hw.readFlat
      · exact hw.readFlat.writeDst
    · exact .ite trivial hw.markPending.sendFrom

theorem storeAct {sub : Nat} {ord : Bool} {x : Access} {mask : Byte} (h : MemoryOk s) : ActOk (storeAct s e sub ord x v mask) := by
  unfold Machine.storeAct
  extract_lets walked
  have hw : MemoryOk walked := h.meetPath
  refine .ite trivial ?_
  split
  · exact hw.failAccess
  · exact .ite trivial (.ite (.ite trivial hw.bufferOrd) hw.pushStore)

theorem atomAct {kind : AtomKind} (h : MemoryOk s) : ActOk (atomAct s e row f kind) := by
  unfold Machine.atomAct
  extract_lets size red x walked
  have hw : MemoryOk walked := h.meetPath
  split
  · exact hw.failAccess
  · refine .ite trivial (.ite (MemoryOk.ite hw hw.markPending).modHart.bufferOrd ?_)
    split
    · dsimp only
      split
      · exact hw.meetMemory
      · exact hw.meetMemory.performAtomic.writeDst.boundaryAfter
    · exact hw.sendFrom.boundaryAfter

theorem execWaita (h : MemoryOk s) : OutcomeOk (execWaita f s) :=
  h.issue fun e s h => by
    extract_lets size x walked
    have hw : MemoryOk walked := h.meetPath
    split
    · exact hw.failAccess
    · trivial
    · refine .ite trivial ?_
      dsimp only
      split
      · exact hw.readFlat
      · exact .ite hw.readFlat.writeDst.modHart hw.readFlat

theorem execLdt (h : MemoryOk s) : OutcomeOk (execLdt f s) :=
  h.issue fun _ _ h => by
    split
    · trivial
    · exact h.writeDst
    · exact h.loadAct

theorem execStt (h : MemoryOk s) : OutcomeOk (execStt f s) :=
  h.issue fun _ _ h => by
    split
    · trivial
    · exact h
    · exact h.storeAct

theorem execPf (h : MemoryOk s) : OutcomeOk (execPf f s) := h.issue fun _ _ h => .ite trivial (.ite trivial h)

/-! ## The decision queue (03 R82 to R86) -/

theorem execDqpush (h : MemoryOk s) : OutcomeOk (execDqpush f s) :=
  h.issue fun _ _ h => .ite trivial (.ite h.boundaryAfter (.ite h h.modGroup.settlePeers.boundaryAfter))

theorem execDqpop (h : MemoryOk s) : OutcomeOk (execDqpop f s) :=
  h.issue fun _ _ h => by
    refine .ite trivial ?_
    split
    · exact h.writeDst.modHart.modGroup.settlePeers.boundaryAfter
    · exact .ite trivial h

theorem execDqlen (h : MemoryOk s) : OutcomeOk (execDqlen f s) := h.issue fun _ _ h => h.writeDst

/-! ## Engine commands issued (14 R295 to R310) -/

theorem takeLocks {asks : List LockAsk} (h : MemoryOk s) : MemoryOk (takeLocks n k s asks) := by
  induction asks generalizing s with
  | nil => exact h
  | cons x asks ih => exact ih h.modCore

theorem acceptCmd {kind : CmdKind} {ws : List Word} {descs : Map (BitVec 1024)} {asks : List LockAsk} {claims : Bool}
    (h : MemoryOk s) : ActOk (acceptCmd s e kind ws descs asks claims) := by
  unfold Machine.acceptCmd
  extract_lets _ _ _ _ _ locked recorded
  have hl : MemoryOk locked := h.modCore.takeLocks
  have hr : MemoryOk recorded := .ite hl hl.recordOf
  exact .ite trivial (MemoryOk.ite hr hr.modHart)

theorem withClaim {act : Act} (h : MemoryOk s) (ha : ActOk act) : ActOk (withClaim s e act) := by
  unfold Machine.withClaim
  split
  · exact .ite ha h
  · exact ha

theorem slotTurn {act : Act} (h : MemoryOk s) (ha : ActOk act) : ActOk (slotTurn s e k act) := by
  unfold Machine.slotTurn
  split
  · exact .ite trivial ha
  · exact .ite (modHart (s := { s with free := s.free + 1 }) h) ha

theorem execCpy (h : MemoryOk s) : OutcomeOk (execCpy f s) :=
  h.issue fun _ _ h => by
    refine .ite trivial (.ite trivial ?_)
    split
    · exact .ite trivial (.ite trivial (.ite trivial (.ite trivial h.acceptCmd)))
    · trivial

theorem execCpyq (h : MemoryOk s) : OutcomeOk (execCpyq f s) := h.issue fun _ _ h => h.writeDst

theorem execCpyc (h : MemoryOk s) : OutcomeOk (execCpyc f s) :=
  h.issue fun _ _ h => by
    split
    · exact h
    · exact h.removeCmd.cancelCpy

theorem execMxz (h : MemoryOk s) : OutcomeOk (execMxz f s) :=
  h.issue fun _ _ h => .ite trivial (.ite trivial (.ite trivial (h.withClaim h.acceptCmd)))

theorem execMx (h : MemoryOk s) : OutcomeOk (execMx f s) :=
  h.issue fun _ _ h =>
    .ite trivial (.ite trivial (.ite trivial (.ite trivial (.ite trivial (.ite trivial (h.withClaim (.ite trivial h.acceptCmd)))))))

theorem execMxd (h : MemoryOk s) : OutcomeOk (execMxd f s) :=
  h.issue fun _ _ h => by
    dsimp only
    split
    · trivial
    · split
      · trivial
      · exact h.withClaim h.acceptCmd

theorem execMxs (h : MemoryOk s) : OutcomeOk (execMxs f s) :=
  h.issue fun _ _ h => by
    dsimp only
    split
    · trivial
    · split
      · trivial
      · exact .ite trivial (.ite trivial (.ite trivial (h.withClaim h.acceptCmd)))

theorem execMxw (h : MemoryOk s) : OutcomeOk (execMxw f s) := h.issue fun _ _ h => .ite trivial h.modHart

theorem execDlt (h : MemoryOk s) : OutcomeOk (execDlt f s) :=
  h.issue fun _ _ h => .ite trivial (.ite trivial (h.slotTurn
    (.ite trivial (.ite trivial (.ite trivial (.ite trivial (.ite trivial (h.withClaim h.acceptCmd))))))))

/-! ## Slots and descriptors (14 R311 to R314) -/

theorem setSlot {bits : BitVec 512} (h : MemoryOk s) : MemoryOk (s.setSlot n k bits) := h

theorem execRsbind (h : MemoryOk s) : OutcomeOk (execRsbind f s) :=
  h.issue fun _ _ h => .ite trivial (h.slotTurn (.ite trivial (.ite trivial (.ite trivial (.ite trivial h.modCtx)))))

theorem execRsinv (h : MemoryOk s) : OutcomeOk (execRsinv f s) :=
  h.issue fun _ _ h => .ite trivial (h.slotTurn (.ite trivial h.setSlot))

theorem execRsinvRel (h : MemoryOk s) : OutcomeOk (execRsinvRel f s) := h.issue fun _ _ h => .ite trivial (h.slotTurn h.setSlot)

theorem execRsref (h : MemoryOk s) : OutcomeOk (execRsref f s) :=
  h.issue fun _ _ h => .ite trivial (h.slotTurn (.ite trivial h.setSlot))

theorem execRsq (h : MemoryOk s) : OutcomeOk (execRsq f s) := h.issue fun _ _ h => .ite trivial h.writeDst

theorem execRsparam (h : MemoryOk s) : OutcomeOk (execRsparam f s) :=
  h.issue fun _ _ h => .ite trivial (h.slotTurn (.ite trivial h.setSlot))

theorem execTdw (h : MemoryOk s) : OutcomeOk (execTdw f s) :=
  h.issue fun _ _ h => .ite trivial (.ite trivial (.ite trivial h.modCtx))

theorem execTdr (h : MemoryOk s) : OutcomeOk (execTdr f s) := h.issue fun _ _ h => .ite trivial (.ite trivial h.writeDst)

end Sys2Proof.MemoryOk
end

section
/-!
LAUNCH, SIGNAL, system registers, results and stores that arrive, eviction and placement keep memory canonical.
-/
namespace Sys2Proof.MemoryOk
open Machine

variable {s s' : State} {r : CtxRef} {e : Env} {f : Form} {g : Group} {w : IWord} {gr : Grid} {x : Cmd}
variable {n k p q a b key core : Nat} {c : Cause}

/-! ## Launch, events, random numbers, system registers (14 R315 to R320) -/

theorem readRecord {lay : List OrdEntry} (h : MemoryOk s) : MemoryOk (readRecord s n a lay).1 := by
  unfold Machine.readRecord
  split
  · exact h
  · split
    · exact (h.walked.of_fst_eq ‹_›).meetSpan
    · exact h.walked.of_fst_eq ‹_›

theorem appendRecord {bits : BitVec 1024} (h : MemoryOk s) (ha : appendRecord s n p k bits = some s') : MemoryOk s' := by
  unfold Machine.appendRecord at ha
  dsimp only at ha
  split at ha
  · cases ha; exact (h.walked.of_fst_eq ‹_›).writeNat.modQueue
  · cases ha

theorem denyLaunchers (h : MemoryOk s) : MemoryOk (denyLaunchers s p k) :=
  h.foldl _ fun _ _ h => by
    split
    · exact .ite h.raiseTrap h
    · exact h

theorem failQueue (h : MemoryOk s) : MemoryOk (failQueue s p k c) := h.modQueue.denyLaunchers

theorem launchFault {pc : Nat} (h : MemoryOk s) : MemoryOk (launchFault s key p k pc) := h.meetWalk.killGroup.failQueue

theorem execLaunch (h : MemoryOk s) : OutcomeOk (execLaunch f s) :=
  h.issue fun e s h => by
    extract_lets va k ctx flushed
    have hf : MemoryOk flushed := h.flushL1
    refine .ite trivial (.ite trivial (.ite trivial ?_))
    split
    · exact (hf.readRecord.of_fst_eq ‹_›).killGroup
    · have hr := hf.readRecord.of_fst_eq ‹_›
      refine .ite trivial (.ite trivial (.ite hr ?_))
      split
      · exact hr.launchFault
      · exact (hr.appendRecord ‹_›).boundaryAfter

theorem execSignal (h : MemoryOk s) : OutcomeOk (execSignal f s) :=
  h.issue fun e s h => by
    extract_lets x walked flushed
    have hw : MemoryOk walked := h.meetPath
    have hf : MemoryOk flushed := hw.flushL1
    split
    · exact hw.failAccess
    · refine .ite trivial (.ite hf.modHart.bufferOrd ?_)
      split
      · dsimp only
        split
        · exact hf.meetMemory
        · exact hf.meetMemory.signalFlat.boundaryAfter
      · exact hf.sendFrom.boundaryAfter

theorem execRand (h : MemoryOk s) : OutcomeOk (execRand f s) := h.issue fun _ _ h => h.modHart.writeDst

theorem execRseed (h : MemoryOk s) : OutcomeOk (execRseed f s) := h.issue fun _ _ h => h.modHart

theorem execSysr (h : MemoryOk s) : OutcomeOk (execSysr f s) :=
  h.issue fun _ _ h => by
    split
    · trivial
    · exact h.writeDst

theorem execSysw (h : MemoryOk s) : OutcomeOk (execSysw f s) :=
  h.issue fun _ _ h => .ite h.modCtx (.ite h.modCtx (.ite trivial trivial))

/-! ## Happenings of one context (02, 04, 18 R367) -/

theorem endPark (h : MemoryOk s) : MemoryOk (endPark s r) := by
  unfold Machine.endPark
  split
  · exact .ite h.modHart.stepAfter h
  · exact h

theorem stewardWrote (h : MemoryOk s) : MemoryOk (stewardWrote s r) := .ite h.modGroup.settlePeers h

theorem execResultReturn (h : MemoryOk s) : OutcomeOk (execResultReturn r k s) := by
  unfold Machine.execResultReturn
  split
  · split
    · exact h
    · split
      · exact h
      · exact .ite h h.modHart.stewardWrote.endPark.tryExit.next
  · exact h

theorem commitStore {hart : Hart} {st : Store} (h : MemoryOk s) : MemoryOk (commitStore s g r hart st) := by
  unfold Machine.commitStore
  refine .ite h.modHart ?_
  split
  · exact h.performBytes
  · exact h.sendLink

theorem execStoreCommit (h : MemoryOk s) : OutcomeOk (execStoreCommit r s) := by
  unfold Machine.execStoreCommit
  split
  · split
    · exact h
    · exact .ite h h.modHart.commitStore.tryExit.next
  · exact h

theorem execBarrierArrivalPerformed (h : MemoryOk s) : OutcomeOk (execBarrierArrivalPerformed r s) := by
  unfold Machine.execBarrierArrivalPerformed
  split
  · split
    · exact h
    · exact .ite h (MemoryOk.ite h.modHart.modGroup.flushL1 h.modHart.modGroup).settleMark.settleWaiting.next
  · exact h

theorem endBatchOf (h : MemoryOk s) : MemoryOk (endBatchOf s key) := by
  unfold Machine.endBatchOf
  split
  · exact .ite h.modGroup h
  · exact h

theorem passBarrier (h : MemoryOk s) : MemoryOk (passBarrier b s r) := by
  unfold Machine.passBarrier
  split
  · exact h
  · exact .ite h (.ite h.modHart.completeWait h.modHart)

theorem execBarrierPhaseComplete (h : MemoryOk s) : OutcomeOk (execBarrierPhaseComplete key b s) := by
  unfold Machine.execBarrierPhaseComplete
  split
  · exact h
  · exact .ite h ((h.foldl _ fun _ _ h => h.passBarrier).foldl _ fun _ _ h => h.settleMark.endBatchOf).next

theorem leaveRdv {i : Rdv} {tag : NanTag} {y : Arrival} (h : MemoryOk s) : MemoryOk (leaveRdv s key i tag y) :=
  h.modHart.completeWait

theorem leaveAll {i : Rdv} {tag : NanTag} {ys : List Arrival} (h : MemoryOk s) : MemoryOk (leaveAll s key i tag ys) := by
  induction ys generalizing s with
  | nil => exact h
  | cons y ys ih => exact ih h.leaveRdv

theorem unmark (h : MemoryOk s) : MemoryOk (unmark s key g) := h.modGroup

theorem execRdvInstanceComplete (h : MemoryOk s) : OutcomeOk (execRdvInstanceComplete key k s) := by
  unfold Machine.execRdvInstanceComplete
  split
  · exact h
  · split
    · exact h
    · exact .ite h h.modGroup.leaveAll.settleMark.unmark.next

theorem execReconvTimeout (h : MemoryOk s) : OutcomeOk (execReconvTimeout r s) := by
  unfold Machine.execReconvTimeout
  split
  · split
    · exact .ite h (.ite h.setGroup.settlePeers.next (.ite h.endReconv.next h))
    · exact h
  · exact h

theorem execUrgentThread (h : MemoryOk s) : OutcomeOk (execUrgentThread r s) := by
  unfold Machine.execUrgentThread
  split
  · exact .ite h.modHart.next h
  · exact h

theorem execFuseWaitExpiry (h : MemoryOk s) : OutcomeOk (execFuseWaitExpiry r s) := by
  unfold Machine.execFuseWaitExpiry
  split
  · exact .ite h.modHart.next h
  · exact h

theorem execSleepExpiry (h : MemoryOk s) : OutcomeOk (execSleepExpiry r s) := by
  unfold Machine.execSleepExpiry
  split
  · split
    · exact .ite h (.ite h.setGroup.settlePeers.next (.ite h.completeWait.next h))
    · exact h
  · exact h

theorem execTrapEntry (h : MemoryOk s) : OutcomeOk (execTrapEntry r s) := by
  unfold Machine.execTrapEntry
  split
  · split
    · exact .ite h.raiseTrap.next h
    · exact h
  · exact h

theorem execYieldExclusionExpiry (h : MemoryOk s) : OutcomeOk (execYieldExclusionExpiry r s) := by
  unfold Machine.execYieldExclusionExpiry
  split
  · exact .ite h.modHart.next h
  · exact h

theorem execUnassignedOpcode (h : MemoryOk s) : OutcomeOk (execUnassignedOpcode w s) := by
  unfold Machine.execUnassignedOpcode
  split
  · exact h
  · split
    · exact h.modHart.raiseOn
    · exact h.raiseTrap

/-! ## Eviction (03 R97 to R100) -/

theorem beginImage (h : MemoryOk s) : MemoryOk (beginImage s key) := by
  have hs : MemoryOk { s with free := s.free + 1 } := h
  unfold Machine.beginImage
  split
  · exact h
  · split
    · exact h
    · refine .ite h ?_
      split
      · exact hs.setGroup
      · exact hs.killGroup

theorem watchdogOne (h : MemoryOk s) : MemoryOk (watchdogOne s key) := by
  unfold Machine.watchdogOne
  split
  · exact h
  · exact h.killOne.foldl _ fun _ _ h => h.logEvent

theorem execEvictionTimerExpiry (h : MemoryOk s) : OutcomeOk (execEvictionTimerExpiry key s) := by
  unfold Machine.execEvictionTimerExpiry
  split
  · exact h
  · exact .ite h (.ite (h.foldl _ fun _ _ h => h.beginImage).next (h.foldl _ fun _ _ h => h.watchdogOne).next)

/-! ## Placement (16 R341, R342) -/

theorem enterFixed {ks : List Nat} (h : MemoryOk s) : MemoryOk (enterFixed s p ks) := h

theorem adoptMode {x : Ctx} (h : MemoryOk s) : MemoryOk (adoptMode s x n) := .ite (.ite h.enterFixed h) (.ite h.enterFixed h)

theorem passOver {x : PlaceCand} (h : MemoryOk s) : MemoryOk (passOver s p x) := by
  unfold Machine.passOver
  extract_lets passed
  have hp : MemoryOk passed := h.foldl _ fun _ _ h => h
  exact hp

theorem meetLive (h : MemoryOk s) : MemoryOk (meetLive s g gr) :=
  .ite h (h.foldl _ fun _ _ h => by
    split
    · exact (h.walked.of_fst_eq ‹_›).meetMemory
    · exact h.walked.of_fst_eq ‹_›)

theorem readImage {i : Image} (h : MemoryOk s) : MemoryOk (readImage s n i).1 := h.meetAll

theorem returned (h : MemoryOk s) : MemoryOk (returned s g gr).1 := by
  unfold Machine.returned
  split
  · exact h.meetLive
  · exact .ite h.readImage.meetLive h.readImage

theorem moveResume (h : MemoryOk s) : MemoryOk (moveResume s key a b) := h.modCore.modCore

/-- The image of a group written back into a scratchpad keeps memory canonical. -/
theorem enterCore {cluster : Nat} {spot : Spot} (h : MemoryOk s) : MemoryOk (enterCore s key g gr cluster core spot) := by
  unfold Machine.enterCore
  extract_lets _ newPad _ _ _ _ _ _ sent moved loaded claimed _ woken
  have hm : MemoryOk moved := h.modTovor.setGroup.moveResume
  have hl : MemoryOk loaded := memSetBytes_wf (memZero_wf hm _ _) _ _
  have hc : MemoryOk claimed := .ite hl.modCore hl
  have hw : MemoryOk woken := .ite hc.wakePair hc
  exact hw.modCore

theorem placeOne {gid cluster quad : Nat} {x : Nat × Nat} (h : MemoryOk s) : MemoryOk (placeOne gid gr cluster quad s x) := by
  unfold Machine.placeOne
  extract_lets key q
  split
  · split
    · exact h.setGroup
    · exact h
  · refine .ite h ?_
    split
    · exact h
    · split
      · exact (h.returned.of_fst_eq ‹_›).enterCore
      · exact (h.returned.of_fst_eq ‹_›).killGroup

theorem resettle (h : MemoryOk s) : MemoryOk (resettle s key) := by
  unfold Machine.resettle
  split
  · exact h
  · exact (h.foldl _ fun _ _ h => h.tryExit).settleRetiring.settleWaiting

theorem startSlice {again : Bool} (h : MemoryOk s) : MemoryOk (startSlice s n again) := h

theorem execGroupPlacement {cluster quad : Nat} (h : MemoryOk s) : OutcomeOk (execGroupPlacement key cluster core quad s) := by
  unfold Machine.execGroupPlacement
  split
  · exact h
  · split
    · exact h
    · refine .ite h ?_
      extract_lets _ _ _ placed counted
      have hp : MemoryOk placed := h.passOver.adoptMode.foldl _ fun _ _ h => h.placeOne
      have hc : MemoryOk counted := .ite hp hp.modGrid
      exact (hc.startSlice.foldl _ fun _ _ h => h.resettle).next

theorem execClusterModeChange {cluster : Nat} {fixed : Bool} (h : MemoryOk s) : OutcomeOk (execClusterModeChange cluster fixed s) := by
  unfold Machine.execClusterModeChange
  refine .ite h ?_
  split
  · exact h.enterFixed
  · exact h

end Sys2Proof.MemoryOk
end

section
/-!
The engines keep memory canonical: the accesses of a command, MX, CPY, DLT and the drains.
-/
namespace Sys2Proof.MemoryOk
open Machine

variable {s s' : State} {e : Env} {g : Group} {x : Cmd} {d : BitVec 1024}
variable {n k p q j a b len v core space : Nat} {addr : Int} {c : Cause}

/-! ## Accesses of an engine (05 R129; 14 R296) -/

theorem engFold {α β : Type} {f : State → α → Except EngStop (β × State)} {xs : List α} (h : MemoryOk s)
    (hf : ∀ s x, MemoryOk s → EngOk (f s x)) : EngOk (engFold f s xs) := by
  induction xs generalizing s with
  | nil => exact h
  | cons x xs ih =>
    unfold Machine.engFold
    split
    · exact (hf s x h).of_error ‹_›
    · have hx := (hf s x h).of_ok_mk ‹_›
      split
      · exact (ih hx).of_error ‹_›
      · exact (ih hx).of_ok_mk ‹_›

theorem engWalk (h : MemoryOk s) : MemoryOk (engWalk s e space addr) := .ite h.coreWalk h

/-- The state in which an engine's access meets an event has canonical memory. -/
theorem engLoc {write : Bool} {y : EngStop} (h : MemoryOk s) (hy : engLoc s e space addr len write = .error y) : EngStopOk y := by
  unfold Machine.engLoc at hy
  split at hy
  · split at hy <;> cases hy
    · exact h.meetWalk
    · trivial
  · cases hy; trivial

theorem engRead (h : MemoryOk s) : EngOk (engRead s e space addr len) := by
  unfold Machine.engRead
  extract_lets walked
  have hw : MemoryOk walked := h.engWalk
  split
  · exact hw.engLoc ‹_›
  · dsimp only
    split
    · exact hw.meetSpan
    · exact hw.meetSpan
  · split
    · exact hw
    · trivial

theorem engElem {y : Nat × Nat} (h : MemoryOk s) : EngOk (engElem e d s y) := by
  unfold Machine.engElem
  split
  · exact h
  · split
    · split
      · exact h.engRead.of_error ‹_›
      · have hr := h.engRead.of_ok_mk ‹_›
        split
        · exact hr
        · exact hr
    · exact h

theorem engVec (h : MemoryOk s) : EngOk (engVec e d k n s v) := h.engFold fun _ _ h => h.engElem

theorem engWrite {odd : Bool} (h : MemoryOk s) : EngOk (engWrite s e space addr n odd v) := by
  unfold Machine.engWrite
  extract_lets walked
  have hw : MemoryOk walked := h.engWalk
  split
  · exact hw.engLoc ‹_›
  · exact hw
  · exact hw

theorem engPerform {own : Option (Nat × Nat)} {ws : List EngWrite} (h : MemoryOk s) : MemoryOk (engPerform e own n s ws) := by
  induction ws generalizing s with
  | nil => exact h
  | cons y ws ih =>
    cases y with
    | bytes ws => exact ih h.evictBytes.modCore.writeHome
    | remote l chip a k => exact ih h.sendLink

/-! ## The commands under way -/

theorem takeAgain (h : MemoryOk s) : MemoryOk (takeAgain s x) := h.foldl _ fun _ _ h => h.modCore

theorem putCmd (h : MemoryOk s) : MemoryOk (putCmd s core x) := h.modCore

theorem execEngineCommandStart (h : MemoryOk s) : OutcomeOk (execEngineCommandStart core k s) := by
  unfold Machine.execEngineCommandStart
  split
  · exact h
  · exact .ite h h.takeAgain.putCmd.next

theorem pastCmd (h : MemoryOk s) : MemoryOk (pastCmd s x) := h.modGroup

theorem endCmd (h : MemoryOk s) : MemoryOk (endCmd s core x) :=
  (MemoryOk.ite h.removeCmd h.removeCmd.pastCmd.settleMark).tryExit.settleWaiting

theorem putTile {ws : List (BitVec 40)} {y : Option Prov} (h : MemoryOk s) : MemoryOk (putTile s core q k ws y) := h.modCore

theorem zeroTiles {qs : List Nat} (h : MemoryOk s) : MemoryOk (zeroTiles core k s qs) := by
  induction qs generalizing s with
  | nil => exact h
  | cons q qs ih => exact ih h.putTile

theorem askPeer {link : Nat} {chip : Bool} (h : MemoryOk s) : MemoryOk (askPeer s g x link chip a len) := .ite h h.sendLink

theorem restartCmd (h : MemoryOk s) : MemoryOk (restartCmd s core x) := h

theorem abandonCmd (h : MemoryOk s) : MemoryOk (abandonCmd s core g x) := by
  unfold Machine.abandonCmd
  extract_lets again left
  have hl : MemoryOk left := .ite h.restartCmd h.removeCmd.modGroup
  split
  · exact .ite hl.abandonSlot hl
  · exact .ite hl hl.modCore
  · exact hl.modCore
  · exact hl

theorem abandonFrom (h : MemoryOk s) : MemoryOk (abandonFrom s core g x) := h.abandonCmd.foldl _ fun _ _ h => h.abandonCmd

/-- What the end of a failed access leaves has canonical memory. -/
theorem engFail {y : EngStop} (h : MemoryOk s) (hy : EngStopOk y) : MemoryOk (engFail s core g x y) := by
  cases y with
  | ask link chip a len => exact h.askPeer
  | page a => exact h.killGroup
  | err s' c q => exact (MemoryOk.abandonFrom hy).integrityEvent.modHart

/-! ## MXZ and MX (14 R304, R305) -/

theorem mxCols (h : MemoryOk s) : EngOk (mxCols e x n s) := h.engFold fun _ _ h => h.engVec

theorem mxRows (h : MemoryOk s) : EngOk (mxRows e x n s j) := h.engFold fun _ _ h => h.engVec

theorem mxApply {rows : List (List (List Int))} {cols : List (List Int)} (h : MemoryOk s) :
    MemoryOk (mxApply core x rows cols s) := h.foldl _ fun _ _ h => h.modCore

theorem mxMove (h : MemoryOk s) : ResultOk EngStopOk id (mxMove e core x n s) := by
  unfold Machine.mxMove
  split
  · exact h
  · split
    · exact h.mxCols.of_error ‹_›
    · have hc := h.mxCols.of_ok_mk ‹_›
      have hr := fun l => hc.engFold (xs := l) fun s j h => h.mxRows (e := e) (x := x) (n := n) (j := j)
      split
      · exact (hr _).of_error ‹_›
      · exact ((hr _).of_ok_mk ‹_›).mxApply.putCmd

theorem mxDepth (h : MemoryOk s) : MemoryOk (mxDepth core x s) := h.foldl _ fun _ _ h => h.modCore

theorem execMxComplete (h : MemoryOk s) : OutcomeOk (execMxComplete core k s) := by
  unfold Machine.execMxComplete
  split
  · exact h
  · refine .ite h ?_
    split
    · exact h.zeroTiles.endCmd
    · split
      · exact h
      · split
        · exact h.engFail (h.mxMove.of_error ‹_›)
        · exact (mxDepth (h.mxMove.of_ok ‹_›)).endCmd
    · exact h

/-! ## CPY (14 R300 to R303) -/

theorem cpyElem {y : List Int} (h : MemoryOk s) : EngOk (cpyElem e x s y) := by
  unfold Machine.cpyElem
  extract_lets src dst st bits got
  have hg : EngOk got := by
    unfold got
    split
    · split
      · exact h.engRead.of_error ‹_›
      · exact h.engRead.of_ok_mk ‹_›
    · exact h
  clear_value got
  split
  · exact hg
  · have hr := hg.of_ok_mk rfl
    split
    · split
      · exact hr.engWrite.of_error ‹_›
      · exact hr.engWrite.of_ok_mk ‹_›
    · exact hr

theorem cpyMove (h : MemoryOk s) : ResultOk EngStopOk id (cpyMove e core x n s) := by
  have hf := fun l => h.engFold (xs := l) fun s y h => h.cpyElem (e := e) (x := x) (y := y)
  unfold Machine.cpyMove
  split
  · exact (hf _).of_error ‹_›
  · exact ((hf _).of_ok_mk ‹_›).engPerform.putCmd

theorem askWrites {ws : List Nat} (h : MemoryOk s) : MemoryOk (askWrites s e core x ws) := h.putCmd.recordOf

theorem execCpyComplete (h : MemoryOk s) : OutcomeOk (execCpyComplete core k s) := by
  unfold Machine.execCpyComplete
  split
  · exact h
  · refine .ite h ?_
    split
    · exact h
    · split
      · exact h.engFail (h.cpyMove.of_error ‹_›)
      · have hm : MemoryOk _ := h.cpyMove.of_ok ‹_›
        exact .ite hm (.ite hm.askWrites (.ite hm hm.writeDue.endCmd))

/-! ## DLT (07 R167, R168) -/

theorem refElem {y : BitVec 512} (h : MemoryOk s) : EngOk (refElem e y n s k) := by
  unfold Machine.refElem
  split
  · exact h.engRead.of_error ‹_›
  · exact h.engRead.of_ok_mk ‹_›

theorem rowProducts {ins : List Int} (h : MemoryOk s) : EngOk (rowProducts e d b ins s k) := by
  unfold Machine.rowProducts
  split
  · exact h.engVec.of_error ‹_›
  · exact h.engVec.of_ok_mk ‹_›

theorem resWord {y : BitVec 512} {fresh : Bool} {z : Int × Nat} (h : MemoryOk s) : EngOk (resWord e y fresh n s z) := by
  unfold Machine.resWord
  split
  · exact h
  · split
    · exact h.engRead.of_error ‹_›
    · exact h.engRead.of_ok_mk ‹_›

theorem blockWrites {y : BitVec 512} {ys : List (BitVec 40)} {xs : List Int} (h : MemoryOk s) :
    EngOk (blockWrites s e y b n ys xs) := h.engFold fun _ _ h => h.engWrite

theorem blockStep (h : MemoryOk s) : EngOk (blockStep s e x b n) := by
  unfold Machine.blockStep
  extract_lets y w input full
  have hrefs {u l} (hu : MemoryOk u) : EngOk (Machine.engFold (Machine.refElem e y n) u l) := hu.engFold fun _ _ h => h.refElem
  have hsums {u l ins} (hu : MemoryOk u) : EngOk (Machine.engFold (Machine.rowProducts e w b ins) u l) :=
    hu.engFold fun _ _ h => h.rowProducts
  have hres {u l fresh} (hu : MemoryOk u) : EngOk (Machine.engFold (Machine.resWord e y fresh n) u l) :=
    hu.engFold fun _ _ h => h.resWord
  have hage {u space addr} (hu : MemoryOk u) : EngOk (if full then .ok (0, u) else Machine.engRead u e space addr 1) := by
    split
    · exact hu
    · exact hu.engRead
  split
  · exact h.engVec.of_error ‹_›
  · have hi := h.engVec.of_ok_mk ‹_›
    split
    · exact (hrefs hi).of_error ‹_›
    · have hr := (hrefs hi).of_ok_mk ‹_›
      split
      · exact (hage hr).of_error ‹_›
      · have ha := (hage hr).of_ok_mk ‹_›
        dsimp only
        split
        · split
          · exact (hsums ha).of_error ‹_›
          · have hs := (hsums ha).of_ok_mk ‹_›
            split
            · exact (hres hs).of_error ‹_›
            · have hy := (hres hs).of_ok_mk ‹_›
              split
              · exact hy.blockWrites.of_error ‹_›
              · exact hy.blockWrites.of_ok_mk ‹_›
        · split
          · exact ha.engWrite.of_error ‹_›
          · exact ha.engWrite.of_ok_mk ‹_›

theorem execDltBlockStep (h : MemoryOk s) : OutcomeOk (execDltBlockStep core k s) := by
  unfold Machine.execDltBlockStep
  split
  · exact h
  · split
    · exact h
    · refine .ite h ?_
      split
      · exact h.engFail (h.blockStep.of_error ‹_›)
      · have hb := h.blockStep.of_ok_mk ‹_›
        exact .ite hb.askWrites (.ite hb hb.engPerform.setSlot.putCmd.next)

theorem deliverWord {y : BitVec 512} {z : Nat × Nat} (h : MemoryOk s) : EngOk (deliverWord e y s z) := by
  unfold Machine.deliverWord
  split
  · exact h
  · split
    · exact h.engRead.of_error ‹_›
    · exact h.engRead.of_ok_mk ‹_›

theorem deliverTile {y : BitVec 512} (h : MemoryOk s) : EngOk (deliverTile e y s j) := h.engFold fun _ _ h => h.deliverWord

theorem execDltComplete (h : MemoryOk s) : OutcomeOk (execDltComplete core k s) := by
  unfold Machine.execDltComplete
  split
  · exact h
  · split
    · exact h
    · extract_lets y
      have ht {e l} : EngOk (Machine.engFold (Machine.deliverTile e y) s l) := h.engFold fun _ _ h => h.deliverTile
      refine .ite h ?_
      split
      · exact h.engFail (ht.of_error ‹_›)
      · exact ((ht.of_ok_mk ‹_›).foldl _ fun _ _ h => h.putTile).setSlot.endCmd.next

/-! ## Drains (14 R306 to R309) -/

theorem markSlot {ctx : Nat} (h : MemoryOk s) : MemoryOk (markSlot s core q k n ctx) := by
  unfold Machine.markSlot
  split
  · exact h
  · exact .ite h h

theorem epiElem {en : Bool} {base idx dflt : Nat} (h : MemoryOk s) : EngOk (epiElem e en space base idx dflt s) := by
  unfold Machine.epiElem
  split
  · exact h.engRead
  · exact h

theorem drainElem {y : Nat × Nat} (h : MemoryOk s) : EngOk (drainElem e core x s y) := by
  unfold Machine.drainElem
  dsimp only
  split
  · exact h
  · split
    · exact h.markSlot
    · split
      · exact h.epiElem.of_error ‹_›
      · have hr := h.epiElem.of_ok_mk ‹_›
        split
        · exact hr.epiElem.of_error ‹_›
        · have hc := hr.epiElem.of_ok_mk ‹_›
          split
          · exact hc.epiElem.of_error ‹_›
          · exact hc.epiElem.of_ok_mk ‹_›

theorem wakeReaders (h : MemoryOk s) : MemoryOk (wakeReaders s x) := h.modGroup.settlePeers

theorem execDrainRowConvert (h : MemoryOk s) : OutcomeOk (execDrainRowConvert core k s) := by
  have hd {e x l} : EngOk (Machine.engFold (Machine.drainElem e core x) s l) := h.engFold fun _ _ h => h.drainElem
  unfold Machine.execDrainRowConvert
  split
  · exact h
  · split
    · refine .ite h ?_
      split
      · exact h.engFail (hd.of_error ‹_›)
      · exact (hd.of_ok_mk ‹_›).putCmd.wakeReaders.next
    · exact h

theorem drainZero {z : Bool} (h : MemoryOk s) : MemoryOk (drainZero s core z x) := .ite h.putTile h

theorem execMxdComplete (h : MemoryOk s) : OutcomeOk (execMxdComplete core k s) := by
  unfold Machine.execMxdComplete
  split
  · exact h
  · split
    · exact .ite h h.drainZero.endCmd.next
    · exact h

/-- The state behind the elements that are drained has canonical memory, and so has that of what stops them. -/
theorem drainUntil {ps : List (Nat × Nat)} (h : MemoryOk s) :
    MemoryOk (drainUntil e core x d s ps).2.1 ∧ ∀ y, (drainUntil e core x d s ps).2.2 = some y → EngStopOk y := by
  induction ps generalizing s with
  | nil => exact ⟨h, fun _ hy => nomatch hy⟩
  | cons p ps ih =>
    unfold Machine.drainUntil
    split
    · exact ⟨h, fun _ hy => by cases hy; exact h.drainElem.of_error ‹_›⟩
    · have hd := h.drainElem.of_ok_mk ‹_›
      split
      · split
        · exact ⟨hd, fun _ hy => by cases hy; exact hd.engWrite.of_error ‹_›⟩
        · exact ih (hd.engWrite.of_ok_mk ‹_›)
      · exact ih hd

theorem mxsMove (h : MemoryOk s) :
    MemoryOk (mxsMove e core x n s).1 ∧ ∀ y, (mxsMove e core x n s).2 = some y → EngStopOk y := by
  obtain ⟨hs, hy⟩ := h.drainUntil (e := e) (core := core) (x := x) (d := mapGet 0 x.descs 1) (ps := mxsPoints x n)
  unfold Machine.mxsMove
  dsimp only
  split
  · rename_i u _ _ hu
    have he : MemoryOk u := hy _ hu
    exact ⟨h, fun _ hy => by cases hy; exact he.engPerform⟩
  · exact ⟨hs.engPerform, fun _ hy => by cases hy; trivial⟩
  · exact ⟨h, fun _ hy => by cases hy; trivial⟩
  · exact ⟨hs.engPerform.putCmd, fun _ hy => nomatch hy⟩

theorem execMxsComplete (h : MemoryOk s) : OutcomeOk (execMxsComplete core k s) := by
  unfold Machine.execMxsComplete
  split
  · exact h
  · split
    · refine .ite h (.ite (MemoryOk.ite h.drainUntil.1 h).askWrites.next (.ite h ?_))
      split
      · rename_i hx
        exact (h.mxsMove.1.of_fst_eq hx).engFail (h.mxsMove.2 _ (congrArg Prod.snd hx))
      · have hm := h.mxsMove.1.of_fst_eq ‹_›
        exact (MemoryOk.ite hm.drainZero.endCmd hm).next
    · exact h

end Sys2Proof.MemoryOk
end

section
/-!
Ordered batches, retirement, dispatch, the host's writes, and the life of a context keep memory canonical.
-/
namespace Sys2Proof.MemoryOk
open Machine

variable {s s' : State} {r : CtxRef} {e : Env} {g : Group} {gr : Grid} {w : IWord}
variable {n k p a b len v key part grid : Nat} {c : Cause}

/-! ## Ordered batches (05 R138, R139) -/

theorem ordDone {o : OrdEntry} (h : MemoryOk s) : MemoryOk (ordDone s e o v) := h.modHart.settleMark

theorem applyOrd {who : Who} {o : OrdEntry} (h : MemoryOk s) : OrdStopOk (applyOrd s key g gr who o) := by
  unfold Machine.applyOrd
  split
  · exact h
  · extract_lets e walked
    have hw : MemoryOk walked := .ite h.coreWalk h
    split
    · exact hw.meetWalk
    · exact hw
    · split
      · exact hw
      · exact MemoryOk.ite hw.sendFrom.ordDone hw.sendFrom
    · split
      · exact hw.performBytes
      · dsimp only
        split
        · exact hw.meetMemory
        · exact (MemoryOk.ite hw.meetMemory.performAtomic.signalFull hw.meetMemory.performAtomic).ordDone

theorem applyBatch {os : List (Who × OrdEntry)} (h : MemoryOk s) : MemoryOk (applyBatch key g gr s os).1 := by
  induction os generalizing s with
  | nil => exact h
  | cons o os ih =>
    obtain ⟨who, o⟩ := o
    have ho := h.applyOrd (key := key) (g := g) (gr := gr) (who := who) (o := o)
    unfold Machine.applyBatch
    split <;> rename_i hx <;> rw [hx] at ho
    · exact ih ho
    · exact ho
    · exact ho

theorem closeBatch (h : MemoryOk s) : MemoryOk (closeBatch s grid key g gr) := .ite h h.modGroup.flushL1.setGrid

theorem execOrderedBatchApply (h : MemoryOk s) : OutcomeOk (execOrderedBatchApply grid s) := by
  unfold Machine.execOrderedBatchApply
  split
  · exact h
  · dsimp only
    split
    · exact h
    · refine .ite h ?_
      split
      · exact .ite h.setGrid.next h
      · refine .ite h ?_
        split
        · exact h.applyBatch.killGroup.next
        · exact h.applyBatch.modGroup.raiseOn.next
        · exact h.applyBatch.modGroup.closeBatch.next

/-! ## Retirement and the end of a grid (03 R88; 15 R330, R331) -/

theorem execGroupRetire (h : MemoryOk s) : OutcomeOk (execGroupRetire key s) := by
  unfold Machine.execGroupRetire
  split
  · exact h
  · exact .ite h h.flushL1.releaseClaim.modCore.modGroup.modGrid.countTrigger.settleCtx.next

theorem statusPlaces {y : Option (List Loc)} (h : MemoryOk s) (hp : statusPlaces s n v = (s', y)) : MemoryOk s' := by
  unfold Machine.statusPlaces at hp
  dsimp only at hp
  split at hp
  · cases hp; exact h.walkRange
  · cases hp; exact h.walkRange.meetAll

theorem putPlaces {ls : List Loc} {data : List Byte} (h : MemoryOk s) : MemoryOk (putPlaces s n v ls data) :=
  h.writeHome.foldl _ fun _ _ h => h.sendLink

theorem writeStatus (h : MemoryOk s) : MemoryOk (writeStatus s n a v) := by
  unfold Machine.writeStatus
  refine .ite h ?_
  split
  · exact (h.statusPlaces ‹_›).dropWrite
  · exact (h.statusPlaces ‹_›).putPlaces

theorem finishGrid (h : MemoryOk s) : MemoryOk (finishGrid s n gr) := by
  unfold Machine.finishGrid
  extract_lets mine flushed ended triggered signalled counted
  have hf : MemoryOk flushed := h.foldl _ fun _ _ h => h.flushL1
  have he : MemoryOk ended := .ite h hf.writeStatus.setGrid
  have ht : MemoryOk triggered := .ite he he.bumpEvent
  have hs : MemoryOk signalled := ht.bumpEvent
  have hc : MemoryOk counted := .ite hs.modQueue hs
  exact .ite he (settleCtx (s := { counted with grids := _, groups := _ }) hc)

theorem execGridComplete (h : MemoryOk s) : OutcomeOk (execGridComplete grid s) := by
  unfold Machine.execGridComplete
  split
  · exact h
  · exact .ite h h.finishGrid.next

/-! ## Dispatch (15 R327; 16 R338) -/

theorem headRecord {y : Queue} (h : MemoryOk s) : MemoryOk (headRecord s y).1 := by
  unfold Machine.headRecord
  split
  · exact h
  · exact h.readRecord

theorem logQueue (h : MemoryOk s) : MemoryOk (logQueue s n c a) := h.logEvent

theorem wakeLaunchers (h : MemoryOk s) : MemoryOk (wakeLaunchers s part k) := h

theorem takeHead {inflight : Bool} (h : MemoryOk s) : MemoryOk (takeHead s part k inflight) := h.modQueue.wakeLaunchers

theorem refuse {y : BitVec 1024} {o : Option Cause} (h : MemoryOk s) : MemoryOk (refuse s part k n y a o) := by
  unfold Machine.refuse
  extract_lets logged _ _ _ taken
  have hl : MemoryOk logged := by
    unfold logged
    split
    · exact h.logQueue
    · exact h
  have ht : MemoryOk taken := hl.takeHead
  exact finishGrid (s := { taken with grids := _, gridSeq := _ }) ht

theorem readWaits {y : BitVec 1024} {met ks : List Nat} (h : MemoryOk s) : WaitReadOk (readWaits n y met s ks) := by
  induction ks generalizing s with
  | nil => exact h
  | cons k ks ih =>
    unfold Machine.readWaits
    extract_lets go va
    have hg {u : State} {yes : Bool} (hu : MemoryOk u) : WaitReadOk (go u yes) := by
      unfold go
      split
      · exact (ih hu).of_known ‹_›
      · exact (ih hu).of_fault ‹_›
    split
    · exact hg h
    · split
      · have hw := h.walked.of_fst_eq ‹_›
        split
        · exact hw.meetMemory.of_fst_eq ‹_›
        · exact hg (hw.meetMemory.of_fst_eq ‹_›)
      · exact h.walked.of_fst_eq ‹_›

theorem judgeRecord {y : BitVec 1024} (h : MemoryOk s) : MemoryOk (judgeRecord s n y).1 := by
  unfold Machine.judgeRecord
  split
  · exact h
  · split
    · exact h.readRecord.of_fst_eq ‹_›
    · exact h.readRecord.of_fst_eq ‹_›

theorem startGrid {y z : BitVec 1024} (h : MemoryOk s) : MemoryOk (startGrid s part k n y z a) := h

theorem dispatch {y : BitVec 1024} {met : List Nat} (h : MemoryOk s) : MemoryOk (dispatch s part k n y met) := by
  unfold Machine.dispatch
  refine .ite h.modQueue ?_
  split
  · exact (h.judgeRecord.of_fst_eq ‹_›).refuse
  · exact (h.judgeRecord.of_fst_eq ‹_›).startGrid

theorem execQueueDispatch (h : MemoryOk s) : OutcomeOk (execQueueDispatch part k s) := by
  unfold Machine.execQueueDispatch
  refine .ite h ?_
  split
  · exact (h.headRecord.of_fst_eq ‹_›).failQueue.logQueue.next
  · have hr := h.headRecord.of_fst_eq ‹_›
    refine .ite hr.refuse.next ?_
    split
    · exact (hr.readWaits.of_fault ‹_›).refuse.next
    · exact (hr.readWaits.of_known ‹_›).dispatch.next

theorem execLaunchHeldPerform (h : MemoryOk s) : OutcomeOk (execLaunchHeldPerform r s) := by
  unfold Machine.execLaunchHeldPerform
  split
  · split
    · refine .ite h ?_
      split
      · exact h.launchFault.next
      · exact (h.appendRecord ‹_›).modHart.completeWait.settleMark.next
    · exact h
  · exact h

/-! ## The host's writes to queues (16 R336, R340) -/

theorem postHost {y : HostPost} (h : MemoryOk s) : MemoryOk (postHost s y) := h.modTovor

theorem answerHost {y : HostReply} (h : MemoryOk s) : MemoryOk (answerHost s y) := h.modTovor

theorem unserved {y : Reach} {z : Queue} (h : MemoryOk s) : MemoryOk (unserved s y z) := .ite h.answerHost h

theorem denyDevice {ctx : Option Nat} (h : MemoryOk s) : MemoryOk (denyDevice s ctx) := h.deviceLog

theorem denyCtx (h : MemoryOk s) : MemoryOk (denyCtx s n k) := h.logEvent

theorem disown (h : MemoryOk s) : MemoryOk (disown s part k) := h

theorem ringDoorbell {value : Word} (h : MemoryOk s) : MemoryOk (ringDoorbell s part k value) := by
  unfold Machine.ringDoorbell
  dsimp only
  split
  · exact h.modQueue
  · exact h.modQueue
  · exact h.modQueue
  · exact .ite h.modQueue.failQueue h.modQueue.modQueue

theorem enableQueue (h : MemoryOk s) : MemoryOk (enableQueue s part k) := by
  unfold Machine.enableQueue
  dsimp only
  split
  · exact h.disown.modQueue
  · exact h.denyCtx
  · exact h

theorem disableQueue (h : MemoryOk s) : MemoryOk (disableQueue s part k) := .ite h.modQueue.denyLaunchers h

theorem configQueue {block : BitVec 512} (h : MemoryOk s) : MemoryOk (configQueue s part k block) := .ite h.denyCtx h.modQueue

theorem takeQueueWrite {y : QueueWrite} (h : MemoryOk s) : MemoryOk (takeQueueWrite s part k y) := by
  cases y with
  | doorbell v => exact h.ringDoorbell
  | enable => exact h.enableQueue
  | disable => exact h.disableQueue
  | config b => exact h.configQueue

theorem queueWrite {y : Reach} {z : QueueWrite} (h : MemoryOk s) : MemoryOk (queueWrite s y k z) := by
  unfold Machine.queueWrite
  refine .ite h (.ite (unserved ?_) (.ite h.answerHost h.takeQueueWrite))
  split
  · exact h
  · exact h.denyDevice

theorem sendQueue {y : Reach} {z : QueueWrite} (h : MemoryOk s) : OutcomeOk (sendQueue s y k z) :=
  (MemoryOk.ite h.postHost h.queueWrite).next

/-! ## The host window (20 R410) -/

theorem sendWindow {y : PeerRun} {z : LinkKind} {part : HostPart} (h : MemoryOk s) : MemoryOk (sendWindow s n y z part) := h.sendLink

theorem windowFault (h : MemoryOk s) : MemoryOk (windowFault s) := h.modBlock.modTovor

theorem windowAbort (h : MemoryOk s) : MemoryOk (windowAbort s) := h.windowFault.answerHost

theorem windowWrite {ls : List Loc} {data : List Byte} (h : MemoryOk s) : MemoryOk (windowWrite s n ls data) :=
  h.writeHome.foldl _ fun _ _ h => h.sendWindow

theorem windowRead {ls : List Loc} (h : MemoryOk s) : MemoryOk (windowRead s n ls) := by
  unfold Machine.windowRead
  split
  · exact (h.meetAll.of_fst_eq ‹_›).windowAbort
  · have hm := h.meetAll.of_fst_eq ‹_›
    split
    · exact hm.answerHost
    · exact hm.modTovor.foldl _ fun _ _ h => h.sendWindow

theorem windowAtomic {y : HostWrite} (h : MemoryOk s) : MemoryOk (windowAtomic s n a y) := by
  unfold Machine.windowAtomic
  split
  · exact (h.meetMemory.of_fst_eq ‹_›).windowAbort
  · have hm := h.meetMemory.of_fst_eq ‹_›
    dsimp only
    split
    · exact hm.writeNat.answerHost
    · exact hm.answerHost

theorem performPost {y : HostPost} (h : MemoryOk s) : MemoryOk (performPost s y) := by
  cases y with
  | write n ls data => exact h.windowWrite
  | read n ls => exact h.windowRead
  | atomic n a w => exact h.windowAtomic
  | queue p k w => exact h.queueWrite

theorem drainPosted {k : Nat} (h : MemoryOk s) : MemoryOk (drainPosted k s) := by
  induction k generalizing s with
  | zero => exact h
  | succ k ih =>
    unfold Machine.drainPosted
    split
    · exact h
    · exact .ite h (ih h.modTovor.performPost)

theorem settlePosted (h : MemoryOk s) : MemoryOk (settlePosted s) := h.drainPosted

theorem execHostWindowRead {func off : Nat} (h : MemoryOk s) : OutcomeOk (execHostWindowRead func off len s) := by
  unfold Machine.execHostWindowRead
  refine .ite h ?_
  split
  · exact h.windowAbort
  · exact h.answerHost
  · dsimp only
    split
    · exact h.walkRange.windowAbort
    · exact (MemoryOk.ite h.walkRange.postHost h.walkRange.windowRead).next

theorem execHostWindowWrite {func off : Nat} {y : HostWrite} (h : MemoryOk s) : OutcomeOk (execHostWindowWrite func off y s) := by
  unfold Machine.execHostWindowWrite
  refine .ite h ?_
  split
  · split
    · exact h.windowFault
    · exact h.windowAbort
  · exact h.answerHost
  · dsimp only
    split
    · split
      · exact h.walkRange.windowFault
      · exact (MemoryOk.ite h.walkRange.postHost h.walkRange.windowWrite).next
    · refine .ite h.answerHost.next ?_
      split
      · have hw := h.walked.of_fst_eq ‹_›
        exact (MemoryOk.ite hw.postHost hw.windowAtomic).next
      · exact (h.walked.of_fst_eq ‹_›).windowAbort.next

/-! ## Control blocks, reset and pre-emption (17 R351 to R363) -/

theorem execCreate (h : MemoryOk s) : OutcomeOk (execCreate n s) := .ite h (.ite h.denyDevice.next h.modCtx.next)

theorem ctxQueues {f : Queue → Queue} (h : MemoryOk s) : MemoryOk (ctxQueues s n f) := h

theorem clearTiles (h : MemoryOk s) : MemoryOk (clearTiles s n) := h

theorem dropReads (h : MemoryOk s) : MemoryOk (dropReads s n) := .ite h.modTovor.answerHost h.modTovor

theorem killUnplaced {next k : Nat} (h : MemoryOk s) : MemoryOk (killUnplaced s n c next k) := by
  induction k with
  | zero => exact h
  | succ k ih => exact ih.deviceLog.modCtx

theorem abortGrid {y : Nat × Grid} (h : MemoryOk s) : MemoryOk (abortGrid c s y) := by
  unfold Machine.abortGrid
  split
  · exact h
  · exact h.killUnplaced.setGrid

theorem startReset {outcome : Nat} (h : MemoryOk s) : MemoryOk (startReset s n c outcome) := by
  unfold Machine.startReset
  extract_lets _ _ cleared killed
  have hk : MemoryOk killed := h.ctxQueues.modCtx.clearTiles.foldl _ fun _ _ h => h.killOne
  exact hk.report.dropReads.modTovor.settleDue.foldl _ fun _ _ h => h.abortGrid

theorem execDestroy (h : MemoryOk s) : OutcomeOk (execDestroy n s) := by
  unfold Machine.execDestroy
  refine .ite h ?_
  split
  · exact h.startReset
  · exact h.startReset
  · exact h.denyDevice

theorem execReset (h : MemoryOk s) : OutcomeOk (execReset n s) := by
  unfold Machine.execReset
  refine .ite h ?_
  split
  · exact h.denyDevice
  · exact h.denyDevice
  · exact h.startReset

theorem preemptCtx (h : MemoryOk s) : MemoryOk (preemptCtx s n) := h

theorem execPreempt (h : MemoryOk s) : OutcomeOk (execPreempt n s) := .ite h (.ite h.preemptCtx.next h.denyDevice.next)

theorem execContextFieldWrite {block : BitVec 512} (h : MemoryOk s) : OutcomeOk (execContextFieldWrite n block s) :=
  .ite h (.ite h.modCtx.next h.denyDevice.next)

theorem ctxWrite {phys : Bool} {take : State → State} (h : MemoryOk s) (ht : MemoryOk (take s)) :
    MemoryOk (ctxWrite s n phys take) := .ite h (.ite ht (.ite h (.ite h.answerHost ht)))

theorem execGrpSelWrite {reach : CtxReach} {value : Word} (h : MemoryOk s) : OutcomeOk (execGrpSelWrite reach value s) :=
  (h.ctxWrite (.ite h.modCtx h)).next

theorem execSliceExpiry (h : MemoryOk s) : OutcomeOk (execSliceExpiry n s) := by
  unfold Machine.execSliceExpiry
  split
  · exact h
  · exact .ite h.preemptCtx.next h

theorem execFunctionLevelReset {vf : Nat} (h : MemoryOk s) : OutcomeOk (execFunctionLevelReset vf s) :=
  .ite h (h.foldl _ fun _ _ h => h.startReset).next

theorem execVfEnableClear (h : MemoryOk s) : OutcomeOk (execVfEnableClear s) := .ite h (h.foldl _ fun _ _ h => h.startReset).next

theorem execResetQueueHoldExpiry (h : MemoryOk s) : OutcomeOk (execResetQueueHoldExpiry n s) := by
  unfold Machine.execResetQueueHoldExpiry
  split
  · exact h
  · exact .ite h h.ctxQueues.modCtx.next

theorem meetTables (h : MemoryOk s) : MemoryOk (meetTables s n) := .ite h (h.foldl _ fun _ _ h => h.meetMemory)

/-- A range zeroed keeps memory canonical. -/
theorem zeroRange (h : MemoryOk s) : MemoryOk (zeroRange s a n) := .ite h (memZero_wf h a n)

theorem execResetZeroingComplete (h : MemoryOk s) : OutcomeOk (execResetZeroingComplete n s) := by
  unfold Machine.execResetZeroingComplete
  split
  · exact h
  · exact .ite h (h.meetTables.modCtx.foldl _ fun _ _ h => h.zeroRange).modCtx.modTovor.next

end Sys2Proof.MemoryOk
end

section
/-!
Save, restore, the mailbox, rollback, clocks, translation and the patrol keep memory canonical.
-/
namespace Sys2Proof.MemoryOk
open Machine

variable {s s' : State} {r : CtxRef} {g : Group} {gr : Grid} {x : Cmd} {i : Image} {m : MailArgs}
variable {n k p q j a len v key core port row : Nat} {ks : List Nat} {cs : List Cmd} {phys : Bool} {c : Cause}

/-! ## Save (17 R357 to R360, R365) -/

theorem padFault (h : MemoryOk s) : MemoryOk (padFault s ks).1 := by
  induction ks generalizing s with
  | nil => exact h
  | cons k ks ih =>
    unfold Machine.padFault
    split
    · split
      · exact ih (h.meetPad.of_fst_eq ‹_›)
      · exact (h.meetPad.of_fst_eq ‹_›).integrityEvent
    · exact ih h

theorem saveFault (h : MemoryOk s) : ResultOk MemoryOk id (saveFault s ks) := by
  unfold Machine.saveFault
  split
  · exact h.meetFault
  · split
    · exact h.integrityEvent
    · split
      · exact h.padFault.of_fst_eq ‹_›
      · exact h.padFault.of_fst_eq ‹_›

theorem moveCmd (h : MemoryOk s) : MemoryOk (moveCmd s core x).1 ∧ ∀ y, (moveCmd s core x).2 = some y → EngStopOk y := by
  unfold Machine.moveCmd
  split
  · exact ⟨h, fun _ hy => nomatch hy⟩
  · extract_lets s1 event moved
    have h1 : MemoryOk s1 := h
    have hevent {y z} (hy : EngStopOk y) (hz : event y = some z) : EngStopOk z := by
      cases y with
      | err u c q => cases hz; exact hy
      | page a => cases hz
      | ask l chip a len => cases hz
    have hmoved {t} (ht : ResultOk EngStopOk id t) : MemoryOk (moved t).1 ∧ ∀ y, (moved t).2 = some y → EngStopOk y := by
      cases t with
      | ok u => exact ⟨ht, fun _ hy => nomatch hy⟩
      | error y => exact ⟨h1, fun _ hz => hevent ht hz⟩
    clear_value s1
    split
    · exact ⟨h, fun _ hy => nomatch hy⟩
    · split
      · exact hmoved h1.cpyMove
      · exact hmoved h1.mxMove
      · split
        · exact ⟨h, fun _ hy => nomatch hy⟩
        · split
          · exact ⟨h1.mxsMove.1.of_fst_eq ‹_›, fun _ hy => nomatch hy⟩
          · rename_i hx
            exact ⟨h1, fun _ hz => hevent (h1.mxsMove.2 _ (congrArg Prod.snd hx)) hz⟩
      · exact ⟨h, fun _ hy => nomatch hy⟩

theorem moveCmds {xs : List (Nat × Group × Cmd)} (h : MemoryOk s) : MemoryOk (moveCmds s xs).1 := by
  induction xs generalizing s with
  | nil => exact h
  | cons x xs ih =>
    obtain ⟨core, g, x⟩ := x
    unfold Machine.moveCmds
    split
    · exact ih (h.moveCmd.1.of_fst_eq ‹_›)
    · rename_i hx
      exact (h.moveCmd.1.of_fst_eq hx).engFail (h.moveCmd.2 _ (congrArg Prod.snd hx))

theorem writePieces {ps : List Piece} {bs : List Byte} (h : MemoryOk s) : MemoryOk (writePieces s ps bs) := by
  induction ps generalizing s bs with
  | nil => exact h
  | cons p ps ih => exact ih h.writeHome

theorem writeImage (h : MemoryOk s) : MemoryOk (writeImage s i) := h.writePieces

theorem saveSection (h : MemoryOk s) : MemoryOk (saveSection s n) := by
  unfold Machine.saveSection
  extract_lets image taken
  have ht : MemoryOk taken := h
  clear_value taken image
  split
  · exact ht
  · exact ht.writeImage.modCtx

theorem restCmds (h : MemoryOk s) : MemoryOk (restCmds s key g) := h.modCore

theorem keepStates (h : MemoryOk s) : MemoryOk (keepStates s key g) := h.modCore

theorem suspendSlots (h : MemoryOk s) : MemoryOk (suspendSlots s g cs) := by
  induction cs generalizing s with
  | nil => exact h
  | cons c cs ih => exact ih (.ite h.setSlot h)

theorem leaveCore (h : MemoryOk s) : MemoryOk (leaveCore s key g gr) := by
  unfold Machine.leaveCore
  extract_lets _ _ _ _ _ _ _ _ left unclaimed stopped
  have hl : MemoryOk left := h.setGroup.removeCmds
  have hu : MemoryOk unclaimed := .ite hl.modCore hl
  have hs : MemoryOk stopped := hu.modCore
  exact .ite hs.wakeClaim hs

theorem saveOne (h : MemoryOk s) : MemoryOk (saveOne n s key) := by
  unfold Machine.saveOne
  split
  · exact h
  · split
    · exact h
    · refine .ite h ?_
      extract_lets rested image taken
      have hr : MemoryOk rested := h.restCmds
      have ht : MemoryOk taken := hr
      clear_value taken image
      split
      · exact ht.killGroup
      · dsimp only
        split
        · exact ht.writeImage.flushL1
        · exact ht.writeImage.flushL1.keepStates.leaveCore.suspendSlots.modGroup

theorem saveGroups (h : MemoryOk s) : MemoryOk (saveGroups s n) :=
  .ite (h.saveSection.foldl _ fun _ _ h => h.saveOne) (h.saveSection.foldl _ fun _ _ h => h.killGroup)

theorem execContextSave (h : MemoryOk s) : OutcomeOk (execContextSave n s) := by
  unfold Machine.execContextSave
  refine .ite h ?_
  split
  · exact h.saveFault.of_error ‹_›
  · have hs : MemoryOk _ := h.saveFault.of_ok ‹_›
    split
    · exact hs.moveCmds.of_fst_eq ‹_›
    · exact (hs.moveCmds.of_fst_eq ‹_›).saveGroups.modCtx.next

/-! ## Restore (17 R358, R365) -/

theorem restoreSection (h : MemoryOk s) : MemoryOk (restoreSection s n) := by
  unfold Machine.restoreSection
  split
  · exact h
  · exact .ite h.readImage.modCtx (h.readImage.modCtx.foldl _ fun _ _ h => h.killGroup)

theorem resumeSlots (h : MemoryOk s) : MemoryOk (resumeSlots s g cs) := by
  induction cs generalizing s with
  | nil => exact h
  | cons c cs ih => exact ih (.ite h.setSlot h)

theorem restoreOne (h : MemoryOk s) (hr : restoreOne s key ks = some s') : MemoryOk s' := by
  unfold Machine.restoreOne at hr
  split at hr
  · cases hr; exact h
  · split at hr
    · cases hr; exact h
    · split at hr
      · cases hr
      · split at hr
        · cases hr
        · split at hr
          · cases hr
          · cases hr
            split
            · exact (h.returned.of_fst_eq ‹_›).adoptMode.enterCore.resumeSlots
            · exact (h.returned.of_fst_eq ‹_›).killGroup

theorem restoreRanks (h : MemoryOk s) (hr : restoreRanks k s ks = some s') : MemoryOk s' := by
  induction ks generalizing s with
  | nil => cases hr; exact h
  | cons key ks ih =>
    unfold Machine.restoreRanks at hr
    split at hr
    · exact ih h hr
    · split at hr
      · cases hr
      · split at hr
        · cases hr
        · exact ih (h.restoreOne ‹_›) hr

theorem placeLock {l : Lock} (h : MemoryOk s) : MemoryOk (placeLock s key g l) := by
  unfold Machine.placeLock
  split
  · exact h
  · exact h.modCore

theorem relock (h : MemoryOk s) : MemoryOk (relock s key) := by
  unfold Machine.relock
  split
  · exact h
  · exact (h.modCore.foldl _ fun _ _ h => h.placeLock).modGroup

theorem relockAll (h : MemoryOk s) (hr : relockAll s ks = some s') : MemoryOk s' := by
  unfold Machine.relockAll at hr
  dsimp only at hr
  split at hr
  · cases hr; exact h.foldl _ fun _ _ h => h.relock
  · cases hr

theorem restoreCluster (h : MemoryOk s) (hr : restoreCluster s ks g = some s') : MemoryOk s' := by
  obtain ⟨cluster, _, hc⟩ := List.exists_of_findSome?_eq_some hr
  obtain ⟨u, hu, hl⟩ := Option.bind_eq_some_iff.mp hc
  exact (h.restoreRanks hu).relockAll hl

theorem restoreAll (h : MemoryOk s) (hr : restoreAll s ks = some s') : MemoryOk s' := by
  induction ks generalizing s with
  | nil => cases hr; exact h
  | cons key ks ih =>
    unfold Machine.restoreAll at hr
    split at hr
    · exact ih h hr
    · split at hr
      · split at hr
        · cases hr
        · exact ih (h.restoreCluster ‹_›) hr
      · exact ih h hr

theorem restored (h : MemoryOk s) (hr : restored s n = some s') : MemoryOk s' := h.modCtx.restoreSection.restoreAll hr

theorem execContextRestore (h : MemoryOk s) : OutcomeOk (execContextRestore n s) := by
  unfold Machine.execContextRestore
  refine .ite h ?_
  split
  · exact h
  · exact .ite h ((h.restored ‹_›).startSlice.foldl _ fun _ _ h => h.resettle).settleCtx.next

/-! ## The end of an eviction (03 R97, R99) -/

theorem writeOut (h : MemoryOk s) : MemoryOk (writeOut s key) := by
  unfold Machine.writeOut
  split
  · exact h
  · split
    · exact h.writeImage.flushL1
    · exact h

theorem leaveOne (h : MemoryOk s) : MemoryOk (leaveOne s key) := by
  unfold Machine.leaveOne
  extract_lets written
  have hw : MemoryOk written := h.writeOut
  split
  · exact hw
  · split
    · exact hw.leaveCore.modGroup
    · exact hw

theorem execEvictionComplete (h : MemoryOk s) : OutcomeOk (execEvictionComplete key s) := by
  unfold Machine.execEvictionComplete
  split
  · exact h
  · refine .ite h ?_
    split
    · exact h.saveFault.of_error ‹_›
    · have hs : MemoryOk _ := h.saveFault.of_ok ‹_›
      exact (hs.foldl _ fun _ _ h => h.leaveOne).settlePeers.settleCtx.next

/-! ## The mailbox (18 R383) -/

theorem respond {tag : Word} {status data : Nat} (h : MemoryOk s) : MemoryOk (respond s tag status data) := h.modTovor

theorem denyReport {ctx : Option Nat} (h : MemoryOk s) : MemoryOk (denyReport s ctx) := by
  unfold Machine.denyReport
  dsimp only
  split
  · exact h.logEvent.report
  · exact h.deviceLog.report

/-- A mailbox command keeps memory canonical where its answer does. -/
theorem mail {act : State → Answer} {used : Nat} (h : MemoryOk s) (ha : ∀ s, MemoryOk s → AnswerOk (act s)) :
    OutcomeOk (mail n used m s act) := by
  unfold Machine.mail
  refine .ite h (.ite h.modTovor.respond.next ?_)
  have ha := ha _ (h.modTovor (f := fun t => { t with request := requestBits n m }))
  split <;> rename_i hx <;> rw [hx] at ha
  · exact ha.respond.next
  · exact ha.denyReport.respond.next
  · exact h.modTovor.respond.next

theorem execPair (h : MemoryOk s) : OutcomeOk (execPair m s) :=
  h.mail fun s h => by
    dsimp only
    split
    · exact .ite h h.setPair.enterFixed
    · exact h

theorem execUnpair (h : MemoryOk s) : OutcomeOk (execUnpair m s) := h.mail fun _ h => .ite h h.setPair

theorem readPf (h : MemoryOk s) : MemoryOk (readPf s a n).1 := by
  unfold Machine.readPf
  split
  · exact h
  · exact h.meetAll

theorem execLoadSet (h : MemoryOk s) : OutcomeOk (execLoadSet m s) := by
  unfold Machine.execLoadSet
  generalize hx : Machine.mail _ _ _ _ _ = y
  have hy : OutcomeOk y := hx ▸ h.mail fun s h => by
    split
    · exact h.readPf.of_fst_eq ‹_›
    · exact .ite (h.readPf.of_fst_eq ‹_›).modTovor (h.readPf.of_fst_eq ‹_›)
  cases y with
  | next u => exact (MemoryOk.ite (respond hy) hy).next
  | fault y => trivial
  | refused y => trivial

theorem setPort {y : Port} (h : MemoryOk s) : MemoryOk (s.setPort k y) := h.modTovor

theorem denyPort {y : Port} {z : BitVec 64} (h : MemoryOk s) : MemoryOk (denyPort s port y z) := h.setPort.deviceLog

theorem settlePorts (h : MemoryOk s) : MemoryOk (settlePorts s) :=
  h.foldl _ fun _ _ h => by
    split
    · exact .ite h.denyPort h
    · exact h

theorem execSlotSetSwitch (h : MemoryOk s) : OutcomeOk (execSlotSetSwitch s) := by
  unfold Machine.execSlotSetSwitch
  split
  · exact h
  · exact h.modTovor.settlePorts.respond.next

theorem readObject (h : MemoryOk s) : MemoryOk (readObject s n v len).1 := by
  unfold Machine.readObject
  extract_lets walked
  have hw : MemoryOk walked := h.walkRange
  split
  · exact hw
  · exact hw.meetAll

theorem execRegisterCode (h : MemoryOk s) : OutcomeOk (execRegisterCode m s) :=
  h.mail fun s h => by
    refine .ite h ?_
    split
    · exact h.readRecord.of_fst_eq ‹_›
    · have hr := h.readRecord.of_fst_eq ‹_›
      extract_lets len
      generalize hx : (if len < 128 then _ else _ : State × Option (List Nat × List Byte)) = y
      have ho : MemoryOk y.1 := by
        subst hx
        split
        · exact hr
        · exact hr.readObject
      split
      · exact ho
      · exact .ite ho (modCtx ho)

theorem execInject (h : MemoryOk s) : OutcomeOk (execInject m s) := h.mail fun _ h => .ite trivial (.ite h h.setPair)

theorem execClearFault (h : MemoryOk s) : OutcomeOk (execClearFault m s) := h.mail fun _ h => .ite h.modTovor.settleFaultN h

theorem execRetire (h : MemoryOk s) : OutcomeOk (execRetire m s) :=
  h.mail fun s h => by
    split
    · trivial
    · exact h.retireUnit.report

theorem execRestore (h : MemoryOk s) : OutcomeOk (execRestore m s) :=
  h.mail fun s h => by
    split
    · trivial
    · refine .ite h ?_
      split
      · exact h
      · exact h
      · exact h

theorem askStep {on : Bool} (h : MemoryOk s) : MemoryOk (askStep s on) := h.modTovor

theorem execClock (h : MemoryOk s) : OutcomeOk (execClock m s) := h.mail fun _ h => .ite h h.modTovor.askStep

theorem execReportRing (h : MemoryOk s) : OutcomeOk (execReportRing m s) := h.mail fun _ h => .ite trivial h.modTovor

theorem execAttest (h : MemoryOk s) : OutcomeOk (execAttest m s) := h.mail fun _ h => .ite h h.writeHome

theorem execBadRequest {cmd : Byte} (h : MemoryOk s) : OutcomeOk (execBadRequest cmd m s) := by
  unfold Machine.execBadRequest
  split
  · exact h.mail fun _ _ => trivial
  · exact .ite h (h.mail fun _ _ => trivial)

/-! ## Pairs, clones and rollback (18 R369 to R375, R392) -/

theorem releaseRecord {d : Dup} (h : MemoryOk s) : MemoryOk (releaseRecord s core r d) := by
  unfold Machine.releaseRecord
  extract_lets cmd
  have hc {f} : MemoryOk (cmd f) := h.modCore
  split
  · exact h.modHart
  · exact h
  · exact hc
  · exact .ite hc h.modHart
  · exact h.modHart

theorem execComparatorCompare (h : MemoryOk s) : OutcomeOk (execComparatorCompare core s) := by
  unfold Machine.execComparatorCompare
  extract_lets j met
  have hm : MemoryOk met := h.meetRecord
  split
  · exact h
  · exact .ite h (MemoryOk.ite hm.modCore.releaseRecord hm.modCore.pairEvent).next

theorem execShadowTimeout (h : MemoryOk s) : OutcomeOk (execShadowTimeout j s) := by
  unfold Machine.execShadowTimeout
  split
  · exact h
  · exact h.pairEvent.next

theorem execCloneExecute (h : MemoryOk s) : OutcomeOk (execCloneExecute r s) := by
  unfold Machine.execCloneExecute
  split
  · exact (MemoryOk.ite h h.compareClone).next
  · exact h

theorem execCloneReplay (h : MemoryOk s) : OutcomeOk (execCloneReplay core q s) := by
  unfold Machine.execCloneReplay
  split
  · exact h
  · exact .ite h h.replayEntry.next

theorem restartGroup (h : MemoryOk s) : MemoryOk (restartGroup s key) := by
  unfold Machine.restartGroup
  split
  · exact h
  · exact .ite h h.setGroup.settleRetiring

theorem execRollbackRestart (h : MemoryOk s) : OutcomeOk (execRollbackRestart key s) := by
  unfold Machine.execRollbackRestart
  split
  · exact h
  · exact .ite h (h.foldl _ fun _ _ h => h.restartGroup).next

/-! ## Clocks, power and power-up (18 R386 to R390; 00 R4) -/

theorem execDegradedStepEnter {t : Bool} (h : MemoryOk s) : OutcomeOk (execDegradedStepEnter t s) := .ite h h.modTovor.askStep.next

theorem execDegradedStepLeave (h : MemoryOk s) : OutcomeOk (execDegradedStepLeave s) := by
  unfold Machine.execDegradedStepLeave
  split
  · exact h
  · exact .ite h h.modTovor.askStep.next

theorem execPowerCap {mhz : Nat} (h : MemoryOk s) : OutcomeOk (execPowerCap n mhz s) :=
  .ite h (.ite (h.modTovor.foldl _ fun _ _ h => h.logEvent).next h.modTovor.next)

theorem execTovorCoreMismatch (h : MemoryOk s) : OutcomeOk (execTovorCoreMismatch s) := .ite h.modTovor.next h.report.next

/-- Power-up keeps only host memory, a part of a canonical memory. -/
theorem execPowerUp {verified : Bool} (h : MemoryOk s) : OutcomeOk (execPowerUp verified s) := filter_wf _ h

/-! ## Translation (19 R396 to R403) -/

theorem takeInv {cmd page : Nat} (h : MemoryOk s) : MemoryOk (takeInv n phys cmd page s) := .ite h.denyCtx h.modCtx

theorem invWrite {cmd page : Nat} (h : MemoryOk s) : MemoryOk (invWrite n phys cmd page s) := h.ctxWrite h.takeInv

theorem execInvStage1Page (h : MemoryOk s) : OutcomeOk (execInvStage1Page n phys s) := h.invWrite.next

theorem execInvStage1All (h : MemoryOk s) : OutcomeOk (execInvStage1All n phys s) := h.invWrite.next

theorem execInvStage2Page (h : MemoryOk s) : OutcomeOk (execInvStage2Page n phys s) := h.invWrite.next

theorem execInvStage2All (h : MemoryOk s) : OutcomeOk (execInvStage2All n phys s) := h.invWrite.next

theorem execInvBoth (h : MemoryOk s) : OutcomeOk (execInvBoth n phys s) := h.invWrite.next

theorem execS1RootWrite {reach : CtxReach} {value : BitVec 64} (h : MemoryOk s) : OutcomeOk (execS1RootWrite reach value s) :=
  (h.ctxWrite h.modCtx.takeInv).next

theorem renewWaits (h : MemoryOk s) : MemoryOk (renewWaits s n) := h

theorem execInvalidationComplete (h : MemoryOk s) : OutcomeOk (execInvalidationComplete n s) := by
  unfold Machine.execInvalidationComplete
  split
  · exact h
  · exact .ite h h

theorem execPageWalk {va : BitVec 48} (h : MemoryOk s) : OutcomeOk (execPageWalk core n va s) := by
  unfold Machine.execPageWalk
  extract_lets a cluster l2
  refine .ite h ?_
  split
  · exact h.modCore.next
  · have hw : MemoryOk (Machine.coreWalk s core n a) := h.coreWalk
    split <;> exact hw

/-! ## The patrol and spare rows (19 R405 to R407) -/

theorem markSeen {channel block : Nat} (h : MemoryOk s) : MemoryOk (markSeen s channel block) := h.modTovor

theorem patrolBlock {block : Nat} (h : MemoryOk s) : MemoryOk (patrolBlock s block) := by
  unfold Machine.patrolBlock
  split
  · exact h
  · exact h.modTovor.correctedShared
  · exact h.poisonBlock.countUeShared

theorem execPatrolBlockVisit {block : Nat} (h : MemoryOk s) : OutcomeOk (execPatrolBlockVisit block s) :=
  .ite h h.patrolBlock.markSeen.next

theorem execPatrolPassComplete {channel : Nat} (h : MemoryOk s) : OutcomeOk (execPatrolPassComplete channel s) :=
  .ite h (h.foldl _ fun _ _ h => h.patrolBlock).modTovor.next

theorem settleLine {line : Nat} {us : List (Nat × Bool)} (h : MemoryOk s) : MemoryOk (settleLine row line s us) := by
  induction us generalizing s with
  | nil => exact h
  | cons u us ih =>
    obtain ⟨u, ok⟩ := u
    exact ih (.ite h (.ite h.modTovor.correctedShared h.poisonBlock.countUeShared))

theorem execSpareRowCopy (h : MemoryOk s) : OutcomeOk (execSpareRowCopy row s) := by
  unfold Machine.execSpareRowCopy
  split
  · exact h
  · exact .ite h.settleLine.modTovor.next h.modBlock.modTovor.next

end Sys2Proof.MemoryOk
end

section
/-!
Links, the network, registers of the device and faults of the hardware keep memory canonical.
-/
namespace Sys2Proof.MemoryOk
open Machine

variable {s : State} {r : CtxRef} {op : OutOp} {io : LinkOp}
variable {n k j a v core port link base off : Nat} {c : Cause}

/-! ## Links: operations of a peer (20 R413) -/

theorem answerPeer {y : LinkReply} (h : MemoryOk s) : MemoryOk (answerPeer s y) := h.modTovor

theorem linkAborted (h : MemoryOk s) : MemoryOk (linkAborted s link n) := by
  unfold Machine.linkAborted
  refine logEvent ?_
  split
  · split
    · exact (h.walked.of_fst_eq ‹_›).meetSpan.of_fst_eq ‹_›
    · exact ((h.walked.of_fst_eq ‹_›).meetSpan.of_fst_eq ‹_›).writeNat
  · exact h.walked.of_fst_eq ‹_›

theorem inboundPlace (h : MemoryOk s) : MemoryOk (inboundPlace s io).1 := by
  unfold Machine.inboundPlace
  split
  · exact h
  · split
    · exact h.walked.of_fst_eq ‹_›
    · exact h.walked.of_fst_eq ‹_›

theorem inboundPerform (h : MemoryOk s) : MemoryOk (inboundPerform s io a) := by
  unfold Machine.inboundPerform
  split
  · split
    · exact (h.meetSpan.of_fst_eq ‹_›).answerPeer
    · exact (h.meetSpan.of_fst_eq ‹_›).answerPeer
  · exact h.writeHome.answerPeer
  · exact h.writeHome.answerPeer
  · split
    · exact (h.meetMemory.of_fst_eq ‹_›).answerPeer
    · exact (h.meetMemory.of_fst_eq ‹_›).writeHome.answerPeer
  · split
    · exact (h.meetMemory.of_fst_eq ‹_›).answerPeer
    · exact (h.meetMemory.of_fst_eq ‹_›).signalFlat.answerPeer
  · exact h

theorem execLinkInboundOperation (h : MemoryOk s) : OutcomeOk (execLinkInboundOperation io s) := by
  unfold Machine.execLinkInboundOperation
  refine .ite h (.ite h.answerPeer.next (.ite h.answerPeer.next (.ite h.linkAborted.next ?_)))
  split
  · exact (h.inboundPlace.of_fst_eq ‹_›).answerPeer.next
  · exact (h.inboundPlace.of_fst_eq ‹_›).inboundPerform.next

/-! ## Links: the device's own operations (20 R412, R413) -/

theorem refuseWindow {y : HostPart} (h : MemoryOk s) : MemoryOk (refuseWindow s y) := by
  cases y with
  | write => exact h.windowFault
  | read k off => exact .ite h.modTovor.windowAbort h

theorem refuseOp (h : MemoryOk s) : MemoryOk (refuseOp s op) := by
  unfold Machine.refuseOp
  split
  · exact h.refuseWindow
  · exact h.dropWrite
  · split
    · exact h.killGroup
    · exact h

theorem takeOp (h : MemoryOk s) : MemoryOk (takeOp s k) := h.modTovor

theorem execLinkAckTimeout (h : MemoryOk s) : OutcomeOk (execLinkAckTimeout k s) := by
  unfold Machine.execLinkAckTimeout
  split
  · exact h
  · exact .ite h h.takeOp.refuseOp.settleDue.next

theorem execLinkDown (h : MemoryOk s) : OutcomeOk (execLinkDown link s) :=
  .ite h (h.modTovor.foldl _ fun _ _ h => h.refuseOp).settleDue.next

theorem fillWindow {bs : List Byte} (h : MemoryOk s) : MemoryOk (fillWindow s k off bs) := by
  unfold Machine.fillWindow
  split
  · exact h
  · exact .ite h.modTovor.answerHost h.modTovor

theorem fillCmd {bs : List Byte} (h : MemoryOk s) : MemoryOk (fillCmd s n op bs) := h

theorem answered (h : MemoryOk s) : MemoryOk (answered s op v) := by
  unfold Machine.answered
  dsimp only
  split
  · exact h.fillWindow
  · exact h
  · exact h
  · refine tryExit ?_
    split
    · refine modHart ?_
      split
      · exact h.fillCmd
      · exact h
    · split
      · exact h.fillCmd
      · exact h

theorem abortOp (h : MemoryOk s) : MemoryOk (abortOp s op) := by
  unfold Machine.abortOp
  extract_lets aborted
  have ha : MemoryOk aborted := h.linkAborted
  split
  · exact answered (s := { aborted with free := _ }) ha
  · exact ha.answered

theorem execLinkAcknowledgement {y : LinkReply} (h : MemoryOk s) : OutcomeOk (execLinkAcknowledgement k y s) := by
  unfold Machine.execLinkAcknowledgement
  split
  · exact h
  · refine .ite h ?_
    dsimp only
    split
    · exact h.takeOp.peerWritten.answered.settleDue.next
    · exact h.takeOp.abortOp.settleDue.next
    · exact h.takeOp.refuseOp.settleDue.next

/-! ## The network (20 R414 to R416) -/

theorem ringIndices (h : MemoryOk s) : MemoryOk (ringIndices s base).1 := by
  have hm {as} : MemoryOk (Machine.meetEach (fun s a => Machine.meetShared s none a) s as).1 := meetEach (fun _ _ h => h.meetShared) h
  unfold Machine.ringIndices
  split
  · exact hm.of_fst_eq ‹_›
  · exact hm.of_fst_eq ‹_›

theorem dropFrame (h : MemoryOk s) : MemoryOk (dropFrame s base) := by
  unfold Machine.dropFrame
  split
  · exact h.meetShared.of_fst_eq ‹_›
  · exact (h.meetShared.of_fst_eq ‹_›).writeNat

theorem execFrameArrival {frame : List Byte} (h : MemoryOk s) : OutcomeOk (execFrameArrival port frame s) := by
  unfold Machine.execFrameArrival
  split
  · exact h
  · refine .ite h (.ite h.setPort.next ?_)
    dsimp only
    split
    · exact (h.ringIndices.of_fst_eq ‹_›).dropFrame.next
    · have hr := h.ringIndices.of_fst_eq ‹_›
      exact .ite hr.writeHome.writeNat.setPort.next hr.dropFrame.next

theorem execNetCtlWrite {block : BitVec 512} (h : MemoryOk s) : OutcomeOk (execNetCtlWrite port block s) := by
  unfold Machine.execNetCtlWrite
  split
  · exact h
  · exact .ite h (.ite (.ite h h.setPort.next) (.ite h.denyPort.next h.setPort.next))

/-! ## Registers and faults of the hardware (00 R12; 18 R376) -/

theorem execRegisterWrite {y : RegWrite} (h : MemoryOk s) : OutcomeOk (execRegisterWrite y s) := by
  unfold Machine.execRegisterWrite
  refine .ite h ?_
  cases y with
  | deviceBlock base size => exact h.modBlock.next
  | miCtl c v => exact .ite h h.modTovor.next
  | winBase func v => exact .ite h (.ite h.answerHost.next h.modTovor.next)
  | linkBinding link n v => exact .ite h h.modTovor.next
  | translation func n ipa va => exact .ite h (.ite h.answerHost.next (.ite h h.modCtx.next))
  | unlisted func off v => exact .ite h.answerHost.next h
  | read func off => exact .ite h (.ite h.answerHost.next h.answerHost.next)

theorem execHardwareFault {f : HwFault} (h : MemoryOk s) : OutcomeOk (execHardwareFault f s) := by
  unfold Machine.execHardwareFault
  cases f with
  | memory a correctable => exact .ite h h.modTovor.next
  | cleanCopy a => exact .ite h h.modTovor.next
  | context r cause =>
    dsimp only
    split
    · exact h
    · refine .ite h (.ite (.ite h.pairEvent.next h) (.ite ?_ (.ite h.modHart.next h)))
      split
      · exact (MemoryOk.ite h h.raiseOn).next
      · exact h
  | sharedCorrected copies => exact h.correctedIn.next
  | fabric met =>
    dsimp only
    split
    · exact h.countUeShared.raiseOn.next
    · exact h.countUeShared.next
  | corrected r =>
    dsimp only
    split
    · exact .ite h.correctedCtx.next h
    · exact h
  | accumulator core tile elem mask => exact .ite h h.modCore.next
  | accumulatorUe core tile => exact .ite h h.modCore.next
  | duplicate r mask => exact h.modHart.next
  | shadowSilent j => exact .ite h.setPair.next h
  | primarySilent j => exact .ite h.setPair.next h
  | shadow r cause quad =>
    dsimp only
    split
    · exact .ite h (MemoryOk.ite h.countUeShared h).integrityEvent.next
    · exact h
  | engine core k quad =>
    dsimp only
    split
    · exact .ite (h.engFail (y := .err s .engineUe quad) h).next h
    · exact h

end Sys2Proof.MemoryOk
end

section
/-!
Every instruction and happening, every turn, and with them every step keeps memory canonical.
-/
namespace Sys2Proof
open Machine

variable {s s' : State} {run : Runner} {r : CtxRef} {e : Env}

/-! ## Every instruction and happening -/

/-- Every instruction and every happening keeps memory canonical: a family that shares an operation by the operation's lemma, the
others each by their own. -/
theorem exec_runnerOk : RunnerOk exec := fun i s h => by
  unfold exec
  cases i with
  | mov f | sel f | and f | or f | xor f | andn f | logic3 f | shl f | shr f | sar f | rol f | fshl f | bfx f | bfi f
  | brev f | popc f | clz f | ctz f | perm f => exact h.bitOp
  | add f | sub f | mul f | mulh f | mad f | rem f | min f | max f | abs f | clamp f => exact h.intOp
  | fadd f | fsub f | fmul f | ffma f | fscale f => exact h.floatOp
  | fmin f | fmax f | fclass f | fadd2 f | fmul2 f | ffma2 f | frnd f | fkey f | frcp f | frsq f | fsqrt f | fexp2 f
  | flog2 f | fsin f | fcos f | ftanh f | fsigm f => exact h.elemOp
  | xget f | gget f | madw f | div f | pget f | lea f | cvti f | pack f | unpack f | dp4 f | fdot2 f | fdot4 f | fquant f
  | fdeq f | fcvt f | f2i f | i2f f => exact h.issue compute_bodyOk
  | cmp f | plop f | pset f | fcmp f => exact h.issue computePred_bodyOk
  | nop f | bra f | brx f | ret f => exact h.issue fun _ _ h => h
  | trap f | bkpt f => exact h.issue fun _ _ _ => trivial
  | rdv f | rshfl f | rvote f | rvoteBallot f | rred f | rscan f | rrank f => exact h.issue fun _ _ h => h.rdvAct
  | bar f | cbar f => exact h.issue fun _ _ h => h.barAct
  | barrive f | cbarrive f => exact h.issue fun _ _ h => h.arriveAct
  | bwait f | cbwait f => exact h.issue fun _ _ h => h.waitAct
  | ld f | ldp f => exact h.issue fun _ _ h => h.loadAct
  | st f => exact h.issue fun _ _ h => h.storeAct
  | atom f | acas f | red f => exact h.issue fun _ _ h => h.atomAct
  | doorbell reach queue value | queueEnable reach queue | queueDisable reach queue | queueConfigWrite reach queue block => exact h.sendQueue
  | xput f => exact h.execXput
  | gput f => exact h.execGput
  | psetBulk f => exact h.execPsetBulk
  | call f => exact h.execCall
  | brdec f => exact h.execBrdec
  | exit f => exact h.execExit
  | yield f => exact h.execYield
  | reconv f => exact h.execReconv
  | region f => exact h.execRegion
  | tret f => exact h.execTret
  | sleep f => exact h.execSleep
  | btest f => exact h.execBtest
  | fence f => exact h.execFence
  | waita f => exact h.execWaita
  | trig f => exact h.execTrig
  | oflush f => exact h.execOflush
  | ldt f => exact h.execLdt
  | stt f => exact h.execStt
  | pf f => exact h.execPf
  | dqpush f => exact h.execDqpush
  | dqpop f => exact h.execDqpop
  | dqlen f => exact h.execDqlen
  | cpy f => exact h.execCpy
  | cpyq f => exact h.execCpyq
  | cpyc f => exact h.execCpyc
  | mxz f => exact h.execMxz
  | mx f => exact h.execMx
  | mxd f => exact h.execMxd
  | mxs f => exact h.execMxs
  | mxw f => exact h.execMxw
  | dlt f => exact h.execDlt
  | rsbind f => exact h.execRsbind
  | rsinv f => exact h.execRsinv
  | rsinvRel f => exact h.execRsinvRel
  | rsref f => exact h.execRsref
  | rsq f => exact h.execRsq
  | rsparam f => exact h.execRsparam
  | tdw f => exact h.execTdw
  | tdr f => exact h.execTdr
  | launch f => exact h.execLaunch
  | signal f => exact h.execSignal
  | rand f => exact h.execRand
  | rseed f => exact h.execRseed
  | sysr f => exact h.execSysr
  | sysw f => exact h.execSysw
  | resultReturn r k => exact h.execResultReturn
  | storeCommit r => exact h.execStoreCommit
  | barrierArrivalPerformed r => exact h.execBarrierArrivalPerformed
  | barrierPhaseComplete group bar => exact h.execBarrierPhaseComplete
  | rdvInstanceComplete group k => exact h.execRdvInstanceComplete
  | reconvTimeout r => exact h.execReconvTimeout
  | urgentThread r => exact h.execUrgentThread
  | fuseWaitExpiry r => exact h.execFuseWaitExpiry
  | sleepExpiry r => exact h.execSleepExpiry
  | trapEntry r => exact h.execTrapEntry
  | evictionTimerExpiry group => exact h.execEvictionTimerExpiry
  | groupPlacement group cluster core quad => exact h.execGroupPlacement
  | clusterModeChange cluster fixed => exact h.execClusterModeChange
  | engineCommandStart core k => exact h.execEngineCommandStart
  | mxComplete core k => exact h.execMxComplete
  | cpyComplete core k => exact h.execCpyComplete
  | dltBlockStep core k => exact h.execDltBlockStep
  | dltComplete core k => exact h.execDltComplete
  | drainRowConvert core k => exact h.execDrainRowConvert
  | mxdComplete core k => exact h.execMxdComplete
  | mxsComplete core k => exact h.execMxsComplete
  | orderedBatchApply grid => exact h.execOrderedBatchApply
  | groupRetire group => exact h.execGroupRetire
  | gridComplete grid => exact h.execGridComplete
  | queueDispatch part queue => exact h.execQueueDispatch
  | launchHeldPerform r => exact h.execLaunchHeldPerform
  | create n => exact h.execCreate
  | destroy n => exact h.execDestroy
  | reset n => exact h.execReset
  | preempt n => exact h.execPreempt
  | contextFieldWrite n block => exact h.execContextFieldWrite
  | grpSelWrite reach value => exact h.execGrpSelWrite
  | sliceExpiry n => exact h.execSliceExpiry
  | contextSave n => exact h.execContextSave
  | contextRestore n => exact h.execContextRestore
  | functionLevelReset vf => exact h.execFunctionLevelReset
  | vfEnableClear => exact h.execVfEnableClear
  | resetQueueHoldExpiry n => exact h.execResetQueueHoldExpiry
  | resetZeroingComplete n => exact h.execResetZeroingComplete
  | pair m => exact h.execPair
  | unpair m => exact h.execUnpair
  | loadSet m => exact h.execLoadSet
  | slotSetSwitch => exact h.execSlotSetSwitch
  | registerCode m => exact h.execRegisterCode
  | inject m => exact h.execInject
  | clearFault m => exact h.execClearFault
  | retire m => exact h.execRetire
  | restore m => exact h.execRestore
  | clock m => exact h.execClock
  | reportRing m => exact h.execReportRing
  | attest m => exact h.execAttest
  | badRequest cmd m => exact h.execBadRequest
  | comparatorCompare core => exact h.execComparatorCompare
  | shadowTimeout pair => exact h.execShadowTimeout
  | cloneExecute r => exact h.execCloneExecute
  | cloneReplay core quad => exact h.execCloneReplay
  | rollbackRestart group => exact h.execRollbackRestart
  | degradedStepEnter temperature => exact h.execDegradedStepEnter
  | degradedStepLeave => exact h.execDegradedStepLeave
  | powerCap part mhz => exact h.execPowerCap
  | tovorCoreMismatch => exact h.execTovorCoreMismatch
  | powerUp verified => exact h.execPowerUp
  | invStage1Page n phys => exact h.execInvStage1Page
  | invStage1All n phys => exact h.execInvStage1All
  | invStage2Page n phys => exact h.execInvStage2Page
  | invStage2All n phys => exact h.execInvStage2All
  | invBoth n phys => exact h.execInvBoth
  | s1RootWrite reach value => exact h.execS1RootWrite
  | invalidationComplete n => exact h.execInvalidationComplete
  | pageWalk core n va => exact h.execPageWalk
  | patrolBlockVisit block => exact h.execPatrolBlockVisit
  | patrolPassComplete channel => exact h.execPatrolPassComplete
  | spareRowCopy row => exact h.execSpareRowCopy
  | hostWindowRead func off len => exact h.execHostWindowRead
  | hostWindowWrite func off data => exact h.execHostWindowWrite
  | linkInboundOperation op => exact h.execLinkInboundOperation
  | linkAckTimeout k => exact h.execLinkAckTimeout
  | linkDown link => exact h.execLinkDown
  | frameArrival port frame => exact h.execFrameArrival
  | netCtlWrite port block => exact h.execNetCtlWrite
  | registerWrite w => exact h.execRegisterWrite
  | evictionComplete group => exact h.execEvictionComplete
  | linkAcknowledgement k reply => exact h.execLinkAcknowledgement
  | yieldExclusionExpiry r => exact h.execYieldExclusionExpiry
  | hardwareFault f => exact h.execHardwareFault
  | unassignedOpcode w => exact h.execUnassignedOpcode

namespace MemoryOk

/-! ## A turn (02 R56; 08 R177) -/

theorem holdVote {core port : Nat} (h : MemoryOk s) : MemoryOk (holdVote run s core port) := h.modCore

theorem prepare {i : Instr} (h : MemoryOk s) : MemoryOk (prepare run i s) := by
  unfold Machine.prepare
  split
  · exact .ite h h.holdVote
  · exact h

theorem takePort (h : MemoryOk s) (ht : takePort run s e = some s') : MemoryOk s' := by
  unfold Machine.takePort at ht
  dsimp only at ht
  split at ht
  · split at ht <;> cases ht
    exact h
  · split at ht <;> cases ht
    exact h.modCore

theorem joinWalks {core : Nat} {ws : List Walk} (h : MemoryOk s) : MemoryOk (joinWalks core ws s) := .ite h h.modCore

theorem leaveWalks {core : Nat} {ws : List Walk} (h : MemoryOk s) : MemoryOk (leaveWalks core ws s) := .ite h h.modCore

theorem resumeYield (h : MemoryOk s) : MemoryOk (resumeYield s r) := by
  unfold Machine.resumeYield
  split
  · exact h.modHart.stepAfter
  · exact h

theorem resumeYields {key : Nat} (h : MemoryOk s) : MemoryOk (resumeYields s key) := by
  unfold Machine.resumeYields
  split
  · exact h
  · exact h.foldl _ fun _ _ h => h.resumeYield

theorem chooseOn {core : Nat} (h : MemoryOk s) : MemoryOk (chooseOn s core) := by
  unfold Machine.chooseOn
  refine .ite h ?_
  extract_lets next chosen
  have hc : MemoryOk chosen := .ite h h.modCore
  clear_value next
  split
  · exact hc.resumeYields
  · exact hc

theorem settleRunning (h : MemoryOk s) : MemoryOk (settleRunning s) := h.foldl _ fun _ _ h => h.chooseOn

theorem settleTurn (h : MemoryOk s) : MemoryOk (settleTurn s) := h.settlePosted.settleRunning

section
variable (hr : RunnerOk run)
include hr

theorem issueFetched (h : MemoryOk s) : OutcomeOk (issueFetched run s e) := by
  have hf := h.fetch (e := e)
  unfold Machine.issueFetched
  split <;> rename_i hx <;> rw [hx] at hf
  · exact hf.raiseTrap.next
  · exact hf.raiseOn.next
  · split
    · exact hr _ _ hf
    · exact hf.raiseTrap.next

theorem issueTurn (h : MemoryOk s) : OutcomeOk (issueTurn run r s) := by
  unfold Machine.issueTurn
  extract_lets s1
  have h1 : MemoryOk s1 := h
  split
  · exact h1
  · rename_i e _
    split
    · exact h1
    · have ht := h1.takePort ‹_›
      split
      · exact ht.meetFault.next
      · extract_lets ws
        have hi := (ht.joinWalks (core := e.g.coreNo) (ws := ws)).issueFetched hr (e := e)
        split
        · rename_i hx
          rw [hx] at hi
          exact hi.leaveWalks.next
        · exact hi

theorem firstEvent {is : List Instr} (h : MemoryOk s) (hs : firstEvent run s is = some s') : MemoryOk s' := by
  induction is with
  | nil => cases hs
  | cons i is ih =>
    unfold Machine.firstEvent at hs
    have hi := hr i _ (h.prepare (run := run) (i := i))
    dsimp only at hs
    split at hs
    · rename_i hx
      rw [hx] at hi
      split at hs
      · exact ih hs
      · cases hs; exact hi
    · exact ih hs

theorem eventTurn {i : Instr} (h : MemoryOk s) : OutcomeOk (eventTurn run i s) := by
  unfold Machine.eventTurn
  split
  · exact h
  · exact hr _ _ h.prepare

theorem runTurn {t : TurnOf} (h : MemoryOk s) : OutcomeOk (runTurn run s t) := by
  cases t with
  | issue r => exact h.issueTurn hr
  | event i => exact h.eventTurn hr
  | pause => exact h

theorem ownTurn (h : MemoryOk s) : OutcomeOk (ownTurn run s) := by
  unfold Machine.ownTurn
  split
  · exact h.firstEvent hr ‹_›
  · dsimp only
    split
    · exact h.issueTurn hr
    · exact h.passTime.next

theorem plannedTurn {t : Turn} {ts : List Turn} (h : MemoryOk s) : OutcomeOk (plannedTurn run t ts s) := by
  unfold Machine.plannedTurn
  extract_lets passed
  have hp : MemoryOk passed := passTime (s := { s with agenda := ts }) h
  split
  · exact hp.runTurn hr
  · exact runTurn (s := { passed with agenda := _ }) hr hp

theorem takeStep (h : MemoryOk s) : OutcomeOk (takeStep run s) := by
  unfold Machine.takeStep
  extract_lets o
  have ho : OutcomeOk o := by
    unfold o
    split
    · exact h.ownTurn hr
    · exact h.plannedTurn hr
  clear_value o
  cases o with
  | next s' => exact (settleTurn ho).next
  | fault x => trivial
  | refused x => trivial

end
end MemoryOk

/-! ## The step -/

/-- Settles O60, from `MemoryOk.takeStep`: whatever runner keeps memory canonical, a turn with it does too, and `exec` is one
(`exec_runnerOk`). -/
theorem memoryKept : Obligations.MemoryKept := by
  intro s s' h hs
  have ho : OutcomeOk (step s) := MemoryOk.takeStep exec_runnerOk h
  rw [hs] at ho
  exact ho

end Sys2Proof
end

section
/-!
Objects of the state read after an update of them by name.
-/
namespace Sys2Proof
open Machine

/-- Every entry of a collection changed, the entry of a key is the changed one. -/
theorem mapFind_each {α : Type} (m : Map α) (f : Nat → α → α) (j : Nat) : mapFind (mapEach m f) j = (mapFind m j).map (f j) := by
  induction m with
  | nil => rfl
  | cons x m ih =>
    simp only [mapEach, List.map_cons, mapFind] at ih ⊢
    grind

theorem group?_modGroup (s : State) (key j : Nat) (f : Group → Group) :
    (s.modGroup key f).group? j = if j = key then (s.group? key).map f else s.group? j := by
  unfold State.modGroup
  split
  · next g hg =>
    by_cases hj : j = key
    · subst hj
      simp [hg]
    · simp [hj, State.group?_setGroup_other _ _ hj]
  · next hg =>
    split
    · next hj => simp [hj, hg]
    · rfl

theorem grid?_modGrid_same (s : State) (id : Nat) (f : Grid → Grid) : (s.modGrid id f).grid? id = (s.grid? id).map f := by
  unfold State.modGrid
  split
  · next gr hg => simp [hg]
  · next hg => simp [hg]

end Sys2Proof
end

section
/-!
What the records of the device, the errors of memory that a read meets, the walks of its own and its event words leave as it is: a
property of states that the few updates they are made of keep, each of them keeps.
-/
namespace Sys2Proof
open Machine

/-- The property stays through the updates that records, errors of memory, walks and event words are made of: those of Tovor's
registers, a write of memory with all it brings, what an operation sent to a peer touches, and a context's counters and place in its
log. -/
structure KeptByRecords (P : State → Prop) : Prop where
  tovor    : ∀ {s} f, P s → P (s.modTovor f)
  write    : ∀ {s} own ws, P s → P (writeHome s own ws)
  peer     : ∀ {s} own w, P s → P (touchPeer s own w)
  counters : ∀ {s} n (f : Ctx → Ctx),
    (∀ c, f c = { c with integ := (f c).integ, corrected := (f c).corrected, logIdx := (f c).logIdx }) → P s → P (s.modCtx n f)

namespace KeptByRecords

variable {P : State → Prop} {s : State}

theorem of_fst_eq {α : Type} {p : State × α} {x : α} (h : P p.1) (e : p = (s, x)) : P s := by
  subst e
  exact h

variable (k : KeptByRecords P) {n a len v : Nat} {x : LogEntry}
include k

/-! ## Records (17 R353, R355; 18 R385) -/

theorem block {f : DevBlock → DevBlock} (h : P s) : P (s.modBlock f) := k.tovor _ h

theorem writePf {s' : State} (h : P s) (e : writePf s a n v = some s') : P s' := by
  unfold Machine.writePf at e
  split at e
  · cases e
    exact k.write _ _ h
  · cases e

theorem writePf_getD (h : P s) : P ((Machine.writePf s a n v).getD s) := by
  cases e : Machine.writePf s a n v with
  | none => exact h
  | some s' => exact k.writePf h e

theorem deviceLog {ctx : Option Nat} (h : P s) : P (deviceLog s ctx n x) := by
  unfold Machine.deviceLog
  dsimp only
  split
  · exact k.block (k.writePf_getD h)
  · exact k.block h

theorem logEvent (h : P s) : P (logEvent s n x) := by
  unfold Machine.logEvent
  dsimp only
  split
  · exact k.counters _ _ (fun _ => rfl) (k.writePf h ‹_›)
  · exact k.deviceLog h

theorem ringWrite {seq : BitVec 24} {bits : BitVec 256} (h : P s) : P (ringWrite s seq bits) := by
  unfold Machine.ringWrite
  split
  · exact k.writePf_getD h
  · exact h

theorem report {r : Report} (h : P s) : P (report s r) := by
  unfold Machine.report
  exact k.tovor _ (k.ringWrite h)

/-! ## Errors of memory (18 R381, R382; 19 R404) -/

theorem countRow (h : P s) : P (countRow s n) := by
  unfold Machine.countRow
  split
  · exact h
  · dsimp only
    split
    · unfold remapRow
      dsimp only
      split
      · exact k.tovor _ (k.tovor _ h)
      · exact k.report (k.deviceLog (k.tovor _ h))
    · exact k.tovor _ h

theorem correctedShared (h : P s) : P (correctedShared s a) := by
  have hc : P (correctedIn s (memSource a)) := k.report (k.deviceLog (k.block h))
  unfold Machine.correctedShared
  dsimp only
  split
  · exact k.countRow hc
  · exact hc

theorem countUeShared {ctx : Option Nat} {c : Cause} (h : P s) : P (countUeShared s ctx n c) := k.deviceLog (k.block h)

theorem countUeCtx (h : P s) : P (countUeCtx s n) := k.counters _ _ (fun _ => rfl) (k.block h)

theorem poisonBlock (h : P s) : P (poisonBlock s n) := k.tovor _ (k.block h)

theorem correctedCtx {g : Option Group} (h : P s) : P (correctedCtx s n g) := by
  have hc := k.counters n (fun c => { c with corrected := satInc c.corrected }) (fun _ => rfl)
    (k.block (f := fun b => { b with corrCtx := satInc b.corrCtx }) h)
  cases g with
  | none => exact k.report (k.logEvent hc)
  | some g => exact k.report (k.logEvent hc)

theorem meetShared {ctx : Option Nat} (h : P s) : P (meetShared s ctx a).1 := by
  unfold Machine.meetShared
  split
  · exact k.countUeShared (k.tovor _ h)
  · split
    · exact h
    · split
      · exact h
      · exact k.correctedShared (k.tovor _ h)
      · exact k.countUeShared (k.poisonBlock h)

theorem meetMemory (h : P s) : P (meetMemory s n a).1 := by
  unfold Machine.meetMemory
  split
  · exact k.meetShared h
  · split
    · exact k.countUeCtx h
    · split
      · exact h
      · exact k.correctedCtx (k.tovor _ h)
      · exact k.countUeCtx (k.poisonBlock h)

theorem meetSpan (h : P s) : P (meetSpan s n a len).1 := by
  unfold Machine.meetSpan
  induction wordsOf a len generalizing s with
  | nil => exact h
  | cons b bs ih =>
    unfold meetEach
    split
    · exact ih (of_fst_eq (k.meetMemory h) ‹_›)
    · exact k.meetMemory h

/-! ## Walks of the device's own (19 R402) -/

theorem correctEntries {m : Nat} (h : P s) : P (correctEntries n v m s) := by
  induction m generalizing s with
  | zero => exact h
  | succ m ih =>
    unfold Machine.correctEntries
    split
    · split
      · exact h
      · exact ih (k.meetMemory h)
    · exact h

theorem walkCorrect (h : P s) : P (walkCorrect s n v) := by
  unfold Machine.walkCorrect
  split
  · exact h
  · exact k.correctEntries h

theorem meetWalk (h : P s) : P (meetWalk s n v) := by
  unfold Machine.meetWalk
  split
  · exact k.meetMemory h
  · exact h

theorem walked {need : Need} (h : P s) : P (walked s n v need).1 := by
  unfold Machine.walked
  dsimp only
  split
  · exact k.meetWalk (k.walkCorrect h)
  · exact k.walkCorrect h

/-! ## Event words and links (14 R316; 15 R331; 20 R412) -/

theorem sendLink {op : OutOp} (h : P s) : P (sendLink s op) := by
  refine k.tovor _ ?_
  unfold peerWritten
  dsimp only
  split
  · exact h
  · exact k.peer _ _ h

theorem signalFlat (h : P s) : P (signalFlat s n a x) := by
  unfold Machine.signalFlat
  dsimp only
  split
  · exact k.logEvent h
  · exact k.write _ _ h

theorem bumpEvent (h : P s) : P (bumpEvent s n v) := by
  unfold Machine.bumpEvent
  split
  · exact h
  · split
    · have hw := of_fst_eq (k.walked h) ‹_›
      split
      · exact k.logEvent (of_fst_eq (k.meetSpan hw) ‹_›)
      · exact k.signalFlat (of_fst_eq (k.meetSpan hw) ‹_›)
    · exact k.sendLink (of_fst_eq (k.walked h) ‹_›)
    · exact k.logEvent (of_fst_eq (k.walked h) ‹_›)

end KeptByRecords
end Sys2Proof
end

section
/-!
What the updates that go with the kill of a group (03 R89) leave of the groups, the grids, the cores and the counts of kills: the frame
`KillFrame` between two states, and that every operation of a kill but its mark keeps to it.
-/
namespace Sys2Proof
open Machine

/-- A context of a group that has been killed. -/
structure HartEnded (h : Hart) : Prop where
  status  : h.status = .exited
  results : h.results = []
  stores  : h.stores = []
  ord     : h.ord = []

/-- A group as its kill leaves it (03 R89). -/
structure GroupEnded (g : Group) : Prop where
  state     : g.state = .killed
  dq        : g.dq = []
  rdvs      : g.rdvs = []
  batches   : g.batches = []
  image     : g.image = none
  timer     : g.timer = none
  savedCmds : g.savedCmds = []
  rollback  : g.rollback = false
  halting   : g.halting = none
  harts     : ∀ p, p ∈ g.harts → HartEnded p.2

/-- What the updates around a kill leave of a group: its grid; a killed group stays one, none becomes RETIRED, and one that is as
its kill left it stays so. -/
structure GroupKept (g g' : Group) : Prop where
  grid    : g'.grid = g.grid
  killed  : g.state = .killed → g'.state = .killed
  retired : g'.state = .retired → g.state = .retired
  ended   : GroupEnded g → GroupEnded g'

/-- What they leave of a grid: what it says of its killed groups. -/
structure GridKept (gr gr' : Grid) : Prop where
  killed     : gr'.killed = gr.killed
  firstGroup : gr'.firstGroup = gr.firstGroup
  cause      : gr'.cause = gr.cause

/-- What they leave of a core: no command comes, and no group begins to run there or takes the tiles. -/
structure CoreKept (c c' : Core) : Prop where
  cmds    : c'.cmds ⊆ c.cmds
  running : ∀ key, c'.running = some key → c.running = some key
  claim   : ∀ key, c'.claim = some key → c.claim = some key

/-- What the updates around a kill leave of the state. -/
structure KillFrame (s s' : State) : Prop where
  groups : ∀ key g, s.group? key = some g → ∃ g', s'.group? key = some g' ∧ GroupKept g g'
  grids  : ∀ id gr, s.grid? id = some gr → ∃ gr', s'.grid? id = some gr' ∧ GridKept gr gr'
  cores  : ∀ k, CoreKept (s.core k) (s'.core k)
  kills  : ∀ n, (s'.ctx n).kills = (s.ctx n).kills

theorem GroupKept.refl (g : Group) : GroupKept g g := ⟨rfl, id, id, id⟩

theorem GroupKept.trans {g g' g'' : Group} (h : GroupKept g g') (h' : GroupKept g' g'') : GroupKept g g'' :=
  ⟨h'.grid.trans h.grid, h'.killed ∘ h.killed, h.retired ∘ h'.retired, h'.ended ∘ h.ended⟩

theorem GridKept.refl (gr : Grid) : GridKept gr gr := ⟨rfl, rfl, rfl⟩

theorem GridKept.trans {gr gr' gr'' : Grid} (h : GridKept gr gr') (h' : GridKept gr' gr'') : GridKept gr gr'' :=
  ⟨h'.killed.trans h.killed, h'.firstGroup.trans h.firstGroup, h'.cause.trans h.cause⟩

theorem CoreKept.refl (c : Core) : CoreKept c c := ⟨fun _ h => h, fun _ h => h, fun _ h => h⟩

theorem CoreKept.trans {c c' c'' : Core} (h : CoreKept c c') (h' : CoreKept c' c'') : CoreKept c c'' :=
  ⟨fun _ x => h.cmds (h'.cmds x), fun k x => h.running k (h'.running k x), fun k x => h.claim k (h'.claim k x)⟩

/-- A change of state that neither brings a killed group back nor retires one, of a group whose grid stays and that the change leaves
alone once it has ended. -/
theorem GroupKept.of_state {g g' : Group} (hg : g'.grid = g.grid)
    (hs : g'.state = g.state ∨ g.state ≠ .killed ∧ g'.state ≠ .retired) (he : GroupEnded g → g' = g) : GroupKept g g' where
  grid := hg
  killed hk := by
    rcases hs with hs | hs
    · exact hs.trans hk
    · exact absurd hk hs.1
  retired hr := by
    rcases hs with hs | hs
    · exact hs.symm.trans hr
    · exact absurd hr hs.2
  ended h := (he h).symm ▸ h

/-! ## Groups that a write, a wake or a claim changes -/

theorem groupKept_wakeEvicted (g : Group) : GroupKept g (wakeEvicted g) := by
  unfold wakeEvicted
  split
  · next hi => exact .of_state rfl (.inl rfl) fun h => by simp [h.image] at hi
  · split
    · next hs => exact .of_state rfl (.inr (by simp [hs])) fun h => by simp [h.state] at hs
    · exact .refl g

theorem GroupEnded.isEvicting {g : Group} (h : GroupEnded g) : g.isEvicting = false := by simp [Group.isEvicting, h.state, h.image]

theorem GroupEnded.takesWakes {g : Group} (h : GroupEnded g) (s : State) : g.takesWakes s = false := by simp [Group.takesWakes, h.state]

theorem GroupEnded.present {g : Group} (h : GroupEnded g) : g.present = false := by simp [Group.present, h.state]

theorem GroupEnded.steward {g : Group} (h : GroupEnded g) : g.steward.status = .exited :=
  (h.harts (.steward, g.steward) (by simp [Group.harts])).status

theorem wakeHart_of_exited {h : Hart} (hs : h.status = .exited) : wakeHart h = h := by simp [wakeHart, hs]

theorem groupKept_touchGroup (s : State) (key : Nat) (t : Touched) (g : Group) : GroupKept g (touchGroup s key t g) := by
  by_cases hv : g.isEvicting = true
  · simp only [touchGroup, hv, if_true]
    generalize g.harts.any _ = hit
    cases hit
    · exact .refl g
    · exact groupKept_wakeEvicted g
  · refine .of_state ?_ (.inl ?_) fun h => by simp [touchGroup, h.isEvicting, h.takesWakes, h.present]
    all_goals
      simp only [touchGroup, hv]
      grind [Group.eachHart]


namespace KillFrame

variable {s₀ s : State} {n key k : Nat}

theorem refl (s : State) : KillFrame s s where
  groups _ g h := ⟨g, h, .refl g⟩
  grids _ gr h := ⟨gr, h, .refl gr⟩
  cores _ := .refl _
  kills _ := rfl

theorem trans {s' : State} (h : KillFrame s₀ s) (h' : KillFrame s s') : KillFrame s₀ s' where
  groups key g hg := by
    obtain ⟨g₁, h₁, k₁⟩ := h.groups key g hg
    obtain ⟨g₂, h₂, k₂⟩ := h'.groups key g₁ h₁
    exact ⟨g₂, h₂, k₁.trans k₂⟩
  grids id gr hg := by
    obtain ⟨g₁, h₁, k₁⟩ := h.grids id gr hg
    obtain ⟨g₂, h₂, k₂⟩ := h'.grids id g₁ h₁
    exact ⟨g₂, h₂, k₁.trans k₂⟩
  cores k := (h.cores k).trans (h'.cores k)
  kills n := (h'.kills n).trans (h.kills n)

/-! ## The named updates -/

theorem modTovor {f : Tovor → Tovor} (h : KillFrame s₀ s) : KillFrame s₀ (s.modTovor f) := ⟨h.groups, h.grids, h.cores, h.kills⟩

theorem setGroup {g g' : Group} (h : KillFrame s₀ s) (hg : s.group? key = some g) (hk : GroupKept g g') :
    KillFrame s₀ (s.setGroup key g') :=
  h.trans
    { refl s with
      groups := fun j x hx => by
        by_cases hj : j = key
        · subst hj
          obtain rfl : g = x := Option.some.inj (hg.symm.trans hx)
          exact ⟨g', State.group?_setGroup .., hk⟩
        · exact ⟨x, (State.group?_setGroup_other _ _ hj).trans hx, .refl x⟩ }

theorem setGrid {gr gr' : Grid} (h : KillFrame s₀ s) (hg : s.grid? key = some gr) (hk : GridKept gr gr') :
    KillFrame s₀ (s.setGrid key gr') :=
  h.trans
    { refl s with
      grids := fun j x hx => by
        by_cases hj : j = key
        · subst hj
          obtain rfl : gr = x := Option.some.inj (hg.symm.trans hx)
          exact ⟨gr', State.grid?_setGrid .., hk⟩
        · exact ⟨x, (mapFind_put_other _ _ hj).trans hx, .refl x⟩ }

theorem modCore {f : Core → Core} (h : KillFrame s₀ s) (hk : CoreKept (s.core k) (f (s.core k))) : KillFrame s₀ (s.modCore k f) :=
  h.trans
    { refl s with
      cores := fun j => by
        unfold State.modCore
        by_cases hj : j = k
        · subst hj
          rw [State.core_setCore]
          exact hk
        · rw [State.core_setCore_other _ _ hj]
          exact .refl _ }

theorem modCtx {f : Ctx → Ctx} (h : KillFrame s₀ s) (hk : (f (s.ctx n)).kills = (s.ctx n).kills) : KillFrame s₀ (s.modCtx n f) :=
  h.trans
    { refl s with
      kills := fun j => by
        unfold State.modCtx
        by_cases hj : j = n
        · subst hj
          rw [State.ctx_setCtx]
          exact hk
        · rw [State.ctx_setCtx_other _ _ hj] }

theorem eachGroup {f : Nat → Group → Group} (h : KillFrame s₀ s) (hf : ∀ key g, GroupKept g (f key g)) :
    KillFrame s₀ { s with groups := mapEach s.groups f } :=
  h.trans
    { refl s with
      groups := fun key g hg => ⟨f key g, by simp only [State.group?, mapFind_each] at hg ⊢; simp [hg], hf key g⟩ }

theorem eachCore {f : Nat → Core → Core} (h : KillFrame s₀ s) (hf : ∀ k c, CoreKept c (f k c)) :
    KillFrame s₀ { s with cores := mapEach s.cores f } :=
  h.trans
    { refl s with
      cores := fun k => by
        simp only [State.core, mapGet, mapFind_each]
        cases mapFind s.cores k with
        | none => exact .refl _
        | some c => exact hf k c }

theorem eachCtx {f : Nat → Ctx → Ctx} (h : KillFrame s₀ s) (hf : ∀ n c, (f n c).kills = c.kills) :
    KillFrame s₀ { s with ctxs := mapEach s.ctxs f } :=
  h.trans
    { refl s with
      kills := fun n => by
        simp only [State.ctx, mapGet, mapFind_each]
        cases mapFind s.ctxs n with
        | none => rfl
        | some c => exact hf n c }

/-! ## Writes of memory -/

theorem settlePeers (h : KillFrame s₀ s) : KillFrame s₀ (settlePeers s) :=
  h.eachGroup fun key g => by
    split
    · next hc => exact .of_state rfl (.inr (by simp_all)) fun he => by simp [he.state] at hc
    · split
      · next hc => exact .of_state rfl (.inr (by simp_all)) fun he => by simp [he.state] at hc
      · exact .refl g

theorem settleTimers (h : KillFrame s₀ s) : KillFrame s₀ (settleTimers s) :=
  h.eachGroup fun key g => by
    split
    · next hc => exact .of_state rfl (.inl rfl) fun he => by simp [he.state] at hc
    · exact .refl g

theorem touch {own : Option (Nat × Nat)} {t : Touched} (h : KillFrame s₀ s) : KillFrame s₀ (touch s own t) := by
  have hc : KillFrame s₀ { s with ctxs := mapEach s.ctxs (touchCtx s own t) } := h.eachCtx fun _ _ => rfl
  have hq : KillFrame s₀ { s with ctxs := mapEach s.ctxs (touchCtx s own t), queues := mapEach s.queues fun _ q => touchQueue s t q } :=
    ⟨hc.groups, hc.grids, hc.cores, hc.kills⟩
  exact (hq.eachGroup (groupKept_touchGroup s · t)).settlePeers.settleTimers

theorem writeHome {own : Option (Nat × Nat)} {ws : List WByte} (h : KillFrame s₀ s) : KillFrame s₀ (writeHome s own ws) := by
  unfold Machine.writeHome
  split
  · exact h
  · exact touch ⟨h.groups, h.grids, h.cores, h.kills⟩

theorem records (s₀ : State) : KeptByRecords (KillFrame s₀) where
  tovor _ h := h.modTovor
  write _ _ h := h.writeHome
  peer _ _ h := h.eachCtx fun _ _ => rfl
  counters n f hf h := h.modCtx (by rw [hf])

/-! ## What a kill lets go of (03 R89) -/

variable {g : Group} {c : Cmd}

theorem writeNat {a len v : Nat} (h : KillFrame s₀ s) : KillFrame s₀ (writeNat s a len v) := h.writeHome

theorem flushL1 (h : KillFrame s₀ s) : KillFrame s₀ (flushL1 s k) :=
  (h.modCore ⟨fun _ x => x, fun _ x => x, fun _ x => x⟩).writeHome

theorem writeDue {d : DueWord} (h : KillFrame s₀ s) : KillFrame s₀ (writeDue s d) := by
  unfold Machine.writeDue
  split
  · exact h.flushL1.writeNat
  · exact h.writeNat

theorem cancelCpy (h : KillFrame s₀ s) : KillFrame s₀ (cancelCpy s g c) :=
  List.foldlRecOn _ _ h.modTovor.modTovor fun _ h _ _ => h.writeDue

theorem dropLocks (h : KillFrame s₀ s) : KillFrame s₀ (dropLocks s k n) :=
  h.eachCore fun j c => by
    split
    · exact ⟨fun _ x => x, fun _ x => x, fun _ x => x⟩
    · exact .refl c

theorem removeCmd (h : KillFrame s₀ s) : KillFrame s₀ (removeCmd s k n) :=
  (h.modCore ⟨fun _ x => (List.mem_filter.mp x).1, fun _ x => x, fun _ x => x⟩).dropLocks

theorem abandonSlot (h : KillFrame s₀ s) : KillFrame s₀ (abandonSlot s g c) := h.modCtx rfl

theorem releaseSlot (h : KillFrame s₀ s) : KillFrame s₀ (releaseSlot s g c) := h.modCtx rfl

/-- A command cancelled has left its core; what else its cancelling does brings it no other. -/
theorem removeCmd_cancelCmd (s : State) (g : Group) (c : Cmd) : KillFrame (Machine.removeCmd s g.coreNo c.id) (cancelCmd s g c) := by
  unfold Machine.cancelCmd
  dsimp only
  split
  · exact (refl _).cancelCpy
  · split
    · exact (refl _).abandonSlot
    · exact refl _
  · exact refl _

theorem cancelCmd (h : KillFrame s₀ s) : KillFrame s₀ (cancelCmd s g c) := h.removeCmd.trans (removeCmd_cancelCmd s g c)

theorem cancelCmds {cs : List Cmd} (h : KillFrame s₀ s) : KillFrame s₀ (cancelCmds s g cs) := by
  induction cs generalizing s with
  | nil => exact h
  | cons c cs ih => exact ih h.cancelCmd

theorem wakeClaim (h : KillFrame s₀ s) : KillFrame s₀ (wakeClaim s k) :=
  (h.eachGroup fun key g => by
    split
    · split
      · exact groupKept_wakeEvicted g
      · refine .of_state rfl (.inl rfl) fun he => ?_
        rw [wakeHart_of_exited he.steward]
    · exact .refl g).settlePeers

theorem releaseClaim (h : KillFrame s₀ s) : KillFrame s₀ (releaseClaim s key g) := by
  unfold Machine.releaseClaim
  split
  · exact (h.modCore ⟨fun _ x => x, fun _ x => x, fun _ x => by cases x⟩).wakeClaim
  · exact h

theorem countTrigger (h : KillFrame s₀ s) : KillFrame s₀ (countTrigger s key) := by
  unfold Machine.countTrigger
  split
  · exact h
  · next g hg =>
    split
    · exact h
    · have ht : KillFrame s₀ (s.setGroup key { g with triggered := true }) :=
        h.setGroup hg ⟨rfl, id, id, fun he => { he with }⟩
      dsimp only
      split
      · exact ht
      · next gr hgr =>
        split
        · exact (records s₀).bumpEvent (ht.setGrid hgr ⟨rfl, rfl, rfl⟩)
        · exact ht.setGrid hgr ⟨rfl, rfl, rfl⟩

theorem settleCtx (h : KillFrame s₀ s) : KillFrame s₀ (settleCtx s n) := by
  unfold Machine.settleCtx
  split
  · exact h.modCtx rfl
  · exact h

end KillFrame

end Sys2Proof
end

section
/-!
The kill of a group (03 R89) in its parts, and what it leaves of the group, its grid, its context, its core and the other groups.
-/
namespace Sys2Proof
open Machine

/-! ## The kill in parts (03 R89) -/

/-- The state in which a group to be killed has let go of its commands, its slots, its claim and its core. -/
def letGo (s : State) (key : Nat) (g : Group) : State :=
  let cancelled := cancelCmds s g (s.cmdsOf key g)
  let unbound := (g.savedCmds.filter fun c => c.kind == .dlt).foldl
    (fun s c => if c.started then abandonSlot s g c else releaseSlot s g c) cancelled
  let unclaimed := if g.state = .evicted || g.state = .pending then unbound else releaseClaim unbound key g
  unclaimed.modCore g.coreNo fun c =>
    { c with running := if c.running = some key then none else c.running
             records := c.records.filter fun r => r.1.group != key
             replay := dropReplay key c.replay }

/-- A group ended without completion. -/
def endGroup (g : Group) : Group :=
  { g.eachHart fun _ h => killHart h with
    state := .killed, dq := [], rdvs := [], batches := [], image := none, timer := none, savedMem := []
    savedAcc := [], savedDepth := [], savedProv := [], savedCmds := [], savedLocks := [], hadClaim := false, rollback := false
    halting := none }

/-- The kill of a group counted in its grid. -/
def Machine.Grid.withKill (gr : Grid) (index : Nat) (cause : Cause) : Grid :=
  { gr with killed := gr.killed + 1, firstGroup := some (gr.firstGroup.getD index), cause := some (gr.cause.getD cause) }

/-- The group ended, and its kill counted in its grid and its context. -/
def markKilled (s : State) (key : Nat) (g : Group) (cause : Cause) : State :=
  ((s.modGroup key endGroup).modGrid g.grid fun gr => gr.withKill g.index cause).modCtx g.ctx
    fun c => { c with kills := satInc c.kills }

theorem GridKept.withKill {gr gr' : Grid} {index : Nat} {cause : Cause} (h : GridKept gr gr') :
    GridKept (gr.withKill index cause) (gr'.withKill index cause) where
  killed := congrArg (· + 1) h.killed
  firstGroup := congrArg (fun o : Option Nat => some (o.getD index)) h.firstGroup
  cause := congrArg (fun o : Option Cause => some (o.getD cause)) h.cause

theorem groupEnded_endGroup (g : Group) : GroupEnded (endGroup g) where
  state := rfl
  dq := rfl
  rdvs := rfl
  batches := rfl
  image := rfl
  timer := rfl
  savedCmds := rfl
  rollback := rfl
  halting := rfl
  harts p hp := by
    suffices h : ∃ h, p.2 = killHart h by
      obtain ⟨h, e⟩ := h
      constructor <;> simp [e, killHart]
    simp only [endGroup, Group.eachHart, Group.harts, List.mem_append, List.mem_map, List.mem_singleton] at hp
    grind

/-- A command removed is no longer on its core. -/
theorem id_ne_of_mem_removeCmd {s : State} {k id : Nat} {x : Cmd} (hx : x ∈ ((removeCmd s k id).core k).cmds) : x.id ≠ id := by
  have hd := ((KillFrame.refl (s.modCore k fun c => { c with cmds := c.cmds.filter fun y => y.id != id })).dropLocks
    (k := k / 8) (n := id)).cores k
  have hf := hd.cmds hx
  rw [State.modCore, State.core_setCore] at hf
  simpa using (List.mem_filter.mp hf).2

theorem id_ne_of_mem_cancelCmds {s : State} {g : Group} {cs : List Cmd} {x : Cmd}
    (hx : x ∈ ((cancelCmds s g cs).core g.coreNo).cmds) : ∀ c, c ∈ cs → x.id ≠ c.id := by
  induction cs generalizing s with
  | nil => simp
  | cons c cs ih =>
    have hc : x ∈ ((cancelCmd s g c).core g.coreNo).cmds := (((KillFrame.refl _).cancelCmds).cores _).cmds hx
    exact List.forall_mem_cons.mpr ⟨id_ne_of_mem_removeCmd (((KillFrame.removeCmd_cancelCmd s g c).cores _).cmds hc), ih hx⟩

/-- A claim released is no longer the group's. -/
theorem claim_releaseClaim (s : State) (key : Nat) (g : Group) : ((releaseClaim s key g).core g.coreNo).claim ≠ some key := by
  unfold releaseClaim
  split
  · intro h
    have hc := ((KillFrame.refl (s.modCore g.coreNo fun c => { c with claim := none })).wakeClaim.cores _).claim key h
    rw [State.modCore, State.core_setCore] at hc
    cases hc
  · assumption

/-- Behind the cancelling of its commands the group lets go of its core, and of the tiles where it may have claimed them. -/
theorem letGo_core (s : State) (key : Nat) (g : Group) :
    KillFrame (cancelCmds s g (s.cmdsOf key g)) (letGo s key g) ∧ ((letGo s key g).core g.coreNo).running ≠ some key
    ∧ (g.state ≠ .evicted → g.state ≠ .pending → ((letGo s key g).core g.coreNo).claim ≠ some key) := by
  unfold letGo
  extract_lets cancelled unbound unclaimed
  have hb : KillFrame cancelled unbound := List.foldlRecOn _ _ (.refl _) fun s h c _ => by
    split
    · exact h.abandonSlot
    · exact h.releaseSlot
  have hu : KillFrame cancelled unclaimed := by
    unfold unclaimed
    split
    · exact hb
    · exact hb.releaseClaim
  have hm := fun c : Core => (⟨fun _ x => x, fun k x => by grind, fun _ x => x⟩ :
    CoreKept c { c with
      running := if c.running = some key then none else c.running
      records := c.records.filter fun r => r.1.group != key
      replay := dropReplay key c.replay })
  refine ⟨hu.modCore (hm _), ?_, fun he hp h => ?_⟩
  · rw [State.modCore, State.core_setCore]
    grind
  · have hc := (((KillFrame.refl unclaimed).modCore (hm _)).cores _).claim key h
    have hr : unclaimed = releaseClaim unbound key g := if_neg (by simp [he, hp])
    exact claim_releaseClaim unbound key g (hr ▸ hc)

theorem killFrame_letGo (s : State) (key : Nat) (g : Group) : KillFrame s (letGo s key g) :=
  (KillFrame.refl s).cancelCmds.trans (letGo_core s key g).1

/-- No command of the group is left on its core. -/
theorem gid_ne_of_mem_letGo {s : State} {key : Nat} {g : Group} {c : Cmd} (hc : c ∈ ((letGo s key g).core g.coreNo).cmds) :
    c.gid ≠ key := fun hg => by
  have hx := ((letGo_core s key g).1.cores _).cmds hc
  have hs : c ∈ (s.core g.coreNo).cmds := ((KillFrame.refl s).cancelCmds.cores _).cmds hx
  exact id_ne_of_mem_cancelCmds hx c (List.mem_filter.mpr ⟨hs, by simp [hg]⟩) rfl

section
variable (s : State) (key : Nat) (g : Group) (cause : Cause)

theorem core_markKilled (k : Nat) : (markKilled s key g cause).core k = s.core k := by simp [markKilled, State.core]

theorem group?_markKilled (j : Nat) :
    (markKilled s key g cause).group? j = if j = key then (s.group? key).map endGroup else s.group? j := by
  rw [← group?_modGroup]
  simp [markKilled, State.group?]

theorem grid?_markKilled :
    (markKilled s key g cause).grid? g.grid = (s.grid? g.grid).map fun gr => gr.withKill g.index cause := by
  have hs : (s.modGroup key endGroup).grid? g.grid = s.grid? g.grid := by simp [State.grid?]
  rw [← hs, ← grid?_modGrid_same]
  rfl

theorem kills_markKilled : ((markKilled s key g cause).ctx g.ctx).kills = satInc (s.ctx g.ctx).kills := by
  unfold markKilled
  rw [State.modCtx, State.ctx_setCtx]
  simp [State.ctx]

end

/-! ## What a kill leaves -/

section
variable {s : State} {key : Nat} {g : Group} (hg : s.group? key = some g) (hk : g.state ≠ .killed) (hr : g.state ≠ .retired)
  (cause : Cause) (pc aux quad : Nat) (toDevice : Bool)
include hg hk hr

/-- Behind its mark a kill makes its record and counts its trigger, and the context's run may end. -/
theorem markKilled_killOne : KillFrame (markKilled (letGo s key g) key g cause) (killOne s key cause pc aux quad toDevice) := by
  unfold killOne
  simp only [hg, hk, hr]
  refine KillFrame.settleCtx (KillFrame.countTrigger ?_)
  split
  · exact (KillFrame.records _).deviceLog (.refl _)
  · exact (KillFrame.records _).logEvent (.refl _)

theorem killOne_group : ∃ g', (killOne s key cause pc aux quad toDevice).group? key = some g' ∧ GroupEnded g' := by
  obtain ⟨g₁, h₁, -⟩ := (killFrame_letGo s key g).groups key g hg
  obtain ⟨g₂, h₂, k₂⟩ := (markKilled_killOne hg hk hr cause pc aux quad toDevice).groups key
    (endGroup g₁) (by simp [group?_markKilled, h₁])
  exact ⟨g₂, h₂, k₂.ended (groupEnded_endGroup g₁)⟩

theorem killOne_kills : ((killOne s key cause pc aux quad toDevice).ctx g.ctx).kills = satInc (s.ctx g.ctx).kills := by
  rw [(markKilled_killOne hg hk hr cause pc aux quad toDevice).kills, kills_markKilled, (killFrame_letGo s key g).kills]

theorem killOne_grid {gr : Grid} (hgr : s.grid? g.grid = some gr) :
    ∃ gr', (killOne s key cause pc aux quad toDevice).grid? g.grid = some gr' ∧ GridKept (gr.withKill g.index cause) gr' := by
  obtain ⟨g₁, h₁, k₁⟩ := (killFrame_letGo s key g).grids _ gr hgr
  obtain ⟨g₂, h₂, k₂⟩ := (markKilled_killOne hg hk hr cause pc aux quad toDevice).grids g.grid
    (g₁.withKill g.index cause) (by simp [grid?_markKilled, h₁])
  exact ⟨g₂, h₂, k₁.withKill.trans k₂⟩

theorem killOne_core (k : Nat) : CoreKept ((letGo s key g).core k) ((killOne s key cause pc aux quad toDevice).core k) :=
  core_markKilled (letGo s key g) key g cause k ▸ (markKilled_killOne hg hk hr cause pc aux quad toDevice).cores k

end

/-- A group that a kill names or not: a killed one stays so, and none becomes RETIRED. -/
theorem killOne_others (s : State) (key : Nat) (cause : Cause) (pc aux quad : Nat) (toDevice : Bool) {j : Nat} {g : Group}
    (hg : s.group? j = some g) : ∃ g', (killOne s key cause pc aux quad toDevice).group? j = some g'
      ∧ (g.state = .killed → g'.state = .killed) ∧ (g'.state = .retired → g.state = .retired) := by
  by_cases hx : ∃ x, s.group? key = some x ∧ x.state ≠ .killed ∧ x.state ≠ .retired
  · obtain ⟨x, hx, hk, hr⟩ := hx
    by_cases hj : j = key
    · subst hj
      obtain ⟨g', h', e'⟩ := killOne_group hx hk hr cause pc aux quad toDevice
      exact ⟨g', h', fun _ => e'.state, fun h => by simp [e'.state] at h⟩
    · obtain ⟨g₁, h₁, k₁⟩ := (killFrame_letGo s key x).groups j g hg
      obtain ⟨g₂, h₂, k₂⟩ := (markKilled_killOne hx hk hr cause pc aux quad toDevice).groups j g₁
        (by simp [group?_markKilled, hj, h₁])
      exact ⟨g₂, h₂, k₂.killed ∘ k₁.killed, k₁.retired ∘ k₂.retired⟩
  · have hs : killOne s key cause pc aux quad toDevice = s := by
      unfold killOne
      split
      · rfl
      · next x h => exact if_pos (by grind)
    exact ⟨g, by rw [hs, hg], id, id⟩

end Sys2Proof
end

section
/-!
THE HAPPENINGS OF GROUPS (03 R87 to R99; 05 R138, R139; 15 R330, R331; 16 R341): what each happening does where its conditions hold,
in the model's own operations, and O42 from these and from what a kill leaves.
-/
namespace Sys2Proof
open Machine

variable {s : State} {key grid : Nat} {g : Group} {gr : Grid}

/-- Every context of a group is found by its reference. -/
theorem hart?_of_mem_harts {p : Who × Hart} (hp : p ∈ g.harts) : g.hart? p.1 = some p.2 := by
  simp only [Group.harts, List.mem_append, List.mem_map, List.mem_singleton, Prod.exists, List.mem_zipIdx_iff_getElem?] at hp
  rcases hp with ⟨h, n, hn, rfl⟩ | rfl
  · exact hn
  · rfl

/-- What a group's contexts have written is performed once no store of them waits and nothing of them is under way over a link. -/
theorem groupReleased_of_idle (hg : s.group? key = some g)
    (h : ∀ p, p ∈ g.harts → p.2.stores = [] ∧ linkBusy s { group := key, who := p.1 } = false) : groupReleased s key g = true := by
  refine List.all_eq_true.mpr fun p hp => ?_
  obtain ⟨hs, hl⟩ := h p hp
  simp [released, State.hart?, hg, hart?_of_mem_harts hp, hs, hl]

/-- A grid whose groups have all ended, and which no command serves any more, is finished. -/
theorem exec_gridComplete_of_total (hg : s.grid? grid = some gr) (ht : gr.retired + gr.killed = gr.total)
    (hc : ∀ c x, c ∈ s.cores → x ∈ c.2.cmds → x.gid / 2 ^ 64 ≠ grid) :
    exec (.gridComplete grid) s = .next (finishGrid s grid gr) := by
  have hb : (s.cores.any fun c => c.2.cmds.any fun x => x.gid / 2 ^ 64 == grid) = false := by
    simp only [List.any_eq_false]
    exact fun c hcs => by simpa using fun x hx => hc c x hcs hx
  simp only [exec, execGridComplete, hg, hb, ht]
  simp

/-- The token at a `.det` group whose batch is applied whole closes it. -/
theorem exec_orderedBatchApply_of_applied {b : List (Who × OrdEntry)} {rest : List (List (Who × OrdEntry))} {u : State}
    (hgr : s.grid? grid = some gr) (hg : s.group? (groupKey grid gr.tokenIndex) = some g) (hd : Hdr.det gr.header = true)
    (hb : g.batches = b :: rest) (hp : g.present = true) (hh : g.halting = none)
    (hr : groupReleased s (groupKey grid gr.tokenIndex) g = true)
    (ha : applyBatch (groupKey grid gr.tokenIndex) g gr s b = (u, [], none)) :
    exec (.orderedBatchApply grid) s = .next (closeBatch
      (u.modGroup (groupKey grid gr.tokenIndex) fun g => { g with batches := [] :: rest }) grid (groupKey grid gr.tokenIndex) g gr) := by
  simp [exec, execOrderedBatchApply, hgr, hg, hd, hb, hp, hh, hr, ha]

/-- Groups killed one after another: of those that have not ended, each that is named is KILLED behind it. -/
theorem foldl_killOne_kills {ks : List Nat} {cause : Cause} {pc aux quad : Nat → Nat} {k : Nat} (hg : s.group? k = some g)
    (hr : g.state ≠ .retired) (h : k ∈ ks ∨ g.state = .killed) :
    ∃ g', (ks.foldl (fun s j => killOne s j cause (pc j) (aux j) (quad j) false) s).group? k = some g' ∧ g'.state = .killed := by
  induction ks generalizing s g with
  | nil => exact ⟨g, hg, h.resolve_left List.not_mem_nil⟩
  | cons j ks ih =>
    obtain ⟨g₁, h₁, hkilled, hretired⟩ := killOne_others s j cause (pc j) (aux j) (quad j) false hg
    refine ih h₁ (hr ∘ hretired) ?_
    by_cases hk : g.state = .killed
    · exact .inr (hkilled hk)
    · rcases List.mem_cons.mp (h.resolve_right hk) with rfl | hm
      · obtain ⟨g₂, h₂, he⟩ := killOne_group hg hk hr cause (pc k) (aux k) (quad k) false
        obtain rfl : g₁ = g₂ := Option.some.inj (h₁.symm.trans h₂)
        exact .inr he.state
      · exact .inl hm

/-- Every group of a killed cluster-group that had not ended is KILLED. -/
theorem killGroup_kills {cause : Cause} {pc aux quad k : Nat} (hk : k ∈ s.peers key) (hg : s.group? k = some g)
    (hr : g.state ≠ .retired) : ∃ g', (killGroup s key cause pc aux quad).group? k = some g' ∧ g'.state = .killed := by
  have h := foldl_killOne_kills hg hr (.inl hk) (cause := cause) (pc := fun j => if j = key then pc else 0)
    (aux := fun j => if j = key then aux else 0) (quad := fun j => if j = key then quad else 0)
  have hf : (fun s j => killOne s j cause (if j = key then pc else 0) (if j = key then aux else 0) (if j = key then quad else 0) false)
      = fun s j => if j = key then killOne s j cause pc aux quad false else killOne s j cause 0 0 0 false := by
    funext s j
    split <;> rfl
  rwa [hf] at h

/-- Settles O42. Each happening takes the branch that its conditions name; what a kill leaves is the frame of its parts
(`KillFrame`) around its mark. -/
theorem groupHappenings : Obligations.GroupHappenings := by
  unfold Obligations.GroupHappenings
  refine ⟨?retire, ?complete, ?place, ?timer, ?evicted, ?applied, ?waits, ?passes, ?kill, ?killAll⟩
  case retire =>
    intro s key g hg hs hr hp hc hq hb hh u v
    have hw : groupReleased s key g = true := groupReleased_of_idle hg fun p hp => (hh p hp).2
    have ho : (g.harts.any fun p => !p.2.ord.isEmpty) = false := by
      simp only [List.any_eq_false]
      exact fun p hp => by simp [(hh p hp).1]
    simp [exec, execGroupRetire, hg, hs, hr, hp, hc, hq, hb, hw, ho, u, v]
  case complete =>
    intro s grid gr hg ht he hc u v
    rw [exec_gridComplete_of_total hg ht hc]
    refine ⟨fun hv => ?_, fun hv => ?_⟩
    · simp [finishGrid, he, hv, u, v]
    · simp [finishGrid, he, hv, u, v]
  case place =>
    intro s key gr c cluster core quad hg hc hp
    simp only [exec, execGroupPlacement, hg, hc, hp]
    simp
  case timer =>
    intro s key g t ns hg hl hs ht hd hcalm external
    simp -zeta only [exec, execEvictionTimerExpiry, hg]
    extract_lets ks calm ext
    have hc : ks.all calm = true := List.all_eq_true.mpr fun k hk => by
      unfold calm
      split
      · next p hp => simpa [and_assoc, or_assoc] using hcalm k p hk hp
      · rfl
    have hdue : timerDue s g = true := by simp [timerDue, ht, hd]
    have he : ks.any ext = true ↔ external := by
      unfold ext external
      simp only [List.any_eq_true]
      refine exists_congr fun k => ?_
      cases s.group? k <;> simp [ks]
    simp only [hl, hs, hdue, hc]
    refine ⟨fun hx => ?_, fun hx => ?_⟩
    · simp [he.mpr hx, ks]
    · simp [mt he.mp hx, ks]
  case evicted =>
    intro s key g i hg hi hw hs ks hk hrest
    have hall : (ks.all fun k => (s.group? k).all fun p => p.atRest s k) = true := List.all_eq_true.mpr fun k hks => by
      cases hp : s.group? k with
      | none => rfl
      | some p => exact hrest k p hks hp
    have hstate : (g.state != .waiting && g.state != .resident) = false := by grind
    refine ⟨fun v hv => ?_, fun v hv => ?_⟩
    all_goals
      simp -zeta only [exec, execEvictionComplete, hg]
      simp [ks, hk, hstate, hall, hv]
  case applied =>
    intro s grid gr g b rest u hgr hg hd hb hp hh hr ha key v
    rw [exec_orderedBatchApply_of_applied hgr hg hd hb hp hh hr ha]
    refine ⟨fun hv => ?_, fun hv => ?_⟩
    · simp [closeBatch, hv, key, v]
    · simp [closeBatch, hv, key, v]
  case waits =>
    intro s grid gr g hgr hg hr hb
    obtain ⟨b, rest, hb⟩ := List.exists_cons_of_ne_nil hb
    simp [exec, execOrderedBatchApply, hgr, hg, hb, hr]
  case passes =>
    intro s grid gr g hgr hg hd hb hs
    rcases hs with hs | hs | hs <;> simp [exec, execOrderedBatchApply, hgr, hg, hd, hb, hs]
  case kill =>
    intro s key cause pc aux quad g hg hk hr u
    obtain ⟨g', h', he⟩ := killOne_group hg hk hr cause pc aux quad false
    have hc := killOne_core hg hk hr cause pc aux quad false g.coreNo
    obtain ⟨-, hrun, hclaim⟩ := letGo_core s key g
    refine ⟨⟨g', h', he.state, he.dq, he.rdvs, he.batches, he.image, he.timer, he.savedCmds, he.rollback, he.halting,
        fun p hp => ⟨(he.harts p hp).status, (he.harts p hp).results, (he.harts p hp).stores, (he.harts p hp).ord⟩⟩,
      killOne_kills hg hk hr cause pc aux quad false, fun gr hgr => ?_, fun c hx => gid_ne_of_mem_letGo (hc.cmds hx),
      fun hx => hrun (hc.running key hx), fun hv hp hx => hclaim hv hp (hc.claim key hx)⟩
    obtain ⟨gr', h', hkept⟩ := killOne_grid hg hk hr cause pc aux quad false hgr
    exact ⟨gr', h', hkept.killed, hkept.firstGroup, hkept.cause⟩
  case killAll =>
    intro s key cause pc aux quad k g hk hg hr _
    exact killGroup_kills hk hg hr

end Sys2Proof
end

section
/-!
THE DECISION QUEUE (03 R82 to R86): O29.
-/
namespace Sys2Proof
open Machine

/-- A thread pops the entry at its place in the queue, once every result that was outstanding at its push is written. -/
theorem nextEntry_eq_some_iff (g : Group) (h : Hart) (v : DqEntry) :
    g.nextEntry h = some v ↔ g.dq[h.dqRead - g.dqBase]? = some v ∧ ∀ q, q ∈ g.steward.results → q.id ∉ v.after := by
  simp [Group.nextEntry, Option.filter_eq_some_iff]

/-- Settles O29, from `issue_executes`: what each instruction does in the branch that its condition names. -/
theorem decisionQueue : Obligations.DecisionQueue := by
  unfold Obligations.DecisionQueue
  intro free
  refine ⟨?push, ?pushFull, ?pushAlone, ?pushHeld, nextEntry_eq_some_iff, ?pop, ?popWaits, ?popDrained, ?popHeld,
    ?lenThread, ?lenSteward⟩
  case push =>
    rintro f s e e' u hx ⟨⟨hs, hl⟩, ht, hd⟩
    simp [exec, execDqpush, issue_executes _ hx, hs, hl, ht, Nat.not_le.mpr hd]
  case pushFull =>
    rintro f s e e' u hx ⟨⟨hs, hl⟩, ht, hd⟩
    simp [exec, execDqpush, issue_executes _ hx, hs, hl, ht, hd]
  case pushAlone =>
    rintro f s e e' u hx ⟨⟨hs, hl⟩, ht⟩
    simp [exec, execDqpush, issue_executes _ hx, hs, hl, ht]
  case pushHeld =>
    intro f s e e' u hx hf
    have hh : ¬ e'.h.stores = [] ∨ linkBusy u e'.r = true := by
      by_cases hs : e'.h.stores = []
      · exact .inr (by simpa [free, hs] using hf)
      · exact .inl hs
    simp [exec, execDqpush, issue_executes _ hx, hh]
  case pop =>
    intro f s e e' u v hx hs hn
    simp [exec, execDqpop, issue_executes _ hx, hs, hn, Hart.acquire]
  case popWaits =>
    rintro f s e e' u hx ⟨hs, hn, hw⟩
    simp [exec, execDqpop, issue_executes _ hx, hs, hn, hw]
  case popDrained =>
    rintro f s e e' u hx ⟨hs, hn, hw⟩
    simp [exec, execDqpop, issue_executes _ hx, hs, hn, hw, trapAct]
  case popHeld =>
    intro f s e e' u hx hs
    simp [exec, execDqpop, issue_executes _ hx, hs]
  case lenThread =>
    intro f s e e' u hx hs
    simp [exec, execDqlen, issue_executes _ hx, hs]
  case lenSteward =>
    intro f s e e' u hx hs
    simp [exec, execDqlen, issue_executes _ hx, hs]

end Sys2Proof
end

section
/-!
BARRIERS AND RENDEZVOUS (04 R104 to R108, R113; 12 R259): what each of their happenings does where its conditions hold, and O41.
-/
namespace Sys2Proof
open Machine

variable {s : State} {key b : Nat} {r : CtxRef}

/-- What a context has written is performed once no store of it waits and nothing of it is under way over a link. -/
theorem released_eq_true_iff : released s r = true ↔ (∀ h, s.hart? r = some h → h.stores = []) ∧ linkBusy s r = false := by
  cases hr : s.hart? r <;> simp [released, hr]

/-- A context of the group that still has a store to commit has not performed what it has written. -/
theorem released_eq_false {h : Hart} (hh : s.hart? r = some h) (hs : h.stores ≠ []) : released s r = false :=
  Bool.eq_false_iff.mpr fun hr => hs ((released_eq_true_iff.mp hr).1 h hh)

/-- A thread is found in its group by its index. -/
theorem hart?_thread {g : Group} (hg : s.group? key = some g) (tid : Nat) :
    s.hart? { group := key, who := .thread tid } = g.threads[tid]? := by
  simp [State.hart?, hg, Group.hart?]

/-- A group of the barrier's members has an arrival or an exit in this very cycle of its cluster (04 R109). -/
def arrivesNow (s : State) (key b : Nat) : Bool :=
  ((barMembers s key b).map fun r => r.group).any fun k => (s.group? k).any fun p => p.arrived == some (s.clusterCycles p.cluster)

theorem arrivesNow_eq_true_iff : arrivesNow s key b = true ↔
    ∃ r p, r ∈ barMembers s key b ∧ s.group? r.group = some p ∧ p.arrived = some (s.clusterCycles p.cluster) := by
  simp [arrivesNow, Option.any_eq_true]

/-- A phase that is not due stays open. -/
theorem exec_barrierPhaseComplete_of_not_due (h : phaseDue s key b = false) : exec (.barrierPhaseComplete key b) s = .next s := by
  cases hg : s.group? key <;> simp [exec, execBarrierPhaseComplete, hg, h]

/-- A phase stays open in the cycle of an arrival. -/
theorem exec_barrierPhaseComplete_of_arrivesNow (h : arrivesNow s key b = true) : exec (.barrierPhaseComplete key b) s = .next s := by
  unfold arrivesNow at h
  cases hg : s.group? key <;> simp -zeta only [exec, execBarrierPhaseComplete, hg]
  simp [h]

/-- The members of a rendezvous stand in ascending TID. -/
theorem members_pairwise_tid_lt (i : Rdv) : i.members.Pairwise fun a b => a.tid < b.tid := by
  unfold Rdv.members
  refine (List.pairwise_lt_range (n := 64)).filterMap _ fun j k hjk a ha b hb => ?_
  have hja : a.tid = 64 * i.set + j := by simpa using List.find?_some ha
  have hkb : b.tid = 64 * i.set + k := by simpa using List.find?_some hb
  omega

/-- Settles O41. Each happening takes the branch that its conditions name; what is performed is `released`, and the lowest member
of a rendezvous is the first of its members. -/
theorem barrierHappenings : Obligations.BarrierHappenings := by
  unfold Obligations.BarrierHappenings
  refine ⟨?arrival, ?held, ?phase, ?notDue, ?sameCycle, ?rendezvous, ?incomplete⟩
  case arrival =>
    intro s r g h b isBar entry hg hh ha hl hs hb u v
    have hr : released s r = true := released_eq_true_iff.mpr ⟨by simp [hh, hs], hb⟩
    have hp : s.stillPerforms g = true := by simp [State.stillPerforms, hl]
    simp [exec, execBarrierArrivalPerformed, hg, hh, ha, hp, hr, u, v]
  case held =>
    intro s r g h hg hh hs
    have hr := released_eq_false hh hs
    cases ha : h.arrival <;> simp [exec, execBarrierArrivalPerformed, hg, hh, ha, hr]
  case phase =>
    intro s key g b hg hl hpeers hdue hlater
    have hnow : arrivesNow s key b = false := Bool.eq_false_iff.mpr fun h => by
      obtain ⟨r, p, hr, hp, ha⟩ := arrivesNow_eq_true_iff.mp h
      exact hlater r p hr hp ha
    unfold arrivesNow at hnow
    simp -zeta only [exec, execBarrierPhaseComplete, hg]
    extract_lets ms live fresh ks
    have hlive : live = true := List.all_eq_true.mpr fun k hk => by
      split
      · next p hp => simpa [or_assoc] using hpeers k p hk hp
      · rfl
    have hfresh : fresh = false := hnow
    simp [hl, hlive, hfresh, hdue, ks, ms]
  case notDue => exact fun _ _ _ _ _ => exec_barrierPhaseComplete_of_not_due
  case sameCycle =>
    exact fun s key g b r p _ hr hp ha => exec_barrierPhaseComplete_of_arrivesNow (arrivesNow_eq_true_iff.mpr ⟨r, p, hr, hp, ha⟩)
  case rendezvous =>
    intro s key g k i hg hi hl hc hperformed a rest h hm hh
    have hr : (i.arrivals.all fun a => released s { group := key, who := .thread a.tid }) = true := List.all_eq_true.mpr fun a ha => by
      obtain ⟨hb, hs⟩ := hperformed a ha
      exact released_eq_true_iff.mpr ⟨by simpa [hart?_thread hg] using hs, hb⟩
    refine ⟨(List.pairwise_cons.mp (hm ▸ members_pairwise_tid_lt i)).1, ?_⟩
    simp [exec, execRdvInstanceComplete, hg, hi, hl, hc, hr, hm, hh]
  case incomplete =>
    intro s key g k i hg hi hc
    simp [exec, execRdvInstanceComplete, hg, hi, hc]

end Sys2Proof
end

section
/-!
THE CHECKS OF AN ACCESS (05 R119): where an address inside its space lies, and O24.
-/
namespace Sys2Proof
open Machine

variable {s : State} {e : Env} {addr : Int}

/-- An address inside a space is not below it. -/
theorem nonneg_of_inBounds {space : Nat} (h : inBounds s e space addr = true) : 0 ≤ addr := by
  simp only [inBounds, Bool.and_eq_true, decide_eq_true_eq] at h
  exact h.1

/-- Space p is a thread's: its own bytes and the 256 of the trap frame (05 R118). -/
theorem inBounds_threadSpace_iff :
    inBounds s e 0 addr = true ↔ 0 ≤ addr ∧ e.steward = false ∧ addr.toNat < Hdr.privBytes e.hdr + 256 := by
  simp [inBounds]

/-- Space c is the core memory of the group. -/
theorem inBounds_coreSpace_iff : inBounds s e 1 addr = true ↔ 0 ≤ addr ∧ addr.toNat < Hdr.cbytes e.hdr := by
  simp [inBounds]

/-- Settles O24. The first check that fails gives the cause; one that all pass gives the place. -/
theorem accessChecks : Obligations.AccessChecks := by
  unfold Obligations.AccessChecks
  intro s e a inside
  refine ⟨?atomic, ?order, ?below, ?threadSpace, ?coreSpace⟩
  case atomic =>
    intro ha h0
    simp [checkAccess, ha, h0]
  case order =>
    intro hs
    have hspace : (a.atomic && a.space == 0) = false := by
      rcases hs with hs | hs <;> simp [hs]
    have hinside : (a.far || !inBounds s e a.space a.addr) = !inside := by simp [inside]
    refine ⟨fun hi => ?_, fun hi hm => ?_, fun hi hm => ⟨fun c hp => ?_, fun l hp => ?_⟩⟩
    all_goals simp only [checkAccess, hspace, hinside, hi]
    · simp
    · simp [hm]
    · simp [hm, hp]
    · simp [hm, hp]
  case below =>
    intro hneg
    have hout : inBounds s e a.space a.addr = false := Bool.eq_false_iff.mpr fun h => by
      have := nonneg_of_inBounds h
      omega
    simp [inside, hout]
  case threadSpace =>
    intro h0 hi
    simp only [inside, h0, Bool.and_eq_true] at hi
    obtain ⟨hnn, hst, hlt⟩ := inBounds_threadSpace_iff.mp hi.2
    exact ⟨hst, by omega⟩
  case coreSpace =>
    intro h1 hi
    simp only [inside, h1, Bool.and_eq_true] at hi
    obtain ⟨hnn, hlt⟩ := inBounds_coreSpace_iff.mp hi.2
    exact ⟨by omega, rfl⟩

end Sys2Proof
end

section
/-!
THE ACCEPTANCE OF AN ENGINE COMMAND (14 R296, R297): what its locks and its record leave of the state, and O33.
-/
namespace Sys2Proof
open Machine

theorem core_modCore (s : State) (k j : Nat) (f : Core → Core) :
    (s.modCore k f).core j = if j = k then f (s.core k) else s.core j := by
  unfold State.modCore
  split
  · next h => simp [h]
  · next h => exact State.core_setCore_other s _ h

theorem group?_modHart_other (s : State) {r : CtxRef} {j : Nat} (f : Hart → Hart) (h : j ≠ r.group) :
    (s.modHart r f).group? j = s.group? j := by
  unfold State.modHart State.setHart
  split
  · split
    · exact State.group?_setGroup_other _ _ h
    · rfl
  · rfl

/-! ## Locks taken (05 R133, R134) -/

/-- The locks that a table takes of those asked for, in their order. -/
def locksAt (n id : Nat) (asks : List LockAsk) (j : Nat) : List Lock :=
  (asks.filter fun a => a.table == j).map fun a =>
    { cmd := id, ctx := n, space := a.space, first := a.first, last := a.last, write := a.write : Lock }

/-- Locks taken change the lock tables of cores alone. -/
theorem takeLocks_eq (n id : Nat) (s : State) (asks : List LockAsk) :
    takeLocks n id s asks = { s with cores := (takeLocks n id s asks).cores } := by
  induction asks generalizing s with
  | nil => rfl
  | cons a asks ih =>
    rw [takeLocks, ih]
    rfl

/-- Each table has the locks asked of it, behind those it had. -/
theorem core_takeLocks (n id : Nat) (s : State) (asks : List LockAsk) (j : Nat) :
    (takeLocks n id s asks).core j = { s.core j with locks := (s.core j).locks ++ locksAt n id asks j } := by
  induction asks generalizing s with
  | nil => simp [takeLocks, locksAt]
  | cons a asks ih =>
    rw [takeLocks, ih, core_modCore]
    by_cases h : j = a.table
    · simp [locksAt, h]
    · simp [locksAt, h, Ne.symm h]

/-! ## A record for the comparator (18 R374) -/

/-- What a context's own update, with a record of it or without, leaves: of the cores all but their records, every group but its own,
memory, the context blocks and Tovor's registers. -/
structure RecordFrame (r : CtxRef) (s u : State) : Prop where
  cores  : ∀ j, ∃ l, u.core j = { s.core j with records := l }
  groups : ∀ j, j ≠ r.group → u.group? j = s.group? j
  mem    : u.mem = s.mem
  ctxs   : u.ctxs = s.ctxs
  tovor  : u.tovor = s.tovor

namespace RecordFrame

variable {r : CtxRef} {s u : State}

theorem refl (r : CtxRef) (s : State) : RecordFrame r s s := ⟨fun _ => ⟨_, rfl⟩, fun _ _ => rfl, rfl, rfl, rfl⟩

theorem modHart {f : Hart → Hart} (h : RecordFrame r s u) : RecordFrame r s (u.modHart r f) where
  cores j := by simpa [State.core] using h.cores j
  groups j hj := (group?_modHart_other u f hj).trans (h.groups j hj)
  mem := by simpa using h.mem
  ctxs := by simpa using h.ctxs
  tovor := by simpa using h.tovor

theorem addRecord {k : Nat} {d : Dup} (h : RecordFrame r s u) : RecordFrame r s (addRecord u r k d) where
  cores j := by
    obtain ⟨l, hl⟩ := h.cores j
    rw [Machine.addRecord, core_modCore]
    split
    · next hj => exact ⟨_, by rw [← hj, hl]⟩
    · exact ⟨l, hl⟩
  groups := h.groups
  mem := h.mem
  ctxs := h.ctxs
  tovor := h.tovor

theorem recordOf {row : Nat} {values : List Nat} {cmd : Option Nat} (h : RecordFrame r s u) :
    RecordFrame r s (recordOf u r row values cmd) := by
  unfold Machine.recordOf
  split
  · split
    · exact h
    · exact h.modHart.addRecord
  · exact h

theorem ite {c : Prop} [Decidable c] {v : State} (hu : RecordFrame r s u) (hv : RecordFrame r s v) :
    RecordFrame r s (if c then u else v) := by
  split
  · exact hu
  · exact hv

end RecordFrame

/-! ## Acceptance -/

/-- Settles O33. An accepted command is listed, its locks are taken, and what follows keeps to `RecordFrame`. -/
theorem commandAcceptance : Obligations.CommandAcceptance := by
  unfold Obligations.CommandAcceptance
  intro s e kind b descs asks claims k
  refine ⟨fun hheld => ?held, fun hfit hstores hlink => ?accepted⟩
  case held =>
    have hc : (!locksFit s asks || !e.h.stores.isEmpty || linkBusy s e.r) = true := by simpa [or_assoc] using hheld
    simp only [acceptCmd, hc, if_true]
  case accepted =>
    have hc : (!locksFit s asks || !e.h.stores.isEmpty || linkBusy s e.r) = false := by simp [hfit, hstores, hlink]
    simp -zeta only [acceptCmd, hc]
    rw [if_neg Bool.false_ne_true]
    extract_lets id slot c listed locked recorded
    have hlisted (j : Nat) : (listed.core j).locks = (s.core j).locks := by
      simp only [listed, core_modCore]
      split
      · next h => rw [h]
      · rfl
    have hlocked : locked = { listed with cores := locked.cores } := takeLocks_eq ..
    have hrecorded : RecordFrame e.r locked recorded := (RecordFrame.refl ..).ite (RecordFrame.refl ..).recordOf
    have hframe := RecordFrame.ite (c := (kind == .cpy) = true) hrecorded (hrecorded.modHart (f := Hart.nextSerial))
    have hcore (j : Nat) := core_takeLocks e.n id listed asks j
    have hlast : listed.core k = _ := (core_modCore s k k _).trans (if_pos rfl)
    obtain ⟨l, hk⟩ := hframe.cores k
    refine ⟨_, c, rfl, ?cmds, rfl, rfl, rfl, rfl, rfl, rfl, rfl, rfl, ?claim, fun j => ?locks, rfl, rfl, rfl, fun hkind hlevel => ?copy,
      fun j hj => ?group, ?mem, ?ctxs, ?tovor⟩
    case cmds => rw [hk, hcore, hlast]
    case claim => rw [hk, hcore, hlast]
    case locks =>
      obtain ⟨l, hj⟩ := hframe.cores j
      rw [hj, hcore, hlisted]
      rfl
    case copy =>
      simp only [recorded, hkind, hlevel, if_true]
      rw [hlocked]
      rfl
    case group =>
      rw [hframe.groups j hj, hlocked]
      rfl
    case mem =>
      rw [hframe.mem, hlocked]
      rfl
    case ctxs =>
      rw [hframe.ctxs, hlocked]
      rfl
    case tovor =>
      rw [hframe.tovor, hlocked]
      rfl

end Sys2Proof
end

section
/-!
FIELDS OF A SLOT RECORD (07 R160) read after one of them is set.
-/
namespace Sys2Proof
open Machine

/-- A field replaced takes the low bits of its new value, and no other bit changes. -/
theorem testBit_putField (v lo len new i : Nat) :
    (putField v lo len new).testBit i = if lo ≤ i ∧ i < lo + len then new.testBit (i - lo) else v.testBit i := by
  have hparts : v = 2 ^ lo * (2 ^ len * (v >>> (lo + len)) + bitsOf v lo len) + v % 2 ^ lo := by
    have h₁ := Nat.div_add_mod v (2 ^ lo)
    have h₂ := Nat.div_add_mod (v / 2 ^ lo) (2 ^ len)
    rw [bitsOf, Nat.shiftRight_add, Nat.shiftRight_eq_div_pow, Nat.shiftRight_eq_div_pow, h₂, h₁]
  have hput : putField v lo len new = 2 ^ lo * (2 ^ len * (v >>> (lo + len)) + new % 2 ^ len) + v % 2 ^ lo := by
    unfold putField
    generalize v % 2 ^ lo = low at hparts
    generalize v >>> (lo + len) = high at hparts
    generalize bitsOf v lo len = old at hparts
    subst hparts
    rw [Nat.mul_add, Nat.mul_add, Nat.mul_comm old, Nat.mul_comm (new % _)]
    omega
  have hlow : v % 2 ^ lo < 2 ^ lo := Nat.mod_lt _ (Nat.two_pow_pos lo)
  rw [hput, Nat.testBit_two_pow_mul_add _ hlow, Nat.testBit_two_pow_mul_add _ (Nat.mod_lt _ (Nat.two_pow_pos len)),
    Nat.testBit_mod_two_pow, Nat.testBit_mod_two_pow, Nat.testBit_shiftRight]
  by_cases h₁ : i < lo
  · simp [h₁, Nat.not_le.mpr h₁]
  · by_cases h₂ : i - lo < len
    · simp [h₁, h₂, show lo ≤ i by omega, show i < lo + len by omega]
    · simp [h₁, h₂, show ¬ i < lo + len by omega, show lo + len + (i - lo - len) = i by omega]

theorem testBit_slotPut (r : BitVec 512) {lo len : Nat} (h : lo + len ≤ 512) (v i : Nat) :
    (Slot.put r lo len v).toNat.testBit i = if lo ≤ i ∧ i < lo + len then v.testBit (i - lo) else r.toNat.testBit i := by
  rw [Slot.put, BitVec.testBit_toNat, BitVec.getLsbD_ofNat, testBit_putField]
  by_cases hi : i < 512
  · simp [hi]
  · simp [hi, show ¬ i < lo + len by omega, BitVec.testBit_toNat, BitVec.getLsbD_of_ge _ _ (Nat.not_lt.mp hi)]

theorem testBit_field {n : Nat} (v : BitVec n) (lo len i : Nat) :
    (field v lo len).testBit i = (decide (i < len) && v.toNat.testBit (lo + i)) := by
  simp [field, bitsOf, Nat.testBit_mod_two_pow, Nat.testBit_shiftRight]

theorem field_lt {n : Nat} (v : BitVec n) (lo len : Nat) : field v lo len < 2 ^ len := Nat.mod_lt _ (Nat.two_pow_pos len)

theorem field_slotPut_same (r : BitVec 512) {lo len : Nat} (h : lo + len ≤ 512) (v : Nat) :
    field (Slot.put r lo len v) lo len = v % 2 ^ len := by
  refine Nat.eq_of_testBit_eq fun i => ?_
  rw [testBit_field, testBit_slotPut r h, Nat.testBit_mod_two_pow]
  by_cases hi : i < len <;> simp [hi]

theorem field_slotPut_other (r : BitVec 512) {lo len lo' len' : Nat} (h : lo + len ≤ 512) (hd : lo' + len' ≤ lo ∨ lo + len ≤ lo')
    (v : Nat) : field (Slot.put r lo len v) lo' len' = field r lo' len' := by
  refine Nat.eq_of_testBit_eq fun i => ?_
  rw [testBit_field, testBit_field, testBit_slotPut r h]
  by_cases hi : i < len'
  · rw [if_neg (by omega)]
  · simp [hi]

theorem fullRun_put_same (r : BitVec 512) (b : Bool) : Slot.fullRun (Slot.put r 22 1 (boolNat b)) = b := by
  rw [Slot.fullRun, flag, testBit_slotPut r (by decide)]
  cases b <;> rfl

theorem fullRun_put_other (r : BitVec 512) {lo len : Nat} (h : lo + len ≤ 512) (hd : 22 < lo ∨ lo + len ≤ 22) (v : Nat) :
    Slot.fullRun (Slot.put r lo len v) = Slot.fullRun r := by
  rw [Slot.fullRun, flag, testBit_slotPut r h, if_neg (by omega)]
  rfl

end Sys2Proof
end

section
/-!
ENGINE COMMANDS (07 R167, R168; 14 R296 to R309): what each of their happenings does where its conditions hold, and O43.
-/
namespace Sys2Proof
open Machine

/-- The locks of a command taken again change the lock tables of cores alone. -/
theorem takeAgain_eq (s : State) (c : Cmd) : takeAgain s c = { s with cores := (takeAgain s c).cores } := by
  unfold takeAgain
  induction c.relock generalizing s with
  | nil => rfl
  | cons p l ih =>
    rw [List.foldl_cons, ih]
    rfl

/-- The command at a place of a core's list is of a group of the state. -/
theorem group?_of_cmdAt {s : State} {core k : Nat} {c : Cmd} {g : Group} (h : cmdAt s core k = some (c, g)) :
    s.group? c.gid = some g := by
  unfold cmdAt at h
  split at h
  · cases h
  · split at h
    · next hg =>
      split at h
      · cases h
        exact hg
      · cases h
    · cases h

variable {s : State} {core k n : Nat} {c : Cmd} {g : Group} {e : Env}

/-! ## The moves of a command (14 R300, R305, R309) -/

/-- An error in a tile that an MX adds to stops it before it reads its operands. -/
theorem mxMove_of_tile_error {q : Nat}
    (h : (c.quads.find? fun q => (s.core core).accUe.contains (q * 24 + blkBits c.block 0 16 5)) = some q) :
    mxMove e core c n s = .error (.err s .accUe (some q)) := by
  simp only [mxMove, h]

/-- An MX whose tiles are sound adds the products of what it reads. -/
theorem mxMove_of_read {cols : List (List Int)} {rows : List (List (List Int))} {u v : State}
    (h : ∀ q, q ∈ c.quads → q * 24 + blkBits c.block 0 16 5 ∉ (s.core core).accUe) (hc : mxCols e c n s = .ok (cols, u))
    (hr : engFold (mxRows e c n) u (List.range c.quads.length) = .ok (rows, v)) :
    mxMove e core c n s = .ok (putCmd (mxApply core c rows cols v) core { c with progress := n, fetched := [] }) := by
  have hsound : (c.quads.find? fun q => (s.core core).accUe.contains (q * 24 + blkBits c.block 0 16 5)) = none := by
    simpa using h
  simp only [mxMove, hsound, hc, hr]

/-- A copy whose elements are all moved writes them in order. -/
theorem cpyMove_of_moved {ws : List (List EngWrite)} {u : State}
    (h : engFold (cpyElem e c) s (((extentPoints (cpyExtents (mapGet 0 c.descs 1))).drop c.progress).take (n - c.progress)) = .ok (ws, u)) :
    cpyMove e core c n s = .ok (putCmd (engPerform e none c.id u ws.flatten) core { c with progress := n, fetched := [] }) := by
  simp only [cpyMove, h]

/-- An MXS whose elements are all drained writes them in order. -/
theorem mxsMove_of_drained {ws : List EngWrite} {u : State}
    (h : drainUntil e core c (mapGet 0 c.descs 1) s (mxsPoints c n) = (ws, u, none)) :
    mxsMove e core c n s = (putCmd (engPerform e none c.id u ws) core { c with progress := n, fetched := [] }, none) := by
  simp only [mxsMove, h]

/-- Below IL2 nothing that an MXS writes waits for the comparator. -/
theorem mxsAsks_of_level {level : Nat} (h : level < 2) (r : List EngWrite × State × Option EngStop) : mxsAsks level c r = false := by
  simp [mxsAsks, Nat.not_le.mpr h]

/-! ## The happenings -/

/-- Settles O43. Each happening takes the branch that its conditions name, with the moves of its command as these lemmas say; of the
slot record that a DLT takes at its start the fields set are read back. -/
theorem engineHappenings : Obligations.EngineHappenings := by
  unfold Obligations.EngineHappenings
  intro s core k c g e hc he
  refine ⟨?starts, ?dltStarts, ?waits, ?mxz, ?mx, ?mxError, ?cpy, ?cpyMoves, ?cpyPage, ?drainRow, ?mxd, ?mxs, ?dltStep, ?dlt⟩
  case starts =>
    intro hs hk
    simp only [exec, execEngineCommandStart, hc, hs, Bool.not_true, Bool.false_eq_true, if_false]
    split
    · next hdlt _ => exact absurd hdlt hk
    · rfl
  case dltStarts =>
    intro hs hk hp
    have hg : (takeAgain s c).group? c.gid = some g := by
      rw [← group?_of_cmdAt hc, takeAgain_eq]
      rfl
    have hctx : (takeAgain s c).ctx g.ctx = s.ctx g.ctx := by
      rw [takeAgain_eq]
      rfl
    simp only [exec, execEngineCommandStart, hc, hs, hk, hp, hg, hctx, Bool.not_true, Bool.false_eq_true, if_false, if_true]
    refine ⟨_, rfl, rfl, rfl, rfl, rfl, ?full, ?lo, ?hi⟩
    case full =>
      rw [fullRun_put_other _ (by decide) (by decide), fullRun_put_other _ (by decide) (by decide), fullRun_put_same]
      simp [Bool.or_assoc]
    case lo =>
      rw [Slot.pcolLo, field_slotPut_other _ (by decide) (by decide), field_slotPut_same _ (by decide)]
      exact Nat.mod_eq_of_lt (field_lt ..)
    case hi =>
      rw [Slot.pcolHi, field_slotPut_same _ (by decide)]
      exact Nat.mod_eq_of_lt (field_lt ..)
  case waits =>
    intro hs
    simp [exec, execEngineCommandStart, hc, hs]
  case mxz =>
    intro hs hk
    simp [exec, execMxComplete, hc, hs, hk]
  case mx =>
    intro ty mix cols rows u v hs hk hsound n hcols hrows
    simp [exec, execMxComplete, hc, he, hs, hk, mxMove_of_read hsound hcols hrows, n]
  case mxError =>
    intro ty mix q hs hk hq
    simp [exec, execMxComplete, hc, he, hs, hk, mxMove_of_tile_error hq, engFail]
  case cpy =>
    intro u hs hk hl hm
    refine ⟨fun hr => ?_, fun hr => ?_⟩
    all_goals simp only [exec, execCpyComplete, hc, he, hm]
    · simp [hs, hk, hr, Nat.not_le.mpr hl]
    · simp [hs, hk, hr]
  case cpyMoves => exact fun ws u n => cpyMove_of_moved
  case cpyPage =>
    intro a hs hk hm
    simp only [exec, execCpyComplete, hc, he, hm]
    simp [hs, hk, engFail]
  case drainRow =>
    intro z vs u hk hs hrows hfreed hv
    simp [exec, execDrainRowConvert, hc, he, hs, hk, hv, Nat.not_le.mpr hrows, Nat.not_le.mpr hfreed]
  case mxd =>
    intro z hk hs hrows hfreed
    simp [exec, execMxdComplete, hc, he, hs, hk, hrows, hfreed]
  case mxs =>
    intro z ws u hk hs hl hd v
    simp [exec, execMxsComplete, hc, he, hs, hk, mxsAsks_of_level hl, mxsMove_of_drained hd, Nat.not_le.mpr hl, v]
  case dltStep =>
    intro ws up u hk hs hp hl hb
    simp [exec, execDltBlockStep, hc, he, hs, hk, hb, Nat.not_le.mpr hp, Nat.not_le.mpr hl]
  case dlt =>
    intro tiles u hk hs hp hr ht
    simp [exec, execDltComplete, hc, he, hs, hk, hp, hr, ht]

end Sys2Proof
end

section
/-!
AN ATOMIC THAT WRITES NOTHING (13 R286, 14 R316), and O55.
-/
namespace Sys2Proof
open Machine

/-- An atomic at its home that writes nothing leaves memory as the L1 of the core has given up its bytes. -/
theorem performAtomic_of_not_writes {s : State} {core p : Nat} {k : AtomKind} {tag : NanTag}
    (h : k.writes (memNat (evictRange s core p k.size).mem p k.size) = false) :
    (performAtomic s core k p true tag).1 = evictRange s core p k.size := by
  simp [performAtomic, h]

/-- Refutes O55, by its clause of atomics: of every atomic at its home it says that its word then holds the value of its operation.
A SIGNAL that finds its event word full writes nothing (14 R316): the word stays `2 ^ 64 - 1`, where the operation gives `2 ^ 64`, in
64 bits 0. The state is that of reset, with a full word at address 0. -/
theorem not_memoryFrame : ¬ Obligations.MemoryFrame := by
  unfold Obligations.MemoryFrame
  rintro ⟨-, -, -, -, -, hatomic, -⟩
  let s : State := { State.reset with mem := (List.range 8).map fun a => (a, 0xFF) }
  let tag : NanTag := { lane := 0, pc := 0 }
  obtain ⟨-, -, -, hvalue, -⟩ := hatomic s 0 .signal 0 true tag (by decide) (by decide)
  have hfull : memNat (evictRange s 0 0 8).mem 0 8 = 2 ^ 64 - 1 := by decide
  have hold : (performAtomic s 0 .signal 0 true tag).2 = 2 ^ 64 - 1 := hfull
  have hkept : (performAtomic s 0 .signal 0 true tag).1 = evictRange s 0 0 8 :=
    performAtomic_of_not_writes (by simp [AtomKind.size, AtomKind.writes, hfull])
  have hword := hvalue rfl
  rw [hold, hkept, AtomKind.size, hfull] at hword
  exact absurd hword (by decide)

end Sys2Proof
end

section
/-!
TENSOR DESCRIPTORS (06 R146, R148, R157; 14 R313, R314): O30.
-/
namespace Sys2Proof
open Machine

/-- An instruction that goes through the checks of issue leaves what its effect gives where the condition holds. -/
theorem performs_of_issue {i : Form → Instr} {row : OpRow} {body : Form → Env → State → Act}
    {cond : Form → Env → State → Prop} {act : Form → Env → State → Act}
    (hi : ∀ f s, exec (i f) s = issue row f s (body f)) (hb : ∀ f e u, cond f e u → body f e u = act f e u) :
    Performs i row cond act := by
  intro f s e e' u hx hc
  rw [hi, issue_executes _ hx, hb f e' u hc]

/-- Settles O30. By `performs_of_issue` each clause is about the instruction's own checks: TDW makes those of the TID, of the
descriptor and of the number of watched ones in this order, TDR those of the TID and of the word, and a condition names the
first check that fails. -/
theorem tensorDescriptors : Obligations.TensorDescriptors := by
  unfold Obligations.TensorDescriptors
  intro tid d
  refine ⟨?store, ?storeBadTid, ?storeBadDesc, ?storeWatchFull, ?readBadTid, ?readBadWord, ?read⟩
  all_goals refine performs_of_issue (fun _ _ => rfl) ?_
  case store =>
    rintro f e u ⟨ht, hd, hw⟩
    have hroom : ¬ (Desc.valid (d f e u) && Desc.watch (d f e u) && decide (64 ≤ watchCount (u.ctx e.n) (tid f e u))) = true := by
      simpa [and_imp] using hw
    exact (if_neg (Nat.not_lt.mpr ht)).trans ((if_neg (by simpa using hd)).trans (if_neg hroom))
  case storeBadTid =>
    intro f e u ht
    exact if_pos ht
  case storeBadDesc =>
    rintro f e u ⟨ht, hd⟩
    exact (if_neg (Nat.not_lt.mpr ht)).trans (if_pos (by simpa using hd))
  case storeWatchFull =>
    rintro f e u ⟨ht, hd, hv, hw, hn⟩
    have hfull : (Desc.valid (d f e u) && Desc.watch (d f e u) && decide (64 ≤ watchCount (u.ctx e.n) (tid f e u))) = true := by
      simp [hv, hw, hn]
    exact (if_neg (Nat.not_lt.mpr ht)).trans ((if_neg (by simpa using hd)).trans (if_pos hfull))
  case readBadTid =>
    intro f e u ht
    exact if_pos ht
  case readBadWord =>
    rintro f e u ⟨ht, hw⟩
    exact (if_neg (Nat.not_lt.mpr ht)).trans (if_pos hw)
  case read =>
    rintro f e u ⟨ht, hw⟩
    exact (if_neg (Nat.not_lt.mpr ht)).trans (if_neg (Nat.not_lt.mpr hw))

end Sys2Proof
end

section
/-!
THE REUSE SLOTS (07 R163 to R168, R171, R174; 14 R311, R312): O31.
-/
namespace Sys2Proof
open Machine

/-! ## Turns at a slot (07 R174) -/

/-- Where no DLT holds the slot and no other steward has waited longer, a slot instruction does what it does. -/
theorem slotTurn_of_not_waits {s : State} {e : Env} {k : Nat} {go : Act} (hw : ¬ WaitsForSlot s e k) :
    slotTurn s e k go = go := by
  cases hp : e.h.slotAt with
  | none =>
    obtain ⟨hheld, hnone⟩ : slotHeld s e.n k = false ∧ slotWaiters s e.n k = [] := by
      simpa [WaitsForSlot, hp, List.eq_nil_iff_forall_not_mem] using hw
    simp [slotTurn, hp, hheld, hnone]
  | some p =>
    obtain ⟨j, t⟩ := p
    have hgo : j = k → slotHeld s e.n k = false ∧ ∀ x ∈ slotWaiters s e.n k, t ≤ x := by
      rintro rfl
      simpa [WaitsForSlot, hp] using hw
    by_cases hj : j = k
    · simpa [slotTurn, hp, hj] using fun h => absurd h (by simpa using hgo hj)
    · simp [slotTurn, hp, hj]

/-- A steward that has its place in the queue of the slot holds. -/
theorem slotTurn_of_waits_placed {s : State} {e : Env} {k : Nat} {go : Act} (hw : WaitsForSlot s e k)
    (hp : e.h.slotAt ≠ none) : slotTurn s e k go = .hold := by
  obtain ⟨⟨j, t⟩, hp⟩ := Option.ne_none_iff_exists'.mp hp
  obtain ⟨hbusy, hk⟩ := hw
  have hbusy : slotHeld s e.n k = true ∨ ∃ x ∈ slotWaiters s e.n k, x < t := by simpa [hp] using hbusy
  simp [slotTurn, hp, hk j t hp, hbusy]

/-- A steward that has none takes its place. -/
theorem slotTurn_of_waits_unplaced {s : State} {e : Env} {k : Nat} {go : Act} (hw : WaitsForSlot s e k)
    (hp : e.h.slotAt = none) :
    slotTurn s e k go
      = .raw ({ s with free := s.free + 1 }.modHart e.r fun h => { h with slotAt := some (k, s.free) }) := by
  have hbusy : slotHeld s e.n k = true ∨ slotWaiters s e.n k ≠ [] := by
    simpa [WaitsForSlot, hp, List.eq_nil_iff_forall_not_mem] using hw
  simp [slotTurn, hp, hbusy]

/-- An instruction that takes its turn at the slot `k` where it reaches that check waits there: it holds, or takes its place first. -/
theorem waits_of_turn {i : Form → Instr} {row : OpRow} {body : Form → Env → State → Act} {reaches : Form → Env → State → Prop}
    {k : Form → Env → State → Nat} (hi : ∀ f s, exec (i f) s = issue row f s (body f))
    (hb : ∀ f e u, reaches f e u → ∃ go, body f e u = slotTurn u e (k f e u) go) :
    Performs i row (fun f e s => reaches f e s ∧ WaitsForSlot s e (k f e s) ∧ e.h.slotAt ≠ none) (fun _ _ _ => .hold)
    ∧ Performs i row (fun f e s => reaches f e s ∧ WaitsForSlot s e (k f e s) ∧ e.h.slotAt = none)
        (fun f e s => .raw ({ s with free := s.free + 1 }.modHart e.r fun h => { h with slotAt := some (k f e s, s.free) })) := by
  constructor
  · refine performs_of_issue hi ?_
    rintro f e u ⟨hr, hw, hp⟩
    obtain ⟨go, hgo⟩ := hb f e u hr
    exact hgo.trans (slotTurn_of_waits_placed hw hp)
  · refine performs_of_issue hi ?_
    rintro f e u ⟨hr, hw, hp⟩
    obtain ⟨go, hgo⟩ := hb f e u hr
    exact hgo.trans (slotTurn_of_waits_unplaced hw hp)

/-! ## What the slot holds (07 R166, R171) -/

/-- RSINV, RSREF and DLT ask for a binding that has no invocation saved (R166). -/
theorem slotUnfit_eq_true_iff (r : BitVec 512) : slotUnfit r = true ↔ Slot.state r = 0 ∨ Slot.state r = 5 := by
  simp [slotUnfit]

/-- RSREF asks besides for a range of columns of the slot that is not empty (R171). -/
theorem columnsUnfit_eq_true_iff (r : BitVec 512) (lo hi : Nat) :
    (slotUnfit r || decide (hi ≤ lo) || decide (Slot.cols r < hi)) = true
      ↔ Slot.state r = 0 ∨ Slot.state r = 5 ∨ hi ≤ lo ∨ Slot.cols r < hi := by
  simp [slotUnfit_eq_true_iff, or_assoc]

/-- Settles O31. The conditions name the checks in the order that the instructions make them: the fields of the block or the
number of the slot, the turn at the slot, and what the slot holds. `performs_of_issue` leaves the checks of one instruction,
`slotTurn_of_not_waits` takes its turn, and `waits_of_turn` is what every one of them does as it waits. -/
theorem reuseSlots : Obligations.ReuseSlots := by
  unfold Obligations.ReuseSlots
  intro held rec_ blk k8 k2 a_ bindFields paramFields dltFields weight bindable waits traps
  have hbind (f : Form) (e : Env) (u : State) :
      ¬ (blkBits (blk f rowRsbind 8 e u) 0 24 8 != 0 || blkBits (blk f rowRsbind 8 e u) 0 6 2 != 0
        || blkBits (blk f rowRsbind 8 e u) 1 22 10 != 0 || blkBits (blk f rowRsbind 8 e u) 3 16 16 != 0) = true
      ↔ bindFields f e u := by
    simp only [bindFields, Bool.or_eq_true, bne_iff_ne, ne_eq, not_or, Decidable.not_not, and_assoc]
  have hparam (f : Form) (e : Env) (u : State) :
      ¬ (blkBits (blk f rowRsparam 2 e u) 0 24 8 != 0 || blkBits (blk f rowRsparam 2 e u) 0 6 2 != 0
        || blkBits (blk f rowRsparam 2 e u) 1 22 10 != 0) = true ↔ paramFields f e u := by
    simp only [paramFields, Bool.or_eq_true, bne_iff_ne, ne_eq, not_or, Decidable.not_not, and_assoc]
  refine ⟨?bind, ?param, ?inv, ?rel, ?ref, ?query, ?bindBadFields, ?bindBadState, ?bindBadTid, ?bindUnwatched, ?bindBadGeometry,
    ?paramBadFields, ?paramBadState, ?invBadSlot, ?invBadState, ?relBadSlot, ?refBadSlot, ?refBadState, ?queryBad,
    ?bindWaits, ?paramWaits, ?invWaits, ?relWaits, ?refWaits, ?dltWaits⟩
  case bindWaits =>
    refine waits_of_turn (fun _ _ => rfl) ?_
    intro f e u hf
    exact ⟨_, if_neg ((hbind f e u).mpr hf)⟩
  case paramWaits =>
    refine waits_of_turn (fun _ _ => rfl) ?_
    intro f e u hf
    exact ⟨_, if_neg ((hparam f e u).mpr hf)⟩
  case invWaits | relWaits | refWaits =>
    refine waits_of_turn (fun _ _ => rfl) ?_
    intro f e u hk
    exact ⟨_, if_neg (Nat.not_lt.mpr hk)⟩
  case dltWaits =>
    refine waits_of_turn (fun _ _ => rfl) ?_
    rintro f e u ⟨hx, hy, hz, hs, hl⟩
    refine ⟨_, (if_neg ?_).trans (if_neg ?_)⟩
    · simp [hx, hy, hz]
    · simp [hs, hl]
  all_goals refine performs_of_issue (fun _ _ => rfl) ?_
  case bind =>
    rintro f e u ⟨hf, hw, hs, hr, ht, hv, hg⟩
    refine (if_neg ((hbind f e u).mpr hf)).trans ((slotTurn_of_not_waits hw).trans ((if_neg ?_).trans
      ((if_neg (Bool.eq_false_iff.mp (Option.isNone_eq_false_iff.mpr ht))).trans ((if_neg ?_).trans (if_neg ?_)))))
    · simpa using ⟨hs, hr⟩
    · simpa using hv
    · simpa using hg
  case param =>
    rintro f e u ⟨hf, hw, hs, hr⟩
    refine (if_neg ((hparam f e u).mpr hf)).trans ((slotTurn_of_not_waits hw).trans (if_neg ?_))
    simpa using ⟨hs, hr⟩
  case inv =>
    rintro f e u ⟨hk, hw, hb, hi⟩
    refine (if_neg (Nat.not_lt.mpr hk)).trans ((slotTurn_of_not_waits hw).trans (if_neg ?_))
    simpa [slotUnfit_eq_true_iff] using ⟨hb, hi⟩
  case rel =>
    rintro f e u ⟨hk, hw⟩
    exact (if_neg (Nat.not_lt.mpr hk)).trans (slotTurn_of_not_waits hw)
  case ref =>
    rintro f e u ⟨hk, hw, hb, hi, hlo, hhi⟩
    refine (if_neg (Nat.not_lt.mpr hk)).trans ((slotTurn_of_not_waits hw).trans (if_neg ?_))
    refine mt (columnsUnfit_eq_true_iff _ _ _).mp ?_
    simpa only [not_or, Nat.not_le, Nat.not_lt] using ⟨hb, hi, hlo, hhi⟩
  case query =>
    rintro f e u ⟨hk, hi⟩
    exact if_neg (by simpa using ⟨hk, hi⟩)
  case bindBadFields =>
    intro f e u hf
    exact if_pos (Decidable.of_not_not (mt (hbind f e u).mp hf))
  case bindBadState =>
    rintro f e u ⟨hf, hw, hs⟩
    refine (if_neg ((hbind f e u).mpr hf)).trans ((slotTurn_of_not_waits hw).trans (if_pos ?_))
    simpa using hs
  case bindBadTid =>
    rintro f e u ⟨⟨hf, hw, hs, hr⟩, ht⟩
    refine (if_neg ((hbind f e u).mpr hf)).trans ((slotTurn_of_not_waits hw).trans ((if_neg ?_).trans (if_pos ht)))
    simpa using ⟨hs, hr⟩
  case bindUnwatched =>
    rintro f e u ⟨⟨hf, hw, hs, hr⟩, ht, hv⟩
    refine (if_neg ((hbind f e u).mpr hf)).trans ((slotTurn_of_not_waits hw).trans ((if_neg ?_).trans
      ((if_neg (Bool.eq_false_iff.mp (Option.isNone_eq_false_iff.mpr ht))).trans (if_pos ?_))))
    · simpa using ⟨hs, hr⟩
    · simpa using hv
  case bindBadGeometry =>
    rintro f e u ⟨⟨hf, hw, hs, hr⟩, ht, hv, hg⟩
    refine (if_neg ((hbind f e u).mpr hf)).trans ((slotTurn_of_not_waits hw).trans ((if_neg ?_).trans
      ((if_neg (Bool.eq_false_iff.mp (Option.isNone_eq_false_iff.mpr ht))).trans ((if_neg ?_).trans (if_pos ?_)))))
    · simpa using ⟨hs, hr⟩
    · simpa using hv
    · simpa using hg
  case paramBadFields =>
    intro f e u hf
    exact if_pos (Decidable.of_not_not (mt (hparam f e u).mp hf))
  case paramBadState =>
    rintro f e u ⟨hf, hw, hs⟩
    refine (if_neg ((hparam f e u).mpr hf)).trans ((slotTurn_of_not_waits hw).trans (if_pos ?_))
    simpa using hs
  case invBadSlot | relBadSlot | refBadSlot =>
    intro f e u hk
    exact if_pos hk
  case invBadState =>
    rintro f e u ⟨hk, hw, hs⟩
    exact (if_neg (Nat.not_lt.mpr hk)).trans ((slotTurn_of_not_waits hw).trans (if_pos ((slotUnfit_eq_true_iff _).mpr hs)))
  case refBadState =>
    rintro f e u ⟨hk, hw, hs⟩
    exact (if_neg (Nat.not_lt.mpr hk)).trans ((slotTurn_of_not_waits hw).trans
      (if_pos ((columnsUnfit_eq_true_iff _ _ _).mpr hs)))
  case queryBad =>
    intro f e u hk
    refine if_pos ?_
    simp only [Bool.or_eq_true, decide_eq_true_eq]
    exact hk

end Sys2Proof
end

section
/-!
DECODING AND ENCODING (08 R177 to R189): O56 and O57.

A word is the encoding of a form exactly when its reserved bits are 0 and the form is what its fields read
(`encodeForm_eq_iff`); an opcode names exactly the rows that carry it (`instrOf_some`, `instrOf_of_row?`). From the two, a word
decodes to an instruction exactly when the instruction is well-formed and the word is its encoding (`decode_eq_ok_iff`).
-/
namespace Sys2Proof

/-! ## The opcode map (09 R198) -/

/-- The opcode map gives a row of that opcode, which is an assigned one, and the constructor whose row it is. -/
theorem instrOf_some {opc op2 : Nat} {row : OpRow} {mk : Form → Instr} (h : instrOf opc op2 = some (row, mk)) :
    row.opc.toNat = opc ∧ opc ∈ assignedOpcs ∧ ∀ f, (mk f).row? = some (row, f) := by
  unfold instrOf at h
  repeat' split at h
  all_goals cases h <;> exact ⟨rfl, by decide, fun _ => rfl⟩

/-- Where the row accepts OP2, the map leads back to it: OP2 tells the rows that share an opcode. -/
theorem instrOf_of_row? {i : Instr} {row : OpRow} {f : Form} (h : i.row? = some (row, f)) (hop : f.op2.toNat ∈ row.op2) :
    ∃ mk, instrOf row.opc.toNat f.op2.toNat = some (row, mk) ∧ mk f = i := by
  cases i <;> cases h
  case pset.refl | rsinv.refl =>
    have h0 : f.op2.toNat = 0 := List.mem_singleton.mp hop
    exact ⟨_, by rw [h0]; rfl, rfl⟩
  case psetBulk.refl | rsinvRel.refl =>
    have h1 : f.op2.toNat = 1 := List.mem_singleton.mp hop
    exact ⟨_, by rw [h1]; rfl, rfl⟩
  case rvote.refl =>
    obtain h0 | h1 : f.op2.toNat = 0 ∨ f.op2.toNat = 1 := (List.mem_cons.mp hop).imp_right List.mem_singleton.mp
    · exact ⟨_, by rw [h0]; rfl, rfl⟩
    · exact ⟨_, by rw [h1]; rfl, rfl⟩
  case rvoteBallot.refl =>
    have h2 : f.op2.toNat = 2 := List.mem_singleton.mp hop
    exact ⟨_, by rw [h2]; rfl, rfl⟩
  all_goals exact ⟨_, rfl, rfl⟩

/-- Evaluated for each assigned opcode and each OP2 code. -/
theorem instrOf_isSome_of_mem : ∀ opc ∈ assignedOpcs, ∀ op2 : Fin 16, (instrOf opc op2).isSome = true := by
  decide +kernel

/-- The map has no row exactly for the opcodes that are not assigned. -/
theorem instrOf_eq_none_iff (opc : Nat) (op2 : BitVec 4) : instrOf opc op2.toNat = none ↔ opc ∉ assignedOpcs := by
  constructor
  · intro hn ha
    have hs := instrOf_isSome_of_mem opc ha op2.toFin
    rw [BitVec.val_toFin, hn] at hs
    cases hs
  · intro ha
    refine Option.eq_none_iff_forall_ne_some.mpr fun (row, mk) hs => ?_
    obtain ⟨-, hm, -⟩ := instrOf_some hs
    exact ha hm

/-! ## The codes of the fields (08 R181, R185) -/

theorem Ty.code_of_mem_ofCode : ∀ c : BitVec 4, ∀ ty ∈ Ty.ofCode c.toNat, ty.code = c := by
  decide

theorem Ty.ofCode_eq_some_iff {c : BitVec 4} {ty : Ty} : Ty.ofCode c.toNat = some ty ↔ ty.code = c := by
  refine ⟨Ty.code_of_mem_ofCode c ty, ?_⟩
  rintro rfl
  cases ty <;> rfl

theorem Operand.code_of_mem_ofCode : ∀ c : Byte, ∀ o ∈ Operand.ofCode c, o.code = c := by
  decide +kernel

theorem Operand.ofCode_code (o : Operand) : Operand.ofCode o.code = some o := by
  cases o with
  | x n | p n | g n => revert n; decide +kernel
  | zero | imm | drain => rfl
  | sys v => cases v <;> rfl

theorem Operand.ofCode_eq_some_iff {c : Byte} {o : Operand} : Operand.ofCode c = some o ↔ o.code = c :=
  ⟨Operand.code_of_mem_ofCode c o, fun h => h ▸ o.ofCode_code⟩

/-! ## The places of the fields (08 R177) -/

/-- What stands at each place of a word put together from its fields. -/
theorem extractLsb'_append (imm : Word) (op2 sub : BitVec 4) (c b a d : Byte) (ty : BitVec 4) (rsv : BitVec 2)
    (last fuse yield park gneg : BitVec 1) (guard : BitVec 3) (opc : BitVec 10) :
    let w := imm ++ op2 ++ sub ++ c ++ b ++ a ++ d ++ ty ++ rsv ++ last ++ fuse ++ yield ++ park ++ gneg ++ guard ++ opc
    (opc = w.extractLsb' 0 10 ∧ guard = w.extractLsb' 10 3 ∧ gneg = w.extractLsb' 13 1 ∧ park = w.extractLsb' 14 1
      ∧ yield = w.extractLsb' 15 1 ∧ fuse = w.extractLsb' 16 1 ∧ last = w.extractLsb' 17 1 ∧ rsv = w.extractLsb' 18 2)
    ∧ ty = w.extractLsb' 20 4 ∧ d = w.extractLsb' 24 8 ∧ a = w.extractLsb' 32 8 ∧ b = w.extractLsb' 40 8
    ∧ c = w.extractLsb' 48 8 ∧ sub = w.extractLsb' 56 4 ∧ op2 = w.extractLsb' 60 4 ∧ imm = w.extractLsb' 64 32 := by
  simp (disch := decide) only [BitVec.extractLsb'_append_eq_of_add_le, BitVec.extractLsb'_append_eq_of_le,
    BitVec.extractLsb'_eq_self, Nat.reduceSub, and_self, -Nat.reduceAdd]

/-- A word is put together from what stands at its places. -/
theorem append_extractLsb' (w : IWord) :
    w.extractLsb' 64 32 ++ w.extractLsb' 60 4 ++ w.extractLsb' 56 4 ++ w.extractLsb' 48 8 ++ w.extractLsb' 40 8
      ++ w.extractLsb' 32 8 ++ w.extractLsb' 24 8 ++ w.extractLsb' 20 4 ++ w.extractLsb' 18 2 ++ w.extractLsb' 17 1
      ++ w.extractLsb' 16 1 ++ w.extractLsb' 15 1 ++ w.extractLsb' 14 1 ++ w.extractLsb' 13 1 ++ w.extractLsb' 10 3
      ++ w.extractLsb' 0 10 = w := by
  simp only [BitVec.extractLsb'_append_extractLsb'_eq_extractLsb']
  exact BitVec.extractLsb'_eq_self

theorem bit_eq_extractLsb'_iff (w : IWord) (k : Nat) (b : Bool) : bit b = w.extractLsb' k 1 ↔ b = w.getLsbD k := by
  have hk : w.extractLsb' k 1 = bit (w.getLsbD k) := by
    ext i hi
    obtain rfl : i = 0 := by omega
    simp [bit]
  rw [hk]
  cases b <;> cases w.getLsbD k <;> decide

theorem ofNat_val_eq_iff (n : Fin 8) (v : BitVec 3) : BitVec.ofNat 3 n.val = v ↔ n = v.toFin := by
  simp [← BitVec.toFin_inj]

/-- A word encodes a form exactly when HINT_RSV is 0 and what stands at each place is the code of the field. -/
theorem encodeForm_eq_iff_extractLsb' (opc : BitVec 10) (f : Form) (w : IWord) :
    encodeForm opc f = w ↔
      (opc = w.extractLsb' 0 10 ∧ f.guard = (w.extractLsb' 10 3).toFin ∧ f.gneg = w.getLsbD 13 ∧ f.park = w.getLsbD 14
        ∧ f.yield = w.getLsbD 15 ∧ f.fuse = w.getLsbD 16 ∧ f.last = w.getLsbD 17 ∧ wordRsvOk w = true)
      ∧ f.ty.code = w.extractLsb' 20 4 ∧ f.d.code = w.extractLsb' 24 8 ∧ f.a.code = w.extractLsb' 32 8
      ∧ f.b.code = w.extractLsb' 40 8 ∧ f.c.code = w.extractLsb' 48 8 ∧ f.sub = w.extractLsb' 56 4
      ∧ f.op2 = w.extractLsb' 60 4 ∧ f.imm = w.extractLsb' 64 32 := by
  have hrsv : wordRsvOk w = true ↔ (0 : BitVec 2) = w.extractLsb' 18 2 := beq_iff_eq.trans eq_comm
  simp only [hrsv, ← bit_eq_extractLsb'_iff, ← ofNat_val_eq_iff]
  constructor
  · rintro rfl
    exact extractLsb'_append ..
  · rintro ⟨⟨hopc, hguard, hgneg, hpark, hyield, hfuse, hlast, hz⟩, hty, hd, ha, hb, hc, hsub, hop2, himm⟩
    unfold encodeForm
    rw [hopc, hguard, hgneg, hpark, hyield, hfuse, hlast, hz, hty, hd, ha, hb, hc, hsub, hop2, himm]
    exact append_extractLsb' w

/-- The fields of a word read a form exactly when what stands at each place is the code of the field. -/
theorem wordForm_eq_some_iff (w : IWord) (f : Form) :
    (wordFields w).bind (wordForm w) = some f ↔
      (f.guard = (w.extractLsb' 10 3).toFin ∧ f.gneg = w.getLsbD 13 ∧ f.park = w.getLsbD 14 ∧ f.yield = w.getLsbD 15
        ∧ f.fuse = w.getLsbD 16 ∧ f.last = w.getLsbD 17)
      ∧ f.ty.code = w.extractLsb' 20 4 ∧ f.d.code = w.extractLsb' 24 8 ∧ f.a.code = w.extractLsb' 32 8
      ∧ f.b.code = w.extractLsb' 40 8 ∧ f.c.code = w.extractLsb' 48 8 ∧ f.sub = w.extractLsb' 56 4
      ∧ f.op2 = w.extractLsb' 60 4 ∧ f.imm = w.extractLsb' 64 32 := by
  simp only [← Ty.ofCode_eq_some_iff, ← Operand.ofCode_eq_some_iff]
  constructor
  · intro h
    obtain ⟨fs, hfs, hf⟩ := Option.bind_eq_some_iff.mp h
    obtain ⟨ty, hty, rfl⟩ := Option.map_eq_some_iff.mp hfs
    unfold wordForm at hf
    split at hf
    case h_1 d a b c hd ha hb hc =>
      cases hf
      exact ⟨⟨rfl, rfl, rfl, rfl, rfl, rfl⟩, hty, hd, ha, hb, hc, rfl, rfl, rfl⟩
    case h_2 => cases hf
  · rintro ⟨⟨hguard, hgneg, hpark, hyield, hfuse, hlast⟩, hty, hd, ha, hb, hc, hsub, hop2, himm⟩
    rw [wordFields, hty, hd, ha, hb, hc, Option.map_some, Option.bind_some, wordForm, ← hguard, ← hgneg, ← hpark, ← hyield,
      ← hfuse, ← hlast, ← hsub, ← hop2, ← himm]

/-- The fields that the checks examine are those of the form. -/
theorem wordFields_of_wordForm {w : IWord} {f : Form} (h : (wordFields w).bind (wordForm w) = some f) :
    wordFields w = some f.fields := by
  obtain ⟨-, hty, hd, ha, hb, hc, hsub, hop2, himm⟩ := (wordForm_eq_some_iff w f).mp h
  rw [← Ty.ofCode_eq_some_iff] at hty
  rw [← Operand.ofCode_eq_some_iff] at hd ha hb hc
  rw [wordFields, hty, hd, ha, hb, hc, ← hsub, ← hop2, ← himm, Option.map_some, Form.fields]

/-- A word encodes a form exactly when OPC is the opcode, HINT_RSV is 0 and its fields read that form. -/
theorem encodeForm_eq_iff (opc : BitVec 10) (f : Form) (w : IWord) :
    encodeForm opc f = w ↔
      opc.toNat = wordOpc w ∧ wordRsvOk w = true ∧ (wordFields w).bind (wordForm w) = some f := by
  rw [encodeForm_eq_iff_extractLsb', wordForm_eq_some_iff, wordOpc, BitVec.toNat_inj]
  constructor
  · rintro ⟨⟨hopc, hguard, hgneg, hpark, hyield, hfuse, hlast, hz⟩, hcodes⟩
    exact ⟨hopc, hz, ⟨hguard, hgneg, hpark, hyield, hfuse, hlast⟩, hcodes⟩
  · rintro ⟨hopc, hz, ⟨hguard, hgneg, hpark, hyield, hfuse, hlast⟩, hcodes⟩
    exact ⟨⟨hopc, hguard, hgneg, hpark, hyield, hfuse, hlast, hz⟩, hcodes⟩

/-! ## Decoding (08 R178) -/

/-- A row that accepts the fields accepts its OP2 code. -/
theorem OpRow.op2_mem_of_ok {row : OpRow} {f : Form} (h : row.ok f.fields = true) : f.op2.toNat ∈ row.op2 := by
  have henc (steward : Bool) (hs : row.okIn steward f.fields = true) : f.op2.toNat ∈ row.op2 := by
    simp only [OpRow.okIn, OpRow.encOk, Bool.and_eq_true] at hs
    obtain ⟨⟨-, ⟨⟨⟨-, hop⟩, -⟩, -⟩, -⟩, -⟩ := hs
    exact List.contains_iff_mem.mp hop
  exact ((Bool.or_eq_true _ _).mp h).elim (henc false) (henc true)

/-- Step 4 accepts a word whose fields the row accepts. -/
theorem wordEncOk_of_ok {row : OpRow} {f : Form} {w : IWord} (h : row.ok f.fields = true) (hz : wordRsvOk w = true)
    (hf : wordFields w = some f.fields) :
    ((row.stream.has false && wordEncOk row false w) || (row.stream.has true && wordEncOk row true w)) = true := by
  have henc (steward : Bool) (hs : row.okIn steward f.fields = true) : (row.stream.has steward && wordEncOk row steward w) = true := by
    simp only [OpRow.okIn, Bool.and_eq_true] at hs
    obtain ⟨⟨hs, he⟩, -⟩ := hs
    simp [wordEncOk, hs, hz, hf, he]
  exact Bool.or_eq_true _ _ ▸ ((Bool.or_eq_true _ _).mp h).imp (henc false) (henc true)

theorem decode_of_instrOf_none {w : IWord} (h : instrOf (wordOpc w) (wordOp2 w) = none) :
    decode w = .ok (.unassignedOpcode w) := by
  simp [decode, h]

/-- A word of an assigned opcode decodes to its constructor over the form that its fields read, where the row accepts it. -/
theorem decode_eq_ok_iff_of_instrOf {w : IWord} {row : OpRow} {mk : Form → Instr} {i : Instr}
    (h : instrOf (wordOpc w) (wordOp2 w) = some (row, mk)) :
    decode w = .ok i ↔ ∃ f, encodeForm row.opc f = w ∧ row.ok f.fields = true ∧ mk f = i := by
  obtain ⟨hopc, -, -⟩ := instrOf_some h
  simp only [encodeForm_eq_iff, hopc, true_and]
  unfold decode
  rw [h]
  dsimp only
  constructor
  · intro hd
    split at hd
    case isFalse => cases hd
    split at hd
    case h_2 => cases hd
    case h_1 he _ f hf =>
      split at hd
      case isFalse => cases hd
      case isTrue hok =>
        have hz : wordRsvOk w = true := by
          simp only [wordEncOk, Bool.or_eq_true, Bool.and_eq_true] at he
          obtain ⟨-, hz, -⟩ | ⟨-, hz, -⟩ := he <;> exact hz
        cases hd
        exact ⟨f, ⟨hz, hf⟩, hok, rfl⟩
  · rintro ⟨f, ⟨hz, hf⟩, hok, rfl⟩
    rw [if_pos (wordEncOk_of_ok hok hz (wordFields_of_wordForm hf)), hf]
    exact if_pos hok

/-- A word is that of an instruction of the streams, or of the unassigned opcode that it holds. -/
theorem encode?_eq_some_iff {i : Instr} {w : IWord} :
    encode? i = some w ↔ (∃ row f, i.row? = some (row, f) ∧ encodeForm row.opc f = w) ∨ i = .unassignedOpcode w := by
  unfold encode?
  constructor
  · intro h
    split at h
    case h_1 row f hr => exact .inl ⟨row, f, hr, Option.some.inj h⟩
    case h_2 =>
      split at h
      case h_1 => exact .inr (congrArg _ (Option.some.inj h))
      case h_2 => cases h
  · rintro (⟨row, f, hr, rfl⟩ | rfl)
    · rw [hr]
    · rfl

theorem wellFormed_unassignedOpcode_iff (w : IWord) :
    (Instr.unassignedOpcode w).wellFormed = true ↔ wordOpc w ∉ assignedOpcs := by
  have h : (Instr.unassignedOpcode w).wellFormed = !assignedOpcs.contains (wordOpc w) := rfl
  rw [h, Bool.not_eq_true', ← Bool.not_eq_true, List.contains_iff_mem]

/-- A word decodes to an instruction exactly when the instruction is well-formed and the word is its encoding. -/
theorem decode_eq_ok_iff (w : IWord) (i : Instr) : decode w = .ok i ↔ i.wellFormed = true ∧ encode? i = some w := by
  constructor
  · intro hd
    rcases hm : instrOf (wordOpc w) (wordOp2 w) with _ | ⟨row, mk⟩
    · have hopc : wordOpc w ∉ assignedOpcs := (instrOf_eq_none_iff _ _).mp hm
      rw [decode_of_instrOf_none hm] at hd
      cases hd
      exact ⟨(wellFormed_unassignedOpcode_iff w).mpr hopc, rfl⟩
    · obtain ⟨f, hw, hok, rfl⟩ := (decode_eq_ok_iff_of_instrOf hm).mp hd
      obtain ⟨-, -, hrow⟩ := instrOf_some hm
      exact ⟨by simpa [Instr.wellFormed, hrow] using hok, encode?_eq_some_iff.mpr (.inl ⟨row, f, hrow f, hw⟩)⟩
  · rintro ⟨hwf, he⟩
    obtain ⟨row, f, hr, hw⟩ | rfl := encode?_eq_some_iff.mp he
    · have hok : row.ok f.fields = true := by simpa [Instr.wellFormed, hr] using hwf
      obtain ⟨⟨hopc, -⟩, -, -, -, -, -, -, hop2, -⟩ := (encodeForm_eq_iff_extractLsb' row.opc f w).mp hw
      obtain ⟨mk, hm, rfl⟩ := instrOf_of_row? hr (OpRow.op2_mem_of_ok hok)
      rw [hopc, hop2] at hm
      exact (decode_eq_ok_iff_of_instrOf hm).mpr ⟨f, hw, hok, rfl⟩
    · exact decode_of_instrOf_none ((instrOf_eq_none_iff _ _).mpr ((wellFormed_unassignedOpcode_iff w).mp hwf))

/-! ## Bytes of a word (00 R9, R15) -/

/-- The bytes of a word from the k-th on, as a number. -/
theorem natOfBytes_extractLsb' (w : IWord) (n k : Nat) :
    natOfBytes ((List.range' k n).map fun j => w.extractLsb' (8 * j) 8) = w.toNat / 2 ^ (8 * k) % 2 ^ (8 * n) := by
  induction n generalizing k with
  | zero => simp [natOfBytes, Nat.mod_one]
  | succ n ih =>
    rw [List.range'_succ, List.map_cons, natOfBytes, ih, BitVec.extractLsb'_toNat, Nat.shiftRight_eq_div_pow,
      Nat.mul_succ, Nat.mul_succ, Nat.pow_add, ← Nat.div_div_eq_div_mul, Nat.pow_add, Nat.mul_comm (2 ^ (8 * n)), Nat.mod_mul]

theorem natOfBytes_wordBytes (w : IWord) : natOfBytes (wordBytes w) = w.toNat := by
  rw [wordBytes, List.range_eq_range', natOfBytes_extractLsb', Nat.mul_zero, Nat.pow_zero, Nat.div_one]
  exact Nat.mod_eq_of_lt w.isLt

theorem length_wordBytes (w : IWord) : (wordBytes w).length = 12 := by
  simp [wordBytes]

theorem takeWord_wordBytes (w : IWord) (rest : List Byte) : takeWord (wordBytes w ++ rest) = some (w, rest) := by
  simp [takeWord, length_wordBytes, natOfBytes_wordBytes]

/-! ## The obligations -/

/-- Settles O56, from `decode_eq_ok_iff`: decoding and encoding are the two readings of one relation. -/
theorem decodeOfEncode : Obligations.DecodeOfEncode := by
  unfold Obligations.DecodeOfEncode
  refine ⟨fun i w hi he => (decode_eq_ok_iff w i).mpr ⟨hi, he⟩, fun w i => (decode_eq_ok_iff w i).mp, fun w rest => ?_⟩
  rw [decodeBytes, takeWord_wordBytes, Option.map_some]

/-- Settles O57: the decoder evaluates on each word. -/
theorem decodedWords : Obligations.DecodedWords := by
  unfold Obligations.DecodedWords
  refine ⟨?_, ?_, ?_, ?_, ?_, ?_, ?_, ?_, ?_, ?_⟩
  all_goals rfl

end Sys2Proof
end

section
/-!
THE CHECKS OF ISSUE (02 R63; 08 R178; 12 R270): O37. One lemma for each check of the chains `issueIn`, `decodeTrap` and `hazardWith`
says what it answers once the checks before it have passed.
-/
namespace Sys2Proof
open Machine

/-- Every instruction of the streams is issued by its row. -/
theorem exec_eq_issue {i : Instr} {row : OpRow} {f : Form} (h : i.row? = some (row, f)) :
    ∃ body, ∀ s, exec i s = issue row f s body := by
  cases i <;> cases h <;> exact ⟨_, fun _ => rfl⟩

section
variable {s : State} {e : Env} {row : OpRow} {f : Form} {body : Env → State → Act}

/-! ## The window between an event and the halt (18 R377, R392) -/

/-- A context that the window does not hold, or in the cycle of the event itself, meets the checks, whatever then remains of its
effect. -/
theorem issue_eq_issueIn (body : Env → State → Act) (he : envOf s s.cur = some e)
    (hw : windowHolds e row f = false ∨ sameCycle s e.g = true) :
    ∃ b, issue row f s body = .next (issueIn s e row f b) := by
  simp only [issue, he]
  cases hh : windowHolds e row f
  · exact ⟨body, rfl⟩
  · have hc : sameCycle s e.g = true := hw.resolve_left (by simp [hh])
    exact ⟨_, by simp [hc]; rfl⟩

theorem issue_of_held (he : envOf s s.cur = some e) (hw : windowHolds e row f = true) (hc : sameCycle s e.g = false) :
    issue row f s body = .next s := by
  simp [issue, he, hw, hc]

theorem issue_of_sameCycle (he : envOf s s.cur = some e) (hw : windowHolds e row f = true) (hc : sameCycle s e.g = true) :
    issue row f s body = .next (issueIn s e row f fun e s => onlyEvent (body e s)) := by
  simp [issue, he, hw, hc]

/-! ## Issue (08 R178; 02 R63) -/

theorem issueIn_of_fault {c : Cause} (h : e.h.fault = some c) :
    issueIn s e row f body = raiseOn (s.modHart e.r fun h => { h with fault := none }) e.r c := by
  simp only [issueIn, h]

theorem issueIn_of_decodeTrap {c : Cause} (hs : e.h.fault = none) (h : decodeTrap s e row f = some c) :
    issueIn s e row f body = raiseTrap s e.r { cause := c, pc := e.h.pc, aux := 0, insn := encodeForm row.opc f } := by
  simp only [issueIn, hs, h, wordOf]

theorem issueIn_of_guard_pending (hs : e.h.fault = none) (hd : decodeTrap s e row f = none)
    (h : e.h.pendingPred f.guard.val = true) :
    issueIn s e row f body = raiseTrap s e.r { cause := .hazardRaw, pc := e.h.pc, aux := 0, insn := encodeForm row.opc f } := by
  simp only [issueIn, hs, hd, h, if_true, wordOf]

theorem issueIn_of_guard_false (hs : e.h.fault = none) (hd : decodeTrap s e row f = none)
    (hp : e.h.pendingPred f.guard.val = false) (h : e.h.pred f.guard.val = f.gneg) :
    issueIn s e row f body = finish s e f (encodeForm row.opc f) none s := by
  simp [issueIn, hs, hd, hp, h, wordOf]

theorem issueIn_of_hazard {c : Cause} {aux : Word} (hs : e.h.fault = none) (hd : decodeTrap s e row f = none)
    (hp : e.h.pendingPred f.guard.val = false) (hg : e.h.pred f.guard.val ≠ f.gneg) (h : hazard s e row f = some (c, aux)) :
    issueIn s e row f body = raiseTrap s e.r { cause := c, pc := e.h.pc, aux := aux, insn := encodeForm row.opc f } := by
  simp [issueIn, hs, hd, hp, hg, h, wordOf]

theorem issueIn_of_clear (hs : e.h.fault = none) (hd : decodeTrap s e row f = none)
    (hp : e.h.pendingPred f.guard.val = false) (hg : e.h.pred f.guard.val ≠ f.gneg) (h : hazard s e row f = none) :
    issueIn s e row f body = runBody s e row f body := by
  simp [issueIn, hs, hd, hp, hg, h]

/-- Once a DRAIN operand is read, the hazards of what it selects. -/
theorem runBody_of_drainHazard {v : Nat} {w : State} {c : Cause} {aux : Word} (hu : usesDrain f = true) (hl : readsCycLo row f = false)
    (hs : e.h.stores = []) (hr : readDrain s e = .value v w) (ht : drainHazard s { e with drain := v } row f = some (c, aux)) :
    runBody s e row f body = raiseTrap s e.r { cause := c, pc := e.h.pc, aux := aux, insn := encodeForm row.opc f } := by
  simp [runBody, hu, hl, hs, hr, ht, wordOf]

theorem performDup_plain (a : Act) (h : needsDup e row f = false) : performDup s e row f a = perform s e row f a := by
  cases a <;> simp [performDup, h]

/-- An instruction that neither reads DRAIN nor waits for its second execution is performed at once. -/
theorem runBody_plain (hu : usesDrain f = false) (hl : readsCycLo row f = false) (hd : needsDup e row f = false) :
    runBody s e row f body = perform s e row f (body e s) := by
  simp [runBody, hu, hl, performDup_plain _ hd]

/-- Of an act that meets no event, the window leaves nothing. -/
theorem perform_onlyEvent {a : Act} (h : ∀ u c, a ≠ .event u c) : perform s e row f (onlyEvent a) = s := by
  cases a with
  | event u c => exact absurd rfl (h u c)
  | done | jump | trap | hold | block | raw => simp [onlyEvent, perform]

/-! ## The field checks, the register file, the pairs, privilege (08 R178 steps 3 to 8) -/

theorem decodeTrap_of_stream (h : row.stream.has e.steward = false) : decodeTrap s e row f = some .stream := by
  simp [decodeTrap, h]

theorem decodeTrap_of_encoding (hs : row.stream.has e.steward = true) (h : row.encOk e.steward f.fields = false) :
    decodeTrap s e row f = some .illenc := by
  simp [decodeTrap, hs, h]

theorem decodeTrap_of_operands (hs : row.stream.has e.steward = true) (he : row.encOk e.steward f.fields = true)
    (h : row.opndOk e.steward f.fields = false) : decodeTrap s e row f = some .illopnd := by
  simp [decodeTrap, hs, he, h]

theorem decodeTrap_of_registers (hs : row.stream.has e.steward = true) (he : row.encOk e.steward f.fields = true)
    (ho : row.opndOk e.steward f.fields = true) (h : overSlots row f (regallocBad e f) ≠ []) :
    decodeTrap s e row f = some .regalloc := by
  simp [decodeTrap, hs, he, ho, h]

theorem decodeTrap_of_pairs (hs : row.stream.has e.steward = true) (he : row.encOk e.steward f.fields = true)
    (ho : row.opndOk e.steward f.fields = true) (hr : overSlots row f (regallocBad e f) = [])
    (h : overSlots row f (alignBad f) ≠ []) : decodeTrap s e row f = some .pairAlign := by
  simp [decodeTrap, hs, he, ho, hr, h]

/-- Behind the checks of registers stands that of privilege. -/
theorem decodeTrap_of_paired (hs : row.stream.has e.steward = true) (he : row.encOk e.steward f.fields = true)
    (ho : row.opndOk e.steward f.fields = true) (hr : overSlots row f (regallocBad e f) = [])
    (hp : overSlots row f (alignBad f) = []) :
    decodeTrap s e row f
      = if (row.opc = 0x3C0 ∨ row.opc = 0x3C1) ∧ 0x800 ≤ f.imm.toNat ∧ (s.ctx e.n).privileged = false then some .priv else none := by
  simp [decodeTrap, hs, he, ho, hr, hp, and_assoc]

/-! ## Hazards (02 R63; 12 R270; 15 R324) -/

variable {sel : Selected}

theorem exists_mem_append_iff_any {α : Type} {xs ys : List α} {p : α → Bool} :
    (∃ x, x ∈ xs ++ ys ∧ p x = true) ↔ xs.any p = true ∨ ys.any p = true := by
  rw [← List.any_eq_true, List.any_append, Bool.or_eq_true]

theorem any_eq_false_of_forall_append {α : Type} {xs ys : List α} {p : α → Bool} (h : ∀ x, x ∈ xs ++ ys → p x = false) :
    xs.any p = false ∧ ys.any p = false := by
  rw [← Bool.or_eq_false_iff, ← List.any_append]
  exact List.any_eq_false.mpr fun x hx => by simp [h x hx]

/-- What an instruction reads is pending: a register or a predicate, of its operands or of what it selects. -/
theorem hazardWith_of_read
    (h : (∃ n, n ∈ overSlots row f (readRegs e.steward f.fields) ++ sel.reads ∧ e.h.pendingReg n = true)
      ∨ (∃ k, k ∈ overSlots row f (readPreds f.fields) ++ sel.preads ∧ e.h.pendingPred k = true)) :
    ∃ aux, hazardWith e row f sel = some (.hazardRaw, aux) := by
  rw [exists_mem_append_iff_any, exists_mem_append_iff_any] at h
  by_cases ho : (overSlots row f (readRegs e.steward f.fields)).any e.h.pendingReg = true
      ∨ (overSlots row f (readPreds f.fields)).any e.h.pendingPred = true
  · exact ⟨0, if_pos (by rwa [Bool.or_eq_true])⟩
  · refine ⟨sel.index, (if_neg (by rwa [Bool.or_eq_true])).trans (if_pos ?_)⟩
    rw [Bool.or_eq_true]
    exact (or_or_or_comm.mp h).resolve_left ho

section
variable
  (hr : ∀ n, n ∈ overSlots row f (readRegs e.steward f.fields) ++ sel.reads → e.h.pendingReg n = false)
  (hp : ∀ k, k ∈ overSlots row f (readPreds f.fields) ++ sel.preads → e.h.pendingPred k = false)
include hr hp

/-- Nothing that an instruction reads is pending, and something that it writes is. -/
theorem hazardWith_of_write
    (h : (∃ n, n ∈ overSlots row f (writeRegs e.steward f.fields) ++ sel.writes ∧ e.h.pendingReg n = true)
      ∨ (∃ k, k ∈ overSlots row f writePreds ++ sel.pwrites ∧ e.h.pendingPred k = true)) :
    ∃ aux, hazardWith e row f sel = some (.hazardWaw, aux) := by
  obtain ⟨hr1, hr2⟩ := any_eq_false_of_forall_append hr
  obtain ⟨hp1, hp2⟩ := any_eq_false_of_forall_append hp
  rw [exists_mem_append_iff_any, exists_mem_append_iff_any] at h
  simp only [hazardWith, hr1, hr2, hp1, hp2, Bool.or_self, Bool.false_eq_true, if_false]
  by_cases ho : (overSlots row f (writeRegs e.steward f.fields)).any e.h.pendingReg = true
      ∨ (overSlots row f writePreds).any e.h.pendingPred = true
  · exact ⟨0, if_pos (by rwa [Bool.or_eq_true])⟩
  · refine ⟨sel.index, (if_neg (by rwa [Bool.or_eq_true])).trans (if_pos ?_)⟩
    rw [Bool.or_eq_true]
    exact (or_or_or_comm.mp h).resolve_left ho

variable
  (hw : ∀ n, n ∈ overSlots row f (writeRegs e.steward f.fields) ++ sel.writes → e.h.pendingReg n = false)
  (hq : ∀ k, k ∈ overSlots row f writePreds ++ sel.pwrites → e.h.pendingPred k = false)
include hw hq

/-- Nothing is pending, and an operand names a register that a restore did not bring back. -/
theorem hazardWith_of_dead (h : ∃ n, n ∈ overSlots row f (readRegs e.steward f.fields) ∧ n ∈ e.h.dead) :
    hazardWith e row f sel = some (.deadRead, 0) := by
  obtain ⟨hr1, hr2⟩ := any_eq_false_of_forall_append hr
  obtain ⟨hp1, hp2⟩ := any_eq_false_of_forall_append hp
  obtain ⟨hw1, hw2⟩ := any_eq_false_of_forall_append hw
  obtain ⟨hq1, hq2⟩ := any_eq_false_of_forall_append hq
  have hd : (overSlots row f (readRegs e.steward f.fields)).any e.h.dead.contains = true := by simpa using h
  simp [hazardWith, hr1, hr2, hp1, hp2, hw1, hw2, hq1, hq2, hd]

/-- Nothing is pending and no operand is dead: what is left is the check of the selected number, then that the selected registers are
not dead. -/
theorem hazardWith_of_selected (hd : ∀ n, n ∈ overSlots row f (readRegs e.steward f.fields) → n ∉ e.h.dead)
    (hg : ∀ n, n ∈ groupReads e row f → n ∉ e.g.steward.dead) :
    (∀ c, sel.bad = some c → hazardWith e row f sel = some (c, sel.index))
    ∧ (sel.bad = none → hazardWith e row f sel
        = if sel.reads.any e.h.dead.contains then some (.deadRead, sel.index) else none) := by
  obtain ⟨hr1, hr2⟩ := any_eq_false_of_forall_append hr
  obtain ⟨hp1, hp2⟩ := any_eq_false_of_forall_append hp
  obtain ⟨hw1, hw2⟩ := any_eq_false_of_forall_append hw
  obtain ⟨hq1, hq2⟩ := any_eq_false_of_forall_append hq
  have hd1 : (overSlots row f (readRegs e.steward f.fields)).any e.h.dead.contains = false := by simpa using hd
  have hg1 : (groupReads e row f).any e.g.steward.dead.contains = false := by simpa using hg
  constructor
  · intro c hb
    simp only [hazardWith, hr1, hr2, hp1, hp2, hw1, hw2, hq1, hq2, hd1, hg1, hb, Bool.or_self, Bool.false_eq_true, if_false]
  · intro hb
    simp only [hazardWith, hr1, hr2, hp1, hp2, hw1, hw2, hq1, hq2, hd1, hg1, hb, Bool.or_self, Bool.false_eq_true, if_false]

end
end

/-- Settles O37: each clause is the lemma of the check that it names, once those before it have passed. -/
theorem issueChecks : Obligations.IssueChecks := by
  unfold Obligations.IssueChecks
  refine ⟨fun i row f => exec_eq_issue, ?window, ?checks, ?hazards⟩
  case window =>
    intro row f s e body he hw
    refine ⟨issue_of_held he hw, fun hc hs hd hp hg hh hu hl hn => ?_⟩
    have hperform : issue row f s body = .next (perform s e row f (onlyEvent (body e s))) := by
      rw [issue_of_sameCycle he hw hc, issueIn_of_clear hs hd hp hg hh, runBody_plain hu hl hn]
    rw [hperform]
    refine ⟨fun u c hb => by rw [hb]; rfl, fun hb => ?_⟩
    rw [perform_onlyEvent hb]
  case checks =>
    intro row f s e body he hw stops traps inFile paired special enc opnd
    obtain ⟨b, hb⟩ := issue_eq_issueIn body he hw
    simp only [traps, stops, hb, Host.Outcome.next.injEq]
    refine ⟨fun c => issueIn_of_fault, fun hs => ⟨fun hst => issueIn_of_decodeTrap hs (decodeTrap_of_stream hst), fun hst => ?_⟩⟩
    refine ⟨?enc, ?opnd, ?file, ?pairs, ?priv, ?rest⟩
    case enc => exact fun h => issueIn_of_decodeTrap hs (decodeTrap_of_encoding hst h)
    case opnd => exact fun h1 h2 => issueIn_of_decodeTrap hs (decodeTrap_of_operands hst h1 h2)
    case file => exact fun h1 h2 h3 => issueIn_of_decodeTrap hs (decodeTrap_of_registers hst h1 h2 h3)
    case pairs => exact fun h1 h2 h3 h4 => issueIn_of_decodeTrap hs (decodeTrap_of_pairs hst h1 h2 h3 h4)
    case priv =>
      intro h1 h2 h3 h4 h5
      exact issueIn_of_decodeTrap hs ((decodeTrap_of_paired hst h1 h2 h3 h4).trans (if_pos h5))
    case rest =>
      intro h1 h2 h3 h4 h5
      have hd : decodeTrap s e row f = none := (decodeTrap_of_paired hst h1 h2 h3 h4).trans (if_neg h5)
      refine ⟨issueIn_of_guard_pending hs hd, issueIn_of_guard_false hs hd,
        fun hp hg c aux => issueIn_of_hazard hs hd hp hg, fun hp hg hh hu hl hstores v w c aux hr ht => ?_⟩
      rw [issueIn_of_clear hs hd hp hg hh, runBody_of_drainHazard hu hl hstores hr ht]
  case hazards =>
    intro e row f sel reads preads writes pwrites
    refine ⟨hazardWith_of_read, fun hr hp => ⟨hazardWith_of_write hr hp, fun hw hq =>
      ⟨hazardWith_of_dead hr hp hw hq, fun hd hg => ?_⟩⟩⟩
    obtain ⟨hbad, hgood⟩ := hazardWith_of_selected hr hp hw hq hd hg
    refine ⟨hbad, fun hb hs => (hgood hb).trans (if_pos ?_), fun hb hs => (hgood hb).trans (if_neg ?_)⟩
    · simpa using hs
    · simpa using hs

end Sys2Proof
end

section
/-!
NUMBERS OF A FLOAT FORMAT AND THEIR ORDER (01 R22, R33; 08 R182; 11 R233, R234, R238): O14.

A pattern is a sign and a magnitude. The magnitudes of numbers are those up to that of infinity, and the value grows with the
magnitude (`unitsOf_strictMono`); so the comparison of patterns as signed magnitudes is that of the numbers (`signedAt_lt_iff`).
-/
namespace Sys2Proof
open Machine

section
variable {f : Fmt} {a b : Nat}

/-! ## Sign, magnitude, exponent and fraction -/

theorem two_pow_width (f : Fmt) : 2 ^ f.width = 2 * f.signBit := by
  rw [Fmt.width, Fmt.signBit, ← Nat.pow_succ', Nat.add_assoc, Nat.add_comm 1]

theorem signBit_eq_mul (f : Fmt) : f.signBit = 2 ^ f.fbits * 2 ^ f.ebits := by
  rw [Fmt.signBit, ← Nat.pow_add, Nat.add_comm]

theorem signBit_eq_infBits_add (f : Fmt) : f.signBit = f.infBits + 2 ^ f.fbits := by
  have h : 1 ≤ 2 ^ f.ebits := Nat.one_le_two_pow
  rw [signBit_eq_mul, Fmt.infBits, Fmt.expAll, ← Nat.succ_mul, Nat.succ_eq_add_one, Nat.sub_add_cancel h, Nat.mul_comm]

theorem mag_lt_signBit (f : Fmt) (b : Nat) : f.mag b < f.signBit := Nat.mod_lt _ (Nat.two_pow_pos _)

theorem testBit_signBit (hb : b < 2 ^ f.width) : b.testBit (f.ebits + f.fbits) = decide (f.signBit ≤ b) := by
  rw [two_pow_width, Fmt.signBit] at hb
  rw [Nat.testBit_eq_decide_div_mod_eq, Fmt.signBit]
  have hpos : 0 < 2 ^ (f.ebits + f.fbits) := Nat.two_pow_pos _
  have hdiv : b / 2 ^ (f.ebits + f.fbits) < 2 := Nat.div_lt_of_lt_mul (by omega)
  rw [decide_eq_decide, Nat.mod_eq_of_lt hdiv, ← Nat.one_le_div_iff hpos]
  omega

/-- A pattern is its sign and its magnitude. -/
theorem withSign_sign_mag (hb : b < 2 ^ f.width) : f.withSign (f.sign b) (f.mag b) = b := by
  rw [Fmt.withSign, Fmt.sign, testBit_signBit hb, Fmt.mag]
  rw [two_pow_width] at hb
  by_cases h : f.signBit ≤ b
  · simp only [h, decide_true, if_true]
    rw [Nat.mod_eq_sub_mod h, Nat.mod_eq_of_lt (by omega)]
    omega
  · simp only [h, decide_false, Bool.false_eq_true, if_false]
    exact Nat.mod_eq_of_lt (by omega)

theorem expo_eq_mag_div (f : Fmt) (b : Nat) : f.expo b = f.mag b / 2 ^ f.fbits := by
  rw [Fmt.mag, signBit_eq_mul, Nat.mod_mul_right_div_self, Fmt.expo, bitsOf, Nat.shiftRight_eq_div_pow]

theorem frac_eq_mag_mod (f : Fmt) (b : Nat) : f.frac b = f.mag b % 2 ^ f.fbits := by
  rw [Fmt.mag, signBit_eq_mul, Nat.mod_mul_right_mod, Fmt.frac, bitsOf, Nat.shiftRight_zero]

theorem expo_frac_mag (f : Fmt) (b : Nat) : 2 ^ f.fbits * f.expo b + f.frac b = f.mag b := by
  rw [expo_eq_mag_div, frac_eq_mag_mod, Nat.div_add_mod]

/-- The numbers are the patterns up to the infinities. -/
theorem isNan_eq_decide (f : Fmt) (b : Nat) : f.isNan b = decide (f.infBits < f.mag b) := by
  have htop := signBit_eq_infBits_add f
  have hm := mag_lt_signBit f b
  have hsum := expo_frac_mag f b
  have hinf : f.infBits = 2 ^ f.fbits * f.expAll := Nat.mul_comm _ _
  rw [Fmt.isNan, Bool.eq_iff_iff, Bool.and_eq_true, beq_iff_eq, bne_iff_ne, decide_eq_true_iff]
  constructor
  · rintro ⟨he, hf⟩
    rw [he] at hsum
    omega
  · intro h
    have he : f.expo b = f.expAll := by
      rw [expo_eq_mag_div]
      exact Nat.div_eq_of_lt_le (by rw [Nat.mul_comm, ← hinf]; omega) (by rw [Nat.succ_mul, Nat.mul_comm, ← hinf]; omega)
    rw [he] at hsum
    exact ⟨he, by omega⟩

/-! ## The value of a pattern, in units of the smallest subnormal (01 R22) -/

theorem unitsOf_eq (f : Fmt) (b : Nat) :
    unitsOf f b = if f.expo b = 0 then f.frac b else (2 ^ f.fbits + f.frac b) * 2 ^ (f.expo b - 1) := by
  rw [unitsOf, Fmt.finite]
  split
  · simp [shiftTo]
  · have h : ((f.expo b : Int) - 1 + f.qmin - f.qmin).toNat = f.expo b - 1 := by omega
    simp only [shiftTo, h]

theorem signedAt_qmin (f : Fmt) (b : Nat) :
    f.signedAt b f.qmin = if f.sign b then -(unitsOf f b : Int) else (unitsOf f b : Int) := rfl

theorem unitsOf_congr (h : f.mag a = f.mag b) : unitsOf f a = unitsOf f b := by
  simp only [unitsOf_eq, expo_eq_mag_div, frac_eq_mag_mod, h]

/-- A larger magnitude is a larger value: below a power of two all that has a smaller exponent. -/
theorem unitsOf_lt_of_mag_lt (h : f.mag a < f.mag b) : unitsOf f a < unitsOf f b := by
  have ha := expo_frac_mag f a
  have hb := expo_frac_mag f b
  have hfa : f.frac a < 2 ^ f.fbits := by rw [frac_eq_mag_mod]; exact Nat.mod_lt _ (Nat.two_pow_pos _)
  have hle : f.expo a ≤ f.expo b := by
    rw [expo_eq_mag_div, expo_eq_mag_div]
    exact Nat.div_le_div_right (Nat.le_of_lt h)
  rw [unitsOf_eq, unitsOf_eq]
  obtain he | he := Nat.eq_or_lt_of_le hle
  · rw [he] at ha ⊢
    have hf : f.frac a < f.frac b := by omega
    split
    · exact hf
    · exact Nat.mul_lt_mul_of_pos_right (by omega) (Nat.two_pow_pos _)
  · rw [if_neg (show f.expo b ≠ 0 by omega)]
    have hbelow : (if f.expo a = 0 then f.frac a else (2 ^ f.fbits + f.frac a) * 2 ^ (f.expo a - 1))
        < 2 ^ f.fbits * 2 ^ f.expo a := by
      split
      case isTrue h0 => rwa [h0, Nat.pow_zero, Nat.mul_one]
      case isFalse h0 =>
        obtain ⟨k, hk⟩ := Nat.exists_eq_succ_of_ne_zero h0
        rw [hk, Nat.succ_sub_one, Nat.pow_succ, ← Nat.mul_assoc, Nat.mul_comm _ 2, ← Nat.mul_assoc]
        exact Nat.mul_lt_mul_of_pos_right (by omega) (Nat.two_pow_pos _)
    calc _ < 2 ^ f.fbits * 2 ^ f.expo a := hbelow
      _ ≤ 2 ^ f.fbits * 2 ^ (f.expo b - 1) := Nat.mul_le_mul_left _ (Nat.pow_le_pow_right (by decide) (by omega))
      _ ≤ (2 ^ f.fbits + f.frac b) * 2 ^ (f.expo b - 1) := Nat.mul_le_mul_right _ (Nat.le_add_right _ _)

theorem unitsOf_lt_iff (f : Fmt) (a b : Nat) : unitsOf f a < unitsOf f b ↔ f.mag a < f.mag b := by
  refine ⟨fun h => ?_, unitsOf_lt_of_mag_lt⟩
  obtain hlt | he | hgt := Nat.lt_trichotomy (f.mag a) (f.mag b)
  · exact hlt
  · exact absurd (unitsOf_congr he) (Nat.ne_of_lt h)
  · exact absurd (unitsOf_lt_of_mag_lt hgt) (Nat.lt_asymm h)

theorem unitsOf_zero (f : Fmt) : unitsOf f 0 = 0 := by
  simp [unitsOf_eq, Fmt.expo, Fmt.frac, bitsOf]

/-- A pattern as a signed magnitude, which is what comparisons compare. -/
def signedMag (f : Fmt) (b : Nat) : Int := if f.sign b then -(f.mag b : Int) else (f.mag b : Int)

theorem fcompare_eq (f : Fmt) (a b : Nat) :
    fcompare f a b = if signedMag f a < signedMag f b then -1 else if signedMag f a = signedMag f b then 0 else 1 := rfl

/-- Numbers compare as their patterns do. -/
theorem signedAt_lt_iff (f : Fmt) (a b : Nat) : f.signedAt a f.qmin < f.signedAt b f.qmin ↔ signedMag f a < signedMag f b := by
  have hab := unitsOf_lt_iff f a b
  have hba := unitsOf_lt_iff f b a
  have ha := unitsOf_lt_iff f 0 a
  have hb := unitsOf_lt_iff f 0 b
  have h0 : f.mag 0 = 0 := Nat.zero_mod _
  rw [unitsOf_zero, h0] at ha hb
  rw [signedAt_qmin, signedAt_qmin, signedMag, signedMag]
  split <;> split <;> omega

theorem signedAt_eq_iff : f.signedAt a f.qmin = f.signedAt b f.qmin ↔ signedMag f a = signedMag f b := by
  have hab := signedAt_lt_iff f a b
  have hba := signedAt_lt_iff f b a
  omega

/-- A comparison of numbers: -1, 0 or 1 by their values. -/
theorem fcompare_eq_signedAt (f : Fmt) (a b : Nat) :
    fcompare f a b = if f.signedAt a f.qmin < f.signedAt b f.qmin then -1
      else if f.signedAt a f.qmin = f.signedAt b f.qmin then 0 else 1 := by
  simp only [fcompare_eq, signedAt_lt_iff, signedAt_eq_iff]

/-! ## Keys (11 R238) and the order of minimum and maximum (01 R33) -/

theorem orderKey_lt_of_signedAt_lt (h : f.signedAt a f.qmin < f.signedAt b f.qmin) : orderKey f a < orderKey f b := by
  rw [signedAt_lt_iff, signedMag, signedMag] at h
  rw [orderKey, orderKey]
  cases hsa : f.sign a <;> cases hsb : f.sign b <;> simp only [hsa, hsb, Bool.false_eq_true, if_true, if_false] at h ⊢
  all_goals omega

/-- A pattern is known from its place in the order. -/
theorem orderKey_inj (ha : a < 2 ^ f.width) (hb : b < 2 ^ f.width) (h : orderKey f a = orderKey f b) : a = b := by
  rw [← withSign_sign_mag ha, ← withSign_sign_mag hb]
  rw [orderKey, orderKey] at h
  cases hsa : f.sign a <;> cases hsb : f.sign b <;> simp only [hsa, hsb, Bool.false_eq_true, if_true, if_false] at h
  case false.false | true.true => congr 1; omega
  case false.true | true.false => omega

/-- The key of a pattern is its place in the order, counted from 0. -/
theorem fkey_zero_eq (ha : a < 2 ^ f.width) : (fkey f 0 a : Int) = orderKey f a + f.signBit := by
  have hm := mag_lt_signBit f a
  have hw := withSign_sign_mag ha
  rw [Fmt.withSign] at hw
  simp only [fkey, orderKey, Nat.reduceEqDiff, decide_false, Bool.false_and, Bool.false_eq_true, if_false]
  split <;> simp only [*, if_true, if_false, Bool.false_eq_true] at hw ⊢ <;> omega

theorem fkey_zero_lt_iff (ha : a < 2 ^ f.width) (hb : b < 2 ^ f.width) :
    fkey f 0 a < fkey f 0 b ↔ orderKey f a < orderKey f b := by
  have hka := fkey_zero_eq ha
  have hkb := fkey_zero_eq hb
  omega

theorem fkeyDec_fkey (ha : a < 2 ^ f.width) : fkeyDec f (fkey f 0 a) = a := by
  have hm := mag_lt_signBit f a
  have hw := withSign_sign_mag ha
  have hk := fkey_zero_eq ha
  have hlt : fkey f 0 a < 2 ^ f.width := by
    rw [two_pow_width]
    rw [orderKey] at hk
    split at hk <;> omega
  rw [fkeyDec, testBit_signBit hlt]
  rw [Fmt.withSign] at hw
  rw [orderKey] at hk
  by_cases hs : f.sign a = true
  · rw [if_pos hs] at hw hk
    rw [if_neg (mt of_decide_eq_true (by omega))]
    omega
  · rw [if_neg hs] at hw hk
    rw [if_pos (decide_eq_true (by omega))]
    omega

/-- Between the keys of the numbers there is room for a NaN below and above. -/
theorem fkey_zero_bounds (hf : isFormat f) (ha : a < 2 ^ f.width) (hn : f.mag a ≤ f.infBits) :
    0 < fkey f 0 a ∧ fkey f 0 a < 2 ^ f.width - 1 := by
  have hk := fkey_zero_eq ha
  have htop := signBit_eq_infBits_add f
  have hfrac : 2 ≤ 2 ^ f.fbits := by rcases hf with rfl | rfl | rfl <;> decide
  rw [two_pow_width]
  rw [orderKey] at hk
  split at hk <;> omega

theorem fkey_of_not_nan {op : Nat} (h : f.isNan a = false) : fkey f op a = fkey f 0 a := by
  simp [fkey, h]

theorem isNan_eq_false_of_num (h : f.mag a ≤ f.infBits) : f.isNan a = false := by
  rw [isNan_eq_decide, decide_eq_false_iff_not]
  omega

theorem fminmax_of_num {mx nanp : Bool} (ha : f.isNan a = false) (hb : f.isNan b = false) :
    fminmax f mx nanp a b = if mx then (if orderKey f a < orderKey f b then b else a)
      else (if orderKey f b < orderKey f a then b else a) := by
  simp only [fminmax, ha, hb]

theorem fminmax_comm {mx nanp : Bool} (ha : a < 2 ^ f.width) (hb : b < 2 ^ f.width) (hna : f.isNan a = false)
    (hnb : f.isNan b = false) : fminmax f mx nanp a b = fminmax f mx nanp b a := by
  rw [fminmax_of_num hna hnb, fminmax_of_num hnb hna]
  obtain h | h | h := Int.lt_trichotomy (orderKey f a) (orderKey f b)
  · simp [h, Int.lt_asymm h]
  · simp [orderKey_inj ha hb h]
  · simp [h, Int.lt_asymm h]

/-! ## Conditions (08 R182) -/

/-- Between numbers each condition is the one on their values. -/
theorem fcond_of_num (ha : f.isNan a = false) (hb : f.isNan b = false) :
    let n (x : Nat) : Int := f.signedAt x f.qmin
    (fcond f 0 a b = decide (n a = n b)) ∧ (fcond f 1 a b = decide (n a ≠ n b)) ∧ (fcond f 2 a b = decide (n a < n b))
    ∧ (fcond f 3 a b = decide (n a ≤ n b)) ∧ (fcond f 4 a b = decide (n a > n b)) ∧ (fcond f 5 a b = decide (n a ≥ n b))
    ∧ fcond f 6 a b = true ∧ fcond f 7 a b = false
    ∧ (fcond f 8 a b = decide (n a < n b)) ∧ (fcond f 9 a b = decide (n a ≤ n b)) ∧ (fcond f 10 a b = decide (n a > n b))
    ∧ (fcond f 11 a b = decide (n a ≥ n b)) ∧ (fcond f 12 a b = decide (n a = n b)) ∧ (fcond f 13 a b = decide (n a ≠ n b)) := by
  intro n
  have hc : fcompare f a b = if n a < n b then -1 else if n a = n b then 0 else 1 := fcompare_eq_signedAt f a b
  obtain h | h | h := Int.lt_trichotomy (n a) (n b)
  · simp [fcond, ha, hb, hc, h, Int.le_of_lt h, Int.ne_of_lt h, Int.lt_asymm h]
  · simp [fcond, ha, hb, hc, h]
  · simp [fcond, ha, hb, hc, h, Int.le_of_lt h, Int.ne_of_gt h, Int.lt_asymm h]

end

/-- Settles O14: conditions, minima and keys go by the order of signed magnitudes, which is that of the numbers, and a NaN has a
magnitude above that of the infinities. -/
theorem floatOrder : Obligations.FloatOrder := by
  unfold Obligations.FloatOrder
  intro f a b hf ha hb isNum n
  have hnum {x : Nat} (hx : isNum x) : f.isNan x = false := isNan_eq_false_of_num hx
  refine ⟨?num, ?cond, ?minmax, fkeyDec_fkey ha, fkey_zero_lt_iff ha hb, ?nanKey, ?numKey⟩
  case num =>
    intro hna hnb
    have hna := hnum hna
    have hnb := hnum hnb
    obtain ⟨h0, h1, h2, h3, h4, h5, h6, h7, h8, h9, h10, h11, h12, h13⟩ := fcond_of_num hna hnb
    refine ⟨h0, h1, h2, h3, h4, h5, h6, h7, h8, h9, h10, h11, h12, h13, ?less, ?nanp, ?comm, ?zeros⟩
    case less =>
      intro h
      have ho : orderKey f a < orderKey f b := orderKey_lt_of_signedAt_lt h
      simp [fminmax_of_num hna hnb, ho, Int.lt_asymm ho, fkey_zero_lt_iff ha hb]
    case nanp => exact ⟨by simp only [fminmax_of_num hna hnb], by simp only [fminmax_of_num hna hnb]⟩
    case comm => exact ⟨fminmax_comm ha hb hna hnb, fminmax_comm ha hb hna hnb⟩
    case zeros =>
      intro hza hzb hs
      rw [Fmt.isZero, beq_iff_eq] at hza hzb
      have ho : ¬ orderKey f b < orderKey f a := by
        simp only [orderKey, hza, hzb, hs, if_true]
        split <;> decide
      simp [fminmax_of_num hna hnb, ho]
  case cond =>
    intro h
    have hnan : (f.isNan a || f.isNan b) = true := by simpa using h
    simp [fcond, hnan]
  case minmax =>
    intro hna mx
    refine ⟨?_, fun hb => ?_, fun hb => ?_, fun hb => ?_⟩
    · cases hb : f.isNan b <;> simp [fminmax, hna, hb]
    · simp [fminmax, hna, hnum hb]
    · simp [fminmax, hna, hnum hb]
    · simp [fminmax, hna, hb]
  case nanKey =>
    intro hna
    simp [fkey, hna, two_pow_width]
  case numKey =>
    intro hn
    have hna := hnum hn
    exact ⟨fkey_of_not_nan hna, fkey_of_not_nan hna, fkey_zero_bounds hf ha hn⟩

end Sys2Proof
end

section
/-!
NUMBERS AND THEIR BITS (00 R9, R14; 01 R18, R19, R21; 10 R206): fields, two's complement, the fitting of a result to its type, and
the elements of a packed result.
-/
namespace Sys2Proof
open Machine

/-! ## Bits -/

theorem testBit_zext (v n i : Nat) : (zext v n).testBit i = (decide (i < n) && v.testBit i) := Nat.testBit_mod_two_pow v n i

theorem zext_lt (v n : Nat) : zext v n < 2 ^ n := Nat.mod_lt _ (Nat.two_pow_pos n)

theorem testBit_bitsOf (v lo len i : Nat) : (bitsOf v lo len).testBit i = (decide (i < len) && v.testBit (lo + i)) := by
  rw [bitsOf, Nat.testBit_mod_two_pow, Nat.testBit_shiftRight]

theorem boolNat_lt (b : Bool) : boolNat b < 2 := by cases b <;> decide

theorem testBit_boolNat_zero (b : Bool) : (boolNat b).testBit 0 = b := by cases b <;> rfl

/-- The complement in `w` bits. -/
theorem testBit_complement (v w i : Nat) : (2 ^ w - 1 - zext v w).testBit i = (decide (i < w) && !v.testBit i) := by
  rw [Nat.sub_sub, Nat.add_comm, Nat.testBit_two_pow_sub_succ (zext_lt v w), testBit_zext]
  by_cases hi : i < w <;> simp [hi]

/-- The upper `w` bits of `a:b` shifted left by `r`. -/
theorem testBit_funnel {w r b : Nat} (hr : r ≤ w) (hb : b < 2 ^ w) (a i : Nat) :
    ((a * 2 ^ r + b / 2 ^ (w - r)) % 2 ^ w).testBit i
      = (decide (i < w) && if i < r then b.testBit (w - r + i) else a.testBit (i - r)) := by
  have hlow : b / 2 ^ (w - r) < 2 ^ r := by
    rwa [Nat.div_lt_iff_lt_mul (Nat.two_pow_pos _), ← Nat.pow_add, Nat.add_sub_cancel' hr]
  rw [Nat.testBit_mod_two_pow, Nat.mul_comm, Nat.testBit_two_pow_mul_add _ hlow, Nat.testBit_div_two_pow]
  simp only [Nat.add_comm]

/-! ## Elements side by side -/

section
variable {w : Nat} {d : Nat → Nat}

/-- Elements of `w` bits side by side, the first lowest. -/
def packed (w n : Nat) (d : Nat → Nat) : Nat := ((List.range n).map fun i => d i * 2 ^ (w * i)).sum

theorem packed_succ (w n : Nat) (d : Nat → Nat) : packed w (n + 1) d = 2 ^ (w * n) * d n + packed w n d := by
  simp [packed, List.range_succ, Nat.mul_comm, Nat.add_comm]

theorem packed_lt (hd : ∀ i, d i < 2 ^ w) (n : Nat) : packed w n d < 2 ^ (w * n) := by
  induction n with
  | zero => simp [packed]
  | succ n ih =>
    have h : 2 ^ (w * n) * (d n + 1) ≤ 2 ^ (w * n) * 2 ^ w := Nat.mul_le_mul_left _ (hd n)
    rw [packed_succ, Nat.mul_succ, Nat.pow_add]
    rw [Nat.mul_add, Nat.mul_one] at h
    omega

/-- Each element stands at its place. -/
theorem bitsOf_packed (hd : ∀ i, d i < 2 ^ w) {n i : Nat} (hi : i < n) : bitsOf (packed w n d) (w * i) w = d i := by
  induction n with
  | zero => omega
  | succ n ih =>
    have hlt := packed_lt hd n
    rw [bitsOf, Nat.shiftRight_eq_div_pow, packed_succ]
    rcases Nat.lt_succ_iff_lt_or_eq.mp hi with hin | rfl
    · obtain ⟨k, rfl⟩ := Nat.exists_eq_add_of_lt hin
      have hsplit : 2 ^ (w * (i + k + 1)) = 2 ^ (w * i) * (2 ^ w * 2 ^ (w * k)) := by
        rw [← Nat.pow_add, ← Nat.pow_add, Nat.mul_add, Nat.mul_add, Nat.mul_one, Nat.add_assoc, Nat.add_comm (w * k)]
      rw [hsplit, Nat.mul_assoc, Nat.mul_add_div (Nat.two_pow_pos _), Nat.mul_assoc, Nat.mul_add_mod,
        ← Nat.shiftRight_eq_div_pow, ← bitsOf, ih hin]
    · rw [Nat.mul_add_div (Nat.two_pow_pos _), Nat.div_eq_of_lt hlt, Nat.add_zero, Nat.mod_eq_of_lt (hd i)]

end

/-- A number built bit by bit has these bits. -/
theorem testBit_bitsBy {w i : Nat} (hi : i < w) (b : Nat → Bool) : (bitsBy w b).testBit i = b i := by
  have hp : bitsBy w b = packed 1 w fun i => boolNat (b i) := by simp [bitsBy, packed]
  have h := bitsOf_packed (w := 1) (d := fun i => boolNat (b i)) (fun i => boolNat_lt (b i)) hi
  rw [← hp, Nat.one_mul] at h
  rw [← testBit_boolNat_zero (b i), ← h, testBit_bitsOf]
  simp

/-! ## Two's complement -/

theorem two_pow_pos_int (n : Nat) : (0 : Int) < ((2 ^ n : Nat) : Int) := Int.ofNat_lt.mpr (Nat.two_pow_pos n)

theorem two_pow_ne_zero_int (n : Nat) : ((2 ^ n : Nat) : Int) ≠ 0 := (Int.ne_of_lt (two_pow_pos_int n)).symm

theorem wrap_lt (x : Int) (n : Nat) : wrap x n < 2 ^ n := by
  have h := Int.emod_lt_of_pos x (two_pow_pos_int n)
  have h0 := Int.emod_nonneg x (two_pow_ne_zero_int n)
  unfold wrap
  omega

theorem wrap_eq_emod (x : Int) (n : Nat) : (wrap x n : Int) = x % ((2 ^ n : Nat) : Int) :=
  Int.toNat_of_nonneg (Int.emod_nonneg x (two_pow_ne_zero_int n))

theorem dvd_wrap_sub (x : Int) (n : Nat) : ((2 ^ n : Nat) : Int) ∣ (wrap x n : Int) - x := by
  rw [wrap_eq_emod]
  exact Int.dvd_emod_sub_self

theorem sext_eq_bmod (v n : Nat) : sext v n = (v : Int).bmod (2 ^ n) := by
  have hhalf : (((2 ^ n : Nat) : Int) + 1) / 2 = ((2 ^ (n - 1) : Nat) : Int) := by
    cases n with
    | zero => rfl
    | succ n => rw [Nat.pow_succ, Nat.add_sub_cancel]; push_cast; omega
  rw [sext, Int.bmod_def, hhalf, ← Int.natCast_emod]
  simp only [Int.ofNat_lt]

/-- A shift right by `p` that fills with the top bit. -/
theorem testBit_wrap_sext_div {w i : Nat} (hi : i < w) (a p : Nat) :
    (wrap (sext a w / ((2 ^ p : Nat) : Int)) w).testBit i = a.testBit (min (i + p) (w - 1)) := by
  have h : wrap (sext a w / ((2 ^ p : Nat) : Int)) w = ((BitVec.ofNat w a).sshiftRight p).toNat := by
    rw [BitVec.sshiftRight, BitVec.toNat_ofInt, BitVec.toInt_ofNat', ← sext_eq_bmod, Int.shiftRight_eq_div_pow, wrap]
  rw [h, BitVec.testBit_toNat, BitVec.getLsbD_sshiftRight, BitVec.msb_eq_getLsbD_last, BitVec.getLsbD_ofNat,
    BitVec.getLsbD_ofNat]
  by_cases hp : p + i < w
  · simp [hp, Nat.not_le.mpr hi, show min (i + p) (w - 1) = p + i by omega]
  · simp [hp, Nat.not_le.mpr hi, show min (i + p) (w - 1) = w - 1 by omega, show w - 1 < w by omega]

/-! ## Types (01 R18, R19) -/

theorem tyBits_pos (ty : Ty) : 0 < tyBits ty := by cases ty <;> decide

section
variable (ty : Ty)

theorem two_pow_tyBits : ((2 ^ tyBits ty : Nat) : Int) = 2 * ((2 ^ (tyBits ty - 1) : Nat) : Int) := by
  have h : 2 ^ tyBits ty = 2 * 2 ^ (tyBits ty - 1) := by
    rw [← Nat.pow_succ', Nat.succ_eq_add_one, Nat.sub_add_cancel (tyBits_pos ty)]
  exact_mod_cast h

theorem asInt_mem (v : Nat) : tyMin ty ≤ asInt ty v ∧ asInt ty v ≤ tyMax ty := by
  have h := two_pow_tyBits ty
  have hv : v % 2 ^ tyBits ty < 2 ^ tyBits ty := Nat.mod_lt _ (Nat.two_pow_pos _)
  unfold asInt tyMin tyMax sext zext
  generalize 2 ^ tyBits ty = M at *
  generalize 2 ^ (tyBits ty - 1) = N at *
  grind

theorem dvd_asInt_sub (v : Nat) : ((2 ^ tyBits ty : Nat) : Int) ∣ asInt ty v - v := by
  unfold asInt
  split
  · rw [sext_eq_bmod]
    exact Int.dvd_bmod_sub_self
  · rw [zext, Int.natCast_emod]
    exact Int.dvd_emod_sub_self

/-- Numbers of the type that are congruent are equal. -/
theorem eq_of_mem_of_dvd {x y : Int} (hx : tyMin ty ≤ x ∧ x ≤ tyMax ty) (hy : tyMin ty ≤ y ∧ y ≤ tyMax ty)
    (h : ((2 ^ tyBits ty : Nat) : Int) ∣ x - y) : x = y := by
  have h2 := two_pow_tyBits ty
  have hspan : tyMax ty - tyMin ty < ((2 ^ tyBits ty : Nat) : Int) := by
    unfold tyMin tyMax
    split <;> omega
  have h0 := Int.eq_zero_of_dvd_of_natAbs_lt_natAbs h (by omega)
  omega

theorem dvd_asInt_wrap_sub (x : Int) : ((2 ^ tyBits ty : Nat) : Int) ∣ asInt ty (wrap x (tyBits ty)) - x := by
  have h := Int.dvd_add (dvd_asInt_sub ty (wrap x (tyBits ty))) (dvd_wrap_sub x (tyBits ty))
  rwa [show asInt ty (wrap x (tyBits ty)) - wrap x (tyBits ty) + (wrap x (tyBits ty) - x) = asInt ty (wrap x (tyBits ty)) - x by
    omega] at h

theorem asInt_wrap_of_mem {x : Int} (h : tyMin ty ≤ x ∧ x ≤ tyMax ty) : asInt ty (wrap x (tyBits ty)) = x :=
  eq_of_mem_of_dvd ty (asInt_mem ty _) h (dvd_asInt_wrap_sub ty x)

/-- A register image holds the number of the type that is congruent, its sign copied above it. -/
theorem image_eq (x : Int) : (image ty x : Int) = asInt ty (wrap x (tyBits ty)) % ((2 ^ max 32 (tyBits ty) : Nat) : Int) := by
  unfold image asInt
  split
  · exact wrap_eq_emod _ _
  · have hle : 2 ^ tyBits ty ≤ 2 ^ max 32 (tyBits ty) := Nat.pow_le_pow_right (by decide) (Nat.le_max_right _ _)
    rw [zext, Nat.mod_eq_of_lt (wrap_lt x _), ← Int.natCast_emod, Nat.mod_eq_of_lt (Nat.lt_of_lt_of_le (wrap_lt x _) hle)]

theorem image_mod (x : Int) : image ty x % 2 ^ tyBits ty = wrap x (tyBits ty) := by
  have hd : ((2 ^ tyBits ty : Nat) : Int) ∣ ((2 ^ max 32 (tyBits ty) : Nat) : Int) :=
    Int.natCast_dvd_natCast.mpr (Nat.pow_dvd_pow 2 (Nat.le_max_right _ _))
  have h : ((image ty x % 2 ^ tyBits ty : Nat) : Int) = (wrap x (tyBits ty) : Int) := by
    rw [Int.natCast_emod, image_eq, Int.emod_emod_of_dvd _ hd, wrap_eq_emod]
    rw [Int.emod_eq_emod_iff_emod_sub_eq_zero]
    exact Int.emod_eq_zero_of_dvd (dvd_asInt_wrap_sub ty x)
  exact_mod_cast h

theorem clampInt_cases {lo hi : Int} (h : lo ≤ hi) (r : Int) :
    (lo ≤ clampInt r lo hi ∧ clampInt r lo hi ≤ hi) ∧ (r < lo → clampInt r lo hi = lo) ∧ (hi < r → clampInt r lo hi = hi)
      ∧ (lo ≤ r → r ≤ hi → clampInt r lo hi = r) := by
  unfold clampInt
  split
  · omega
  · split <;> omega

/-- `Fit` gives the number fitted to the type (R206). -/
theorem fitsTo_fit (sat : Bool) (r : Int) : FitsTo ty sat r (fit ty sat r) := by
  refine ⟨_, (asInt_mem ty _).1, (asInt_mem ty _).2, ?_, image_eq ty _⟩
  cases sat with
  | false => exact dvd_asInt_wrap_sub ty r
  | true =>
    have hle : tyMin ty ≤ tyMax ty := Int.le_trans (asInt_mem ty 0).1 (asInt_mem ty 0).2
    obtain ⟨hmem, hcases⟩ := clampInt_cases hle r
    simp only [if_true]
    rwa [asInt_wrap_of_mem ty hmem]

end

end Sys2Proof
end

section
/-!
INTEGER ARITHMETIC (10 R206, R212, R213; 01 R21): O1 and O2.
-/
namespace Sys2Proof
open Machine

/-! ## Instructions that compute -/

/-- An instruction that executes has an OP2 code that its row lists. -/
theorem Executes.op2_mem {s u : State} {e e' : Env} {row : OpRow} {f : Form} (x : Executes s row f e e' u) :
    f.op2.toNat ∈ row.op2 := by
  refine Decidable.byContradiction fun hop => ?_
  have henc : row.encOk e.steward f.fields = false := by simp [OpRow.encOk, Form.fields, hop]
  cases hs : row.stream.has e.steward with
  | false => exact absurd x.legal (by simp [decodeTrap_of_stream hs])
  | true => exact absurd x.legal (by simp [decodeTrap_of_encoding hs henc])

/-- An instruction that goes through the checks of issue writes the value that its operands give. -/
theorem computes_of_issue {i : Form → Instr} {row : OpRow} {value : Form → Env → State → Nat}
    {spec : Form → Env → State → Nat → Prop}
    (hi : ∀ f s, exec (i f) s = issue row f s (compute row f (value f)))
    (hv : ∀ f e u, f.op2.toNat ∈ row.op2 → spec f e u (value f e u)) : Computes i row spec := by
  intro f s e e' u hx
  exact ⟨_, hv f e' u hx.op2_mem, by rw [hi, issue_executes _ hx]; rfl⟩

/-- An instruction whose row lists no OP2 but 0 does not saturate. -/
theorem not_sat_of_op2_mem {f : Form} (h : f.op2.toNat ∈ [0]) : (f.op2 == 1) = false := by
  have h0 : f.op2 = 0 := BitVec.eq_of_toNat_eq (by simpa using h)
  rw [h0]
  rfl

/-! ## Sums, products and choices -/

theorem fitsTo_fit_of_op2_mem {f : Form} (h : f.op2.toNat ∈ [0]) (r : Int) : FitsTo f.ty false r (fit f.ty (f.op2 == 1) r) := by
  rw [not_sat_of_op2_mem h]
  exact fitsTo_fit f.ty false r

theorem int_min_choice (a b : Int) : min a b = a ∨ min a b = b := by omega

theorem int_max_choice (a b : Int) : max a b = a ∨ max a b = b := by omega

/-- CLAMP takes C where it is below the larger of A and B. -/
theorem clamp_eq (a b c : Int) : min (max a b) c = if c ≤ max a b then c else max a b := by
  split
  · exact Int.min_eq_right ‹_›
  · exact Int.min_eq_left (by omega)

/-- Settles O1: each result is a number fitted to the type, as `fitsTo_fit` says; those without .SAT fit it without saturation. -/
theorem integerArithmetic : Obligations.IntegerArithmetic := by
  unfold Obligations.IntegerArithmetic
  refine ⟨?add, ?sub, ?mul, ?mad, ?min, ?max, ?abs, ?clamp⟩
  all_goals refine computes_of_issue (fun _ _ => rfl) fun f e u hop => ?_
  case add | sub | mul | mad | abs => exact fitsTo_fit _ _ _
  case min => exact ⟨_, int_min_choice _ _, Int.min_le_left _ _, Int.min_le_right _ _, fitsTo_fit_of_op2_mem hop _⟩
  case max => exact ⟨_, int_max_choice _ _, Int.le_max_left _ _, Int.le_max_right _ _, fitsTo_fit_of_op2_mem hop _⟩
  case clamp =>
    rw [← clamp_eq]
    exact fitsTo_fit_of_op2_mem hop _

/-! ## Wide products and division -/

/-- A remainder truncated towards zero has the sign of the dividend. -/
theorem tmod_mul_self_nonneg (a b : Int) : 0 ≤ a.tmod b * a := by
  rcases Int.le_total 0 a with h | h
  · exact Int.mul_nonneg (Int.tmod_nonneg b h) h
  · have hneg : 0 ≤ (-a).tmod b := Int.tmod_nonneg b (by omega)
    rw [Int.neg_tmod] at hneg
    exact Int.mul_nonneg_of_nonpos_of_nonpos (by omega) h

theorem natAbs_tmod_lt (a : Int) {b : Int} (hb : b ≠ 0) : (a.tmod b).natAbs < b.natAbs := by
  rw [Int.natAbs_tmod]
  exact Nat.mod_lt _ (Int.natAbs_pos.mpr hb)

theorem divInt_of_ne_zero (a : Int) {b : Int} (hb : b ≠ 0) : divInt a b = a.tdiv b := if_neg hb

theorem remInt_of_ne_zero (a : Int) {b : Int} (hb : b ≠ 0) : remInt a b = a.tmod b := if_neg hb

/-- Settles O2: the upper half is the quotient by `2^w` rounded down, and quotient and remainder are those truncated towards zero. -/
theorem integerWideAndDivision : Obligations.IntegerWideAndDivision := by
  unfold Obligations.IntegerWideAndDivision
  refine ⟨?mulh, ?madw, ?div, ?rem⟩
  all_goals refine computes_of_issue (fun _ _ => rfl) fun f e u hop => ?_
  case mulh =>
    refine ⟨_, Int.mul_ediv_self_le (two_pow_ne_zero_int _), ?_, fitsTo_fit_of_op2_mem hop _⟩
    rw [Int.mul_add, Int.mul_one]
    exact Int.lt_mul_ediv_self_add (two_pow_pos_int _)
  case madw =>
    simp only [beq_iff_eq]
    exact fitsTo_fit _ _ _
  case div =>
    refine ⟨fun hb => ?_, fun hb => ⟨_, _, (Int.tdiv_mul_add_tmod _ _).symm, natAbs_tmod_lt _ hb, tmod_mul_self_nonneg _ _, ?_⟩⟩
    · simpa [hb, divInt] using fitsTo_fit f.ty false (-1)
    · simp only [divInt_of_ne_zero _ hb, bne_iff_ne.mpr hb, Bool.and_true]
      exact fitsTo_fit f.ty (f.op2 == 1) _
  case rem =>
    refine ⟨fun hb => ?_, fun hb => ⟨_, _, (Int.tdiv_mul_add_tmod _ _).symm, natAbs_tmod_lt _ hb, tmod_mul_self_nonneg _ _, ?_⟩⟩
    · simpa [hb, remInt] using fitsTo_fit_of_op2_mem hop (asInt f.ty (e.A u rowRem f))
    · simp only [remInt_of_ne_zero _ hb]
      exact fitsTo_fit_of_op2_mem hop _

end Sys2Proof
end

section
/-!
MOVES, LOGIC AND SHIFTS (10 R209, R214, R215): O3.
-/
namespace Sys2Proof
open Machine

/-- The low bits of an operand, taken as a number of them, are its own. -/
theorem testBit_zext_of_lt {i w : Nat} (hi : i < w) (v : Nat) : (zext v w).testBit i = v.testBit i := by simp [testBit_zext, hi]

section
variable {i w : Nat} (hi : i < w) (a b : Nat)
include hi

/-! ## The low `w` bits of a shifted operand (10 R215) -/

theorem testBit_shiftLeft :
    (if w ≤ b then 0 else zext (zext a w * 2 ^ b) w).testBit i = (decide (b ≤ i) && a.testBit (i - b)) := by
  split
  · simp [show ¬ b ≤ i by omega]
  · rw [testBit_zext_of_lt hi, Nat.testBit_mul_two_pow, testBit_zext_of_lt (by omega)]

omit hi in
theorem testBit_shiftRight :
    (if w ≤ b then 0 else zext a w / 2 ^ b).testBit i = (decide (i + b < w) && a.testBit (i + b)) := by
  split
  · simp [show ¬ i + b < w by omega]
  · rw [Nat.testBit_div_two_pow, testBit_zext]

theorem testBit_shiftRight_signed :
    (wrap (sext (zext a w) w / ((2 ^ min b w : Nat) : Int)) w).testBit i = a.testBit (min (i + b) (w - 1)) := by
  rw [testBit_wrap_sext_div hi, testBit_zext_of_lt (by omega)]
  congr 1
  omega

/-- A rotation takes bit `i` to the place `b` further, around the end. -/
theorem testBit_rotate :
    a.testBit i = ((zext a w * 2 ^ (b % w) + zext a w / 2 ^ (w - b % w)) % 2 ^ w).testBit ((i + b) % w) := by
  have hr : b % w < w := Nat.mod_lt b (by omega)
  rw [testBit_funnel (Nat.le_of_lt hr) (zext_lt a w), ← Nat.add_mod_mod]
  rcases Nat.lt_or_ge (i + b % w) w with h | h
  · rw [Nat.mod_eq_of_lt h, if_neg (by omega), Nat.add_sub_cancel, testBit_zext_of_lt hi]
    simp [h]
  · rw [Nat.mod_eq_sub_mod h, Nat.mod_eq_of_lt (by omega), if_pos (by omega), testBit_zext_of_lt (by omega),
      show w - b % w + (i + b % w - w) = i by omega]
    simp [show i + b % w - w < w by omega]

theorem testBit_funnelShift (c : Nat) :
    (if c % w = 0 then zext a w else (zext a w * 2 ^ (c % w) + zext b w / 2 ^ (w - c % w)) % 2 ^ w).testBit i
      = if i < c % w then b.testBit (w - c % w + i) else a.testBit (i - c % w) := by
  split
  · next h => simp [h, testBit_zext_of_lt hi]
  · have hr : c % w < w := Nat.mod_lt c (by omega)
    rw [testBit_funnel (Nat.le_of_lt hr) (zext_lt b w), testBit_zext_of_lt (by omega : i - c % w < w)]
    by_cases h : i < c % w
    · simp [h, hi, testBit_zext_of_lt (by omega : w - c % w + i < w)]
    · simp [h, hi]

end

/-- Settles O3, bit by bit: of an operand only the low `w` bits count, and each shift is the lemma of its bits. -/
theorem logicAndShifts : Obligations.LogicAndShifts := by
  unfold Obligations.LogicAndShifts
  refine ⟨?mov, ?sel, ?and, ?or, ?xor, ?andn, ?logic3, ?shl, ?shr, ?sar, ?rol, ?fshl⟩
  all_goals refine computes_of_issue (fun _ _ => rfl) fun f e u _ i hi => ?_
  case mov => exact testBit_zext_of_lt hi _
  case sel =>
    by_cases hc : e.C u rowSel f = 1
    · simp [hc, testBit_zext_of_lt hi]
    · simp [hc]
  case and | or | xor => simp [testBit_zext_of_lt hi]
  case andn => simp [testBit_zext_of_lt hi, testBit_complement, hi]
  case logic3 => simp [testBit_bitsBy hi, tableBit, testBit_zext_of_lt hi]
  case shl => exact testBit_shiftLeft hi _ _
  case shr => exact testBit_shiftRight _ _
  case sar => exact testBit_shiftRight_signed hi _ _
  case rol => exact testBit_rotate hi _ _
  case fshl => exact testBit_funnelShift hi _ _ _

end Sys2Proof
end

section
/-!
CONVERSION, PACKING AND THE DOT PRODUCT (10 R222 to R224): O7.
-/
namespace Sys2Proof
open Machine

/-- A result of PACK holds its elements, each fitted to the type, side by side. -/
theorem bitsOf_packElems (ty : Ty) (sat : Bool) (pool : Nat) {i : Nat} (hi : i < 32 / tyBits ty) :
    bitsOf (packElems ty sat pool) (tyBits ty * i) (tyBits ty)
      = fit ty sat (sext (bitsOf pool (2 * tyBits ty * i) (2 * tyBits ty)) (2 * tyBits ty)) % 2 ^ tyBits ty := by
  rw [fit, image_mod]
  exact bitsOf_packed (fun _ => wrap_lt _ _) hi

/-- A result of UNPACK holds its elements, each of twice the width, side by side. -/
theorem bitsOf_unpackElems (ty : Ty) (a : Nat) {i : Nat} (hi : i < 32 / tyBits ty) :
    bitsOf (unpackElems ty a) (2 * tyBits ty * i) (2 * tyBits ty)
      = wrap (asInt ty (bitsOf a (tyBits ty * i) (tyBits ty))) (2 * tyBits ty) :=
  bitsOf_packed (fun _ => wrap_lt _ _) hi

/-- Settles O7, element by element: each is fitted or wrapped (`fitsTo_fit`, `dvd_wrap_sub`) and read back from its place. -/
theorem conversionAndPacking : Obligations.ConversionAndPacking := by
  unfold Obligations.ConversionAndPacking
  refine ⟨?cvti, ?pack, ?unpack, ?dp4⟩
  all_goals refine computes_of_issue (fun _ _ => rfl) fun f e u _ => ?_
  case cvti =>
    intro t ht
    simp only [ht, Option.getD_some]
    exact fitsTo_fit f.ty (f.op2 == 1) _
  case pack =>
    intro w i hi
    refine ⟨_, fitsTo_fit f.ty (f.op2 == 1) _, ?_⟩
    rw [Nat.mul_comm (2 ^ 32)]
    exact bitsOf_packElems f.ty (f.op2 == 1) _ hi
  case unpack =>
    intro w i hi
    rw [bitsOf_unpackElems f.ty _ hi]
    exact dvd_wrap_sub _ _
  case dp4 =>
    simp only [Bool.and_eq_true, beq_iff_eq, Bool.not_eq_true']
    exact fitsTo_fit _ _ _

end Sys2Proof
end

section
/-!
REGISTERS NAMED BY A COMPUTED NUMBER (10 R209 to R211; 12 R270): O6.
-/
namespace Sys2Proof
open Machine

/-- Where nothing else stops the instruction, a selected number that is no register's does. -/
theorem hazardWith_of_bad {e : Env} {row : OpRow} {f : Form} {sel : Selected} {c : Cause} (h : hazardWith e row f {} = none)
    (hr : sel.reads = []) (hp : sel.preads = []) (hw : sel.writes = []) (hq : sel.pwrites = []) (hb : sel.bad = some c) :
    hazardWith e row f sel = some (c, sel.index) := by
  unfold hazardWith at h ⊢
  rw [hr, hp, hw, hq, hb]
  grind

theorem selectReg_of_beyond {idx bound : Nat} (h : bound ≤ idx) (k : Nat) (c : Cause) (write : Bool) :
    selectReg idx k bound c write = { index := BitVec.ofNat 32 idx, bad := some c } := if_pos h

/-- An instruction that selects a register by a number beyond the file traps, where nothing else stops it. -/
theorem exec_of_beyond {i : Instr} {row : OpRow} {f : Form} {s : State} {e : Env} {k bound : Nat} {c : Cause} {write : Bool}
    (hi : i.row? = some (row, f)) (hsel : selected s e row f = selectReg (e.A s row f) k bound c write)
    (hdrain : selectsByDrain row f = false)
    (he : envOf s s.cur = some e) (hs : e.h.fault = none) (hd : decodeTrap s e row f = none)
    (hp : e.h.pendingPred f.guard.val = false) (hg : e.h.pred f.guard.val ≠ f.gneg) (hh : hazardWith e row f {} = none)
    (hw : windowHolds e row f = false) (hb : bound ≤ e.A s row f) :
    exec i s = .next (raiseTrap s e.r
      { cause := c, pc := e.h.pc, aux := BitVec.ofNat 32 (e.A s row f), insn := encodeForm row.opc f }) := by
  obtain ⟨body, hbody⟩ := exec_eq_issue hi
  obtain ⟨b, hissue⟩ := issue_eq_issueIn body he (.inl hw)
  have hz : hazard s e row f = some (c, BitVec.ofNat 32 (e.A s row f)) := by
    rw [hazard, hdrain, hsel, selectReg_of_beyond hb]
    exact hazardWith_of_bad hh rfl rfl rfl rfl rfl
  rw [hbody, hissue, issueIn_of_hazard hs hd hp hg hz]

/-- Settles O6: what each instruction does itself, and the trap of `exec_of_beyond`. -/
theorem registerMoves : Obligations.RegisterMoves := by
  unfold Obligations.RegisterMoves
  refine ⟨?nop, ?xget, ?gget, ?xput, ?xputDrain, ?gput, ?stops⟩
  case nop | xget | gget | gput => exact performs_of_issue (fun _ _ => rfl) fun f e u _ => rfl
  case xput =>
    refine performs_of_issue (fun _ _ => rfl) fun f e u hu => ?_
    simp [hu]
  case xputDrain =>
    refine performs_of_issue (fun _ _ => rfl) fun f e u hu => ?_
    simp [hu]
  case stops =>
    intro stops
    refine ⟨?_, ?_, ?_, ?_⟩
    all_goals
      intro f s e he hs hd hp hg hh hw ha hb
      exact exec_of_beyond rfl rfl (beq_eq_false_iff_ne.mpr ha) he hs hd hp hg hh hw hb

end Sys2Proof
end

section
/-!
PREDICATES AND ADDRESSES (10 R219 to R221; 02 R43, R44, R62): O5.
-/
namespace Sys2Proof
open Machine

/-! ## The context that issues -/

/-- A context read after it is changed. -/
theorem hart?_modHart_same (s : State) (r : CtxRef) (k : Hart → Hart) : (s.modHart r k).hart? r = (s.hart? r).map k := by
  cases hg : s.group? r.group with
  | none => simp [State.modHart, State.hart?, hg]
  | some g =>
    cases hh : g.hart? r.who with
    | none => simp [State.modHart, State.hart?, hg, hh]
    | some h =>
      have hset : (g.setHart r.who (k h)).hart? r.who = some (k h) := by
        cases hw : r.who with
        | steward => rfl
        | thread n =>
          have hn : n < g.threads.length := by
            rw [hw] at hh
            exact (List.getElem?_eq_some_iff.mp hh).1
          simp [Group.setHart, Group.hart?, hn]
      simp [State.modHart, State.setHart, State.hart?, hg, hh, hset]

/-- Two changes that agree on the context are the same. -/
theorem modHart_congr {s : State} {r : CtxRef} {h : Hart} {k k' : Hart → Hart} (hh : s.hart? r = some h) (hk : k h = k' h) :
    s.modHart r k = s.modHart r k' := by
  simp [State.modHart, hh, hk]

theorem envOf_spec {s : State} {r : CtxRef} {e : Env} (he : envOf s r = some e) : e.r = r ∧ s.hart? r = some e.h := by
  unfold envOf at he
  split at he
  · cases he
  · next g hg =>
    split at he
    · next gr h hgr hh =>
      split at he
      · cases he
        exact ⟨rfl, by simp [State.hart?, hg, hh]⟩
      · cases he
    · cases he

/-- The operands taken are those of the context that issues. -/
theorem Executes.same_context {s u : State} {e e' : Env} {row : OpRow} {f : Form} (x : Executes s row f e e' u) : e'.r = e.r := by
  have ho := x.operands
  unfold operandsOf at ho
  dsimp only at ho
  split at ho
  · split at ho
    · split at ho
      · cases ho
        rfl
      · cases ho
    · cases ho
  · cases ho
    rfl

/-- An instruction that reads no DRAIN finds the predicates of its context as they are in its state. -/
theorem Executes.hart?_preds {s u : State} {e e' : Env} {row : OpRow} {f : Form} (x : Executes s row f e e' u)
    (hu : usesDrain f = false) : e' = e ∧ ∃ h, u.hart? e.r = some h ∧ h.preds = e.h.preds := by
  obtain ⟨hr, hh⟩ := envOf_spec x.env
  have ho := x.operands
  simp only [operandsOf, hu, Bool.false_eq_true, if_false, Option.some.injEq, Prod.mk.injEq] at ho
  obtain ⟨rfl, rfl⟩ := ho
  refine ⟨rfl, ?_⟩
  rw [hr]
  split
  · exact ⟨_, (hart?_modHart_same s s.cur _).trans (congrArg _ hh), rfl⟩
  · exact ⟨_, hh, rfl⟩

/-! ## Predicates written (02 R43, R44) -/

/-- A predicate set among the seven that hold a value. -/
def withPred (p : BitVec 7) (k : Nat) (v : Bool) : BitVec 7 :=
  if k = 7 then p else if v then p ||| BitVec.ofNat 7 (2 ^ k) else p &&& ~~~BitVec.ofNat 7 (2 ^ k)

/-- The predicates of a list set, each to its bit. -/
def withPreds (b : Nat → Bool) (ks : List Nat) (p : BitVec 7) : BitVec 7 := ks.foldl (fun p k => withPred p k (b k)) p

theorem setPred_eq (h : Hart) (k : Nat) (v : Bool) : h.setPred k v = { h with preds := withPred h.preds k v } := by
  unfold Hart.setPred withPred
  split <;> rfl

theorem foldl_setPred_eq (b : Nat → Bool) (ks : List Nat) (h : Hart) :
    ks.foldl (fun h k => h.setPred k (b k)) h = { h with preds := withPreds b ks h.preds } := by
  induction ks generalizing h with
  | nil => rfl
  | cons k ks ih =>
    rw [List.foldl_cons, ih, setPred_eq]
    rfl

theorem getLsbD_withPred {k j : Nat} (hk : k < 7) (hj : j < 7) (p : BitVec 7) (v : Bool) :
    (withPred p k v).getLsbD j = if j = k then v else p.getLsbD j := by
  have hbit : (BitVec.ofNat 7 (2 ^ k)).getLsbD j = decide (k = j) := by
    rw [BitVec.getLsbD_ofNat, Nat.testBit_two_pow]
    simp [hj]
  rw [withPred, if_neg (by omega)]
  cases v with
  | true =>
    rw [if_pos rfl, BitVec.getLsbD_or, hbit]
    by_cases hjk : j = k
    · simp [hjk]
    · simp [hjk, Ne.symm hjk]
  | false =>
    rw [if_neg Bool.false_ne_true, BitVec.getLsbD_and, BitVec.getLsbD_not, hbit]
    by_cases hjk : j = k
    · simp [hjk]
    · simp [hj, hjk, Ne.symm hjk]

theorem getLsbD_withPreds {b : Nat → Bool} {ks : List Nat} (hks : ∀ k ∈ ks, k < 7) {j : Nat} (hj : j < 7) (p : BitVec 7) :
    (withPreds b ks p).getLsbD j = if j ∈ ks then b j else p.getLsbD j := by
  induction ks generalizing p with
  | nil => simp [withPreds]
  | cons k ks ih =>
    have hrest := ih (fun k' hk' => hks k' (List.mem_cons_of_mem k hk')) (withPred p k (b k))
    rw [getLsbD_withPred (hks k List.mem_cons_self) hj] at hrest
    rw [withPreds, List.foldl_cons, ← withPreds, hrest]
    by_cases hjk : j = k
    · simp [hjk]
    · simp [hjk]

/-- The predicates that the low bits of a number choose (10 R220). -/
def chosenPreds (b : Nat) : List Nat := (List.range 7).filter fun k => b.testBit k

theorem mem_chosenPreds {b k : Nat} : k ∈ chosenPreds b ↔ k < 7 ∧ b.testBit k = true := by simp [chosenPreds]

theorem length_chosenPreds_le (b : Nat) : (chosenPreds b).length ≤ 7 := by
  have h := List.length_filter_le (fun k => b.testBit k) (List.range 7)
  rwa [List.length_range] at h

theorem getLsbD_withPreds_chosen (a : Nat → Bool) (b : Nat) {j : Nat} (hj : j < 7) (p : BitVec 7) :
    (withPreds a (chosenPreds b) p).getLsbD j = if b.testBit j then a j else p.getLsbD j := by
  rw [getLsbD_withPreds (fun k hk => (mem_chosenPreds.mp hk).1) hj]
  simp [mem_chosenPreds, hj]

/-! ## Predicates as a result (02 R62) -/

theorem bitsAt_eq_bitsBy (a : Nat) (ks : List Nat) : bitsAt a ks = bitsBy ks.length fun i => a.testBit (ks.getD i 0) := by
  unfold bitsAt bitsBy
  congr 1
  refine List.ext_getElem (by simp) fun i hi _ => ?_
  simp only [List.length_map, List.length_zipIdx] at hi
  simp [hi]

theorem testBit_bitsAt {a k i : Nat} {ks : List Nat} (h : ks[i]? = some k) : (bitsAt a ks).testBit i = a.testBit k := by
  obtain ⟨hi, -⟩ := List.getElem?_eq_some_iff.mp h
  rw [bitsAt_eq_bitsBy, testBit_bitsBy hi, List.getD_eq_getElem?_getD, h, Option.getD_some]

theorem bitsAt_lt (a : Nat) (ks : List Nat) : bitsAt a ks < 2 ^ ks.length := by
  have h := packed_lt (w := 1) (fun i => boolNat_lt (a.testBit (ks.getD i 0))) ks.length
  simpa [bitsAt_eq_bitsBy, bitsBy, packed] using h

/-- The bits chosen pass through the value of a result. -/
theorem toNat_bitsAt_chosenPreds (a b : Nat) :
    (BitVec.ofNat 128 (bitsAt a (chosenPreds b))).toNat = bitsAt a (chosenPreds b) := by
  have h : 2 ^ (chosenPreds b).length ≤ 2 ^ 7 := Nat.pow_le_pow_right (by decide) (length_chosenPreds_le b)
  rw [BitVec.toNat_ofNat, Nat.mod_eq_of_lt (Nat.lt_of_lt_of_le (bitsAt_lt a _) (Nat.le_trans h (by decide)))]

/-- A result without registers that returns sets its predicates, each to the bit of its place. -/
theorem returnResult_preds (h : Hart) {q : Result} {v : Nat} {b : Nat → Bool} (hq : q.regs = [])
    (hv : ∀ i k, q.preds[i]? = some k → v.testBit i = b k) : (h.returnResult q v).preds = withPreds b q.preds h.preds := by
  have hfold : ∀ h : Hart, q.preds.zipIdx.foldl (fun h p => h.setPred p.1 (v.testBit p.2)) h
      = { h with preds := withPreds b q.preds h.preds } := fun h => by
    have hbits : q.preds.zipIdx.map (fun p => (p.1, v.testBit p.2)) = q.preds.zipIdx.map fun p => (p.1, b p.1) :=
      List.map_congr_left fun p hp => by rw [hv p.2 p.1 (List.mem_zipIdx_iff_getElem?.mp hp)]
    rw [← foldl_setPred_eq, ← List.foldl_map (f := fun p : Nat × Nat => (p.1, v.testBit p.2))
      (g := fun (h : Hart) x => h.setPred x.1 x.2), hbits, List.foldl_map,
      ← List.foldl_map (f := Prod.fst) (g := fun (h : Hart) k => h.setPred k (b k)), List.zipIdx_map_fst]
  unfold Hart.returnResult
  simp only [hq, hfold]
  split <;> rfl

/-! ## The instructions -/

/-- An instruction that goes through the checks of issue writes the predicate that its operands give. -/
theorem computesPred_of_issue {i : Form → Instr} {row : OpRow} {value spec : Form → Env → State → Bool}
    (hi : ∀ f s, exec (i f) s = issue row f s (computePred row f (value f)))
    (hv : ∀ f e u, value f e u = spec f e u) : ComputesPred i row spec := by
  intro f s e e' u hx
  rw [hi, issue_executes _ hx, computePred, hv]

/-- The conditions of SUB for integers (08 R182). -/
theorem intCond_eq (n : Nat) (a b : Int) : intCond n a b = match n with
    | 0 => decide (a = b) | 1 => decide (a ≠ b) | 2 => decide (a < b) | 3 => decide (a ≤ b) | 4 => decide (a > b)
    | _ => decide (a ≥ b) :=
  match n with
  | 0 | 2 | 3 | 4 | _ + 5 => rfl
  | 1 => (decide_not (p := a = b)).symm

/-- The table of PLOP at the three predicates. -/
theorem tableBit_eq (t a b c : Nat) : tableBit t (a == 1) (b == 1) (c == 1)
    = t.testBit ((if a = 1 then 1 else 0) + (if b = 1 then 2 else 0) + (if c = 1 then 4 else 0)) := by
  have hweight (n x : Nat) : n * (if x = 1 then 1 else 0) = if x = 1 then n else 0 := by split <;> simp
  simp only [tableBit, boolNat, beq_iff_eq, hweight]

/-- What PSET.BULK does without a DRAIN operand. -/
theorem exec_psetBulk_plain {f : Form} {s u : State} {e e' : Env} (hx : Executes s rowPsetBulk f e e' u) (hu : usesDrain f = false) :
    exec (.psetBulk f) s = .next (after s e rowPsetBulk f (.done (u.modHart e'.r fun h =>
      { h with preds := withPreds (e'.A u rowPsetBulk f).testBit (chosenPreds (e'.B u rowPsetBulk f)) h.preds }))) := by
  simp only [← foldl_setPred_eq]
  exact (issue_executes _ hx).trans (by simp only [hu]; rfl)

/-- The result that PSET.BULK leaves pending with one. -/
def bulkResult (a b : Nat) (h : Hart) : Hart := h.addResult [] (chosenPreds b) (some (BitVec.ofNat 128 (bitsAt a (chosenPreds b))))

theorem exec_psetBulk_drain {f : Form} {s u : State} {e e' : Env} (hx : Executes s rowPsetBulk f e e' u) (hu : usesDrain f = true) :
    exec (.psetBulk f) s = .next (after s e rowPsetBulk f (.done (u.modHart e'.r
      (bulkResult (e'.A u rowPsetBulk f) (e'.B u rowPsetBulk f))))) :=
  (issue_executes _ hx).trans (by simp only [hu]; rfl)

/-- Settles O5: each predicate is the condition or the table's bit, PSET.BULK sets the chosen predicates (`getLsbD_withPreds_chosen`), at
once or by its result (`returnResult_preds`), and LEA wraps the address. -/
theorem predicatesAndAddress : Obligations.PredicatesAndAddress := by
  unfold Obligations.PredicatesAndAddress
  refine ⟨?cmp, ?plop, ?pset, ?bulk, ?bulkDrain, ?pget, ?lea⟩
  case cmp =>
    refine computesPred_of_issue (fun _ _ => rfl) fun f e u => ?_
    rw [intCond_eq]
    rfl
  case plop => exact computesPred_of_issue (fun _ _ => rfl) fun f e u => tableBit_eq _ _ _ _
  case pset =>
    refine computesPred_of_issue (fun _ _ => rfl) fun f e u => ?_
    rw [decide_not]
    rfl
  case bulk =>
    intro f s e e' u hx hu
    obtain ⟨rfl, h, hh, hp⟩ := hx.hart?_preds hu
    refine ⟨_, fun k hk => getLsbD_withPreds_chosen _ _ hk e'.h.preds, (exec_psetBulk_plain hx hu).trans ?_⟩
    refine congrArg (fun w => Host.Outcome.next (after s e' rowPsetBulk f (.done w))) (modHart_congr hh ?_)
    rw [hp]
  case bulkDrain =>
    intro f s e e' u h hx hu hh
    have hsame := (hart?_modHart_same u e.r (bulkResult (e'.A u rowPsetBulk f) (e'.B u rowPsetBulk f))).trans (congrArg _ hh)
    rw [← hx.same_context] at hsame ⊢
    refine ⟨_, _, _, _, exec_psetBulk_drain hx hu, hsame, rfl, rfl, rfl, rfl, fun k => mem_chosenPreds, fun k hk => ?_⟩
    rw [toNat_bitsAt_chosenPreds, returnResult_preds _ rfl fun i k => testBit_bitsAt]
    exact getLsbD_withPreds_chosen _ _ hk h.preds
  case pget => exact performs_of_issue (fun _ _ => rfl) fun f e u _ => rfl
  case lea =>
    refine computes_of_issue (fun _ _ => rfl) fun f e u _ => ?_
    exact ⟨wrap_lt _ _, dvd_wrap_sub _ _⟩

end Sys2Proof
end

section
/-!
PERM OF A SYSTEM VALUE BEYOND 32 BITS (10 R218; 02 R47), and O4.

PERM takes the low 32 bits of A as the bytes 0 to 3 of its pool; the statement adds all of A to B's bytes. The two agree while A is
below `2 ^ 32`. A register is, but a state may hold a lane of any size, and LANE reads it whole.
-/
namespace Sys2Proof
open Machine

/-! ## Reading a result back -/

/-- An instruction without DRAIN and CYC_LO that needs no second execution takes its operands as they are. -/
theorem executes_of_plain {s : State} {e : Env} {row : OpRow} {f : Form} (he : envOf s s.cur = some e)
    (hw : windowHolds e row f = false) (hs : e.h.fault = none) (hl : decodeTrap s e row f = none)
    (hg : e.h.pendingPred f.guard.val = false ∧ e.h.pred f.guard.val ≠ f.gneg) (hz : hazard s e row f = none)
    (hu : usesDrain f = false) (hc : readsCycLo row f = false) (hn : needsDup e row f = false) : Executes s row f e e s where
  env := he
  window := hw
  sound := hs
  legal := hl
  guarded := hg
  clear := hz
  operands := by simp [operandsOf, hu, hc]
  selects := by simp [hu]
  twice := by simp [hn]

theorem afterIssue_regs (e : Env) (f : Form) (w : IWord) (now : Nat) (t : Option Word) (h : Hart) :
    (afterIssue e f w now t h).regs = h.regs := by
  change (h.issued f now).regs = h.regs
  unfold Hart.issued
  split <;> rfl

/-- Where nothing follows the effect of an instruction, the registers of its context stay as the effect leaves them. -/
theorem hart?_after_done {s w : State} {e : Env} {row : OpRow} {f : Form} {h : Hart} (hu : usesDrain f = false)
    (hn : needsDup e row f = false) (hd : e.det = false) (ht : stepping s e = false) (hw : w.hart? e.r = some h) :
    ∃ h', (after s e row f (.done w)).hart? e.r = some h' ∧ h'.regs = h.regs := by
  have hafter : after s e row f (.done w)
      = w.modHart e.r (afterIssue e f (wordOf row f) (s.clusterCycles e.g.cluster) none) := by
    simp only [after, bounded, hu, performed, hn, perform, finish, hd, ht, stepAfter, Bool.false_eq_true, if_false, Bool.false_and]
    split <;> rfl
  refine ⟨afterIssue e f (wordOf row f) (s.clusterCycles e.g.cluster) none h, ?_, afterIssue_regs _ _ _ _ _ _⟩
  rw [hafter, hart?_modHart_same, hw, Option.map_some]

/-- A result of 32 bits in one register can be read back: two results that leave the same state agree. -/
theorem mod_eq_of_after_writeDst_eq {s : State} {e : Env} {row : OpRow} {f : Form} {h : Hart} {n v v' : Nat}
    (hu : usesDrain f = false) (hv : row.var = false) (hn : needsDup e row f = false) (hd : e.det = false)
    (ht : stepping s e = false) (hh : s.hart? e.r = some h) (hreg : writeRegs e.steward f.fields row.d f.d = [n])
    (hlen : n < h.regs.length)
    (heq : after s e row f (.done (writeDst s e row f v)) = after s e row f (.done (writeDst s e row f v'))) :
    v % 2 ^ 32 = v' % 2 ^ 32 := by
  have hread : ∀ x, ∃ h', (after s e row f (.done (writeDst s e row f x))).hart? e.r = some h'
      ∧ h'.regs = h.regs.set n (BitVec.ofNat 32 x) := fun x => by
    have hw : (writeDst s e row f x).hart? e.r = some (h.setRegs n 1 x) := by
      simp [writeDst, isVar, hv, hu, hreg, hart?_modHart_same, hh]
    exact hart?_after_done hu hn hd ht hw
  obtain ⟨h₁, e₁, r₁⟩ := hread v
  obtain ⟨h₂, e₂, r₂⟩ := hread v'
  rw [heq, e₂, Option.some.injEq] at e₁
  rw [← e₁, r₂] at r₁
  have hget := congrArg (fun l => (l[n]?.map BitVec.toNat)) r₁
  simpa [hlen, eq_comm] using hget

/-! ## The counterexample -/

/-- PERM writes the bytes chosen from a pool of which A gives its low `w` bits alone. -/
theorem exec_perm_of_executes {s u : State} {e e' : Env} {f : Form} (hx : Executes s rowPerm f e e' u) :
    exec (.perm f) s = .next (after s e rowPerm f (.done (writeDst u e' rowPerm f
      ((List.range 4).map fun i => permByte (zext (e'.A u rowPerm f) (tyBits f.ty) + e'.B u rowPerm f * 2 ^ 32)
        (e'.C u rowPerm f) i * 2 ^ (8 * i)).sum))) :=
  issue_executes _ hx

/-- After reset with a word placed (log 33), its thread on a lane beyond 32 bits. -/
def wideLane : State :=
  let r : CtxRef := { group := groupKey 0 0, who := .thread 0 }
  { placeWord State.reset 0 with cur := r }.modHart r fun h => { h with lane := 2 ^ 32 }

/-- PERM.I32 X8, LANE, ZERO, 4: byte 0 of the result is byte 4 of the pool, the lowest of B. -/
def permOfLane : Form :=
  { guard := 7, gneg := false, park := false, yield := false, fuse := false, last := false, ty := .i32
    d := .x 8, a := .sys .lane, b := .zero, c := .imm, sub := 0, op2 := 0, imm := 4 }

/-- What the counterexample takes of the context that issues. -/
abbrev permOfLaneMeets (e : Env) : Prop :=
  windowHolds e rowPerm permOfLane = false ∧ e.h.fault = none ∧ decodeTrap wideLane e rowPerm permOfLane = none
  ∧ (e.h.pendingPred 7 = false ∧ e.h.pred 7 ≠ false) ∧ hazard wideLane e rowPerm permOfLane = none
  ∧ needsDup e rowPerm permOfLane = false ∧ e.det = false ∧ stepping wideLane e = false
  ∧ writeRegs e.steward permOfLane.fields rowPerm.d permOfLane.d = [8] ∧ 8 < e.h.regs.length
  ∧ e.A wideLane rowPerm permOfLane = 2 ^ 32

theorem exists_permOfLaneMeets : ∃ e, envOf wideLane wideLane.cur = some e ∧ permOfLaneMeets e := by
  have h : (envOf wideLane wideLane.cur).any (fun e => decide (permOfLaneMeets e)) = true := by
    decide +kernel
  obtain ⟨e, he, hm⟩ := (Option.any_eq_true _ _).mp h
  exact ⟨e, he, of_decide_eq_true hm⟩

/-- The result of PERM is 0 on the low 32 bits of A, and the statement's byte 0 is 1 on all of them. -/
theorem permOfLane_values :
    ((List.range 4).map fun i => permByte (zext (2 ^ 32) 32 + 0 * 2 ^ 32) 4 i * 2 ^ (8 * i)).sum = 0
    ∧ bitsOf (2 ^ 32 + 2 ^ 32 * 0) (8 * bitsOf 4 (3 * 0) 3) 8 = 1 := by decide

/-- Refutes O4, by its clause of PERM: with LANE `2 ^ 32` and B zero, byte 4 of the pool is 0, where the statement's sum has 1. -/
theorem not_bitFieldsAndCounts : ¬ Obligations.BitFieldsAndCounts := by
  unfold Obligations.BitFieldsAndCounts
  rintro ⟨-, -, -, -, -, -, hperm⟩
  obtain ⟨e, he, hw, hs, hl, hg, hz, hn, hd, ht, hreg, hlen, ha⟩ := exists_permOfLaneMeets
  obtain ⟨hmodel, hclaim⟩ := permOfLane_values
  have hb : e.B wideLane rowPerm permOfLane = 0 := rfl
  have hc : e.C wideLane rowPerm permOfLane = 4 := rfl
  have hu : usesDrain permOfLane = false := by decide
  have hx : Executes wideLane rowPerm permOfLane e e wideLane := executes_of_plain he hw hs hl hg hz hu (by decide) hn
  obtain ⟨hr, hh⟩ := envOf_spec he
  obtain ⟨v, hv, hexec⟩ := hperm permOfLane wideLane e e wideLane hx
  have hzero : exec (.perm permOfLane) wideLane
      = .next (after wideLane e rowPerm permOfLane (.done (writeDst wideLane e rowPerm permOfLane 0))) := by
    rw [exec_perm_of_executes hx, ha, hb, hc, show tyBits permOfLane.ty = 32 from rfl, hmodel]
  rw [hzero, Host.Outcome.next.injEq] at hexec
  have hlow : 0 % 2 ^ 32 = v % 2 ^ 32 := mod_eq_of_after_writeDst_eq hu rfl hn hd ht (hr ▸ hh) hreg hlen hexec
  have hbyte := hv 0 (by decide)
  simp only [ha, hb, hc, hclaim] at hbyte
  have hone : v % 2 ^ 8 = 1 := by simpa [bitsOf, show Nat.testBit 4 12 = false by decide] using hbyte
  omega

end Sys2Proof
end

section
/-!
FLOATING-POINT INSTRUCTIONS (11 R227, R230, R231, R233 to R243): O8, O10 and O11. An operation takes the low bits of its operands,
those of one scalar or of each element in turn.
-/
namespace Sys2Proof
open Machine

theorem low_eq_mod (t : Fmt) (v : Nat) : low t v = v % 2 ^ t.width := by rw [low, Fmt.width, Nat.add_assoc 1, Nat.add_comm 1]

theorem isPacked_eq_true_iff (ty : Ty) : isPacked ty = true ↔ ty = .f16x2 ∨ ty = .bf16x2 := by simp [isPacked]

/-- The elements of a packed type have 16 bits. -/
theorem width_of_isPacked {ty : Ty} (h : isPacked ty = true) : (fmtOf ty).width = 16 := by
  rcases (isPacked_eq_true_iff ty).mp h with rfl | rfl <;> rfl

/-- An operation on the low bits of scalars, or of both elements of packed operands, as issue takes them. -/
theorem perElement_eq (ty : Ty) (op : Nat → Nat → Nat → Nat) (a b c : Nat) : perElement ty op a b c =
    if isPacked ty then op (low (fmtOf ty) a) (low (fmtOf ty) b) (low (fmtOf ty) c)
      + 2 ^ 16 * op (low (fmtOf ty) (a / 2 ^ 16)) (low (fmtOf ty) (b / 2 ^ 16)) (low (fmtOf ty) (c / 2 ^ 16))
    else op (low (fmtOf ty) a) (low (fmtOf ty) b) (low (fmtOf ty) c) := by
  simp only [perElement, low_eq_mod, ← isPacked_eq_true_iff]
  split
  · next h => simp only [width_of_isPacked h]
  · rfl

/-- Settles O8: each instruction is a scalar or an elementwise operation, and FCMP combines its condition with C. -/
theorem floatArithmetic : Obligations.FloatArithmetic := by
  unfold Obligations.FloatArithmetic
  refine ⟨?fadd, ?fsub, ?fmul, ?ffma, ?fscale, ?fmin, ?fmax, ?fcmp, ?fclass⟩
  case fadd | fsub | fmul | ffma | fscale =>
    refine computes_of_issue (fun _ _ => rfl) fun f e s _ => ?_
    simp only [low_eq_mod]
  case fmin | fmax | fclass =>
    refine computes_of_issue (fun _ _ => rfl) fun f e s _ => ?_
    simp only [perElement_eq]
  case fcmp =>
    refine computesPred_of_issue (fun _ _ => rfl) fun f e u => ?_
    simp only [low_eq_mod]
    rfl

/-! ## Special functions (11 R243) -/

/-- Settles O11: the nine are elementwise operations. -/
theorem specialFunctionsComplete : Obligations.SpecialFunctionsComplete := by
  unfold Obligations.SpecialFunctionsComplete
  refine ⟨?frcp, ?frsq, ?fsqrt, ?fexp2, ?flog2, ?fsin, ?fcos, ?ftanh, ?fsigm⟩
  all_goals
    refine computes_of_issue (fun _ _ => rfl) fun f e s _ => ?_
    simp only [perElement_eq]

/-! ## Rounding, keys, quantisation and conversions (11 R236, R238 to R242) -/

/-- The magnitude of a zero pattern is 0. -/
theorem finite_fst_of_isZero {f : Fmt} {b : Nat} (h : f.isZero b = true) : (f.finite b).1 = 0 := by
  rw [Fmt.isZero, beq_iff_eq] at h
  simp [Fmt.finite, expo_eq_mag_div, frac_eq_mag_mod, h]

/-- FQUANT by what its operands are (11 R239). -/
theorem fquant_cases (ty : Ty) (mode : Nat) (mark : Bool) (g : NanTag) (a b : Nat) :
    let invalid : Prop := (fF32.isZero a = true ∧ fF32.isInf b = true) ∨ (fF32.isInf a = true ∧ fF32.isZero b = true)
    fquant ty mode mark g a b =
      if fF32.isNan a = true ∨ fF32.isNan b = true then if mark then genNan fF32 g 0x3F else image ty (tyMin ty)
      else if invalid then if mark then genNan fF32 g 0x01 else image ty (tyMin ty)
      else if mark then intToFloat fF32 0 (quantNum ty mode a b) else image ty (quantNum ty mode a b) := by
  simp only [fquant, ← Bool.or_eq_true, ← Bool.and_eq_true]
  cases fF32.isNan a || fF32.isNan b <;> simp

/-- FDEQ by what its operands are (11 R240). -/
theorem fdeq_cases (mode : Nat) (t : NanTag) (q : Int) (b : Nat) :
    let neg := fF32.sign b != decide (q < 0)
    (if fF32.isNan b = true then genNan fF32 t 5 else mulIntF32 mode t 5 q b) =
      if fF32.isNan b = true ∨ (fF32.isInf b = true ∧ q = 0) then genNan fF32 t 5
      else if fF32.isInf b = true then fF32.withSign neg fF32.infBits
      else if q = 0 ∨ fF32.isZero b = true then fF32.withSign neg 0
      else roundMag fF32 mode neg (q.natAbs * (fF32.finite b).1) (fF32.finite b).2 := by
  unfold mulIntF32
  by_cases hn : fF32.isNan b = true
  · simp [hn]
  · by_cases hi : fF32.isInf b = true
    · by_cases hq : q = 0 <;> simp [hn, hi, hq]
    · by_cases hq : q = 0
      · simp [hn, hi, hq]
      · by_cases hz : fF32.isZero b = true
        · simp [hn, hi, hq, hz, finite_fst_of_isZero hz, roundMag]
        · simp [hn, hi, hq, hz]

/-- A value that is given case by case. -/
theorem ite_eq_iff_eq_ite {p : Prop} [Decidable p] {v x y : Nat} : (if p then v = x else v = y) ↔ v = if p then x else y := by
  by_cases h : p
  · rw [if_pos h, if_pos h]
  · rw [if_neg h, if_neg h]

/-- Settles O10: FRND and FKEY are elementwise, FQUANT and FDEQ go by what their operands are, and a conversion is between the types
that MOD and IMM name. -/
theorem floatConversions : Obligations.FloatConversions := by
  unfold Obligations.FloatConversions
  refine ⟨?frnd, ?fkey, ?fquant, ?fdeq, ?fcvt, ?f2i, ?i2f⟩
  all_goals refine computes_of_issue (fun _ _ => rfl) fun f e s _ => ?_
  case frnd | fkey => simp only [perElement_eq]
  case fquant =>
    simp only [ite_eq_iff_eq_ite, fquant_cases, beq_iff_eq]
  case fdeq =>
    simp only [ite_eq_iff_eq_ite]
    exact fdeq_cases _ _ _ _
  case fcvt =>
    intro u hu
    simp only [fcvt, hu, Option.getD_some, cvtOne, low_eq_mod]
    cases isPacked f.ty <;> cases isPacked u <;> simp
  case f2i =>
    intro u hu
    simp only [hu, Option.getD_some, low_eq_mod]
  case i2f =>
    intro u hu
    rw [hu, Option.getD_some]

end Sys2Proof
end

section
/-!
PACKED OPERATIONS AND DOT PRODUCTS (11 R231, R232; 01 R34): O9. The first NaN of A and B is that of the lowest element; a NaN is not
infinite, so `.SAT` leaves it.
-/
namespace Sys2Proof
open Machine

/-! ## The first NaN -/

section
variable {n : Nat} {p : Nat → Bool}

theorem find?_dotElemsOf_eq_none (v : Nat) :
    (dotElemsOf n v).find? p = none ↔ ∀ i, i < n → p (bitsOf v (16 * i) 16) = false := by
  simp [dotElemsOf]

theorem find?_dotElemsOf_eq_some {v i : Nat} (hi : i < n) (h : p (bitsOf v (16 * i) 16) = true)
    (hj : ∀ j, j < i → p (bitsOf v (16 * j) 16) = false) : (dotElemsOf n v).find? p = some (bitsOf v (16 * i) 16) := by
  have hr : (List.range n).find? (p ∘ fun i => bitsOf v (16 * i) 16) = some i :=
    List.find?_range_eq_some.mpr ⟨h, List.mem_range.mpr hi, fun j hlt => by simp [hj j hlt]⟩
  rw [dotElemsOf, List.find?_map, hr, Option.map_some]

end

/-! ## What saturation leaves -/

theorem satFloat_of_not_isInf {f : Fmt} {b : Nat} (h : f.isInf b = false) (sat : Bool) : satFloat f sat b = b := by
  simp [satFloat, h]

/-- A pattern whose quiet bit is set is not that of an infinity. -/
theorem isInf_of_testBit {f : Fmt} {b : Nat} (hf : 0 < f.fbits) (h : b.testBit (f.fbits - 1) = true) : f.isInf b = false := by
  rw [Fmt.isInf, beq_eq_false_iff_ne]
  intro hm
  have h0 : f.frac b = 0 := by rw [frac_eq_mag_mod, hm, Fmt.infBits, Nat.mul_mod_left]
  have hbit : (f.frac b).testBit (f.fbits - 1) = true := by
    rw [Fmt.frac, testBit_bitsOf, Nat.zero_add, h, Bool.and_true, decide_eq_true_iff]
    omega
  simp [h0] at hbit

theorem isInf_quiet {f : Fmt} (hf : 0 < f.fbits) (b : Nat) : f.isInf (f.quiet b) = false :=
  isInf_of_testBit hf (by simp [Fmt.quiet, Fmt.quietBit])

theorem isInf_nanConvert {src dst : Fmt} (hd : 0 < dst.fbits) (b : Nat) : dst.isInf (nanConvert src dst b) = false := by
  refine isInf_of_testBit hd ?_
  have hlow (k x : Nat) (hx : x.testBit (dst.fbits - 1) = true) : (k * 2 ^ dst.fbits + x).testBit (dst.fbits - 1) = true := by
    have hmod := Nat.testBit_mod_two_pow (k * 2 ^ dst.fbits + x) dst.fbits (dst.fbits - 1)
    rwa [Nat.mul_add_mod_self_right, Nat.testBit_mod_two_pow, hx, decide_eq_true (by omega), Bool.true_and, Bool.true_and,
      eq_comm] at hmod
  rw [nanConvert, Fmt.withSign, signBit_eq_mul, Fmt.infBits, Nat.mul_comm (2 ^ dst.fbits)]
  split
  · rw [← Nat.add_assoc, ← Nat.add_mul]
    exact hlow _ _ (by simp [Fmt.quietBit])
  · exact hlow _ _ (by simp [Fmt.quietBit])

/-! ## Dot products (11 R232; 01 R34) -/

section
variable {t : Fmt} {g : NanTag} {n a b c : Nat}

theorem fdot_of_nan {x : Nat} (h : (dotElemsOf n a ++ dotElemsOf n b).find? t.isNan = some x) :
    fdot t g n a b c = nanConvert t fF32 x := by
  simp only [fdot, h]

theorem fdot_of_nan_left {i : Nat} (hi : i < n) (h : t.isNan (bitsOf a (16 * i) 16) = true)
    (hj : ∀ j, j < i → t.isNan (bitsOf a (16 * j) 16) = false) : fdot t g n a b c = nanConvert t fF32 (bitsOf a (16 * i) 16) :=
  fdot_of_nan (by rw [List.find?_append, find?_dotElemsOf_eq_some hi h hj, Option.some_or])

theorem fdot_of_nan_right {i : Nat} (hi : i < n) (h : t.isNan (bitsOf b (16 * i) 16) = true)
    (ha : ∀ j, j < n → t.isNan (bitsOf a (16 * j) 16) = false) (hj : ∀ j, j < i → t.isNan (bitsOf b (16 * j) 16) = false) :
    fdot t g n a b c = nanConvert t fF32 (bitsOf b (16 * i) 16) :=
  fdot_of_nan (by rw [List.find?_append, (find?_dotElemsOf_eq_none a).mpr ha, find?_dotElemsOf_eq_some hi h hj, Option.none_or])

/-- Without a NaN in A and B: the sum of R34 from the products, unless C is one. -/
theorem fdot_of_num (h : ∀ i, i < n → t.isNan (bitsOf a (16 * i) 16) = false ∧ t.isNan (bitsOf b (16 * i) 16) = false) :
    let p (i : Nat) : Nat := dotProduct t g (bitsOf a (16 * i) 16) (bitsOf b (16 * i) 16)
    let plus := fadd fF32 0 g
    fdot t g n a b c = if fF32.isNan c then fF32.quiet c
      else if n = 2 then plus c (plus (p 0) (p 1)) else plus c (plus (plus (p 0) (p 2)) (plus (p 1) (p 3))) := by
  have hnone : (dotElemsOf n a ++ dotElemsOf n b).find? t.isNan = none := by
    rw [List.find?_append, (find?_dotElemsOf_eq_none a).mpr fun i hi => (h i hi).1,
      (find?_dotElemsOf_eq_none b).mpr fun i hi => (h i hi).2, Option.none_or]
  simp only [fdot, hnone]

end

/-- Settles O9: the packed operations are elementwise, and a dot product is that of `fdot_of_nan_left`, `fdot_of_nan_right` or
`fdot_of_num`. -/
theorem floatPairsAndDots : Obligations.FloatPairsAndDots := by
  unfold Obligations.FloatPairsAndDots
  refine ⟨?fadd2, ?fmul2, ?ffma2, ?fdot2, ?fdot4⟩
  all_goals refine computes_of_issue (fun _ _ => rfl) fun f e s _ => ?_
  case fadd2 | fmul2 | ffma2 => simp only [perElement_eq]
  case fdot2 | fdot4 =>
    dsimp only
    split
    case isTrue h =>
      rw [fdot_of_num h]
      refine ⟨fun hc => ?_, fun hc => ?_⟩
      · rw [if_pos hc, satFloat_of_not_isInf (isInf_quiet (by decide) _)]
      · rw [if_neg (Bool.eq_false_iff.mp hc)]
        rfl
    case isFalse =>
      refine ⟨fun i hi h hj => ?_, fun i hi h ha hj => ?_⟩
      · rw [fdot_of_nan_left hi h hj, satFloat_of_not_isInf (isInf_nanConvert (by decide) _)]
      · rw [fdot_of_nan_right hi h ha hj, satFloat_of_not_isInf (isInf_nanConvert (by decide) _)]

end Sys2Proof
end

section
/-!
ROUNDING ONCE (01 R22, R25, R26). `roundMag` picks the exponent of the last place, rounds the magnitude to an integer there
(`roundsToInteger_roundShift`), and the pattern of that integer is the number that the mode names (`Rounded.roundsFrac`).
Beyond the largest number the mode alone decides (`roundsFrac_overflow`).
-/
namespace Sys2Proof
open Machine

/-! ## A magnitude as a fraction of the smallest subnormal -/

/-- `k` is the pattern of `x / one` units rounded once in the mode. -/
def RoundsFrac (f : Fmt) (mode : Nat) (neg : Bool) (x one k : Nat) : Prop :=
  if mode = 0 then NearestEven f k (fun n => n * one ≤ 2 * x) (fun n => 2 * x ≤ n * one)
  else if mode = (if neg then 3 else 2) then
    k ≠ 0 ∧ k ≤ f.infBits ∧ unitsOf f (k - 1) * one < x ∧ (k < f.infBits → x ≤ unitsOf f k * one)
  else k < f.infBits ∧ unitsOf f k * one ≤ x ∧ (k + 1 < f.infBits → x < unitsOf f (k + 1) * one)

theorem roundsTo_iff (f : Fmt) (mode : Nat) (neg : Bool) (m : Nat) (e : Int) (b : Nat) :
    RoundsTo f mode neg m e b ↔ ∃ k, b = f.withSign neg k
      ∧ RoundsFrac f mode neg (shiftTo m e (min e f.qmin)) (2 ^ (f.qmin - min e f.qmin).toNat) k := Iff.rfl

theorem roundsFrac_mul (f : Fmt) (mode : Nat) (neg : Bool) (x one k : Nat) {c : Nat} (hc : 0 < c) :
    RoundsFrac f mode neg (x * c) (one * c) k ↔ RoundsFrac f mode neg x one k := by
  simp only [RoundsFrac, ← Nat.mul_assoc, Nat.mul_le_mul_right_iff hc, Nat.mul_lt_mul_right hc]

theorem two_pow_sub_mul {e t u : Int} (h : t ≤ e) (h' : u ≤ t) :
    2 ^ (e - t).toNat * 2 ^ (t - u).toNat = 2 ^ (e - u).toNat := by
  rw [← Nat.pow_add]
  congr 1
  omega

theorem shiftTo_shiftTo {e t u : Int} (m : Nat) (h : t ≤ e) (h' : u ≤ t) : shiftTo (shiftTo m e t) t u = shiftTo m e u := by
  rw [shiftTo, shiftTo, shiftTo, Nat.mul_assoc, two_pow_sub_mul h h']

/-- The same magnitude, written with a smaller exponent, rounds to the same. -/
theorem roundsTo_shiftTo {f : Fmt} {mode : Nat} {neg : Bool} {m b : Nat} {e t : Int} (h : t ≤ e) :
    RoundsTo f mode neg (shiftTo m e t) t b ↔ RoundsTo f mode neg m e b := by
  have hmin : min t f.qmin ≤ min e f.qmin := by omega
  rw [roundsTo_iff, roundsTo_iff, shiftTo_shiftTo m h (Int.min_le_left _ _), ← shiftTo_shiftTo m (Int.min_le_left e f.qmin) hmin,
    ← two_pow_sub_mul (Int.min_le_right e f.qmin) hmin, shiftTo.eq_def (shiftTo _ _ _)]
  simp only [roundsFrac_mul _ _ _ _ _ _ (Nat.two_pow_pos _)]

/-! ## Rounding to an integer (01 R25) -/

theorem roundsToInteger_mul {mode : Nat} {neg : Bool} {m one q c : Nat} (hc : 0 < c) (h : RoundsToInteger mode neg m one q) :
    RoundsToInteger mode neg (m * c) (one * c) q := by
  unfold RoundsToInteger at h ⊢
  have h2 (x : Nat) : 2 * (x * c) = 2 * x * c := (Nat.mul_assoc _ _ _).symm
  simpa only [← Nat.mul_assoc, h2, ← Nat.add_mul, Nat.mul_le_mul_right_iff hc, Nat.mul_lt_mul_right hc,
    Nat.mul_left_inj (Nat.pos_iff_ne_zero.mp hc)] using h

theorem roundsToInteger_exact (mode : Nat) (neg : Bool) (m : Nat) {one : Nat} (h : 0 < one) :
    RoundsToInteger mode neg (m * one) one m := by
  unfold RoundsToInteger
  generalize (if neg then 3 else 2) = away
  split
  · omega
  · split <;> omega

theorem mode_cases {mode : Nat} (hm : mode ≤ 3) : mode = 0 ∨ mode = 1 ∨ mode = 2 ∨ mode = 3 := by omega

/-- Whether a magnitude is rounded up, by the three directions that a mode can have for its sign. -/
theorem roundsUp_eq {mode : Nat} (hm : mode ≤ 3) (neg odd half rest : Bool) :
    roundsUp mode neg odd half rest = if mode = 0 then half && (rest || odd)
      else if mode = (if neg then 3 else 2) then half || rest else false := by
  rcases mode_cases hm with rfl | rfl | rfl | rfl <;> cases neg <;> rfl

/-- The same by the part `r` below the last place, whose half is `p`: `half` is its first bit and `l` the rest. -/
theorem roundsUp_iff {mode p l r : Nat} (hm : mode ≤ 3) (neg half : Bool) (a : Nat) (hl : l < p) (hr : r = boolNat half * p + l) :
    roundsUp mode neg (a % 2 == 1) half (l != 0) = true ↔
      if mode = 0 then p ≤ r ∧ (r ≠ p ∨ a % 2 = 1) else if mode = (if neg then 3 else 2) then r ≠ 0 else False := by
  have hhalf : half = true ↔ p ≤ r := by cases half <;> simp [boolNat] at hr ⊢ <;> omega
  have hrest : l ≠ 0 ↔ r ≠ 0 ∧ r ≠ p := by cases half <;> simp [boolNat] at hr ⊢ <;> omega
  rw [roundsUp_eq hm]
  generalize (if neg then 3 else 2) = away
  by_cases h0 : mode = 0
  · rw [if_pos h0, if_pos h0]
    simp only [Bool.and_eq_true, Bool.or_eq_true, bne_iff_ne, beq_iff_eq, hhalf, hrest]
    omega
  · rw [if_neg h0, if_neg h0]
    by_cases h1 : mode = away
    · rw [if_pos h1, if_pos h1]
      simp only [Bool.or_eq_true, bne_iff_ne, hhalf, hrest]
      omega
    · rw [if_neg h1, if_neg h1]
      exact iff_of_false Bool.false_ne_true id

/-- A magnitude of `a` whole units of `2 * p` and the part `r` below. -/
theorem roundsToInteger_parts {mode p l r : Nat} (hm : mode ≤ 3) (neg half : Bool) (a : Nat) (hl : l < p)
    (hr : r = boolNat half * p + l) :
    RoundsToInteger mode neg (a * (2 * p) + r) (2 * p) (a + boolNat (roundsUp mode neg (a % 2 == 1) half (l != 0))) := by
  have hup := roundsUp_iff hm neg half a hl hr
  have hlt : r < 2 * p := by cases half <;> simp [boolNat] at hr <;> omega
  have hnext : (a + 1) * (2 * p) = a * (2 * p) + 2 * p := Nat.succ_mul _ _
  unfold RoundsToInteger
  generalize roundsUp mode neg (a % 2 == 1) half (l != 0) = up at hup ⊢
  generalize (if neg then 3 else 2) = away at hup ⊢
  cases up with
  | false =>
    rw [boolNat, if_neg Bool.false_ne_true, Nat.add_zero]
    grind
  | true =>
    rw [boolNat, if_pos rfl]
    grind

theorem boolNat_testBit (m j : Nat) : boolNat (m.testBit j) = m / 2 ^ j % 2 := by
  rw [Nat.testBit_eq_decide_div_mod_eq]
  obtain h | h := Nat.mod_two_eq_zero_or_one (m / 2 ^ j) <;> simp [boolNat, h]

theorem roundsToInteger_roundShift {mode : Nat} (hm : mode ≤ 3) (neg : Bool) (m k : Nat) :
    RoundsToInteger mode neg m (2 ^ k) (roundShift mode neg m k false) := by
  cases k with
  | zero => simpa [roundShift] using roundsToInteger_exact mode neg m Nat.one_pos
  | succ j =>
    have hsum : m = m >>> (j + 1) * (2 * 2 ^ j) + (boolNat (m.testBit j) * 2 ^ j + m % 2 ^ j) :=
      calc m = 2 ^ j * (2 * (m / 2 ^ j / 2) + m / 2 ^ j % 2) + m % 2 ^ j := by rw [Nat.div_add_mod, Nat.div_add_mod]
        _ = m >>> (j + 1) * (2 * 2 ^ j) + (boolNat (m.testBit j) * 2 ^ j + m % 2 ^ j) := by
          rw [boolNat_testBit, Nat.shiftRight_eq_div_pow, Nat.pow_succ, ← Nat.div_div_eq_div_mul]
          grind
    have h := roundsToInteger_parts hm neg (m.testBit j) (m >>> (j + 1)) (Nat.mod_lt m (Nat.two_pow_pos j)) rfl
    rw [← hsum, ← Nat.pow_succ'] at h
    simpa only [roundShift, Nat.add_eq_zero_iff, Nat.one_ne_zero, and_false, if_false, Nat.add_sub_cancel, Bool.or_false] using h

/-! ## The pattern of an integer at a place -/

section
variable {f : Fmt} {d r : Nat}

theorem unitsOf_lt_unitsOf {j k : Nat} (h : j < k) (hk : k ≤ f.infBits) : unitsOf f j < unitsOf f k := by
  have htop := signBit_eq_infBits_add f
  have hp : 0 < 2 ^ f.fbits := Nat.two_pow_pos _
  refine unitsOf_lt_of_mag_lt ?_
  rwa [Fmt.mag, Fmt.mag, Nat.mod_eq_of_lt (by omega), Nat.mod_eq_of_lt (by omega)]

/-- `r` units of place `d`: the patterns of a place follow those of the places below. -/
theorem unitsOf_place (hr : d = 0 ∨ 2 ^ f.fbits ≤ r) (hlt : r < 2 ^ (f.fbits + 1)) (hk : d * 2 ^ f.fbits + r < f.signBit) :
    unitsOf f (d * 2 ^ f.fbits + r) = r * 2 ^ d := by
  have hp : 0 < 2 ^ f.fbits := Nat.two_pow_pos _
  rw [unitsOf_eq, expo_eq_mag_div, frac_eq_mag_mod, Fmt.mag, Nat.mod_eq_of_lt hk, Nat.mul_comm d, Nat.mul_add_div hp,
    Nat.mul_add_mod]
  rw [Nat.pow_succ] at hlt
  obtain hr' | hr' := Nat.lt_or_ge r (2 ^ f.fbits)
  · have h0 : d = 0 := by omega
    simp [h0, Nat.div_eq_of_lt hr', Nat.mod_eq_of_lt hr']
  · have h1 : r / 2 ^ f.fbits = 1 := Nat.div_eq_of_lt_le (by omega) (by omega)
    have hmod : 2 ^ f.fbits + r % 2 ^ f.fbits = r := by
      rw [Nat.mod_eq_sub_mod hr', Nat.mod_eq_of_lt (by omega)]
      omega
    rw [h1, if_neg (by omega), hmod, Nat.add_sub_cancel]

/-- The same for the integer that is the first of the next place. -/
theorem unitsOf_place_le (hr : d = 0 ∨ 2 ^ f.fbits ≤ r) (hle : r ≤ 2 ^ (f.fbits + 1)) (hk : d * 2 ^ f.fbits + r < f.signBit) :
    unitsOf f (d * 2 ^ f.fbits + r) = r * 2 ^ d := by
  obtain hlt | rfl := Nat.lt_or_eq_of_le hle
  · exact unitsOf_place hr hlt hk
  · have hnext : d * 2 ^ f.fbits + 2 ^ (f.fbits + 1) = (d + 1) * 2 ^ f.fbits + 2 ^ f.fbits := by grind
    rw [hnext] at hk ⊢
    rw [unitsOf_place (.inr (Nat.le_refl _)) (Nat.pow_lt_pow_right (by decide) (Nat.lt_succ_self _)) hk]
    grind

theorem unitsOf_place_succ (hr : d = 0 ∨ 2 ^ f.fbits ≤ r) (hle : r ≤ 2 ^ (f.fbits + 1))
    (hk : d * 2 ^ f.fbits + r + 1 < f.signBit) : (r + 1) * 2 ^ d ≤ unitsOf f (d * 2 ^ f.fbits + r + 1) := by
  obtain hlt | rfl := Nat.lt_or_eq_of_le hle
  · rw [Nat.add_assoc] at hk ⊢
    exact Nat.le_of_eq (unitsOf_place_le (by omega) hlt hk).symm
  · have hnext : d * 2 ^ f.fbits + 2 ^ (f.fbits + 1) + 1 = (d + 1) * 2 ^ f.fbits + (2 ^ f.fbits + 1) := by grind
    rw [hnext] at hk ⊢
    have hp : 1 ≤ 2 ^ f.fbits := Nat.one_le_two_pow
    rw [unitsOf_place_le (.inr (by omega)) (by rw [Nat.pow_succ]; omega) hk, Nat.pow_succ, Nat.pow_succ, ← Nat.mul_assoc,
      Nat.mul_right_comm]
    exact Nat.mul_le_mul_right _ (by omega)

end

/-! ## Magnitudes that a format can hold -/

/-- Rounding moves a magnitude by less than one unit of the last place. -/
theorem roundsToInteger_near {mode : Nat} {neg : Bool} {m one q : Nat} (ho : 0 < one) (h : RoundsToInteger mode neg m one q) :
    q * one < m + one ∧ m < q * one + one := by
  unfold RoundsToInteger at h
  generalize (if neg then 3 else 2) = away at h
  split at h
  · omega
  · split at h <;> omega

theorem even_two_pow {n : Nat} (h : 0 < n) : 2 ^ n % 2 = 0 := by
  obtain ⟨j, rfl⟩ := Nat.exists_eq_succ_of_ne_zero (Nat.pos_iff_ne_zero.mp h)
  rw [Nat.pow_succ, Nat.mul_mod_left]

/-- The place of a magnitude and the integer to which it rounds there, in a format with `one` to the unit. -/
structure Rounded (f : Fmt) (mode : Nat) (neg : Bool) (x one d r : Nat) : Prop where
  unit  : 0 < one
  near  : RoundsToInteger mode neg x (one * 2 ^ d) r
  least : d = 0 ∨ 2 ^ f.fbits * (one * 2 ^ d) ≤ x
  most  : x < 2 ^ (f.fbits + 1) * (one * 2 ^ d)

namespace Rounded

variable {f : Fmt} {mode : Nat} {neg : Bool} {x one d r : Nat} (h : Rounded f mode neg x one d r)
include h

theorem place_pos : 0 < one * 2 ^ d := Nat.mul_pos h.unit (Nat.two_pow_pos d)

theorem le_integer : d = 0 ∨ 2 ^ f.fbits ≤ r :=
  h.least.imp_right fun hx => Nat.le_of_lt_succ <| Nat.lt_of_mul_lt_mul_right (a := one * 2 ^ d) <| by
    have hn := (roundsToInteger_near h.place_pos h.near).2
    rw [Nat.succ_mul]
    omega

theorem integer_le : r ≤ 2 ^ (f.fbits + 1) :=
  Nat.le_of_lt_succ <| Nat.lt_of_mul_lt_mul_right (a := one * 2 ^ d) <| by
    have hn := (roundsToInteger_near h.place_pos h.near).1
    have hx := h.most
    rw [Nat.succ_mul]
    omega

theorem pattern_le (hd : d + 2 ≤ f.expAll) : d * 2 ^ f.fbits + r ≤ f.infBits := by
  have hm := Nat.mul_le_mul_right (2 ^ f.fbits) hd
  have hr := h.integer_le
  rw [Nat.add_mul] at hm
  rw [Nat.pow_succ] at hr
  rw [Fmt.infBits]
  omega

/-- Only rounding up reaches the infinity. -/
theorem pattern_lt (hd : d + 2 ≤ f.expAll) (hr : r * (one * 2 ^ d) ≤ x) : d * 2 ^ f.fbits + r < f.infBits := by
  have hm := Nat.mul_le_mul_right (2 ^ f.fbits) hd
  have hr : r < 2 ^ (f.fbits + 1) := Nat.lt_of_mul_lt_mul_right (Nat.lt_of_le_of_lt hr h.most)
  rw [Nat.add_mul] at hm
  rw [Nat.pow_succ] at hr
  rw [Fmt.infBits]
  omega

theorem unitsOf_pattern (hd : d + 2 ≤ f.expAll) : unitsOf f (d * 2 ^ f.fbits + r) * one = r * (one * 2 ^ d) := by
  have hk := h.pattern_le hd
  have htop := signBit_eq_infBits_add f
  have hp : 0 < 2 ^ f.fbits := Nat.two_pow_pos _
  rw [unitsOf_place_le h.le_integer h.integer_le (by omega)]
  grind

theorem unitsOf_succ (hk : d * 2 ^ f.fbits + r < f.infBits) :
    r * (one * 2 ^ d) + one * 2 ^ d ≤ unitsOf f (d * 2 ^ f.fbits + r + 1) * one := by
  have htop := signBit_eq_infBits_add f
  have hp : 0 < 2 ^ f.fbits := Nat.two_pow_pos _
  have hnext := Nat.mul_le_mul_right one (unitsOf_place_succ h.le_integer h.integer_le (by omega))
  calc r * (one * 2 ^ d) + one * 2 ^ d = (r + 1) * 2 ^ d * one := by grind
    _ ≤ _ := hnext

/-- The pattern before is a unit of the place lower; at a power of two half a one, and then the magnitude is not below it. -/
theorem unitsOf_pred (hf : 0 < f.fbits) (hd : d + 2 ≤ f.expAll) (hk : d * 2 ^ f.fbits + r ≠ 0) :
    unitsOf f (d * 2 ^ f.fbits + r - 1) * one + one * 2 ^ d ≤ r * (one * 2 ^ d)
    ∨ (r % 2 = 0 ∧ r * (one * 2 ^ d) ≤ x ∧ unitsOf f (d * 2 ^ f.fbits + r - 1) * one < r * (one * 2 ^ d)) := by
  have hle := h.pattern_le hd
  have htop := signBit_eq_infBits_add f
  have hp : 0 < 2 ^ f.fbits := Nat.two_pow_pos _
  have hr1 : 1 ≤ r := by
    rcases h.le_integer with rfl | hr <;> omega
  by_cases hr : d = 0 ∨ 2 ^ f.fbits ≤ r - 1
  · refine .inl (Nat.le_of_eq ?_)
    rw [Nat.add_sub_assoc hr1, unitsOf_place_le hr (Nat.le_trans (Nat.sub_le _ _) h.integer_le) (by omega)]
    obtain ⟨q, rfl⟩ := Nat.exists_eq_add_of_le' hr1
    rw [Nat.add_sub_cancel]
    grind
  · have hr2 : r = 2 ^ f.fbits := by
      have := h.le_integer
      omega
    refine .inr ⟨hr2 ▸ even_two_pow hf, ?_, ?_⟩
    · rw [hr2]
      exact h.least.resolve_left (by omega)
    · rw [← h.unitsOf_pattern hd]
      exact Nat.mul_lt_mul_of_pos_right (unitsOf_lt_unitsOf (by omega) hle) h.unit

/-- Below the infinity the pattern of that integer is the number that the mode names. -/
theorem roundsFrac (hf : 0 < f.fbits) (hx : 0 < x) (hd : d + 2 ≤ f.expAll) :
    RoundsFrac f mode neg x one (d * 2 ^ f.fbits + r) := by
  have hpos := h.place_pos
  have hle := h.pattern_le hd
  have hat := h.unitsOf_pattern hd
  have hsucc := h.unitsOf_succ
  have hpred := h.unitsOf_pred hf hd
  have hto := h.near
  have hlt := h.pattern_lt hd
  have hodd : (d * 2 ^ f.fbits + r) % 2 = r % 2 := by
    rw [Nat.add_mod, Nat.mul_mod, even_two_pow hf, Nat.mul_zero]
    simp
  unfold RoundsToInteger at hto
  unfold RoundsFrac
  generalize hk : d * 2 ^ f.fbits + r = k at *
  generalize one * 2 ^ d = u at *
  have hzero : k = 0 → r * u = 0 := fun h0 => by rw [show r = 0 by omega, Nat.zero_mul]
  generalize (if neg then 3 else 2) = away at *
  by_cases h0 : mode = 0
  · rw [if_pos h0] at hto ⊢
    simp only [NearestEven, Nat.add_mul]
    refine ⟨hle, ?_, ?_, ?_⟩ <;> omega
  · rw [if_neg h0] at hto ⊢
    by_cases h1 : mode = away
    · rw [if_pos h1] at hto ⊢
      refine ⟨?_, hle, ?_, ?_⟩ <;> omega
    · rw [if_neg h1] at hto ⊢
      refine ⟨?_, ?_, ?_⟩ <;> omega

end Rounded

/-! ## Magnitudes from the infinity on (01 R26) -/

/-- The magnitude that stands for one beyond the largest number. -/
def overflowMag (f : Fmt) (mode : Nat) (neg : Bool) : Nat :=
  if mode = 0 ∨ mode = (if neg then 3 else 2) then f.infBits else f.infBits - 1

theorem overflowBits_eq {mode : Nat} (hm : mode ≤ 3) (f : Fmt) (neg : Bool) :
    overflowBits f mode neg = f.withSign neg (overflowMag f mode neg) := by
  rcases mode_cases hm with rfl | rfl | rfl | rfl <;> cases neg <;> rfl

section
variable {f : Fmt} {mode x one : Nat} {neg : Bool}

theorem expAll_pos (he : 0 < f.ebits) : 0 < f.expAll :=
  Nat.sub_pos_of_lt (Nat.one_lt_two_pow (Nat.pos_iff_ne_zero.mp he))

theorem infBits_pos (he : 0 < f.ebits) : 0 < f.infBits := Nat.mul_pos (expAll_pos he) (Nat.two_pow_pos _)

theorem infBits_even (hf : 0 < f.fbits) : f.infBits % 2 = 0 := by
  rw [Fmt.infBits, Nat.mul_mod, even_two_pow hf, Nat.mul_zero, Nat.zero_mod]

theorem unitsOf_infBits (he : 0 < f.ebits) : unitsOf f f.infBits = 2 ^ f.fbits * 2 ^ (f.expAll - 1) := by
  have htop := signBit_eq_infBits_add f
  have hp : 0 < 2 ^ f.fbits := Nat.two_pow_pos _
  have hinf : f.infBits = (f.expAll - 1) * 2 ^ f.fbits + 2 ^ f.fbits := by
    rw [← Nat.succ_mul, Nat.succ_eq_add_one, Nat.sub_add_cancel (expAll_pos he), Fmt.infBits]
  rw [hinf] at htop ⊢
  exact unitsOf_place (.inr (Nat.le_refl _)) (Nat.pow_lt_pow_right (by decide) (Nat.lt_succ_self _)) (by omega)

theorem roundsFrac_overflow (hf : 0 < f.fbits) (he : 0 < f.ebits) (ho : 0 < one) (hx : unitsOf f f.infBits * one ≤ x) :
    RoundsFrac f mode neg x one (overflowMag f mode neg) := by
  have hinf := infBits_pos he
  have heven := infBits_even hf
  have hpred : unitsOf f (f.infBits - 1) * one < unitsOf f f.infBits * one :=
    Nat.mul_lt_mul_of_pos_right (unitsOf_lt_unitsOf (by omega) (Nat.le_refl _)) ho
  unfold RoundsFrac overflowMag
  generalize (if neg then 3 else 2) = away
  by_cases h0 : mode = 0
  · rw [if_pos h0, if_pos (.inl h0)]
    simp only [NearestEven, Nat.add_mul]
    refine ⟨?_, ?_, ?_, ?_⟩ <;> omega
  · by_cases h1 : mode = away
    · rw [if_neg h0, if_pos h1, if_pos (.inr h1)]
      refine ⟨?_, ?_, ?_, ?_⟩ <;> omega
    · rw [if_neg h0, if_neg h1, if_neg (not_or.mpr ⟨h0, h1⟩)]
      refine ⟨?_, ?_, ?_⟩ <;> omega

/-- A magnitude that rounds to the infinity does so in a mode that overflows to it. -/
theorem overflowMag_of_roundsFrac (h : RoundsFrac f mode neg x one f.infBits) : overflowMag f mode neg = f.infBits := by
  unfold RoundsFrac at h
  unfold overflowMag
  generalize (if neg then 3 else 2) = away at h ⊢
  by_cases h0 : mode = 0
  · exact if_pos (.inl h0)
  · rw [if_neg h0] at h
    by_cases h1 : mode = away
    · exact if_pos (.inr h1)
    · rw [if_neg h1] at h
      exact absurd h.1 (Nat.lt_irrefl _)

end

/-! ## One rounding (01 R25, R26) -/

/-- The exponent of the last place to which a magnitude is rounded. -/
def lastPlace (f : Fmt) (m : Nat) (e : Int) : Int := max (e + (Nat.log2 m : Nat) - (f.fbits : Nat)) f.qmin

/-- A magnitude rounded to an integer at its last place. -/
def lastInt (f : Fmt) (mode : Nat) (neg : Bool) (m : Nat) (e : Int) : Nat :=
  if lastPlace f m e ≤ e then m * 2 ^ (e - lastPlace f m e).toNat else roundShift mode neg m (lastPlace f m e - e).toNat false

section
variable {f : Fmt} {mode m : Nat} {neg : Bool} {e : Int}

theorem roundMag_eq (hm : m ≠ 0) : roundMag f mode neg m e =
    let k := (lastPlace f m e - f.qmin).toNat * 2 ^ f.fbits + lastInt f mode neg m e
    if f.infBits ≤ k then overflowBits f mode neg else f.withSign neg k := by
  have hq : (if e + (Nat.log2 m : Nat) - (f.fbits : Nat) < f.qmin then f.qmin else e + (Nat.log2 m : Nat) - (f.fbits : Nat))
      = lastPlace f m e := by
    rw [lastPlace]
    split <;> omega
  rw [roundMag, if_neg hm]
  simp only [hq]
  rfl

theorem rounded_lastInt (hmode : mode ≤ 3) (hm : m ≠ 0) :
    Rounded f mode neg (shiftTo m e (min e f.qmin)) (2 ^ (f.qmin - min e f.qmin).toNat) (lastPlace f m e - f.qmin).toNat
      (lastInt f mode neg m e) := by
  have hlow : 2 ^ Nat.log2 m ≤ m := Nat.log2_self_le hm
  have hhigh : m < 2 ^ (Nat.log2 m + 1) := Nat.lt_log2_self
  have hq : f.qmin ≤ lastPlace f m e := Int.le_max_right _ _
  have hone : 2 ^ (f.qmin - min e f.qmin).toNat * 2 ^ (lastPlace f m e - f.qmin).toNat
      = 2 ^ (lastPlace f m e - min e f.qmin).toNat := by
    rw [Nat.mul_comm, two_pow_sub_mul hq (Int.min_le_right _ _)]
  refine ⟨Nat.two_pow_pos _, ?_, ?_, ?_⟩
  · rw [hone, lastInt]
    split
    · have hexact : shiftTo m e (min e f.qmin)
          = m * 2 ^ (e - lastPlace f m e).toNat * 2 ^ (lastPlace f m e - min e f.qmin).toNat :=
        (shiftTo_shiftTo m ‹_› (by omega)).symm
      rw [hexact]
      exact roundsToInteger_exact _ _ _ (Nat.two_pow_pos _)
    · rw [← two_pow_sub_mul (show e ≤ lastPlace f m e by omega) (Int.min_le_left e f.qmin)]
      exact roundsToInteger_mul (Nat.two_pow_pos _) (roundsToInteger_roundShift hmode neg m _)
  · rw [hone, shiftTo, ← Nat.pow_add]
    rw [lastPlace] at hq ⊢
    by_cases htop : e + (Nat.log2 m : Nat) - (f.fbits : Nat) ≤ f.qmin
    · exact .inl (by omega)
    · refine .inr (Nat.le_trans ?_ (Nat.mul_le_mul_right _ hlow))
      rw [← Nat.pow_add]
      exact Nat.pow_le_pow_right (by decide) (by omega)
  · rw [hone, shiftTo, ← Nat.pow_add]
    refine Nat.lt_of_lt_of_le (Nat.mul_lt_mul_of_pos_right hhigh (Nat.two_pow_pos _)) ?_
    rw [← Nat.pow_add]
    refine Nat.pow_le_pow_right (by decide) ?_
    rw [lastPlace]
    omega

theorem roundsTo_roundMag (hf : 0 < f.fbits) (he : 1 < f.ebits) (hmode : mode ≤ 3) (hm : m ≠ 0) :
    RoundsTo f mode neg m e (roundMag f mode neg m e) := by
  have h := rounded_lastInt (f := f) (neg := neg) (e := e) hmode hm
  have hx : 0 < shiftTo m e (min e f.qmin) := Nat.mul_pos (Nat.pos_iff_ne_zero.mpr hm) (Nat.two_pow_pos _)
  have hexp : 2 ≤ f.expAll := by
    have := Nat.pow_le_pow_right (n := 2) (by decide) he
    rw [Fmt.expAll]
    omega
  rw [roundsTo_iff, roundMag_eq hm, overflowBits_eq hmode]
  generalize (lastPlace f m e - f.qmin).toNat = d at *
  generalize lastInt f mode neg m e = r at *
  by_cases hd : d + 2 ≤ f.expAll
  · have hfrac := h.roundsFrac hf hx hd
    refine ⟨_, ?_, hfrac⟩
    dsimp only
    split
    · have hk : d * 2 ^ f.fbits + r = f.infBits := Nat.le_antisymm (h.pattern_le hd) ‹_›
      rw [hk] at hfrac ⊢
      rw [overflowMag_of_roundsFrac hfrac]
    · rfl
  · have hr : 2 ^ f.fbits ≤ r := h.le_integer.resolve_left (by omega)
    have hk : f.infBits ≤ d * 2 ^ f.fbits + r := by
      have := Nat.mul_le_mul_right (2 ^ f.fbits) (show f.expAll ≤ d + 1 by omega)
      rw [Nat.succ_mul] at this
      rw [Fmt.infBits]
      omega
    refine ⟨_, if_pos hk, roundsFrac_overflow hf (by omega) h.unit (Nat.le_trans ?_ (h.least.resolve_left (by omega)))⟩
    rw [unitsOf_infBits (by omega), Nat.mul_assoc, Nat.mul_comm _ (2 ^ d)]
    exact Nat.mul_le_mul_left _ (Nat.mul_le_mul_right _ (Nat.pow_le_pow_right (by decide) (by omega)))

end

end Sys2Proof
end

section
/-!
SUMS, PRODUCTS AND SCALES (01 R25, R26, R28, R30; 11 R230, R237): O13. Of numbers the exact result is an integer in units of the smallest
subnormal or of its square, and `roundsTo_roundMag` rounds it once.
-/
namespace Sys2Proof
open Machine

/-! ## What an operand can be -/

section
variable {f : Fmt} {a b c : Nat}

theorem isInf_iff : f.isInf a = true ↔ f.mag a = f.infBits := beq_iff_eq

theorem isZero_iff : f.isZero a = true ↔ f.mag a = 0 := beq_iff_eq

theorem isNan_of_isInf (h : f.isInf a = true) : f.isNan a = false :=
  isNan_eq_false_of_num (Nat.le_of_eq (isInf_iff.mp h))

theorem isInf_of_finite (h : f.mag a < f.infBits) : f.isInf a = false := by
  rw [Bool.eq_false_iff, ne_eq, isInf_iff]
  omega

theorem isNan_of_finite (h : f.mag a < f.infBits) : f.isNan a = false := isNan_eq_false_of_num (Nat.le_of_lt h)

theorem isZero_of_isInf (he : 0 < f.ebits) (h : f.isInf a = true) : f.isZero a = false := by
  have hinf := infBits_pos he
  rw [Bool.eq_false_iff, ne_eq, isZero_iff, isInf_iff.mp h]
  omega

theorem finite_of_isZero (he : 0 < f.ebits) (h : f.isZero a = true) : f.mag a < f.infBits := by
  rw [isZero_iff.mp h]
  exact infBits_pos he

theorem mag_negate (f : Fmt) (b : Nat) : f.mag (f.negate b) = f.mag b := by
  have h := mag_lt_signBit f b
  rw [Fmt.negate, Fmt.withSign]
  split
  · rw [Fmt.mag, Nat.add_mod_left, Nat.mod_eq_of_lt h]
  · rw [Fmt.mag, Nat.mod_eq_of_lt h]

end

/-! ## Exact values (01 R22) -/

section
variable {f : Fmt} {mode m : Nat} {neg : Bool} {e : Int} {a b c : Nat} {t u : Int}

theorem qmin_le_finite_snd (f : Fmt) (b : Nat) : f.qmin ≤ (f.finite b).2 := by
  rw [Fmt.finite]
  split
  · exact Int.le_refl _
  · simp only
    omega

theorem shiftTo_eq_zero_iff : shiftTo m e t = 0 ↔ m = 0 :=
  Nat.mul_eq_zero.trans (or_iff_left (Nat.ne_of_gt (Nat.two_pow_pos _)))

theorem natCast_shiftTo (m : Nat) (e t : Int) : (shiftTo m e t : Int) = m * 2 ^ (e - t).toNat := by
  rw [shiftTo, Int.natCast_mul, Int.natCast_pow]
  rfl

theorem shiftTo_mul_shiftTo {d : Int} (m n : Nat) (ht : t ≤ e) (hu : u ≤ d) :
    shiftTo m e t * shiftTo n d u = shiftTo (m * n) (e + d) (t + u) := by
  have hexp : (e + d - (t + u)).toNat = (e - t).toNat + (d - u).toNat := by omega
  rw [shiftTo, shiftTo, shiftTo, hexp, Nat.pow_add]
  exact Nat.mul_mul_mul_comm _ _ _ _

theorem unitsOf_eq_shiftTo (f : Fmt) (b : Nat) : unitsOf f b = shiftTo (f.finite b).1 (f.finite b).2 f.qmin := rfl

theorem unitsOf_mag (f : Fmt) (b : Nat) : unitsOf f (f.mag b) = unitsOf f b := unitsOf_congr (Nat.mod_mod _ _)

/-- A value in smaller units. -/
theorem signedAt_eq_mul (h : t ≤ (f.finite b).2) (hu : u ≤ t) : f.signedAt b u = f.signedAt b t * 2 ^ (t - u).toNat := by
  have hs := shiftTo_shiftTo (f.finite b).1 h hu
  simp only [Fmt.signedAt]
  rw [← hs, natCast_shiftTo]
  split
  · exact (Int.neg_mul _ _).symm
  · rfl

/-- A product of numbers, in the square of the smallest subnormal. -/
theorem signedAt_mul_signedAt (f : Fmt) (a b : Nat) : f.signedAt a f.qmin * f.signedAt b f.qmin =
    let p := shiftTo ((f.finite a).1 * (f.finite b).1) ((f.finite a).2 + (f.finite b).2) (2 * f.qmin)
    if f.sign a != f.sign b then -(p : Int) else (p : Int) := by
  rw [Int.two_mul, ← shiftTo_mul_shiftTo _ _ (qmin_le_finite_snd f a) (qmin_le_finite_snd f b), signedAt_qmin, signedAt_qmin,
    ← unitsOf_eq_shiftTo, ← unitsOf_eq_shiftTo]
  simp only [Int.natCast_mul]
  cases f.sign a <;> cases f.sign b
  case false.false => rfl
  case false.true => exact Int.mul_neg _ _
  case true.false => exact Int.neg_mul _ _
  case true.true => exact Int.neg_mul_neg _ _

/-! ## Exact results rounded -/

theorem roundMag_zero (f : Fmt) (mode : Nat) (neg : Bool) (e : Int) : roundMag f mode neg 0 e = f.withSign neg 0 := if_pos rfl

variable (hf : 0 < f.fbits) (he : 1 < f.ebits) (hmode : mode ≤ 3)
include hf he hmode

/-- A signed value, in units of `2 ^ u` the integer `S`, is rounded once; an exact zero has the sign given. -/
theorem roundInt_spec {v S : Int} {z : Bool} (hu : u ≤ e) (hS : S = v * 2 ^ (e - u).toNat) :
    (S ≠ 0 → RoundsTo f mode (decide (S < 0)) S.natAbs u (roundInt f mode v e z))
    ∧ (S = 0 → roundInt f mode v e z = f.withSign z 0) := by
  have hpow : (0 : Int) < 2 ^ (e - u).toNat := Int.pow_pos (by decide)
  have hzero : S = 0 ↔ v = 0 := by
    rw [hS, Int.mul_eq_zero]
    exact or_iff_left (Int.ne_of_gt hpow)
  refine ⟨fun h => ?_, fun h => if_pos (hzero.mp h)⟩
  have hv : v ≠ 0 := mt hzero.mpr h
  have hneg : decide (S < 0) = decide (v < 0) := by
    rw [decide_eq_decide, hS]
    exact ⟨fun h => Int.not_le.mp fun h0 => Int.not_le.mpr h (Int.mul_nonneg h0 (Int.le_of_lt hpow)),
      fun h => Int.mul_neg_of_neg_of_pos h hpow⟩
  have habs : S.natAbs = shiftTo v.natAbs e u := by
    rw [hS, Int.natAbs_mul, Int.natAbs_pow]
    rfl
  rw [hneg, habs, roundsTo_shiftTo hu, roundInt, if_neg hv]
  exact roundsTo_roundMag hf he hmode (Int.natAbs_ne_zero.mpr hv)

theorem addNum_finite {g : NanTag} (ha : f.mag a < f.infBits) (hb : f.mag b < f.infBits) :
    let S := f.signedAt a f.qmin + f.signedAt b f.qmin
    (S ≠ 0 → RoundsTo f mode (decide (S < 0)) S.natAbs f.qmin (addNum f mode g a b))
    ∧ (S = 0 → addNum f mode g a b = f.withSign (if f.sign a = f.sign b then f.sign a else decide (mode = 3)) 0) := by
  intro S
  have hqa := qmin_le_finite_snd f a
  have hqb := qmin_le_finite_snd f b
  have hS : S = (f.signedAt a (min (f.finite a).2 (f.finite b).2) + f.signedAt b (min (f.finite a).2 (f.finite b).2))
      * 2 ^ (min (f.finite a).2 (f.finite b).2 - f.qmin).toNat := by
    rw [Int.add_mul, ← signedAt_eq_mul (Int.min_le_left _ _) (by omega), ← signedAt_eq_mul (Int.min_le_right _ _) (by omega)]
  have hz : (if (f.sign a == f.sign b) = true then f.sign a else mode == 3)
      = if f.sign a = f.sign b then f.sign a else decide (mode = 3) := by simp only [beq_iff_eq]; rfl
  simp only [addNum, isInf_of_finite ha, isInf_of_finite hb, Bool.false_eq_true, if_false, hz]
  exact roundInt_spec hf he hmode (by omega) hS

theorem fmul_finite {g : NanTag} (ha : f.mag a < f.infBits) (hb : f.mag b < f.infBits) :
    let P := f.signedAt a f.qmin * f.signedAt b f.qmin
    (P ≠ 0 → RoundsTo f mode (f.sign a != f.sign b) P.natAbs (2 * f.qmin) (fmul f mode g a b))
    ∧ (P = 0 → fmul f mode g a b = f.withSign (f.sign a != f.sign b) 0) := by
  intro P
  have hqa := qmin_le_finite_snd f a
  have hqb := qmin_le_finite_snd f b
  have habs : P.natAbs = shiftTo ((f.finite a).1 * (f.finite b).1) ((f.finite a).2 + (f.finite b).2) (2 * f.qmin) := by
    rw [show P = _ from signedAt_mul_signedAt f a b]
    dsimp only
    split <;> simp
  have hmul : fmul f mode g a b = roundMag f mode (f.sign a != f.sign b) ((f.finite a).1 * (f.finite b).1)
      ((f.finite a).2 + (f.finite b).2) := by
    simp [fmul, firstNan, isNan_of_finite ha, isNan_of_finite hb, isInf_of_finite ha, isInf_of_finite hb]
  have hzero : P = 0 ↔ (f.finite a).1 * (f.finite b).1 = 0 := by rw [← Int.natAbs_eq_zero, habs, shiftTo_eq_zero_iff]
  refine ⟨fun h => ?_, fun h => ?_⟩
  · rw [habs, roundsTo_shiftTo (by omega), hmul]
    exact roundsTo_roundMag hf he hmode (mt hzero.mpr h)
  · rw [hmul, hzero.mp h, roundMag_zero]

theorem ffma_finite {g : NanTag} {neg : Bool} (ha : f.mag a < f.infBits) (hb : f.mag b < f.infBits) (hc : f.mag c < f.infBits) :
    let P := f.signedAt a f.qmin * f.signedAt b f.qmin
    let S := (if neg then -P else P) + f.signedAt c f.qmin * 2 ^ (-f.qmin).toNat
    let pneg := (f.sign a != f.sign b) != neg
    (S ≠ 0 → RoundsTo f mode (decide (S < 0)) S.natAbs (2 * f.qmin) (ffma f mode g neg a b c))
    ∧ (S = 0 → ffma f mode g neg a b c = f.withSign (if pneg = f.sign c then pneg else decide (mode = 3)) 0) := by
  intro P S pneg
  have hqa := qmin_le_finite_snd f a
  have hqb := qmin_le_finite_snd f b
  have hqc := qmin_le_finite_snd f c
  have hneg : f.qmin ≤ 0 := by
    rw [Fmt.qmin]
    omega
  have hprod : (if neg then -P else P) = if pneg
      then -(shiftTo ((f.finite a).1 * (f.finite b).1) ((f.finite a).2 + (f.finite b).2) (2 * f.qmin) : Int)
      else (shiftTo ((f.finite a).1 * (f.finite b).1) ((f.finite a).2 + (f.finite b).2) (2 * f.qmin) : Int) := by
    rw [show P = _ from signedAt_mul_signedAt f a b]
    unfold pneg
    cases neg <;> cases f.sign a != f.sign b <;> simp
  have haddend : f.signedAt c f.qmin * 2 ^ (-f.qmin).toNat = f.signedAt c (2 * f.qmin) := by
    rw [signedAt_eq_mul hqc (show 2 * f.qmin ≤ f.qmin by omega)]
    congr 3
    omega
  have hffma : ffma f mode g neg a b c =
      let e := min ((f.finite a).2 + (f.finite b).2) (f.finite c).2
      let prod : Int := shiftTo ((f.finite a).1 * (f.finite b).1) ((f.finite a).2 + (f.finite b).2) e
      roundInt f mode ((if pneg then -prod else prod) + f.signedAt c e) e
        (if pneg = f.sign c then pneg else decide (mode = 3)) := by
    simp only [ffma, firstNan, List.find?_cons, List.find?_nil, isNan_of_finite ha, isNan_of_finite hb, isNan_of_finite hc,
      isInf_of_finite ha, isInf_of_finite hb, isInf_of_finite hc, Bool.or_false, Bool.false_eq_true, if_false, beq_iff_eq]
    rfl
  rw [hffma]
  refine roundInt_spec hf he hmode (by omega) ?_
  have hS : S = (if neg then -P else P) + f.signedAt c f.qmin * 2 ^ (-f.qmin).toNat := rfl
  rw [hS, hprod, haddend, Int.add_mul, ← signedAt_eq_mul (Int.min_le_right _ _) (by omega),
    ← shiftTo_shiftTo _ (Int.min_le_left ((f.finite a).2 + (f.finite b).2) (f.finite c).2) (by omega), natCast_shiftTo (shiftTo _ _ _)]
  congr 1
  split
  · exact (Int.neg_mul _ _).symm
  · rfl

end

/-! ## Scales (11 R237) -/

section
variable {f : Fmt} {mode m : Nat} {neg : Bool} {e t : Int} {a b : Nat}

theorem log2_shiftTo (hm : m ≠ 0) (ht : t ≤ e) : (Nat.log2 (shiftTo m e t) : Int) = Nat.log2 m + (e - t) := by
  have h : Nat.log2 (shiftTo m e t) = Nat.log2 m + (e - t).toNat := by
    have hp : 0 < 2 ^ (e - t).toNat := Nat.two_pow_pos _
    rw [Nat.log2_eq_iff (mt shiftTo_eq_zero_iff.mp hm), shiftTo, Nat.add_right_comm, Nat.pow_add, Nat.pow_add]
    exact ⟨Nat.mul_le_mul_right _ (Nat.log2_self_le hm), Nat.mul_lt_mul_of_pos_right Nat.lt_log2_self hp⟩
  omega

/-- A magnitude beyond the exponents of the format overflows. -/
theorem roundMag_of_huge (hmode : mode ≤ 3) (hm : m ≠ 0) (h : f.qmin + f.fbits + f.expAll ≤ e + Nat.log2 m) :
    roundMag f mode neg m e = f.withSign neg (overflowMag f mode neg) := by
  have hd : f.expAll ≤ (lastPlace f m e - f.qmin).toNat := by
    rw [lastPlace]
    omega
  have hk := Nat.mul_le_mul_right (2 ^ f.fbits) hd
  rw [roundMag_eq hm, overflowBits_eq hmode]
  exact if_pos (Nat.le_trans hk (Nat.le_add_right _ _))

/-- The magnitude that stands for one below half the smallest subnormal. -/
def underflowMag (mode : Nat) (neg : Bool) : Nat := if mode = (if neg then 3 else 2) then 1 else 0

/-- A magnitude below half the smallest subnormal is rounded to it or to 0. -/
theorem roundMag_of_tiny (hf : 0 < f.fbits) (he : 0 < f.ebits) (hmode : mode ≤ 3) (hm : m ≠ 0)
    (h : e + Nat.log2 m + 1 < f.qmin) : roundMag f mode neg m e = f.withSign neg (underflowMag mode neg) := by
  have hplace : lastPlace f m e = f.qmin := by
    rw [lastPlace]
    omega
  have hlt : m < 2 ^ ((f.qmin - e).toNat - 1) :=
    Nat.lt_of_lt_of_le Nat.lt_log2_self (Nat.pow_le_pow_right (by decide) (by omega))
  have hkept : m >>> (f.qmin - e).toNat = 0 := by
    rw [Nat.shiftRight_eq_div_pow]
    exact Nat.div_eq_of_lt (Nat.lt_of_lt_of_le hlt (Nat.pow_le_pow_right (by decide) (Nat.sub_le _ _)))
  have hint : lastInt f mode neg m e = underflowMag mode neg := by
    rw [lastInt, hplace, if_neg (by omega), roundShift, if_neg (by omega), hkept, Nat.testBit_lt_two_pow hlt, Nat.mod_eq_of_lt hlt]
    simp only [bne_iff_ne.mpr hm, Bool.true_or]
    rcases mode_cases hmode with rfl | rfl | rfl | rfl <;> cases neg <;> rfl
  have hinf : 1 < f.infBits := by
    have h0 := infBits_pos he
    have h2 := infBits_even hf
    omega
  have hone : underflowMag mode neg ≤ 1 := by
    unfold underflowMag
    generalize (if neg then 3 else 2) = away
    split <;> omega
  rw [roundMag_eq hm, hplace, hint, Int.sub_self]
  simp only [Int.toNat_zero, Nat.zero_mul, Nat.zero_add]
  exact if_neg (by omega)

/-- The integer part of a magnitude. -/
theorem unitsOf_div_eq (f : Fmt) (b : Nat) (hq : f.qmin ≤ 0) : unitsOf f b / 2 ^ (-f.qmin).toNat =
    if 0 ≤ (f.finite b).2 then (f.finite b).1 * 2 ^ (f.finite b).2.toNat else (f.finite b).1 >>> (-(f.finite b).2).toNat := by
  have hb := qmin_le_finite_snd f b
  rw [unitsOf_eq_shiftTo, shiftTo]
  split
  · have hexp : ((f.finite b).2 - f.qmin).toNat = (f.finite b).2.toNat + (-f.qmin).toNat := by omega
    rw [hexp, Nat.pow_add, ← Nat.mul_assoc, Nat.mul_div_cancel _ (Nat.two_pow_pos _)]
  · have hexp : (-f.qmin).toNat = (-(f.finite b).2).toNat + ((f.finite b).2 - f.qmin).toNat := by omega
    rw [hexp, Nat.pow_add, Nat.mul_div_mul_right _ _ (Nat.two_pow_pos _), Nat.shiftRight_eq_div_pow]

/-- The scale of FSCALE, which acts as 4,096 beyond it. -/
theorem fscale_cut (f : Fmt) (b : Nat) (hq : f.qmin ≤ 0) :
    (if 12 < (f.finite b).2 then (if (f.finite b).1 = 0 then 0 else 4096)
      else min 4096 (if 0 ≤ (f.finite b).2 then (f.finite b).1 * 2 ^ (f.finite b).2.toNat
        else (f.finite b).1 >>> (-(f.finite b).2).toNat)) = min 4096 (unitsOf f b / 2 ^ (-f.qmin).toNat) := by
  rw [unitsOf_div_eq f b hq]
  split
  case isFalse => rfl
  case isTrue h =>
    have hm : 0 < (f.finite b).1 := by
      rw [Fmt.finite] at h ⊢
      split at h
      · simp only at h
        omega
      · next h0 =>
        rw [if_neg h0]
        exact Nat.add_pos_left (Nat.two_pow_pos _) _
    have hpow : 4096 ≤ (f.finite b).1 * 2 ^ (f.finite b).2.toNat :=
      Nat.le_trans (Nat.pow_le_pow_right (n := 2) (by decide) (show 12 ≤ _ by omega)) (Nat.le_mul_of_pos_left _ hm)
    rw [if_neg (by omega), if_pos (by omega), Nat.min_eq_left hpow]

/-- A scale with its sign. -/
def signedScale (down : Bool) (n : Nat) : Int := if down then -(n : Int) else (n : Int)

/-- A number times a power of two, with the exponent held within ±4,096: beyond it the result is the same. -/
theorem roundsTo_scaled (hf : 0 < f.fbits) (he : 1 < f.ebits) (hs : f.fbits + f.expAll < 4000) (hmode : mode ≤ 3)
    (ha : f.mag a < f.infBits) (hz : f.isZero a = false) (down : Bool) (n : Nat) :
    RoundsTo f mode neg (unitsOf f a) (f.qmin + signedScale down n)
      (roundMag f mode neg (f.finite a).1 ((f.finite a).2 + signedScale down (min 4096 n))) := by
  have hq := qmin_le_finite_snd f a
  have hu : unitsOf f a ≠ 0 := by
    have h0 := unitsOf_lt_iff f 0 a
    have hmag := mt isZero_iff.mpr (Bool.eq_false_iff.mp hz)
    rw [unitsOf_zero, Fmt.mag, Nat.zero_mod] at h0
    omega
  have hm : (f.finite a).1 ≠ 0 := mt shiftTo_eq_zero_iff.mpr hu
  have hlog := log2_shiftTo hm hq
  rw [← unitsOf_eq_shiftTo] at hlog
  have htop : Nat.log2 (unitsOf f a) < f.fbits + f.expAll := by
    have hlt := unitsOf_lt_unitsOf ha (Nat.le_refl _)
    rw [unitsOf_mag, unitsOf_infBits (by omega), ← Nat.pow_add] at hlt
    exact (Nat.log2_lt hu).mpr (Nat.lt_of_lt_of_le hlt (Nat.pow_le_pow_right (by decide) (by omega)))
  by_cases hn : n ≤ 4096
  · have hshift : unitsOf f a = shiftTo (f.finite a).1 ((f.finite a).2 + signedScale down n) (f.qmin + signedScale down n) := by
      rw [unitsOf_eq_shiftTo, shiftTo, shiftTo, Int.add_sub_add_right]
    rw [Nat.min_eq_right hn, hshift, roundsTo_shiftTo (by omega)]
    exact roundsTo_roundMag hf he hmode hm
  · have hsame : roundMag f mode neg (f.finite a).1 ((f.finite a).2 + signedScale down (min 4096 n))
        = roundMag f mode neg (unitsOf f a) (f.qmin + signedScale down n) := by
      rw [Nat.min_eq_left (by omega), signedScale, signedScale]
      cases down with
      | false =>
        simp only [Bool.false_eq_true, if_false]
        rw [roundMag_of_huge hmode hm (by omega), roundMag_of_huge hmode hu (by omega)]
      | true =>
        simp only [if_true]
        rw [roundMag_of_tiny hf (by omega) hmode hm (by omega), roundMag_of_tiny hf (by omega) hmode hu (by omega)]
    rw [hsame]
    exact roundsTo_roundMag hf he hmode hu

end

/-! ## NaN, infinity and zero (01 R28, R30; 11 R230) -/

section
variable {f : Fmt} {mode : Nat} {t : NanTag} {a b : Nat}

theorem fsub_of_num (ha : f.isNan a = false) (hb : f.isNan b = false) : fsub f mode t a b = fadd f mode t a (f.negate b) := by
  have hn : f.isNan (f.negate b) = false := by rw [isNan_eq_decide, mag_negate, ← isNan_eq_decide, hb]
  simp [fsub, fadd, firstNan, ha, hb, hn]

theorem fadd_of_num (ha : f.isNan a = false) (hb : f.isNan b = false) : fadd f mode t a b = addNum f mode t a b := by
  simp [fadd, firstNan, ha, hb]

/-- A product with an infinity is infinite, or invalid with a zero. -/
theorem fmul_of_inf (ha : f.isNan a = false) (hb : f.isNan b = false) (hi : f.isInf a = true ∨ f.isInf b = true) :
    fmul f mode t a b = if f.isZero a = true ∨ f.isZero b = true then genNan f t 1
      else f.withSign (f.sign a != f.sign b) f.infBits := by
  simp [fmul, firstNan, ha, hb, hi]

theorem ffma_of_inf {c : Nat} {neg : Bool} (ha : f.isNan a = false) (hb : f.isNan b = false) (hc : f.isNan c = false)
    (hi : f.isInf a = true ∨ f.isInf b = true) :
    let pneg := (f.sign a != f.sign b) != neg
    ffma f mode t neg a b c = if f.isZero a = true ∨ f.isZero b = true then genNan f t 1
      else if f.isInf c = true ∧ f.sign c ≠ pneg then genNan f t 1 else f.withSign pneg f.infBits := by
  simp [ffma, firstNan, ha, hb, hc, hi]

/-- FSCALE of numbers by what they are. -/
theorem fscale_of_num (ha : f.isNan a = false) (hb : f.isNan b = false) (hq : f.qmin ≤ 0) : fscale f mode t a b =
    if f.isInf b = true then
      if (f.sign b = false ∧ f.isZero a = true) ∨ (f.sign b = true ∧ f.isInf a = true) then genNan f t 1
      else if f.isZero a = true ∨ f.isInf a = true then a
      else if f.sign b = true then roundMag f mode (f.sign a) 1 (-4096) else overflowBits f mode (f.sign a)
    else if f.isZero a = true ∨ f.isInf a = true then a
    else roundMag f mode (f.sign a) (f.finite a).1
      ((f.finite a).2 + signedScale (f.sign b) (min 4096 (unitsOf f b / 2 ^ (-f.qmin).toNat))) := by
  simp only [fscale, firstNan, List.find?_cons, List.find?_nil, ha, hb, fscale_cut f b hq, Bool.or_eq_true]
  cases f.sign b <;> cases f.isZero a <;> simp [signedScale]

/-- A zero and an infinity keep their value under a scale that is not invalid for them. -/
theorem fscale_of_fixed (ha : f.isNan a = false) (hb : f.isNan b = false) (hq : f.qmin ≤ 0)
    (h : f.isZero a = true ∨ f.isInf a = true)
    (hok : f.isInf b = true → ¬ ((f.sign b = false ∧ f.isZero a = true) ∨ (f.sign b = true ∧ f.isInf a = true))) :
    fscale f mode t a b = a := by
  rw [fscale_of_num ha hb hq]
  by_cases hi : f.isInf b = true
  · rw [if_pos hi, if_neg (hok hi), if_pos h]
  · rw [if_neg hi, if_pos h]

/-- A number other than 0 underflows or overflows under an infinite scale. -/
theorem fscale_of_inf (hf : 0 < f.fbits) (he : 0 < f.ebits) (hmode : mode ≤ 3) (hq : -4000 < f.qmin ∧ f.qmin ≤ 0)
    (ha : f.mag a < f.infBits) (hz : f.isZero a = false) (hb : f.isInf b = true) :
    fscale f mode t a b = f.withSign (f.sign a) (if f.sign b then underflowMag mode (f.sign a) else overflowMag f mode (f.sign a)) := by
  have htiny : (-4096 : Int) + Nat.log2 1 + 1 < f.qmin := by
    rw [show Nat.log2 1 = 0 by decide]
    omega
  rw [fscale_of_num (isNan_of_finite ha) (isNan_of_isInf hb) hq.2, if_pos hb, roundMag_of_tiny hf he hmode Nat.one_ne_zero htiny,
    overflowBits_eq hmode]
  cases f.sign b <;> simp [hz, isInf_of_finite ha]

/-- The payload of a generated NaN in each format. -/
theorem genNan_eq (t : NanTag) (code : Nat) :
    genNan fF32 t code = 0x7FC00000 + code * 2 ^ 16 + t.lane % 32 * 2 ^ 11 + t.pc / 4 % 2 ^ 11
    ∧ genNan fF16 t code = 0x7E00 + code * 8 + t.lane % 8 ∧ genNan fBF16 t code = 0x7FC0 + code := by
  have hpc : t.pc / 4 % 2 ^ 11 = bitsOf t.pc 2 11 := by rw [bitsOf, Nat.shiftRight_eq_div_pow]
  refine ⟨?_, ?_, rfl⟩
  · rw [hpc, Nat.add_assoc, Nat.add_assoc, ← Nat.add_assoc (code * 2 ^ 16)]
    rfl
  · rw [Nat.add_assoc]
    rfl

end

/-- Settles O13: of numbers the exact result is rounded once (`addNum_finite`, `fmul_finite`, `ffma_finite`, `roundsTo_scaled`); a NaN, an
infinity or a zero among the operands takes the branch that the clause names. -/
theorem floatResults : Obligations.FloatResults := by
  unfold Obligations.FloatResults
  intro f mode t neg a b c hfmt hmode ha hb hc finite isNum n pneg
  obtain ⟨hf, he, hs, hq⟩ : 0 < f.fbits ∧ 1 < f.ebits ∧ f.fbits + f.expAll < 4000 ∧ (-4000 < f.qmin ∧ f.qmin ≤ 0) := by
    rcases hfmt with rfl | rfl | rfl <;> decide
  have hnum {x : Nat} (h : isNum x) : f.isNan x = false := isNan_eq_false_of_num h
  have hfin {x : Nat} (h : finite x) : f.isNan x = false ∧ f.isInf x = false := ⟨isNan_of_finite h, isInf_of_finite h⟩
  have hinf {x : Nat} (h : f.isInf x = true) : f.isNan x = false ∧ f.isZero x = false :=
    ⟨isNan_of_isInf h, isZero_of_isInf (by omega) h⟩
  have hzero {x : Nat} (h : f.isZero x = true) : f.isNan x = false ∧ f.isInf x = false := hfin (finite_of_isZero (by omega) h)
  refine ⟨?nanA, ?nanB, ?nanC, ?sub, ?addInfs, ?addInfA, ?addInfB, ?addFinite, ?mulInvalid, ?mulInf, ?mulFinite, ?genNan, ?satInf,
    ?satNum, ?unsat, ?scale⟩
  case nanA => intro h; simp [fadd, fsub, fmul, ffma, firstNan, h]
  case nanB => intro h h'; simp [fadd, fsub, fmul, ffma, firstNan, hnum h, h']
  case nanC => intro h h' h''; simp [ffma, firstNan, hnum h, hnum h', h'']
  case sub => exact fun h h' => fsub_of_num (hnum h) (hnum h')
  case addInfs =>
    intro h h' hs
    simp [fadd_of_num (hinf h).1 (hinf h').1, addNum, h, h', hs]
  case addInfA =>
    intro h h' hs
    rw [fadd_of_num (hinf h).1 (hnum h'), addNum, if_pos h]
    exact if_neg (by simpa using hs)
  case addInfB =>
    intro h h'
    simp [fadd_of_num (hfin h').1 (hinf h).1, addNum, h, hfin h']
  case addFinite =>
    intro h h'
    rw [fadd_of_num (hfin h).1 (hfin h').1]
    exact addNum_finite hf he hmode h h'
  case mulInvalid =>
    intro h
    obtain ⟨hna, hnb, hi, hz⟩ : f.isNan a = false ∧ f.isNan b = false ∧ (f.isInf a = true ∨ f.isInf b = true)
        ∧ (f.isZero a = true ∨ f.isZero b = true) := by
      rcases h with ⟨h, h'⟩ | ⟨h, h'⟩
      · exact ⟨(hinf h).1, (hzero h').1, .inl h, .inr h'⟩
      · exact ⟨(hzero h).1, (hinf h').1, .inr h', .inl h⟩
    exact ⟨(fmul_of_inf hna hnb hi).trans (if_pos hz), fun hc => (ffma_of_inf hna hnb (hnum hc) hi).trans (if_pos hz)⟩
  case mulInf =>
    intro h
    obtain ⟨hna, hnb, hi, hz⟩ : f.isNan a = false ∧ f.isNan b = false ∧ (f.isInf a = true ∨ f.isInf b = true)
        ∧ ¬ (f.isZero a = true ∨ f.isZero b = true) := by
      rcases h with ⟨h, h', hz⟩ | ⟨h, hz, h'⟩
      · exact ⟨(hinf h).1, hnum h', .inl h, by simp [(hinf h).2, hz]⟩
      · exact ⟨hnum h, (hinf h').1, .inr h', by simp [(hinf h').2, hz]⟩
    refine ⟨(fmul_of_inf hna hnb hi).trans (if_neg hz), fun hc => ?_, fun hc hs => ?_⟩
    · have hnc : f.isNan c = false := hc.elim (fun h => (hfin h).1) fun h => (hinf h.1).1
      have hok : ¬ (f.isInf c = true ∧ f.sign c ≠ pneg) := fun h => hc.elim
        (fun hc => Bool.eq_false_iff.mp (hfin hc).2 h.1) fun hc => h.2 hc.2
      exact (ffma_of_inf hna hnb hnc hi).trans ((if_neg hz).trans (if_neg hok))
    · exact (ffma_of_inf hna hnb (hinf hc).1 hi).trans ((if_neg hz).trans (if_pos ⟨hc, hs⟩))
  case mulFinite =>
    intro h h'
    obtain ⟨hprod, hprod0⟩ := fmul_finite (g := t) hf he hmode h h'
    refine ⟨hprod, hprod0, fun hc => ?_, fun hc => ffma_finite hf he hmode h h' hc⟩
    simp [ffma, firstNan, hfin h, hfin h', hinf hc, hc]
  case genNan =>
    intro code _
    obtain ⟨h32, h16, hb16⟩ := genNan_eq t code
    exact ⟨fun h => h ▸ h32, fun h => h ▸ h16, fun h => h ▸ hb16⟩
  case satInf =>
    intro h
    simp [satFloat, h, Fmt.maxBits]
  case satNum => exact fun h => satFloat_of_not_isInf h true
  case unsat => rfl
  case scale =>
    intro away n
    have hn : n = signedScale (f.sign b) (unitsOf f b / 2 ^ (-f.qmin).toNat) := by
      unfold n signedScale
      rw [unitsOf_mag]
      split <;> simp
    refine ⟨fun h => ?nanA, fun h h' => ?nanB, fun h h' => ?invalid, fun h h' hs => ?zero, fun h h' hs => ?inf, fun h h' =>
      ⟨fun hb hs => ?down, fun hb hs => ?up, fun hb => ?number⟩⟩
    case nanA => simp [fscale, firstNan, h]
    case nanB => simp [fscale, firstNan, hnum h, h']
    case invalid =>
      have hbad : (f.sign b = false ∧ f.isZero a = true) ∨ (f.sign b = true ∧ f.isInf a = true) := by
        cases hs : f.sign b <;> simpa [hs] using h'
      have hna : f.isNan a = false := hbad.elim (fun h => (hzero h.2).1) fun h => (hinf h.2).1
      rw [fscale_of_num hna (hinf h).1 hq.2, if_pos h, if_pos hbad]
    case zero =>
      exact fscale_of_fixed (hzero h').1 (hnum h) hq.2 (.inl h') fun hi => by simp [hs hi, (hzero h').2]
    case inf =>
      exact fscale_of_fixed (hinf h').1 (hnum h) hq.2 (.inr h') fun hi => by simp [hs hi, (hinf h').2]
    case down =>
      rw [fscale_of_inf hf (by omega) hmode hq h h' hb, if_pos hs, underflowMag]
      simp only [away, decide_eq_true_iff]
    case up =>
      rw [fscale_of_inf hf (by omega) hmode hq h h' hb, if_neg (Bool.eq_false_iff.mp hs), overflowMag]
      simp only [away, decide_eq_true_iff]
    case number =>
      rw [fscale_of_num (hfin h).1 (hfin hb).1 hq.2, unitsOf_mag, hn]
      simp only [hfin h, hfin hb, h', Bool.false_eq_true, or_self, if_false]
      exact roundsTo_scaled hf he hs hmode h h' _ _

end Sys2Proof
end

section
/-!
THE CONTEXT AN INSTRUCTION ISSUES FROM (02 R56): the state that the operands are taken in holds it, but for its CYC latch.
-/
namespace Sys2Proof
open Machine

/-- An instruction that goes through the checks of issue leaves what its effect gives where the condition holds; its effect may take it
that the checks have passed. -/
theorem performs_of_executes {i : Form → Instr} {row : OpRow} {body : Form → Env → State → Act}
    {cond : Form → Env → State → Prop} {act : Form → Env → State → Act}
    (hi : ∀ f s, exec (i f) s = issue row f s (body f))
    (hb : ∀ f s e e' u, Executes s row f e e' u → cond f e' u → body f e' u = act f e' u) : Performs i row cond act := by
  intro f s e e' u hx hc
  rw [hi, issue_executes _ hx, hb f s e e' u hx hc]

theorem setHart_same {g : Group} {w : Who} {h : Hart} (hh : g.hart? w = some h) : g.setHart w h = g := by
  cases w with
  | steward =>
    cases hh
    rfl
  | thread n =>
    obtain ⟨hn, rfl⟩ := List.getElem?_eq_some_iff.mp hh
    simp [Group.setHart]

theorem hart?_setHart_same {g : Group} {w : Who} {h k : Hart} (hh : g.hart? w = some h) : (g.setHart w k).hart? w = some k := by
  cases w with
  | steward => rfl
  | thread n =>
    obtain ⟨hn, -⟩ := List.getElem?_eq_some_iff.mp hh
    simp [Group.setHart, Group.hart?, hn]

theorem group?_modHart_same {s : State} {r : CtxRef} {g : Group} {h : Hart} (k : Hart → Hart) (hg : s.group? r.group = some g)
    (hh : g.hart? r.who = some h) : (s.modHart r k).group? r.group = some (g.setHart r.who (k h)) := by
  simp [State.modHart, State.setHart, State.hart?, hg, hh]

/-- The state holds the context of the environment, with any CYC latch. -/
structure Holds (u : State) (e : Env) : Prop where
  group : ∃ c, u.group? e.r.group = some (e.g.setHart e.r.who { e.h with cycLatch := c })
  hart  : e.g.hart? e.r.who = some e.h
  grid  : u.grid? e.g.grid = some e.gr

theorem holds_of_envOf {s : State} {r : CtxRef} {e : Env} (he : envOf s r = some e) : Holds s e := by
  unfold envOf at he
  split at he
  · cases he
  · next g hg =>
    split at he
    · next gr h hgr hh =>
      split at he
      · cases he
        exact ⟨⟨h.cycLatch, by rw [hg, setHart_same hh]⟩, hh, hgr⟩
      · cases he
    · cases he

theorem Holds.latch {u : State} {e : Env} (x : Holds u e) (c : Word) : Holds (u.modHart e.r fun h => { h with cycLatch := c }) e where
  group := by
    obtain ⟨c', hg⟩ := x.group
    refine ⟨c, ?_⟩
    rw [group?_modHart_same _ hg (hart?_setHart_same x.hart)]
    cases e.r.who <;> simp [Group.setHart]
  hart := x.hart
  grid := by simpa [State.grid?] using x.grid

theorem Holds.drained {s u : State} {e : Env} {v : Nat} (x : Holds s e) (h : readDrain s e = .value v u) : Holds u { e with drain := v } := by
  unfold readDrain at h
  split at h
  · cases h
  · dsimp only at h
    split at h
    · cases h
    · split at h
      · cases h
      · split at h
        · cases h
        · cases h
          exact ⟨x.group, x.hart, x.grid⟩

/-- The operands of an instruction that executes are taken in a state that holds its context. -/
theorem Executes.holds {s u : State} {e e' : Env} {row : OpRow} {f : Form} (x : Executes s row f e e' u) : Holds u e' := by
  have h : Holds (if readsCycLo row f then s.modHart e.r fun h =>
      { h with cycLatch := BitVec.ofNat 32 (s.clusterCycles e.g.cluster / 2 ^ 32) } else s) e := by
    split
    · exact (holds_of_envOf x.env).latch _
    · exact holds_of_envOf x.env
  have ho := x.operands
  unfold operandsOf at ho
  dsimp only at ho
  split at ho
  · split at ho
    · split at ho
      · next hr =>
        cases ho
        exact h.drained hr
      · cases ho
    · cases ho
  · cases ho
    exact h

/-- The context as the state holds it. -/
theorem Holds.hart? {u : State} {e : Env} (x : Holds u e) : ∃ c, u.hart? e.r = some { e.h with cycLatch := c } := by
  obtain ⟨c, hg⟩ := x.group
  exact ⟨c, by simp [State.hart?, hg, hart?_setHart_same x.hart]⟩

/-- A change of the context that does not look at its CYC latch may take it as it was at issue. -/
theorem Holds.modHart_eq {u : State} {e : Env} (x : Holds u e) {k k' : Hart → Hart}
    (hk : ∀ c, k { e.h with cycLatch := c } = k' { e.h with cycLatch := c }) : u.modHart e.r k = u.modHart e.r k' := by
  obtain ⟨c, hh⟩ := x.hart?
  exact modHart_congr hh (hk c)

end Sys2Proof
end

section
/-!
BRANCHES AND THE END OF A CONTEXT (12 R248 to R253; 04 R116): O17 and O18.
-/
namespace Sys2Proof
open Machine

/-- Settles O17: a branch jumps, and BRDEC jumps while its count is above 1. -/
theorem Control.branches : Obligations.Branches := by
  unfold Obligations.Branches
  refine ⟨?bra, ?brx, ?call, ?ret, ?brdecTaken, ?brdecOver⟩
  all_goals refine performs_of_issue (fun _ _ => rfl) fun f e u hc => ?_
  case bra | call | ret => rfl
  case brx => simp [BitVec.ofNat_add]
  case brdecTaken => exact if_pos hc
  case brdecOver => exact if_neg (Nat.not_lt.mpr hc)

/-! ## What is kept as a group ends its batch (05 R138) -/

theorem hart?_eachHart (g : Group) (f : Who → Hart → Hart) (w : Who) : (g.eachHart f).hart? w = (g.hart? w).map (f w) := by
  cases w with
  | steward => rfl
  | thread n => simp [Group.eachHart, Group.hart?, List.getElem?_zipIdx, Function.comp_def]

theorem hart?_endBatch (g : Group) (w : Who) : g.endBatch.hart? w = (g.hart? w).map fun h => { h with ord := [] } := by
  have h := hart?_eachHart g (fun _ h => { h with ord := [] }) w
  cases w <;> exact h

/-- A switch point ends the batch of a `.det` group and changes nothing else. -/
theorem settleSwitch_eq (s : State) (key : Nat) :
    settleSwitch s key = s ∨ ∃ g, s.group? key = some g ∧ settleSwitch s key = s.setGroup key g.endBatch := by
  unfold settleSwitch
  split
  · exact .inl rfl
  · next g hg =>
    split
    · exact .inl rfl
    · split
      · exact .inr ⟨g, hg, rfl⟩
      · exact .inl rfl

/-- What the end of a context asks of its group: whether it goes back, whether it is being evicted, and its core. -/
def SameExit (g g' : Group) : Prop := g'.rollback = g.rollback ∧ g'.image = g.image ∧ g'.coreNo = g.coreNo

/-- The state holds a group like `g`, with the context in a state of which `P` holds, whatever its ordered accesses are. -/
def StandsWith (s : State) (r : CtxRef) (g : Group) (P : Hart → Prop) : Prop :=
  ∃ g' h, s.group? r.group = some g' ∧ g'.hart? r.who = some h ∧ SameExit g g' ∧ P h

theorem StandsWith.settleSwitch {s : State} {r : CtxRef} {g : Group} {P : Hart → Prop} (x : StandsWith s r g P)
    (hP : ∀ h, P h → P { h with ord := [] }) : StandsWith (settleSwitch s r.group) r g P := by
  obtain ⟨g', h, hg, hh, hs, hp⟩ := x
  obtain heq | ⟨g₁, hg₁, heq⟩ := settleSwitch_eq s r.group
  · rw [heq]
    exact ⟨g', h, hg, hh, hs, hp⟩
  · rw [hg, Option.some.injEq] at hg₁
    subst hg₁
    rw [heq]
    exact ⟨_, _, State.group?_setGroup _ _ _, (hart?_endBatch _ _).trans (congrArg _ hh), hs, hP h hp⟩

theorem coreNo_setHart (g : Group) (w : Who) (h : Hart) : SameExit g (g.setHart w h) := by
  cases w <;> exact ⟨rfl, rfl, rfl⟩

theorem settleSwitch_tovor (s : State) (key : Nat) : (settleSwitch s key).tovor = s.tovor := by
  obtain h | ⟨g, -, h⟩ := settleSwitch_eq s key <;> rw [h]
  rfl

theorem settleSwitch_cores (s : State) (key : Nat) : (settleSwitch s key).cores = s.cores := by
  obtain h | ⟨g, -, h⟩ := settleSwitch_eq s key <;> rw [h]
  rfl

/-! ## EXIT (12 R249) -/

/-- The context as EXIT leaves it, parked until it can end. -/
def leavingHart (f : Form) (now : Nat) (h : Hart) : Hart :=
  { h.issued f now with status := .parked, parkS := false, exiting := true, insn := wordOf rowExit f }

/-- The state as EXIT leaves it, before its context ends. -/
def leavingState (f : Form) (e : Env) (s : State) : State :=
  let t := s.modHart e.r (leavingHart f (s.clusterCycles e.g.cluster))
  if e.det then settleSwitch t e.r.group else t

/-- What EXIT finds of its context: leaving, with the results and stores that it had. -/
def LeavesWith (h₀ h : Hart) : Prop := h.exiting = true ∧ h.results = h₀.results ∧ h.stores = h₀.stores

theorem leavesWith_leavingHart (f : Form) (now : Nat) (h : Hart) : LeavesWith h (leavingHart f now h) := by
  unfold leavingHart Hart.issued
  split <;> exact ⟨rfl, rfl, rfl⟩

theorem leavingState_standsWith {f : Form} {e : Env} {u : State} (x : Holds u e) :
    StandsWith (leavingState f e u) e.r e.g (LeavesWith e.h) := by
  obtain ⟨c, hg⟩ := x.group
  have hh := hart?_setHart_same (k := { e.h with cycLatch := c }) x.hart
  have h : StandsWith (u.modHart e.r (leavingHart f (u.clusterCycles e.g.cluster))) e.r e.g (LeavesWith e.h) := by
    refine ⟨_, _, group?_modHart_same _ hg hh, hart?_setHart_same hh, ?_, leavesWith_leavingHart f _ { e.h with cycLatch := c }⟩
    cases e.r.who <;> exact ⟨rfl, rfl, rfl⟩
  unfold leavingState
  dsimp only
  split
  · exact h.settleSwitch fun _ hp => hp
  · exact h

theorem leavingState_tovor (f : Form) (e : Env) (u : State) : (leavingState f e u).tovor = u.tovor := by
  unfold leavingState
  dsimp only
  split <;> simp [settleSwitch_tovor]

theorem leavingState_cores (f : Form) (e : Env) (u : State) : (leavingState f e u).cores = u.cores := by
  unfold leavingState
  dsimp only
  split <;> simp [settleSwitch_cores]

/-- The conditions of an EXIT are those of its context as it issues. -/
theorem exitReady_leavingState {f : Form} {e : Env} {u : State} (x : Holds u e) :
    exitReady (leavingState f e u) e.r = true ↔ e.h.results = [] ∧ e.h.stores = [] ∧ linkBusy u e.r = false ∧ e.g.image = none
      ∧ e.g.rollback = false ∧ (e.steward = true → u.cmdsOf e.r.group e.g = []) := by
  obtain ⟨g, h, hg, hh, ⟨hrb, himg, hcore⟩, hex, hres, hst⟩ := leavingState_standsWith (f := f) x
  have hhart : (leavingState f e u).hart? e.r = some h := by simp [State.hart?, hg, hh]
  have hlink : linkBusy (leavingState f e u) e.r = linkBusy u e.r := by simp [linkBusy, leavingState_tovor]
  have hcmds : (leavingState f e u).cmdsOf e.r.group g = u.cmdsOf e.r.group e.g := by
    simp [State.cmdsOf, State.core, leavingState_cores, hcore]
  simp only [exitReady, hg, hhart, hex, hrb, himg, hres, hst, hlink, hcmds, Env.steward]
  cases Who.isSteward e.r.who <;> simp [and_assoc]
  · tauto
  · tauto

/-- Settles O18. EXIT by the conditions it finds (`exitReady_leavingState`); the others take the branch that their condition names. -/
theorem contextControl : Obligations.ContextControl := by
  unfold Obligations.ContextControl
  intro now leaving free parked off mask named met others ends
  refine ⟨?exit, ?exitParked, ?yieldOff, ?yieldParked, ?sleep, ?sleepOff, ?sleepParked, ?oflush, ?oflushParked, ?omitted, ?det,
    ?gone, ?met, ?waits, ?region, ?regionHeld⟩
  case exit =>
    refine performs_of_executes (fun _ _ => rfl) fun f s e e' u hx hf => ?_
    exact congrArg Act.raw (if_pos ((exitReady_leavingState hx.holds).mpr hf))
  case exitParked =>
    refine performs_of_executes (fun _ _ => rfl) fun f s e e' u hx hf => ?_
    exact congrArg Act.raw (if_neg fun h => hf ((exitReady_leavingState hx.holds).mp h))
  all_goals refine performs_of_issue (fun _ _ => rfl) fun f e u hc => ?_
  case yieldOff => simp [yieldAct, hc, off, now]
  case yieldParked => simp [yieldAct, hc, parked, now]
  case sleep => exact if_neg hc
  case sleepOff => simp [yieldAct, hc, off, now]
  case sleepParked => simp [yieldAct, hc, parked, now]
  case oflush => simp [hc]
  case oflushParked => simp [yieldAct, hc, parked, now]
  case omitted =>
    have hm : (BitVec.ofNat 64 (e.A u rowReconv f)).toNat.testBit (e.tid % 64) = false := hc
    simp only [hm]
    rfl
  case det =>
    obtain ⟨hd, hm⟩ := hc
    have hm : (BitVec.ofNat 64 (e.A u rowReconv f)).toNat.testBit (e.tid % 64) = true := hm
    simp only [hm, hd]
    rfl
  case region => simp [hc]
  case regionHeld => simp [hc]
  all_goals
    obtain ⟨⟨hm, hd⟩, hrest⟩ := hc
    have hm : (BitVec.ofNat 64 (e.A u rowReconv f)).toNat.testBit (e.tid % 64) = true := hm
  case gone =>
    have hg : namesGone e (BitVec.ofNat 64 (e.A u rowReconv f)) = true := hrest
    unfold namesGone at hg
    simp only [hm, hd, hg]
    rfl
  case met =>
    obtain ⟨hg, hr⟩ := hrest
    have hg : namesGone e (BitVec.ofNat 64 (e.A u rowReconv f)) = false := hg
    have hr : reconvMet u e.g e.h.pc (e.tid / 64) (e.tid % 64) (e.tid % 64) (BitVec.ofNat 64 (e.A u rowReconv f)) = true := hr
    unfold namesGone at hg
    simp only [hm, hd, hg, hr]
    rfl
  case waits =>
    obtain ⟨hg, hr⟩ := hrest
    have hg : namesGone e (BitVec.ofNat 64 (e.A u rowReconv f)) = false := hg
    have hr : reconvMet u e.g e.h.pc (e.tid / 64) (e.tid % 64) (e.tid % 64) (BitVec.ofNat 64 (e.A u rowReconv f)) = false := hr
    unfold namesGone at hg
    simp only [hm, hd, hg, hr]
    rfl

end Sys2Proof
end

section
/-!
TRAPS TAKEN ON PURPOSE, AND THE RETURN (12 R254 to R258): O19.
-/
namespace Sys2Proof
open Machine

/-! ## TRET in parts (12 R258) -/

/-- TRET met again later. -/
def tretPark (f : Form) (e : Env) (s : State) : Act :=
  let t := s.modHart e.r fun h => { h with status := .parked, parkS := true, insn := wordOf rowTret f }
  .raw (if e.det then settleSwitch t e.r.group else t)

/-- The end of a group whose frame cannot be read. -/
def tretKill (e : Env) (s : State) : Act := .raw (killGroup s e.r.group .frameFault e.h.pc.toNat 0 e.h.quad)

/-- The context as its frame gives it; `z` is the state in which the frame was looked up. -/
def tretBack (f : Form) (e : Env) (z v : State) (bs : List Byte) : State :=
  v.modHart e.r fun h => restoreFrame e.xregs (natOfLe bs)
    { afterIssue e f (wordOf rowTret f) (z.clusterCycles e.g.cluster) none h with spin := { last := none, count := 0 }, frame := [] }

/-- The return, with its record under IL2. -/
def tretReturn (e : Env) (s : State) : Act :=
  match s.hart? e.r with
  | some h => .raw (if e.gr.level < 2 then s else recordOf s e.r 3 [h.pc.toNat])
  | none => .raw s

/-- The frame read at its places. -/
def tretRead (f : Form) (e : Env) (z : State) (ls : List Loc) : Act :=
  match readFrame z e ls with
  | (v, none) => tretKill e v
  | (v, some bs) => tretReturn e (tretBack f e z v bs)

/-- The places of the frame, and what lies of it at a peer. -/
def tretFrame (f : Form) (e : Env) (z : State) (va : Nat) : Act :=
  match frameChunks z e.g va needRead 16 with
  | none => tretKill e (meetFrame z e.n va 16)
  | some ls =>
    if e.h.frame.isEmpty && !(framePeers ls).isEmpty then
      (if (framePeers ls).any fun l => e.h.storesMeet l 16 then .hold else tretPark f e (askFrame z e ls))
    else tretRead f e z ls

/-- TRET, its checks in their order. -/
def tretAct (f : Form) (e : Env) (s : State) : Act :=
  let va := privBase e.gr e.g.index e.tid + Hdr.privBytes e.hdr
  if !e.h.handler then .trap { cause := .tretState, pc := 0 }
  else if !e.h.results.isEmpty then tretPark f e s
  else tretFrame f e (walkFrame s e.g.coreNo e.n va 16) va

theorem execTret_eq (f : Form) (s : State) : exec (.tret f) s = issue rowTret f s (tretAct f) := by
  change execTret f s = _
  unfold execTret
  refine congrArg (issue rowTret f s) (funext fun e => funext fun s => ?_)
  dsimp only [tretAct]
  refine if_congr Iff.rfl rfl (if_congr Iff.rfl rfl ?_)
  generalize walkFrame s e.g.coreNo e.n (privBase e.gr e.g.index e.tid + Hdr.privBytes e.hdr) 16 = z
  unfold tretFrame
  generalize frameChunks z e.g _ needRead 16 = o
  cases o with
  | none => rfl
  | some ls =>
    refine if_congr Iff.rfl rfl ?_
    unfold tretRead
    generalize readFrame z e ls = p
    obtain ⟨v, _ | bs⟩ := p
    · rfl
    · rfl

theorem tretReturn_of_plain {e : Env} (s : State) (h : e.gr.level < 2) : tretReturn e s = .raw s := by
  unfold tretReturn
  split <;> simp [h]

theorem tretReturn_of_recorded {e : Env} {s : State} {h : Hart} (hl : 2 ≤ e.gr.level) (hh : s.hart? e.r = some h) :
    tretReturn e s = .raw (recordOf s e.r 3 [h.pc.toNat]) := by
  simp [tretReturn, hh, Nat.not_lt.mpr hl]

theorem tretFrame_of_here {f : Form} {e : Env} {z : State} {va : Nat} {ls : List Loc}
    (hz : frameChunks z e.g va needRead 16 = some ls) (h : e.h.frame ≠ [] ∨ framePeers ls = []) :
    tretFrame f e z va = tretRead f e z ls := by
  rcases h with h | h <;> simp [tretFrame, hz, h]

/-- Settles O19. TRET makes its checks in order: the handler, the results outstanding, the places of the frame, what of it lies at a
peer, and the frame itself. -/
theorem trapInstructions : Obligations.TrapInstructions := by
  unfold Obligations.TrapInstructions
  intro parks
  refine ⟨?trap, ?bkpt, ?outside, ?pending, ?frame⟩
  case trap | bkpt => exact performs_of_issue (fun _ _ => rfl) fun f e u _ => rfl
  case outside =>
    refine performs_of_issue execTret_eq fun f e u hc => ?_
    simp [tretAct, hc]
  case pending =>
    refine performs_of_issue execTret_eq fun f e u hc => ?_
    simp [tretAct, hc, tretPark, parks]
  case frame =>
    intro f s e e' u hx hh hr va z back kills
    have hact {a : Act} (h : tretFrame f e' z va = a) : exec (.tret f) s = .next (after s e rowTret f a) := by
      rw [execTret_eq, issue_executes _ hx, ← h]
      simp [tretAct, hh, hr, z, va]
    refine ⟨fun hz => hact ?_, fun ls hz hf hp => hact ?_,
      fun ls v hz hf => ⟨fun hv => hact ?_, fun bs hv hl => hact ?_, fun bs h hv hl hb => hact ?_⟩⟩
    · simp [tretFrame, hz, tretKill, kills]
    · simp [tretFrame, hz, hf, hp, tretPark, parks]
    · rw [tretFrame_of_here hz hf]
      simp [tretRead, hv, tretKill, kills]
    · rw [tretFrame_of_here hz hf]
      simp only [tretRead, hv]
      exact tretReturn_of_plain _ hl
    · rw [tretFrame_of_here hz hf]
      simp only [tretRead, hv]
      exact tretReturn_of_recorded hl hb

end Sys2Proof
end

section
/-!
ARRIVALS AT A RENDEZVOUS (12 R259 to R262; 04 R111 to R114): O20.
-/
namespace Sys2Proof
open Machine

/-! ## The groups of a cluster-group -/

/-- An update of a group that keeps its place among its peers. -/
theorem peers_modGroup {s : State} {key k : Nat} {f : Group → Group} (hf : ∀ g, (f g).grid = g.grid ∧ (f g).index = g.index) :
    (s.modGroup key f).peers k = s.peers k := by
  have hsome (j : Nat) : ((s.modGroup key f).group? j).isSome = (s.group? j).isSome := by
    rw [group?_modGroup]
    split
    · next h => subst h; simp
    · rfl
  have hgrid (n : Nat) : (s.modGroup key f).grid? n = s.grid? n := by simp [State.grid?]
  unfold State.peers
  rw [group?_modGroup]
  by_cases h : k = key
  · subst h
    cases hg : s.group? k with
    | none => simp
    | some g =>
      obtain ⟨hgr, hix⟩ := hf g
      simp [hgrid, hsome, hgr, hix, clusterGroupKeys]
  · simp [h, hgrid, hsome]

/-! ## A rendezvous dissolved (04 R114) -/

theorem raiseTrap_of_killed {s : State} {r : CtxRef} {g : Group} {t : TrapInfo} (hg : s.group? r.group = some g)
    (hk : g.state = .killed) : raiseTrap s r t = s := by
  unfold raiseTrap
  rw [hg]
  cases s.hart? r with
  | none => rfl
  | some h =>
    cases hgr : s.grid? g.grid with
    | none => simp [hgr]
    | some gr => simp [hgr, hk]

/-- A trap ends a group without a vector. -/
theorem raiseTrap_of_no_vector {s : State} {key tid : Nat} {g : Group} {gr : Grid} {h : Hart} {t : TrapInfo}
    (hg : s.group? key = some g) (hgr : s.grid? g.grid = some gr) (hh : s.hart? { group := key, who := .thread tid } = some h)
    (hv : Hdr.trapEn gr.header = false) (hr : g.rollback = false) (hk : g.state ≠ .killed) (he : g.state ≠ .retired) :
    ∃ aux, raiseTrap s { group := key, who := .thread tid } t = killGroup s key t.cause t.pc.toNat aux h.quad := by
  refine ⟨if t.addr ≠ 0 then t.addr.toNat % 2 ^ 32 else t.aux.toNat, ?_⟩
  simp [raiseTrap, hg, hgr, hh, hv, hr, hk, he, Who.isSteward]

/-- A killed group stays killed as the members leave. -/
theorem trapMembers_of_killed {s : State} {key : Nat} {c : Cause} (ts : List Nat) {g : Group} (hg : s.group? key = some g)
    (hk : g.state = .killed) : ∃ g', (trapMembers s key c ts).group? key = some g' ∧ g'.state = .killed := by
  induction ts generalizing s g with
  | nil => exact ⟨g, hg, hk⟩
  | cons t ts ih =>
    unfold trapMembers
    dsimp only
    split
    · rw [raiseTrap_of_killed hg hk]
      obtain ⟨g', hg', k'⟩ := (KillFrame.settlePeers (.refl s)).groups key g hg
      exact ih hg' (k'.killed hk)
    · exact ih hg hk

/-- The members of a group without a vector leave with its kill. -/
theorem trapMembers_kills {s : State} {key : Nat} {c : Cause} {ts : List Nat} {g : Group} {gr : Grid} (hg : s.group? key = some g)
    (hgr : s.grid? g.grid = some gr) (hp : key ∈ s.peers key) (hv : Hdr.trapEn gr.header = false) (hr : g.rollback = false)
    (hk : g.state ≠ .killed) (he : g.state ≠ .retired) (ht : ∃ t, t ∈ ts ∧ (g.threads[t]?).isSome) :
    ∃ g', (trapMembers s key c ts).group? key = some g' ∧ g'.state = .killed := by
  induction ts with
  | nil => simp at ht
  | cons t ts ih =>
    unfold trapMembers
    dsimp only
    cases hh : s.hart? { group := key, who := .thread t } with
    | none =>
      refine ih ?_
      obtain ⟨x, hx, hs⟩ := ht
      rcases List.mem_cons.mp hx with rfl | hx
      · rw [hart?_thread hg] at hh
        simp [hh] at hs
      · exact ⟨x, hx, hs⟩
    | some h =>
      obtain ⟨aux, htrap⟩ := raiseTrap_of_no_vector (t := { cause := c, pc := h.pc, insn := h.insn }) hg hgr hh hv hr hk he
      obtain ⟨g₁, h₁, k₁⟩ := killGroup_kills (cause := c) (pc := h.pc.toNat) (aux := aux) (quad := h.quad) hp hg he
      obtain ⟨g₂, h₂, k₂⟩ := (KillFrame.settlePeers (.refl _)).groups key g₁ h₁
      simp only [htrap]
      exact trapMembers_of_killed ts h₂ (k₂.killed k₁)

/-- A rendezvous out of its group. -/
theorem dissolve_kills {s : State} {key : Nat} {c : Cause} {i : Rdv} {g : Group} {gr : Grid} (hg : s.group? key = some g)
    (hgr : s.grid? g.grid = some gr) (hp : key ∈ s.peers key) (hv : Hdr.trapEn gr.header = false) (hr : g.rollback = false)
    (hk : g.state ≠ .killed) (he : g.state ≠ .retired) (ha : ∃ a, a ∈ i.arrivals ∧ (g.threads[a.tid]?).isSome) :
    ∃ g', (dissolve s key c i).group? key = some g' ∧ g'.state = .killed := by
  obtain ⟨a, ha, ht⟩ := ha
  refine trapMembers_kills (g := { g with rdvs := g.rdvs.filter fun x => x != i }) (gr := gr) ?_ ?_ ?_ hv hr hk he
    ⟨a.tid, List.mem_map_of_mem ha, ht⟩
  · simp [group?_modGroup, hg]
  · simpa [State.grid?] using hgr
  · exact (peers_modGroup (f := fun g => { g with rdvs := g.rdvs.filter fun x => x != i }) fun _ => ⟨rfl, rfl⟩).symm ▸ hp

/-! ## An arrival (04 R112) -/

section
variable {s : State} {e : Env} {row : OpRow} {f : Form}

/-- The open instances that the mask of an arrival meets. -/
def rdvMet (e : Env) (s : State) (row : OpRow) (f : Form) : List Rdv :=
  e.g.rdvs.filter fun j => (openRdv e row f (BitVec.ofNat 64 (e.A s row f))).overlaps j && !j.complete

/-- The mask names the thread that arrives and none that is gone. -/
def rdvNamed (e : Env) (s : State) (row : OpRow) (f : Form) : Prop :=
  (BitVec.ofNat 64 (e.A s row f)).toNat.testBit (e.tid % 64) = true ∧ namesGone e (BitVec.ofNat 64 (e.A s row f)) = false

/-- What arrives. -/
def rdvMe (e : Env) (s : State) (row : OpRow) (f : Form) : Arrival :=
  { tid := e.tid, b := e.B s row f, c := e.C s row f, p := e.B s row f == 1, form := f }

theorem rdvAct_of_first (h : rdvNamed e s row f) (hm : rdvMet e s row f = []) : rdvAct s e row f
    = .block .rdv (s.modGroup e.r.group fun g => { g with
        rdvs := g.rdvs ++ [{ openRdv e row f (BitVec.ofNat 64 (e.A s row f)) with arrivals := [rdvMe e s row f] }] }) := by
  unfold rdvMet at hm
  simp only [rdvAct, h.1, h.2, hm]
  rfl

theorem rdvAct_of_joins (h : rdvNamed e s row f) (hm : rdvMet e s row f ≠ [])
    (hk : ∀ j, j ∈ rdvMet e s row f → (openRdv e row f (BitVec.ofNat 64 (e.A s row f))).sameKey j = true) : rdvAct s e row f
    = .block .rdv (s.modGroup e.r.group fun g => { g with
        rdvs := g.rdvs.map fun j => if (rdvMet e s row f).contains j then { j with arrivals := j.arrivals ++ [rdvMe e s row f] } else j }) := by
  have hall := List.all_eq_true.mpr hk
  have hne := List.isEmpty_eq_false_iff.mpr hm
  unfold rdvMet at hall hne
  simp only [rdvAct, h.1, h.2, hall, hne]
  rfl

theorem rdvAct_of_conflict (h : rdvNamed e s row f)
    (hk : ∃ j, j ∈ rdvMet e s row f ∧ (openRdv e row f (BitVec.ofNat 64 (e.A s row f))).sameKey j = false) : rdvAct s e row f
    = .raw (raiseTrap (dissolveAll s e.r.group .rdvMaskMismatch (rdvMet e s row f)) e.r
        { cause := .rdvMaskMismatch, pc := e.h.pc, insn := wordOf row f }) := by
  obtain ⟨j, hj, hk⟩ := hk
  have hall : (rdvMet e s row f).all (openRdv e row f (BitVec.ofNat 64 (e.A s row f))).sameKey = false :=
    List.all_eq_false.mpr ⟨j, hj, by simp [hk]⟩
  have hne := List.isEmpty_eq_false_iff.mpr (List.ne_nil_of_mem hj)
  unfold rdvMet at hall hne
  simp only [rdvAct, h.1, h.2, hall, hne]
  rfl

theorem rdvAct_of_gone (h : (BitVec.ofNat 64 (e.A s row f)).toNat.testBit (e.tid % 64) = true)
    (hg : namesGone e (BitVec.ofNat 64 (e.A s row f)) = true) : rdvAct s e row f = .trap { cause := .rdvExited, pc := 0 } := by
  simp only [rdvAct, h, hg]
  rfl

theorem rdvAct_of_omitted (h : (BitVec.ofNat 64 (e.A s row f)).toNat.testBit (e.tid % 64) = false) :
    rdvAct s e row f = .trap { cause := .rdvSelfOmitted, pc := 0 } := by
  simp only [rdvAct, h]
  rfl

end

/-- Settles O20: every rendezvous instruction arrives by `rdvAct`, whose cases are those of the statement, and the kill is `dissolve_kills`. -/
theorem rendezvousArrivals : Obligations.RendezvousArrivals := by
  unfold Obligations.RendezvousArrivals
  intro arrives
  have hall (i : Form → Instr) (row : OpRow) (hi : ∀ f s, exec (i f) s = issue row f s fun e s => rdvAct s e row f) : arrives i row := by
    refine ⟨?_, ?_, ?_, ?_, ?_⟩
    · exact performs_of_issue hi fun f e u h => rdvAct_of_first h.1 h.2
    · exact performs_of_issue hi fun f e u h => rdvAct_of_joins h.1 h.2.1 h.2.2
    · exact performs_of_issue hi fun f e u h => rdvAct_of_conflict h.1 h.2
    · exact performs_of_issue hi fun f e u h => rdvAct_of_gone h.1 h.2
    · exact performs_of_issue hi fun f e u h => rdvAct_of_omitted h
  refine ⟨?_, ?_, ?_, ?_, ?_, ?_, ?_, fun s key c i g gr => dissolve_kills, fun s key c i is => ⟨rfl, rfl⟩⟩
  all_goals exact hall _ _ fun _ _ => rfl

end Sys2Proof
end

section
/-!
BARRIER INSTRUCTIONS (12 R263; 04 R102 to R108): O22.
-/
namespace Sys2Proof
open Machine

/-! ## Updates of one context in turn -/

@[simp] theorem mapPut_mapPut {α : Type} (m : Map α) (k : Nat) (v w : α) : mapPut (mapPut m k v) k w = mapPut m k w := by
  induction m with
  | nil => simp [mapPut]
  | cons x m ih => grind [mapPut]

theorem setGroup_setGroup (s : State) (k : Nat) (g g' : Group) : (s.setGroup k g).setGroup k g' = s.setGroup k g' := by
  simp [State.setGroup]

theorem setHart_setHart (g : Group) (w : Who) (h h' : Hart) : (g.setHart w h).setHart w h' = g.setHart w h' := by
  cases w <;> simp [Group.setHart]

/-- A context changed twice. -/
theorem modHart_modHart (s : State) (r : CtxRef) (k k' : Hart → Hart) :
    (s.modHart r k).modHart r k' = s.modHart r fun h => k' (k h) := by
  cases hg : s.group? r.group with
  | none => simp [State.modHart, State.hart?, hg]
  | some g =>
    cases hh : g.hart? r.who with
    | none => simp [State.modHart, State.hart?, hg, hh]
    | some h =>
      have hset := hart?_setHart_same (k := k h) hh
      simp [State.modHart, State.setHart, State.hart?, hg, hh, hset, setGroup_setGroup, setHart_setHart]

/-! ## The barrier that an instruction names (04 R107) -/

/-- The number of a barrier is one of the group's, or of the cluster-group's. -/
def barNumbered (cluster : Bool) (f : Form) (e : Env) : Prop :=
  if cluster then f.imm.toNat ≤ 7 ∧ Hdr.cgroup e.hdr ≠ 1 else f.imm.toNat ≤ 15

/-- Its place in the list of barriers. -/
def barPlace (cluster : Bool) (f : Form) : Nat := if cluster then f.imm.toNat + 16 else f.imm.toNat

/-- The check of its number. -/
theorem barNumbered_iff (c : Bool) (f : Form) (e : Env) : barNumbered c f e ↔
    (if c then decide (7 < f.imm.toNat) || Hdr.cgroup e.hdr == 1 else decide (15 < f.imm.toNat)) = false := by
  cases c <;> simp [barNumbered]

theorem barOf_of_unnumbered {c : Bool} {f : Form} {e : Env} (h : ¬ barNumbered c f e) : barOf e c f = .error .barId := by
  rw [barNumbered_iff, Bool.not_eq_false] at h
  exact if_pos h

theorem barOf_of_stranger {c : Bool} {f : Form} {e : Env} (h : barNumbered c f e) (hs : e.steward = true)
    (hm : Hdr.stewardMember e.hdr = false) : barOf e c f = .error .barMembership := by
  rw [barNumbered_iff] at h
  simp only [barOf, h, hs, hm]
  rfl

theorem barOf_of_fits {c : Bool} {f : Form} {e : Env} (h : barNumbered c f e)
    (hm : e.steward = true → Hdr.stewardMember e.hdr = true) : barOf e c f = .ok (barPlace c f) := by
  rw [barNumbered_iff] at h
  have hm : (e.steward && !Hdr.stewardMember e.hdr) = false := by
    cases hs : e.steward
    · rfl
    · simp [hm hs]
  simp only [barOf, h, hm]
  rfl

/-- The instruction may use the barrier that it names. -/
def barFits (c : Bool) (f : Form) (e : Env) : Prop := barNumbered c f e ∧ (e.steward = true → Hdr.stewardMember e.hdr = true)

/-- A BAR is met again behind its arrival (04 R108). -/
theorem restart_eq_false {h : Hart} {b : Nat} (hr : h.taken ≠ some b ∨ h.regionPc ≠ h.pc) :
    (h.taken == some b && h.regionPc == h.pc) = false := by
  rcases hr with hr | hr <;> simp [hr]

theorem barAt_beq_of_ne {h : Hart} {b : Nat} (hb : h.barAt b ≠ .idle) : (h.barAt b != .idle) = true := bne_iff_ne.mpr hb

/-- A completed wait is an acquire and a region boundary. -/
theorem passBar_eq_boundaryAfter {u : State} {e : Env} (x : Holds u e) (b : Nat) :
    settleMark (u.modHart e.r fun h => h.passBar b) e.r.group
      = boundaryAfter (u.modHart e.r fun h => { h.setBar b .idle with taken := none, acqId := h.nextId }) e := by
  rw [boundaryAfter, modHart_modHart]
  exact congrArg (settleMark · e.r.group) (x.modHart_eq fun c => rfl)

/-- What the instructions of one kind of barrier do; those of a group and of a cluster-group differ in the numbers alone. -/
theorem barrier_family (c : Bool) {rowB rowA rowW : OpRow} {bar arrive wait : Form → Instr}
    (hB : ∀ f s, exec (bar f) s = issue rowB f s fun e s => barAct s e c f)
    (hA : ∀ f s, exec (arrive f) s = issue rowA f s fun e s => arriveAct s e c f)
    (hW : ∀ f s, exec (wait f) s = issue rowW f s fun e s => waitAct s e c f) :
    Performs bar rowB (fun f e _ => barFits c f e ∧ e.h.barAt (barPlace c f) = .idle
        ∧ (e.h.taken ≠ some (barPlace c f) ∨ e.h.regionPc ≠ e.h.pc))
      (fun f e s => .block (.bar (barPlace c f)) (s.modHart e.r fun h => { h with arrival := some (barPlace c f, true, e.h.pc) }))
    ∧ Performs bar rowB (fun f e _ => barFits c f e ∧ e.h.taken = some (barPlace c f) ∧ e.h.regionPc = e.h.pc)
      (fun f e s => waitHalf s e (barPlace c f))
    ∧ Performs arrive rowA (fun f e _ => barFits c f e ∧ e.h.barAt (barPlace c f) = .idle)
      (fun f e s => .done (s.modHart e.r fun h => { h with arrival := some (barPlace c f, false, e.h.pc + 12) }))
    ∧ Performs wait rowW (fun f e _ => barFits c f e ∧ e.h.barAt (barPlace c f) = .done ∧ e.h.stores = [])
      (fun f e s => .done (boundaryAfter (s.modHart e.r fun h =>
        { h.setBar (barPlace c f) .idle with taken := none, acqId := h.nextId }) e))
    ∧ Performs wait rowW (fun f e _ => barFits c f e ∧ e.h.barAt (barPlace c f) = .arrived ∧ e.h.stores = [])
      (fun f _ s => .block (.bar (barPlace c f)) s)
    ∧ Performs wait rowW (fun f e _ => barFits c f e ∧ e.h.barAt (barPlace c f) ≠ .idle ∧ e.h.stores ≠ []) (fun _ _ _ => .hold)
    ∧ Performs wait rowW (fun f e _ => barFits c f e ∧ e.h.barAt (barPlace c f) = .idle)
      (fun _ _ _ => .trap { cause := .barSequence, pc := 0 })
    ∧ Performs arrive rowA (fun f e _ => barFits c f e ∧ e.h.barAt (barPlace c f) ≠ .idle)
      (fun _ _ _ => .trap { cause := .barSequence, pc := 0 })
    ∧ Performs bar rowB (fun f e _ => barFits c f e ∧ e.h.barAt (barPlace c f) ≠ .idle
        ∧ (e.h.taken ≠ some (barPlace c f) ∨ e.h.regionPc ≠ e.h.pc)) (fun _ _ _ => .trap { cause := .barSequence, pc := 0 }) := by
  refine ⟨?arrives, ?restarted, ?arrive, ?passes, ?waits, ?held, ?idle, ?again, ?reused⟩
  case passes =>
    refine performs_of_executes hW fun f s e e' u hx ⟨⟨hn, hm⟩, hb, hs⟩ => ?_
    simp [waitAct, barOf_of_fits hn hm, waitHalf, hb, hs, passBar_eq_boundaryAfter hx.holds]
  case arrives =>
    refine performs_of_issue hB fun f e u ⟨⟨hn, hm⟩, hb, hr⟩ => ?_
    simp [barAct, barOf_of_fits hn hm, hb, restart_eq_false hr]
  case restarted =>
    refine performs_of_issue hB fun f e u ⟨⟨hn, hm⟩, ht, hp⟩ => ?_
    simp [barAct, barOf_of_fits hn hm, ht, hp]
  case arrive =>
    refine performs_of_issue hA fun f e u ⟨⟨hn, hm⟩, hb⟩ => ?_
    simp [arriveAct, barOf_of_fits hn hm, hb]
  case waits =>
    refine performs_of_issue hW fun f e u ⟨⟨hn, hm⟩, hb, hs⟩ => ?_
    simp [waitAct, barOf_of_fits hn hm, waitHalf, hb, hs]
  case held =>
    refine performs_of_issue hW fun f e u ⟨⟨hn, hm⟩, hb, hs⟩ => ?_
    simp only [waitAct, barOf_of_fits hn hm, waitHalf]
    split
    · next h => exact absurd h hb
    · simp [hs]
    · simp [hs]
  case idle =>
    refine performs_of_issue hW fun f e u ⟨⟨hn, hm⟩, hb⟩ => ?_
    simp [waitAct, barOf_of_fits hn hm, waitHalf, hb]
  case again =>
    refine performs_of_issue hA fun f e u ⟨⟨hn, hm⟩, hb⟩ => ?_
    simp [arriveAct, barOf_of_fits hn hm, hb]
  case reused =>
    refine performs_of_issue hB fun f e u ⟨⟨hn, hm⟩, hb, hr⟩ => ?_
    simp [barAct, barOf_of_fits hn hm, hb, restart_eq_false hr]

/-- An instruction whose barrier is not its own traps. -/
theorem barrier_refused {c : Form → Bool} {row : OpRow} {i : Form → Instr} {go : Form → Env → State → Nat → Act}
    (hi : ∀ f s, exec (i f) s = issue row f s fun e s => match barOf e (c f) f with
      | .error x => .trap { cause := x, pc := 0 }
      | .ok b => go f e s b) :
    Performs i row (fun f e _ => ¬ barNumbered (c f) f e) (fun _ _ _ => .trap { cause := .barId, pc := 0 })
    ∧ Performs i row (fun f e _ => barNumbered (c f) f e ∧ e.steward = true ∧ Hdr.stewardMember e.hdr = false)
        (fun _ _ _ => .trap { cause := .barMembership, pc := 0 }) := by
  constructor
  · exact performs_of_issue hi fun f e u h => by simp only [barOf_of_unnumbered h]
  · exact performs_of_issue hi fun f e u ⟨h, hs, hm⟩ => by simp only [barOf_of_stranger h hs hm]

/-- Settles O22: the two kinds of barrier are one family (`barrier_family`), and BTEST reads the state of the barrier it names. -/
theorem barrierInstructions : Obligations.BarrierInstructions := by
  unfold Obligations.BarrierInstructions
  intro numbered fits refused place family
  have hfamily (c : Bool) {rowB rowA rowW : OpRow} {bar arrive wait : Form → Instr}
      (hB : ∀ f s, exec (bar f) s = issue rowB f s fun e s => barAct s e c f)
      (hA : ∀ f s, exec (arrive f) s = issue rowA f s fun e s => arriveAct s e c f)
      (hW : ∀ f s, exec (wait f) s = issue rowW f s fun e s => waitAct s e c f) : family c rowB rowA rowW bar arrive wait := by
    obtain ⟨h₁, h₂, h₃, h₄, h₅, h₆, h₇, h₈, h₉⟩ := barrier_family c hB hA hW
    exact ⟨h₁, h₂, h₃, h₄, h₅, h₆, h₇, h₈, h₉, barrier_refused (c := fun _ => c) hB, barrier_refused (c := fun _ => c) hA,
      barrier_refused (c := fun _ => c) hW⟩
  refine ⟨hfamily false (fun _ _ => rfl) (fun _ _ => rfl) fun _ _ => rfl, hfamily true (fun _ _ => rfl) (fun _ _ => rfl) fun _ _ => rfl,
    ?arrived, ?done, ?idle, barrier_refused fun _ _ => rfl⟩
  all_goals
    refine performs_of_issue (fun _ _ => rfl) fun f e u ⟨⟨hn, hm⟩, hb⟩ => ?_
    have hb : e.h.barAt (barPlace (f.op2 == 1) f) = _ := hb
    simp only [barOf_of_fits hn hm, hb]

end Sys2Proof
end

section
/-!
FENCE, TRIG AND WAITA (12 R264 to R266; 13 R276, R287): O23.
-/
namespace Sys2Proof
open Machine

theorem failAccess_of_trap {s : State} {e : Env} {a : Access} {c : Cause} (h : c ≠ .walkUe) : failAccess s e a c = .trap (a.trap e c) :=
  if_neg h

/-- Settles O23: each form takes the branch that its condition names. -/
theorem fenceAndEvents : Obligations.FenceAndEvents := by
  unfold Obligations.FenceAndEvents
  intro acc home
  refine ⟨?thread, ?acquire, ?release, ?both, ?held, ?trig, ?trigHeld, ?waita, ?waitaFails⟩
  case waita =>
    intro f s e e' u z p host v w hx hr ha hv cmp
    obtain ⟨rfl, hc⟩ := hr
    have hread {a : Act} (h : (if cmp ≤ v then Act.done ((writeDst w e' rowWaita f v).modHart e'.r Hart.acquire)
        else .block (.waita p f.sub.toNat (Ty.size f.ty) cmp (writeRegs e'.steward f.fields rowWaita.d f.d)) w) = a) :
        exec (.waita f) s = .next (after s e rowWaita f a) := by
      refine (issue_executes _ hx).trans ?_
      simp only [acc] at hc ha hv
      simp only [hc, ha, hv, ← h]
      rfl
    exact ⟨fun hle => hread (if_pos hle), fun hlt => hread (if_neg (Nat.not_le.mpr hlt))⟩
  case waitaFails =>
    intro f s e e' u c hx hf
    obtain ⟨hc, hw⟩ := hf
    refine (issue_executes _ hx).trans ?_
    simp only [acc] at hc ⊢
    simp only [hc, failAccess_of_trap hw]
  all_goals refine performs_of_issue (fun _ _ => rfl) fun f e u hc => ?_
  case thread => simp [hc]
  case acquire =>
    obtain ⟨h0, h1⟩ := hc
    simp only [beq_eq_false_iff_ne.mpr h0, h1]
    rfl
  case release =>
    obtain ⟨h0, h2, hs, hl⟩ := hc
    simp only [beq_eq_false_iff_ne.mpr h0, h2, hs, hl]
    rfl
  case both =>
    obtain ⟨h0, h3, hs, hl⟩ := hc
    simp only [beq_eq_false_iff_ne.mpr h0, h3, hs, hl]
    rfl
  case held =>
    obtain ⟨h0, h2, hb⟩ := hc
    have hrel : (f.op2 == 2 || f.op2 == 3) = true := by simpa only [Bool.or_eq_true, beq_iff_eq] using h2
    have hbusy : (!e.h.stores.isEmpty || linkBusy u e.r) = true := by simpa using hb
    simp only [beq_eq_false_iff_ne.mpr h0, hrel, hbusy]
    rfl
  case trig => simp [hc.1, hc.2]
  case trigHeld =>
    have hbusy : (!e.h.stores.isEmpty || linkBusy u e.r) = true := by simpa using hc
    simp [hbusy]

end Sys2Proof
end

section
/-!
MEMORY AS BYTES (13 R275; 05 R123): O28.
-/
namespace Sys2Proof
open Machine

theorem natOfLe_bytesOfNat (n v : Nat) : natOfLe (bytesOfNat n v) = v % 2 ^ (8 * n) := by
  induction n generalizing v with
  | zero => simp [bytesOfNat, natOfLe, Nat.mod_one]
  | succ n ih =>
    rw [bytesOfNat, natOfLe, ih, Nat.shiftRight_eq_div_pow, Nat.mul_succ, Nat.add_comm (8 * n), Nat.pow_add, Nat.mod_mul]
    simp

theorem getElem?_bytesOfNat {n i : Nat} (hi : i < n) (v : Nat) : (bytesOfNat n v)[i]? = some (BitVec.ofNat 8 (v / 2 ^ (8 * i))) := by
  induction n generalizing i v with
  | zero => omega
  | succ n ih =>
    cases i with
    | zero => simp [bytesOfNat]
    | succ i =>
      rw [bytesOfNat, List.getElem?_cons_succ, ih (by omega), Nat.shiftRight_eq_div_pow, Nat.div_div_eq_div_mul, ← Nat.pow_add,
        Nat.mul_succ, Nat.add_comm 8]

theorem length_bytesOfNat (n v : Nat) : (bytesOfNat n v).length = n := by
  induction n generalizing v with
  | zero => rfl
  | succ n ih => simp [bytesOfNat, ih]

/-- Bytes written in a row: each address of the row reads its byte, every other reads as before. -/
theorem memGet_memSetBytes {m : Memory} (h : Memory.wf m = true) {a : Nat} {bs : List Byte} (ht : a + bs.length ≤ memTop) (x : Nat) :
    memGet (memSetBytes m a bs) x = if a ≤ x ∧ x < a + bs.length then bs.getD (x - a) 0 else memGet m x := by
  induction bs generalizing m a with
  | nil => simp [memSetBytes, Nat.not_lt.mpr]
  | cons b bs ih =>
    rw [List.length_cons] at ht ⊢
    rw [memSetBytes, ih (memSet_wf h a b) (by omega), memGet_memSet h]
    by_cases hx : x = a
    · subst hx
      rw [if_neg (by omega), if_pos ⟨rfl, by omega⟩, if_pos (by omega)]
      simp
    · by_cases hin : a ≤ x ∧ x < a + (bs.length + 1)
      · rw [if_pos (by omega), if_pos hin, show x - a = (x - (a + 1)) + 1 by omega, List.getD_cons_succ]
      · rw [if_neg (by omega), if_neg (by omega), if_neg hin]

/-- What is written in a row is read back there. -/
theorem memBytes_eq {m : Memory} {a : Nat} {bs : List Byte} (h : ∀ i, i < bs.length → memGet m (a + i) = bs.getD i 0) :
    memBytes m a bs.length = bs := by
  induction bs generalizing a with
  | nil => rfl
  | cons b bs ih =>
    rw [List.length_cons, memBytes, ih fun i hi => ?_]
    · simpa using h 0 (by simp)
    · have := h (i + 1) (by simpa using hi)
      rwa [List.getD_cons_succ, ← Nat.add_assoc, Nat.add_right_comm] at this

theorem memBytes_memSetBytes {m : Memory} (h : Memory.wf m = true) {a : Nat} {bs : List Byte} (ht : a + bs.length ≤ memTop) :
    memBytes (memSetBytes m a bs) a bs.length = bs :=
  memBytes_eq fun i hi => by
    rw [memGet_memSetBytes h ht, if_pos (by omega), Nat.add_sub_cancel_left]

/-- Settles O28, by what each byte reads after a write in a row (`memGet_memSetBytes`) and after a zeroing (`memGet_memZero`). -/
theorem memoryBytes : Obligations.MemoryBytes := by
  unfold Obligations.MemoryBytes
  intro m a n v h ht
  have hlen := length_bytesOfNat n v
  have ht : a + (bytesOfNat n v).length ≤ memTop := by rwa [hlen]
  refine ⟨memSetBytes_wf h a _, ?value, ?byte, ?frame, memZero_wf h a n, memGet_memZero h a n, fun m' h' he => memory_ext h h' he⟩
  case value =>
    have hb := memBytes_memSetBytes h ht
    rw [hlen] at hb
    rw [memNat, hb, natOfLe_bytesOfNat]
  case byte =>
    intro i hi
    rw [memGet_memSetBytes h ht, if_pos (by omega), Nat.add_sub_cancel_left, List.getD_eq_getElem?_getD, getElem?_bytesOfNat hi]
    simp
  case frame =>
    intro x hx
    rw [memGet_memSetBytes h ht, if_neg (by omega)]

end Sys2Proof
end

section
/-!
ATOMIC OPERATIONS AND THE RESIDUE ACCUMULATOR (13 R285; 01 R37 to R40): O27.
-/
namespace Sys2Proof
open Machine

/-! ## Integers in memory -/

/-- The integer types of the atomics fill their bytes. -/
theorem size_of_atomic {ty : Ty} (h : ty ∈ [Ty.i32, .n32, .i64, .n64]) : 8 * Ty.size ty = tyBits ty ∧ (ty == .f32) = false
    ∧ (ty == .i32 || ty == .i64) = tySigned ty := by
  simp only [List.mem_cons, List.not_mem_nil, or_false] at h
  rcases h with rfl | rfl | rfl | rfl <;> exact ⟨rfl, rfl, rfl⟩

/-- The order that MIN and MAX use is that of the numbers. -/
theorem atomLess_iff {ty : Ty} {a b : Nat} (ha : a < 2 ^ tyBits ty) (hb : b < 2 ^ tyBits ty) :
    (if tySigned ty then decide (sext a (tyBits ty) < sext b (tyBits ty)) else decide (a < b)) = true ↔ asInt ty a < asInt ty b := by
  unfold asInt
  split
  · simp
  · simp [zext, Nat.mod_eq_of_lt ha, Nat.mod_eq_of_lt hb]

/-- The smaller of two is chosen by one comparison, and the larger. -/
theorem asInt_choice {ty : Ty} {a b : Nat} {p : Prop} [Decidable p] (hp : p ↔ asInt ty b < asInt ty a) :
    asInt ty (if p then b else a) = min (asInt ty a) (asInt ty b) ∧ asInt ty (if p then a else b) = max (asInt ty a) (asInt ty b) := by
  by_cases h : p
  · have := hp.mp h
    simp only [h, if_true]
    omega
  · have := mt hp.mpr h
    simp only [h, if_false]
    omega

/-! ## The four residues of a word (01 R37, R38) -/

theorem field_accWord {a b c k : Nat} (ha : a < 2 ^ 10) (hb : b < 2 ^ 10) (hc : c < 2 ^ 11) (hk : k < 2 ^ 9) :
    resA (accWord a b c k) = a ∧ resB (accWord a b c k) = b ∧ resC (accWord a b c k) = c ∧ resChk (accWord a b c k) = k := by
  simp only [resA, resB, resC, resChk, field, bitsOf, accWord, BitVec.toNat_ofNat, Nat.shiftRight_eq_div_pow]
  omega

/-- A word is its four residues. -/
theorem accWord_res (w : BitVec 40) : accWord (resA w) (resB w) (resC w) (resChk w) = w := by
  have hw := w.isLt
  refine BitVec.eq_of_toNat_eq ?_
  simp only [resA, resB, resC, resChk, field, bitsOf, accWord, BitVec.toNat_ofNat, Nat.shiftRight_eq_div_pow]
  omega

theorem addMod_lt (r : Nat) (v : Int) {m : Nat} (hm : 0 < m) : addMod r v m < m := by
  unfold addMod
  have h0 := Int.emod_nonneg ((r : Int) + v) (b := (m : Int)) (by omega)
  have h1 := Int.emod_lt_of_pos ((r : Int) + v) (b := (m : Int)) (by omega)
  omega

theorem addMod_addMod (r : Nat) (v w : Int) {m : Nat} (hm : 0 < m) : addMod (addMod r v m) w m = addMod r (v + w) m := by
  unfold addMod
  rw [Int.toNat_of_nonneg (Int.emod_nonneg _ (by omega)), Int.emod_add_emod, Int.add_assoc]

/-- The residues after a sum is added. -/
theorem res_accAdd (w : BitVec 40) (v : Int) :
    resA (accAdd w v) = addMod (resA w) v 1023 ∧ resB (accAdd w v) = addMod (resB w) v 1024
    ∧ resC (accAdd w v) = addMod (resC w) v 1025 ∧ resChk (accAdd w v) = addMod (resChk w) v 511 := by
  have ha := addMod_lt (resA w) v (m := 1023) (by decide)
  have hb := addMod_lt (resB w) v (m := 1024) (by decide)
  have hc := addMod_lt (resC w) v (m := 1025) (by decide)
  have hk := addMod_lt (resChk w) v (m := 511) (by decide)
  exact field_accWord (by omega) (by omega) (by omega) (by omega)

theorem accAdd_accAdd (w : BitVec 40) (a b : Int) : accAdd (accAdd w a) b = accAdd w (a + b) := by
  obtain ⟨ha, hb, hc, hk⟩ := res_accAdd w a
  rw [accAdd, ha, hb, hc, hk, addMod_addMod _ _ _ (by decide), addMod_addMod _ _ _ (by decide), addMod_addMod _ _ _ (by decide),
    addMod_addMod _ _ _ (by decide)]
  rfl

/-! ## Mixed radix (01 R40) -/

/-- The digits of a number below `1023 · 1024 · 1025` from its residues. -/
theorem mixedRadix {u : Int} (h0 : 0 ≤ u) (h1 : u < 1073740800) :
    u % 1023 + 1023 * ((u % 1023 - u % 1024) % 1024)
      + 1047552 * (((u % 1023 - u % 1024) % 1024 + 513 * (u % 1025 - u % 1023)) % 1025) = u := by
  have hB : (u % 1023 - u % 1024) % 1024 = u / 1023 % 1024 := by omega
  have hC : (u / 1023 % 1024 + 513 * (u % 1025 - u % 1023)) % 1025 = u / 1023 / 1024 := by omega
  rw [hB, hC]
  omega

/-- A word whose residues are those of a number in the range has that number as its value. -/
theorem accValue_of_res {w : BitVec 40} {v : Int} (h0 : -536870400 ≤ v) (h1 : v < 536870400) (ha : (resA w : Int) = v % 1023)
    (hb : (resB w : Int) = v % 1024) (hc : (resC w : Int) = v % 1025) (hk : (resChk w : Int) = v % 511) : accValue w = some v := by
  have hu := mixedRadix (u := v % 1073740800) (by omega) (by omega)
  have hA : v % 1073740800 % 1023 = v % 1023 := Int.emod_emod_of_dvd v (by decide)
  have hB : v % 1073740800 % 1024 = v % 1024 := Int.emod_emod_of_dvd v (by decide)
  have hC : v % 1073740800 % 1025 = v % 1025 := Int.emod_emod_of_dvd v (by decide)
  rw [hA, hB, hC, ← ha, ← hb, ← hc] at hu
  have hin : ¬ (decide (1022 < resA w) || decide (1024 < resC w) || decide (510 < resChk w)) = true := by
    simp only [Bool.or_eq_true, decide_eq_true_eq]
    omega
  unfold accValue
  rw [if_neg hin]
  dsimp only
  have hdB : (((((resA w : Int) - resB w) % 1024).toNat : Nat) : Int) = ((resA w : Int) - resB w) % 1024 := by omega
  have hdC : (((((((resA w : Int) - resB w) % 1024) + 513 * ((resC w : Int) - resA w)) % 1025).toNat : Nat) : Int)
      = ((((resA w : Int) - resB w) % 1024) + 513 * ((resC w : Int) - resA w)) % 1025 := by omega
  rw [hdB]
  generalize hdc : (((((resA w : Int) - resB w) % 1024) + 513 * ((resC w : Int) - resA w)) % 1025).toNat = dc at *
  rw [← hdC] at hu
  generalize hdb : (((resA w : Int) - resB w) % 1024).toNat = db at *
  rw [← hdB] at hu
  have hv : (if 536870400 ≤ resA w + 1023 * db + 1047552 * dc then ((resA w + 1023 * db + 1047552 * dc : Nat) : Int) - 1073740800
      else ((resA w + 1023 * db + 1047552 * dc : Nat) : Int)) = v := by
    clear hdb hdc hdB hdC hA hB hC ha hb hc hin
    split <;> omega
  rw [hv, if_pos (by omega)]

/-- The residues of the number that the digits give. -/
theorem residues_of_digits {a b c db dc : Nat} (ha : a ≤ 1022) (hb : b < 1024) (hc : c ≤ 1024)
    (hdb : (((a : Int) - b) % 1024).toNat = db) (hdc : (((db : Int) + 513 * ((c : Int) - a)) % 1025).toNat = dc) :
    (a + 1023 * db + 1047552 * dc) % 1023 = a ∧ (a + 1023 * db + 1047552 * dc) % 1024 = b
    ∧ (a + 1023 * db + 1047552 * dc) % 1025 = c ∧ a + 1023 * db + 1047552 * dc < 1073740800 := by
  refine ⟨?_, ?_, ?_, ?_⟩
  · omega
  · omega
  · omega
  · omega

/-- Only the word of a number in the range passes the check. -/
theorem accAdd_of_accValue {w : BitVec 40} {v : Int} (h : accValue w = some v) :
    -536870400 ≤ v ∧ v < 536870400 ∧ accAdd 0 v = w := by
  have hb : resB w < 1024 := Nat.mod_lt _ (by decide)
  unfold accValue at h
  dsimp only at h
  split at h
  · cases h
  · next hin =>
    simp only [Bool.or_eq_true, decide_eq_true_eq] at hin
    generalize hdb : (((resA w : Int) - resB w) % 1024).toNat = db at h
    generalize hdc : (((db : Int) + 513 * ((resC w : Int) - resA w)) % 1025).toNat = dc at h
    obtain ⟨hA, hB, hC, hu⟩ := residues_of_digits (by omega) hb (by omega) hdb hdc
    generalize resA w + 1023 * db + 1047552 * dc = u at *
    generalize hx : (if 536870400 ≤ u then (u : Int) - 1073740800 else (u : Int)) = x at h
    split at h
    · next hk =>
      obtain rfl : x = v := Option.some.inj h
      have hres : (x % 1023).toNat = u % 1023 ∧ (x % 1024).toNat = u % 1024 ∧ (x % 1025).toNat = u % 1025 := by
        clear hdb hdc hk h
        split at hx <;> omega
      refine ⟨by split at hx <;> omega, by split at hx <;> omega, ?_⟩
      rw [← accWord_res w, ← hA, ← hB, ← hC, ← hk, ← hres.1, ← hres.2.1, ← hres.2.2]
      simp [accAdd, addMod, resA, resB, resC, resChk, field, bitsOf]
    · cases h

/-- Settles O27. -/
theorem atomicAndResidueArithmetic : Obligations.AtomicAndResidueArithmetic := by
  unfold Obligations.AtomicAndResidueArithmetic
  refine ⟨?atomic, fun a b => accAdd_accAdd 0 a b, fun v h0 h1 => ?value, fun w v => accAdd_of_accValue⟩
  case value =>
    obtain ⟨ha, hb, hc, hk⟩ := res_accAdd 0 v
    refine accValue_of_res h0 h1 ?_ ?_ ?_ ?_
    all_goals
      simp only [ha, hb, hc, hk, addMod, show resA 0 = 0 from rfl, show resB 0 = 0 from rfl, show resC 0 = 0 from rfl,
        show resChk 0 = 0 from rfl]
      omega
  intro ty old c g hty ho hc w new
  obtain ⟨hsize, hf32, hsigned⟩ := size_of_atomic hty
  have hmin := (asInt_choice (atomLess_iff (ty := ty) hc ho)).1
  have hmax := (asInt_choice (atomLess_iff (ty := ty) ho hc)).2
  refine ⟨?sumCongruent, ?sumFits, ?and, ?or, ?xor, ?min, ?max, rfl, rfl, ?wrapDown, fun expected size => rfl⟩
  all_goals simp only [new, atomNew, hsize, hf32, hsigned, Bool.false_eq_true, if_false]
  case sumCongruent =>
    rw [Int.natCast_mod, Int.natCast_add]
    exact (Int.mod_modEq _ _).symm.dvd
  case sumFits => exact Nat.mod_lt _ (Nat.two_pow_pos _)
  case and => exact fun i => Nat.testBit_and ..
  case or => exact fun i => Nat.testBit_or ..
  case xor => exact fun i => Nat.testBit_xor ..
  case min => exact hmin
  case max => rw [hmax, Int.max_comm]
  case wrapDown => simp

end Sys2Proof
end

section
/-!
RANDOM NUMBERS (14 R317, R318): O35.
-/
namespace Sys2Proof
open Machine

/-- A fraction of 24 bits is a number of F32. -/
theorem roundMag_fraction {m : Nat} (h0 : m ≠ 0) (h : m < 2 ^ 24) :
    roundMag fF32 0 false m (-24) < fF32.infBits ∧ unitsOf fF32 (roundMag fF32 0 false m (-24)) = m * 2 ^ 125 := by
  have hlog : Nat.log2 m < 24 := (Nat.log2_lt h0).mpr h
  have hlow : 2 ^ Nat.log2 m ≤ m := Nat.log2_self_le h0
  have hhigh : m < 2 ^ (Nat.log2 m + 1) := Nat.lt_log2_self
  have hplace : lastPlace fF32 m (-24) = (Nat.log2 m : Int) - 47 := by
    have hq : fF32.qmin = -149 := rfl
    have hf : fF32.fbits = 23 := rfl
    rw [lastPlace, hq, hf]
    omega
  have hint : lastInt fF32 0 false m (-24) = m * 2 ^ (23 - Nat.log2 m) := by
    rw [lastInt, hplace, if_pos (by omega)]
    congr 2
    omega
  have hd : (lastPlace fF32 m (-24) - fF32.qmin).toNat = 102 + Nat.log2 m := by
    have hq : fF32.qmin = -149 := rfl
    rw [hplace, hq]
    omega
  generalize Nat.log2 m = l at *
  have hr0 : 2 ^ 23 ≤ m * 2 ^ (23 - l) := by
    calc 2 ^ 23 = 2 ^ l * 2 ^ (23 - l) := by rw [← Nat.pow_add]; congr 1; omega
      _ ≤ _ := Nat.mul_le_mul_right _ hlow
  have hr1 : m * 2 ^ (23 - l) < 2 ^ 24 := by
    calc m * 2 ^ (23 - l) < 2 ^ (l + 1) * 2 ^ (23 - l) := Nat.mul_lt_mul_of_pos_right hhigh (Nat.two_pow_pos _)
      _ = 2 ^ 24 := by rw [← Nat.pow_add]; congr 1; omega
  have hk : (102 + l) * 2 ^ 23 + m * 2 ^ (23 - l) < fF32.infBits := by
    have hi : fF32.infBits = 255 * 2 ^ 23 := rfl
    rw [hi]
    omega
  have hv : roundMag fF32 0 false m (-24) = (102 + l) * 2 ^ 23 + m * 2 ^ (23 - l) := by
    rw [roundMag_eq h0]
    dsimp only
    rw [hd, hint, show fF32.fbits = 23 from rfl, if_neg (Nat.not_le.mpr hk)]
    rfl
  rw [hv]
  refine ⟨hk, ?_⟩
  have hplaced := unitsOf_place (f := fF32) (d := 102 + l) (r := m * 2 ^ (23 - l)) (.inr hr0) hr1
    (Nat.lt_of_lt_of_le hk (by decide))
  refine hplaced.trans ?_
  rw [Nat.mul_assoc, ← Nat.pow_add]
  congr 2
  omega

/-- The F32 result of RAND is the leading 24 bits as a fraction. -/
def randFloat (z : Nat) : Nat := if z >>> 40 = 0 then 0 else roundMag fF32 0 false (z >>> 40) (-24)

theorem randFloat_spec {z : Nat} (hz : z < 2 ^ 64) : fF32.sign (randFloat z) = false ∧ fF32.mag (randFloat z) < fF32.infBits
    ∧ unitsOf fF32 (randFloat z) = z / 2 ^ 40 * 2 ^ 125 := by
  have hfinite : randFloat z < fF32.infBits ∧ unitsOf fF32 (randFloat z) = z / 2 ^ 40 * 2 ^ 125 := by
    rw [← Nat.shiftRight_eq_div_pow, randFloat]
    split
    · next h0 =>
      rw [h0]
      exact ⟨by decide, rfl⟩
    · next h0 => exact roundMag_fraction h0 (by rw [Nat.shiftRight_eq_div_pow]; omega)
  obtain ⟨hlt, hu⟩ := hfinite
  have hs : randFloat z < fF32.signBit := Nat.lt_trans hlt (by decide)
  exact ⟨Nat.testBit_lt_two_pow hs, by rwa [Fmt.mag, Nat.mod_eq_of_lt hs], hu⟩

/-- Settles O35: RAND gives the mixed state by its type (`randFloat_spec` for F32). -/
theorem randomNumbers : Obligations.RandomNumbers := by
  unfold Obligations.RandomNumbers
  intro mixed next draws
  refine ⟨?rand, ?given, ?seeded⟩
  case rand =>
    intro f s e e' u hx
    have hdraws {v : Nat} (hv : (match f.ty with
        | .n64 => (randValue (randNext e'.h.rng)).toNat
        | .f32 => randFloat (randValue (randNext e'.h.rng)).toNat
        | _ => (randValue (randNext e'.h.rng)).toNat >>> 32) = v) : draws f s e e' u v := by
      refine (issue_executes _ hx).trans ?_
      rw [← hv]
      rfl
    refine ⟨fun ht => hdraws ?_, fun ht => hdraws ?_, fun ht => ⟨_, hdraws rfl, ?_⟩⟩
    · rw [ht]
      rfl
    · rw [ht]
      exact Nat.shiftRight_eq_div_pow _ _
    · rw [ht]
      exact randFloat_spec (BitVec.isLt _)
  all_goals refine performs_of_issue (fun _ _ => rfl) fun f e u hc => ?_
  case given =>
    simp only [hc]
    rfl
  case seeded =>
    simp only [hc]
    rfl

end Sys2Proof
end

section
/-!
SYSTEM REGISTERS (14 R319, R320): O36.
-/
namespace Sys2Proof
open Machine

variable {s : State} {e : Env} {n : Nat}

/-- The registers beside those of the list of clusters. -/
def namedRegs : List Nat := [0, 1, 2, 3, 4, 5, 0x810, 0x811]

theorem sysRead_of_not_named (h : n ∉ namedRegs) : sysRead s e n = if 0x840 ≤ n ∧ n ≤ 0x84F then
    some (match (s.partClusters (s.ctx e.n).part)[n - 0x840]? with | some k => 2 ^ 31 + k | none => 0) else none := by
  simp only [namedRegs, List.mem_cons, List.not_mem_nil, or_false, not_or] at h
  obtain ⟨h0, h1, h2, h3, h4, h5, h6, h7⟩ := h
  unfold sysRead
  split
  case h_9 => rfl
  all_goals contradiction

/-- Every register of the list but those two is read-only. -/
theorem sysRead_isSome (h : n ≤ 5 ∨ (0x840 ≤ n ∧ n ≤ 0x84F)) : (sysRead s e n).isSome = true := by
  by_cases hn : n ∈ namedRegs
  · simp only [namedRegs, List.mem_cons, List.not_mem_nil, or_false] at hn
    rcases hn with rfl | rfl | rfl | rfl | rfl | rfl | rfl | rfl <;> rfl
  · rw [sysRead_of_not_named hn, if_pos]
    · rfl
    · simp only [namedRegs, List.mem_cons, List.not_mem_nil, or_false] at hn
      omega

theorem sysRead_eq_none (hn : n ∉ namedRegs) (h : ¬ (0x840 ≤ n ∧ n ≤ 0x84F)) : sysRead s e n = none := by
  rw [sysRead_of_not_named hn, if_neg h]

/-- A breakpoint is at a word. -/
theorem and_wordMask (v : Nat) : BitVec.ofNat 32 v &&& 0xFFFFFFFC = BitVec.ofNat 32 (v / 4 * 4) := by
  have hmask : ∀ i : Fin 32, (0xFFFFFFFC : BitVec 32).getLsbD i = decide (2 ≤ i.val) := by decide
  refine BitVec.eq_of_getLsbD_eq fun i hi => ?_
  rw [BitVec.getLsbD_and, hmask ⟨i, hi⟩, BitVec.getLsbD_ofNat, BitVec.getLsbD_ofNat]
  have hbit : (v / 4 * 4).testBit i = (decide (2 ≤ i) && v.testBit i) := by
    rw [show v / 4 * 4 = v / 2 ^ 2 * 2 ^ 2 from rfl, Nat.testBit_mul_two_pow, Nat.testBit_div_two_pow]
    by_cases h2 : 2 ≤ i
    · simp [h2]
    · simp [h2]
  rw [hbit]
  simp [hi, Bool.and_comm]

/-- Settles O36. SYSR reads what `sysRead` lists; SYSW writes two of them. -/
theorem systemRegisters : Obligations.SystemRegisters := by
  unfold Obligations.SystemRegisters
  intro own reads
  have hreads {n : Nat} {v : Env → State → Nat} (hv : ∀ e s, sysRead s e n = some (v e s)) : reads n v :=
    performs_of_issue (fun _ _ => rfl) fun f e u hn => by simp only [hn, hv]
  refine ⟨hreads fun _ _ => rfl, hreads fun _ _ => rfl, hreads fun _ _ => rfl, hreads fun _ _ => rfl, hreads fun _ _ => rfl,
    hreads fun _ _ => rfl, hreads fun _ _ => rfl, hreads fun _ _ => rfl, fun k hk => hreads fun e s => ?cluster, ?dbgctl, ?ibrk,
    ?unlisted, ?readOnly, ?unlistedWrite⟩
  case cluster =>
    have hn : 0x840 + k ∉ namedRegs := by
      simp only [namedRegs, List.mem_cons, List.not_mem_nil, or_false]
      omega
    rw [sysRead_of_not_named hn, if_pos (by omega), Nat.add_sub_cancel_left] <;> rfl
  all_goals refine performs_of_issue (fun _ _ => rfl) fun f e u hc => ?_
  case dbgctl =>
    have hn : f.imm.toNat = 0x810 := by rw [hc]; rfl
    simp only [hn, if_true]
    congr 2
    funext c
    congr 1
    refine BitVec.eq_of_toNat_eq ?_
    simp only [BitVec.toNat_ofNat]
    omega
  case ibrk =>
    have hn : f.imm.toNat = 0x811 := by rw [hc]; rfl
    simp only [hn, and_wordMask]
    rfl
  case unlisted => simp only [sysRead_eq_none hc.1 hc.2, trapAct]
  case readOnly =>
    have h1 : f.imm.toNat ≠ 0x810 := by omega
    have h2 : f.imm.toNat ≠ 0x811 := by omega
    simp only [h1, h2, sysRead_isSome hc, if_false, if_true, trapAct]
  case unlistedWrite =>
    have hn := hc.1
    simp only [List.mem_cons, List.not_mem_nil, or_false, not_or] at hn
    simp only [hn, sysRead_eq_none hc.1 hc.2, trapAct]
    rfl

end Sys2Proof
end

section
/-!
RENDEZVOUS RESULTS (12 R260 to R262): O21.
-/
namespace Sys2Proof
open Machine

variable {i : Rdv} {ty : Ty} {g : NanTag}

/-! ## Combinations -/

/-- What the integer combination of a list is, by the operation's number. -/
def Combines (ty : Ty) (op : Nat) (l : List Nat) (v : Nat) : Prop :=
  (op = 0 → v = l.sum % 2 ^ tyBits ty)
  ∧ (op = 1 → v ∈ l ∧ ∀ x, x ∈ l → asInt ty v ≤ asInt ty x) ∧ (op = 2 → v ∈ l ∧ ∀ x, x ∈ l → asInt ty x ≤ asInt ty v)
  ∧ (op = 3 → ∀ k, v.testBit k = l.all fun x => x.testBit k) ∧ (op = 4 → ∀ k, v.testBit k = l.any fun x => x.testBit k)
  ∧ (op = 5 → ∀ k, v.testBit k = ((l.filter fun x => x.testBit k).length % 2 == 1))

theorem foldl_add_mod {m : Nat} (l : List Nat) {v : Nat} (hv : v < m) :
    l.foldl (fun a b => (a + b) % m) v = (v :: l).sum % m := by
  induction l generalizing v with
  | nil => simp [Nat.mod_eq_of_lt hv]
  | cons x l ih =>
    rw [List.foldl_cons, ih (Nat.mod_lt _ (by omega))]
    simp [Nat.add_assoc]

/-- The least of a list by a measure: it is in the list, and none is smaller. -/
theorem foldl_least (f : Nat → Int) (l : List Nat) (v : Nat) :
    let r := l.foldl (fun a b => if f b < f a then b else a) v
    r ∈ v :: l ∧ ∀ x, x ∈ v :: l → f r ≤ f x := by
  induction l generalizing v with
  | nil => simp
  | cons y l ih =>
    obtain ⟨hin, hle⟩ := ih (if f y < f v then y else v)
    rw [List.forall_mem_cons] at hle
    refine ⟨?_, fun x hx => ?_⟩
    · rcases List.mem_cons.mp hin with h | h
      · rw [List.foldl_cons, h]
        split <;> simp
      · exact List.mem_cons_of_mem _ (List.mem_cons_of_mem _ h)
    · have hfirst : f (if f y < f v then y else v) ≤ f v ∧ f (if f y < f v then y else v) ≤ f y := by
        split <;> omega
      obtain ⟨hv, hy⟩ := hfirst
      rcases List.mem_cons.mp hx with rfl | hx
      · exact Int.le_trans hle.1 hv
      rcases List.mem_cons.mp hx with rfl | hx
      · exact Int.le_trans hle.1 hy
      · exact hle.2 x hx

theorem foldl_and_testBit (l : List Nat) (v k : Nat) :
    (l.foldl (fun a b => a &&& b) v).testBit k = (v :: l).all fun x => x.testBit k := by
  induction l generalizing v with
  | nil => simp
  | cons x l ih => simp [ih, Bool.and_assoc]

theorem foldl_or_testBit (l : List Nat) (v k : Nat) :
    (l.foldl (fun a b => a ||| b) v).testBit k = (v :: l).any fun x => x.testBit k := by
  induction l generalizing v with
  | nil => simp
  | cons x l ih => simp [ih, Bool.or_assoc]

theorem foldl_xor_testBit (l : List Nat) (v k : Nat) :
    (l.foldl (fun a b => a ^^^ b) v).testBit k = (((v :: l).filter fun x => x.testBit k).length % 2 == 1) := by
  induction l generalizing v with
  | nil => cases h : v.testBit k <;> simp [h]
  | cons x l ih =>
    rw [List.foldl_cons, ih, List.filter_cons, List.filter_cons, List.filter_cons, Nat.testBit_xor]
    cases v.testBit k <;> cases x.testBit k <;> simp
    omega

/-- The integer operations of R262. -/
def intOp (ty : Ty) : Nat → Nat → Nat → Nat
  | 0 => fun a b => (a + b) % 2 ^ tyBits ty
  | 1 => fun a b => if asInt ty b < asInt ty a then b else a
  | 2 => fun a b => if asInt ty a < asInt ty b then b else a
  | 3 => fun a b => a &&& b
  | 4 => fun a b => a ||| b
  | _ => fun a b => a ^^^ b

theorem reduceOp_eq_intOp (hty : (ty == Ty.f32) = false) (op : Nat) : reduceOp ty op g = intOp ty op := by
  funext a b
  unfold reduceOp
  simp only [hty, Bool.false_eq_true, if_false]
  rcases op with _ | _ | _ | _ | _ | op <;> rfl

theorem combines_foldl (hty : (ty == Ty.f32) = false) {v : Nat} (hv : v < 2 ^ tyBits ty) (l : List Nat) (op : Nat) :
    Combines ty op (v :: l) (l.foldl (reduceOp ty op g) v) := by
  rw [reduceOp_eq_intOp hty]
  refine ⟨?_, ?_, ?_, ?_, ?_, ?_⟩ <;> rintro rfl
  · exact foldl_add_mod l hv
  · exact foldl_least (asInt ty) l v
  · have h := foldl_least (fun x => - asInt ty x) l v
    simp only [Int.neg_lt_neg_iff, Int.neg_le_neg_iff] at h
    exact h
  · exact foldl_and_testBit l v
  · exact foldl_or_testBit l v
  · exact foldl_xor_testBit l v

theorem least_assoc (f : Nat → Int) (a b c : Nat) :
    let least (a b : Nat) := if f b < f a then b else a
    least (least a b) c = least a (least b c) := by
  dsimp only
  split_ifs <;> omega

/-- The integer operations may be bracketed at will. -/
theorem reduceOp_assoc (hty : (ty == Ty.f32) = false) (op a b c : Nat) :
    reduceOp ty op g (reduceOp ty op g a b) c = reduceOp ty op g a (reduceOp ty op g b c) := by
  rw [reduceOp_eq_intOp hty]
  rcases op with _ | _ | _ | _ | _ | op
  · simp [intOp, Nat.add_assoc]
  · exact least_assoc (asInt ty) a b c
  · have h := least_assoc (fun x => - asInt ty x) a b c
    simp only [Int.neg_lt_neg_iff] at h
    exact h
  · exact Nat.and_assoc a b c
  · exact Nat.or_assoc a b c
  · exact Nat.xor_assoc a b c

/-! ## The tree and the scan -/

section Orders
variable {op : Nat → Nat → Nat}

theorem foldl_treeRound (ha : ∀ a b c, op (op a b) c = op a (op b c)) (l : List Nat) (c : Nat) :
    (treeRound op l).foldl op c = l.foldl op c := by
  induction l using treeRound.induct generalizing c with
  | case1 a b rest ih => rw [treeRound, List.foldl_cons, ih, ← ha, List.foldl_cons, List.foldl_cons]
  | case2 l h => rw [treeRound]; exact h

theorem length_treeRound (l : List Nat) : (treeRound op l).length = (l.length + 1) / 2 := by
  induction l using treeRound.induct with
  | case1 a b rest ih =>
    rw [treeRound, List.length_cons, ih, List.length_cons, List.length_cons]
    omega
  | case2 l h =>
    rw [treeRound]
    · rcases l with _ | ⟨a, _ | ⟨b, rest⟩⟩
      · rfl
      · simp
      · exact absurd rfl (h a b rest)
    · exact h

/-- In any bracketing that keeps the order, an associative operation gives the value from left to right. -/
theorem treeReduce_eq_foldl (ha : ∀ a b c, op (op a b) c = op a (op b c)) {n v : Nat} {l : List Nat} (hl : l.length < 2 ^ n) :
    treeReduce op n (v :: l) = l.foldl op v := by
  induction n generalizing v l with
  | zero =>
    obtain rfl : l = [] := List.length_eq_zero_iff.mp (by simpa using hl)
    rfl
  | succ n ih =>
    rcases l with _ | ⟨b, rest⟩
    · exact ih (Nat.two_pow_pos n)
    · rw [List.length_cons, Nat.pow_succ] at hl
      rw [treeReduce, treeRound, ih (by rw [length_treeRound]; omega), foldl_treeRound ha, List.foldl_cons]

theorem getElem?_treeRound (l : List Nat) (i : Nat) : (treeRound op l)[i]? = match l[2 * i]?, l[2 * i + 1]? with
    | some a, some b => some (op a b)
    | a, _ => a := by
  induction l using treeRound.induct generalizing i with
  | case1 a b rest ih =>
    rw [treeRound]
    cases i with
    | zero => rfl
    | succ i => exact ih i
  | case2 l h =>
    rw [treeRound]
    · rcases l with _ | ⟨a, _ | ⟨b, rest⟩⟩
      · rfl
      · cases i with
        | zero => rfl
        | succ i => rfl
      · exact absurd rfl (h a b rest)
    · exact h

theorem combineTree_treeRound (l : List Nat) (k i : Nat) :
    combineTree op l (k + 1) i = combineTree op (treeRound op l) k i := by
  induction k generalizing i with
  | zero => exact (getElem?_treeRound l i).symm
  | succ k ih =>
    rw [combineTree, ih, ih]
    rfl

/-- The rounds of the tree combine neighbours first and carry up what is left over. -/
theorem combineTree_eq_treeReduce (k : Nat) {l : List Nat} (hl : l ≠ []) : combineTree op l k 0 = some (treeReduce op k l) := by
  induction k generalizing l with
  | zero =>
    obtain ⟨v, l, rfl⟩ := List.exists_cons_of_ne_nil hl
    rfl
  | succ k ih =>
    rw [combineTree_treeRound, ih]
    · rfl
    · intro h
      have hlen := length_treeRound (op := op) l
      rw [h, List.length_nil] at hlen
      have := List.length_pos_iff.mpr hl
      omega

theorem getElem?_scanList (l : List Nat) (acc k : Nat) :
    (acc :: scanList op acc l)[k]? = if k ≤ l.length then some ((l.take k).foldl op acc) else none := by
  induction l generalizing acc k with
  | nil => cases k <;> simp [scanList]
  | cons x xs ih =>
    cases k with
    | zero => simp
    | succ k => simp [scanList, ih]

end Orders

/-! ## The members -/

/-- The ballot: bit k for the thread k of the set. -/
def ballotOf (ms : List Arrival) : Nat := (ms.map fun m => if m.p then 2 ^ (m.tid % 64) else 0).sum

theorem ballotOf_append (ms : List Arrival) (m : Arrival) :
    ballotOf (ms ++ [m]) = (if m.p then 2 ^ (m.tid % 64) else 0) + ballotOf ms := by
  simp [ballotOf, Nat.add_comm]

theorem ballotOf_lt {ms : List Arrival} (hd : ms.Pairwise fun a b => a.tid % 64 < b.tid % 64) {t : Nat}
    (h : ∀ m, m ∈ ms → m.tid % 64 < t) : ballotOf ms < 2 ^ t := by
  induction ms using List.reverseRecOn generalizing t with
  | nil => exact Nat.two_pow_pos t
  | append_singleton ms m ih =>
    obtain ⟨hd, _, hlast⟩ := List.pairwise_append.mp hd
    have hbelow : ballotOf ms < 2 ^ (m.tid % 64) := ih hd fun x hx => hlast x hx m (List.mem_singleton_self m)
    have hstep : 2 ^ (m.tid % 64 + 1) ≤ 2 ^ t := Nat.pow_le_pow_right (by decide) (h m (by simp))
    rw [Nat.pow_succ] at hstep
    rw [ballotOf_append]
    split <;> omega

theorem testBit_ballotOf {ms : List Arrival} (hd : ms.Pairwise fun a b => a.tid % 64 < b.tid % 64) (k : Nat) :
    (ballotOf ms).testBit k = ms.any fun m => m.p && m.tid % 64 == k := by
  induction ms using List.reverseRecOn with
  | nil => simp [ballotOf]
  | append_singleton ms m ih =>
    obtain ⟨hd, _, hlast⟩ := List.pairwise_append.mp hd
    have hbelow : ballotOf ms < 2 ^ (m.tid % 64) := ballotOf_lt hd fun x hx => hlast x hx m (List.mem_singleton_self m)
    rw [ballotOf_append, List.any_append, ← ih hd]
    cases hm : m.p with
    | false => simp [hm]
    | true =>
      have hor := Nat.two_pow_add_eq_or_of_lt hbelow 1
      rw [Nat.mul_one] at hor
      rw [if_pos rfl, hor, Nat.testBit_or, Nat.testBit_two_pow, Bool.or_comm]
      simp [hm, beq_eq_decide]


theorem range_split {n k : Nat} (h : k < n) :
    List.range n = List.range k ++ k :: (List.range (n - k - 1)).map (k + 1 + ·) := by
  obtain ⟨d, rfl⟩ := Nat.exists_eq_add_of_lt h
  rw [show k + d + 1 = k + 1 + d by omega, List.range_add, List.range_succ, show k + 1 + d - k - 1 = d by omega]
  simp

/-- The arrivals are of threads that the mask names, one of each. -/
structure ProperRdv (i : Rdv) : Prop where
  one   : ∀ x, x ∈ i.arrivals → ∀ y, y ∈ i.arrivals → x.tid = y.tid → x = y
  named : ∀ x, x ∈ i.arrivals → x.tid / 64 = i.set ∧ i.mask.toNat.testBit (x.tid % 64) = true

namespace ProperRdv
variable {a m : Arrival} {k : Nat}

/-- The arrival of the set's thread k. -/
theorem find_eq_some (hp : ProperRdv i) (hm : m ∈ i.arrivals) (ht : m.tid = 64 * i.set + k) :
    (i.arrivals.find? fun x => x.tid == 64 * i.set + k) = some m := by
  cases hf : i.arrivals.find? fun x => x.tid == 64 * i.set + k with
  | none => exact absurd (beq_iff_eq.mpr ht) (List.find?_eq_none.mp hf m hm)
  | some x =>
    have hx : x.tid = 64 * i.set + k := by simpa using List.find?_some hf
    rw [hp.one x (List.mem_of_find?_eq_some hf) m hm (hx.trans ht.symm)]

theorem find_eq_none (hp : ProperRdv i) (hk : k < 64) (hn : i.mask.toNat.testBit k = false) :
    (i.arrivals.find? fun x => x.tid == 64 * i.set + k) = none := by
  refine List.find?_eq_none.mpr fun x hx ht => ?_
  have hx' := (hp.named x hx).2
  rw [beq_iff_eq.mp ht, Nat.mul_add_mod, Nat.mod_eq_of_lt hk, hn] at hx'
  exact Bool.false_ne_true hx'

theorem tid_eq (hp : ProperRdv i) (ha : a ∈ i.arrivals) : a.tid = 64 * i.set + a.tid % 64 := by
  rw [← (hp.named a ha).1]
  exact (Nat.div_add_mod _ _).symm

theorem mem_members (hp : ProperRdv i) : m ∈ i.members ↔ m ∈ i.arrivals := by
  rw [Rdv.members, List.mem_filterMap]
  constructor
  · rintro ⟨k, _, hk⟩
    exact List.mem_of_find?_eq_some hk
  · exact fun hm => ⟨m.tid % 64, List.mem_range.mpr (Nat.mod_lt _ (by decide)), hp.find_eq_some hm (hp.tid_eq hm)⟩

/-- Of a complete rendezvous the thread k has arrived where the mask names it. -/
theorem isSome_find (hp : ProperRdv i) (hc : i.complete = true) (hk : k < 64) :
    (i.arrivals.find? fun x => x.tid == 64 * i.set + k).isSome = i.mask.toNat.testBit k := by
  cases hn : i.mask.toNat.testBit k with
  | false => rw [hp.find_eq_none hk hn]; rfl
  | true =>
    have h := List.all_eq_true.mp hc k (List.mem_range.mpr hk)
    rw [hn] at h
    rw [List.find?_isSome]
    exact List.any_eq_true.mp h

/-- A member stands at its rank: behind the members named below it. -/
theorem members_rank (hp : ProperRdv i) (hc : i.complete = true) (ha : a ∈ i.arrivals) :
    i.members[((List.range (a.tid % 64)).filter fun k => i.mask.toNat.testBit k).length]? = some a := by
  have hk : a.tid % 64 < 64 := Nat.mod_lt _ (by decide)
  have hlen : ((List.range (a.tid % 64)).filter fun k => i.mask.toNat.testBit k).length
      = ((List.range (a.tid % 64)).filterMap fun k => i.arrivals.find? fun x => x.tid == 64 * i.set + k).length := by
    rw [List.length_filterMap_eq_countP, ← List.countP_eq_length_filter]
    refine List.countP_congr fun k hk' => ?_
    rw [hp.isSome_find hc (Nat.lt_trans (List.mem_range.mp hk') hk)]
  rw [hlen, Rdv.members, range_split hk, List.filterMap_append, List.getElem?_append_right (Nat.le_refl _), Nat.sub_self,
    List.filterMap_cons]
  simp only [hp.find_eq_some ha (hp.tid_eq ha)]
  rfl

theorem length_members_le (i : Rdv) : i.members.length ≤ 64 :=
  Nat.le_trans (List.length_filterMap_le _ _) (by simp)

end ProperRdv

theorem ints_not_f32 (h : ty ∈ [Ty.i32, .n32, .i64, .n64]) : (ty == Ty.f32) = false := by
  simp only [List.mem_cons, List.not_mem_nil, or_false] at h
  rcases h with rfl | rfl | rfl | rfl <;> rfl

/-- The largest and the smallest number of an integer type as patterns. -/
theorem asInt_wrap_bounds (h : ty ∈ [Ty.i32, .n32, .i64, .n64]) : asInt ty (wrap (tyMax ty) (tyBits ty)) = tyMax ty
    ∧ asInt ty (wrap (tyMin ty) (tyBits ty)) = tyMin ty := by
  simp only [List.mem_cons, List.not_mem_nil, or_false] at h
  rcases h with rfl | rfl | rfl | rfl <;> exact ⟨by decide, by decide⟩

/-- Settles O21. A member stands at its rank in the list of members; the integer operations are associative, so that any order of
bracketing gives their combination, and the tree of F32 is `combineTree`. -/
theorem rendezvousResults : Obligations.RendezvousResults := by
  unfold Obligations.RendezvousResults
  intro i g a hc ha _ _ hone hnamed named below vals combines step ints
  have hp : ProperRdv i := ⟨hone, hnamed⟩
  have hrank : vals[below]? = some a.b := by
    rw [List.getElem?_map, hp.members_rank hc ha]
    rfl
  have hb : below < vals.length := (List.getElem?_eq_some_iff.mp hrank).1
  have hlen : vals.length ≤ 64 := by
    rw [List.length_map]
    exact ProperRdv.length_members_le i
  obtain ⟨v, l, hv⟩ : ∃ v l, vals = v :: l := List.exists_cons_of_length_pos (Nat.lt_of_le_of_lt (Nat.zero_le _) hb)
  have hv0 : ints → v < 2 ^ tyBits i.ty := fun h => by
    have hin : v ∈ vals := hv ▸ List.mem_cons_self
    obtain ⟨m, hm, rfl⟩ := List.mem_map.mp hin
    exact h.2 m (hp.mem_members.mp hm)
  have hf32 : i.ty = .f32 → ∀ op, op ≤ 2 → reduceOp i.ty op g = step op := fun h op hop => by
    rw [h]
    obtain rfl | rfl | rfl : op = 0 ∨ op = 1 ∨ op = 2 := by omega
    all_goals rfl
  have htree : i.opc = 0x213 → rdvValue i g a = treeReduce (reduceOp i.ty (i.op2 % 8) g) 6 vals := fun h => by
    simp only [rdvValue, h]
    rfl
  have hscan : i.opc = 0x214 → rdvValue i g a = if i.op2 < 8 then (l.take below).foldl (reduceOp i.ty (i.op2 % 8) g) v
      else if below = 0 then reduceIdentity i.ty (i.op2 % 8) else (l.take (below - 1)).foldl (reduceOp i.ty (i.op2 % 8) g) v := fun h => by
    have hget (k : Nat) (hk : k ≤ below) :
        (v :: scanList (reduceOp i.ty (i.op2 % 8) g) v l).getD k 0 = (l.take k).foldl (reduceOp i.ty (i.op2 % 8) g) v := by
      rw [hv, List.length_cons] at hb
      rw [List.getD_eq_getElem?_getD, getElem?_scanList, if_pos (by omega)]
      rfl
    have hopen : rdvValue i g a = if i.op2 < 8 then (match vals with
        | [] => []
        | v :: vs => v :: scanList (reduceOp i.ty (i.op2 % 8) g) v vs).getD below 0
      else if below = 0 then reduceIdentity i.ty (i.op2 % 8) else (match vals with
        | [] => []
        | v :: vs => v :: scanList (reduceOp i.ty (i.op2 % 8) g) v vs).getD (below - 1) 0 := by
      simp only [rdvValue, h]
      rfl
    rw [hopen, hv]
    dsimp only
    rw [hget below (Nat.le_refl _), hget (below - 1) (Nat.sub_le _ _)]
  refine ⟨fun m => hp.mem_members, List.pairwise_map.mpr (members_pairwise_tid_lt i), hrank, ?shuffle, ?any, ?all, ?ballot, ?rank,
    ?redInt, ?redFloat, ?scanInt, ?scanFloat, ?excl, ?identity⟩
  case shuffle =>
    intro h p
    have hvalue : rdvValue i g a = if p < 0 || 63 < p then a.b
        else match i.arrivals.find? fun m => m.tid == 64 * i.set + p.toNat with
          | some m => m.b
          | none => a.b := by
      simp only [rdvValue, h]
      rfl
    refine ⟨fun hout => ?_, fun k hk hpk => ?_⟩
    · rw [hvalue, if_pos (by simpa using hout)]
    · have hin : rdvValue i g a = match i.arrivals.find? fun m => m.tid == 64 * i.set + k with
          | some m => m.b
          | none => a.b := by
        rw [hvalue, hpk, if_neg (by simp; omega)]
        rfl
      refine ⟨fun m hm ht => ?_, fun hn => ?_⟩
      · rw [hin, hp.find_eq_some hm ht]
      · rw [hin, hp.find_eq_none hk hn]
  case any =>
    intro h h2
    have hvalue : rdvValue i g a = boolNat (i.members.any fun m => m.p) := by
      simp only [rdvValue, h, h2]
      rfl
    have hsame : (i.members.any fun m => m.p) = i.arrivals.any fun m => m.p := by
      rw [Bool.eq_iff_iff]
      simp only [List.any_eq_true, hp.mem_members]
    rw [hvalue, hsame]
  case all =>
    intro h h2
    have hvalue : rdvValue i g a = boolNat (i.members.all fun m => m.p) := by
      simp only [rdvValue, h, h2]
      rfl
    have hsame : (i.members.all fun m => m.p) = i.arrivals.all fun m => m.p := by
      rw [Bool.eq_iff_iff]
      simp only [List.all_eq_true, hp.mem_members]
    rw [hvalue, hsame]
  case ballot =>
    intro h h2 k hk
    have hd : i.members.Pairwise fun a b => a.tid % 64 < b.tid % 64 :=
      (members_pairwise_tid_lt i).imp_of_mem fun {x y} hx hy hlt => by
        have hsx := (hnamed x (hp.mem_members.mp hx)).1
        have hsy := (hnamed y (hp.mem_members.mp hy)).1
        omega
    have hvalue : rdvValue i g a = ballotOf i.members := by
      simp only [rdvValue, h, h2]
      rfl
    rw [hvalue, testBit_ballotOf hd, Bool.eq_iff_iff]
    simp only [List.any_eq_true, hp.mem_members, Bool.and_eq_true, beq_iff_eq]
    constructor
    · rintro ⟨m, hm, hmp, rfl⟩
      exact ⟨(hp.named m hm).2, m, hm, hmp, hp.tid_eq hm⟩
    · rintro ⟨_, m, hm, hmp, ht⟩
      exact ⟨m, hm, hmp, by omega⟩
  case rank =>
    intro h
    simp only [rdvValue, h]
    rfl
  case redInt =>
    intro h hop hi
    rw [htree h, hv, Nat.mod_eq_of_lt (by omega)]
    rw [hv, List.length_cons] at hlen
    rw [treeReduce_eq_foldl (reduceOp_assoc (ints_not_f32 hi.1) i.op2) (by omega)]
    exact combines_foldl (ints_not_f32 hi.1) (hv0 hi) l i.op2
  case redFloat =>
    intro h hop ht
    rw [htree h, Nat.mod_eq_of_lt (by omega), hf32 ht _ hop]
    exact combineTree_eq_treeReduce 6 (hv ▸ List.cons_ne_nil v l)
  case scanInt =>
    intro h hop hi
    rw [hscan h, if_pos (by omega), Nat.mod_eq_of_lt (by omega), hv, List.take_succ_cons]
    exact combines_foldl (ints_not_f32 hi.1) (hv0 hi) _ i.op2
  case scanFloat =>
    intro h hop ht v' l' hv'
    obtain ⟨rfl, rfl⟩ := List.cons_eq_cons.mp (hv.symm.trans hv')
    rw [hscan h, if_pos (by omega), Nat.mod_eq_of_lt (by omega), hf32 ht _ hop]
  case excl =>
    intro h h8 h13 h0
    have hop : i.op2 % 8 = i.op2 - 8 := by omega
    have hvalue := hscan h
    rw [if_neg (by omega), if_neg (by omega), hop] at hvalue
    refine ⟨fun hi => ?_, fun h10 ht v' l' hv' => ?_⟩
    · rw [hvalue, hv, show below = below - 1 + 1 by omega, List.take_succ_cons, Nat.add_sub_cancel]
      exact combines_foldl (ints_not_f32 hi.1) (hv0 hi) _ _
    · obtain ⟨rfl, rfl⟩ := List.cons_eq_cons.mp (hv.symm.trans hv')
      rw [hvalue, hf32 ht _ (by omega)]
  case identity =>
    intro h h8 h0
    have hvalue := hscan h
    rw [if_neg (by omega), if_pos h0] at hvalue
    dsimp only
    rw [hvalue]
    refine ⟨fun ht => ?_, fun hi => ?_⟩
    · refine ⟨?_, ?_, ?_⟩ <;> intro h2 <;> rw [h2, ht] <;> rfl
    · obtain ⟨hmax, hmin⟩ := asInt_wrap_bounds hi.1
      have hty := ints_not_f32 hi.1
      refine ⟨?_, ?_, ?_, ?_, ?_⟩
      case refine_5 => rintro (h2 | h2) <;> rw [h2] <;> rfl
      all_goals
        intro h2
        rw [h2]
        simp only [reduceIdentity, hty, Bool.false_eq_true, if_false, hmax, hmin]

end Sys2Proof
end

section
/-!
LOADS AND STORES (13 R278 to R284): O25. A load or a store goes one of a few ways, by what its checks answer.
-/
namespace Sys2Proof
open Machine

/-- An instruction that passes issue leaves what its effect gives. -/
theorem exec_of_executes {i : Instr} {row : OpRow} {f : Form} {s u : State} {e e' : Env} {body : Env → State → Act} {a : Act}
    (hx : Executes s row f e e' u) (hi : exec i s = issue row f s body) (hb : body e' u = a) :
    exec i s = .next (after s e row f a) := by
  rw [hi, issue_executes _ hx, hb]

section Accesses
variable {u z : State} {e : Env} {row : OpRow} {f : Form} {a : Access} {ext : LoadExt} {l : Loc} {k p v sub : Nat}
  {chip host ord : Bool} {mask : Byte} {c : Cause}

/-! ## Loads -/

theorem loadAct_flat {w : State} (hr : Reaches u e a z (.flat p host)) (hc : acquireHeld z e.r e.h = false)
    (hv : readFlat z e f.sub.toNat p a.size = (v, w, none)) : loadAct u e row f a ext = .done (writeDst w e row f (ext.apply v)) := by
  obtain ⟨rfl, hl⟩ := hr
  simp only [loadAct, hl, hc, hv]
  rfl

theorem loadAct_hold (hr : Reaches u e a z l) (hc : ¬ acquireHeld z e.r e.h = false) : loadAct u e row f a ext = .hold := by
  obtain ⟨rfl, hl⟩ := hr
  simp only [loadAct, hl, Bool.not_eq_false _ ▸ hc, if_true]

theorem loadAct_peer (hr : Reaches u e a z (.peer k chip p)) (hc : acquireHeld z e.r e.h = false) :
    loadAct u e row f a ext = if e.h.storesMeet (.peer k chip p) a.size then .hold
      else .done (sendLink (markPending z e row f)
        { link := k, ctx := e.n, who := some e.r, ext := ext, chip := chip, addr := p, kind := .read a.size
          dst := some e.h.nextId, sent := z.refNs, lay := e.ordMeeting (.peer k chip p) a.size }) := by
  obtain ⟨rfl, hl⟩ := hr
  simp only [loadAct, hl, hc, sendFrom, markPending, State.modHart_refNs]
  rfl

theorem loadAct_fails (h : Fails u e a c) : loadAct u e row f a ext = .trap (a.trap e c) := by
  obtain ⟨hc, hw⟩ := h
  simp only [loadAct, hc, failAccess_of_trap hw]

/-! ## Stores -/

/-- An ordered access to space p has no place in the buffer. -/
theorem storeAct_ordSpace (hd : e.det = true) (hs : e.steward = false) (hp : a.space = 0) :
    storeAct u e sub true a v mask = .trap (a.trap e .ordSpace) := by
  simp only [storeAct, hd, hs, hp]
  rfl

/-- What keeps a store from the trap of an ordered access to space p. -/
def NotPrivateOrd (e : Env) (ord : Bool) (a : Access) : Prop := ord = false ∨ e.det = false ∨ e.steward = true ∨ a.space ≠ 0

theorem storeAct_fails (hn : NotPrivateOrd e ord a) (h : Fails u e a c) : storeAct u e sub ord a v mask = .trap (a.trap e c) := by
  obtain ⟨hc, hw⟩ := h
  have hp : (ord && e.det && !e.steward && a.space == 0) = false := by
    rcases hn with h | h | h | h <;> simp [h]
  simp only [storeAct, hp, hc, failAccess_of_trap hw]
  rfl

theorem storeAct_hold (hn : NotPrivateOrd e ord a) (hr : Reaches u e a z l) (hc : ¬ acquireHeld z e.r e.h = false) :
    storeAct u e sub ord a v mask = .hold := by
  obtain ⟨rfl, hl⟩ := hr
  have hp : (ord && e.det && !e.steward && a.space == 0) = false := by
    rcases hn with h | h | h | h <;> simp [h]
  simp only [storeAct, hp, hl, Bool.not_eq_false _ ▸ hc, if_true]
  rfl

theorem storeAct_ordered (hd : e.det = true) (hp : a.space ≠ 0) (hr : Reaches u e a z l) (hc : acquireHeld z e.r e.h = false) :
    storeAct u e sub true a v mask
      = if (e.gr.level ≠ 0 ∧ e.h.stores ≠ []) ∨ e.h.storesMeet l a.size = true then .hold
        else bufferOrd z e { e.ordEntry a l (.inr v) with mask := mask } := by
  obtain ⟨rfl, hl⟩ := hr
  have hguard : ¬ (true && e.det && !e.steward && a.space == 0) = true := by simp [hp]
  have hif : ((e.gr.level != 0 && !e.h.stores.isEmpty) || e.h.storesMeet l a.size) = true
      ↔ (e.gr.level ≠ 0 ∧ e.h.stores ≠ []) ∨ e.h.storesMeet l a.size = true := by simp
  rw [storeAct, if_neg hguard]
  simp only [hl, hc, hd, Bool.false_eq_true, if_false, Bool.and_self, if_true]
  exact if_congr hif rfl rfl

theorem storeAct_flat (hn : ord = false ∨ e.det = false) (hr : Reaches u e a z (.flat p host)) (hc : acquireHeld z e.r e.h = false) :
    storeAct u e sub ord a v mask = .done (pushStore z e.r e.gr.level a.space (.bytes
      (if mask = 0xFF then wholeBytes p (bytesOfNat a.size v) else [{ addr := p, val := BitVec.ofNat 8 v, mask := mask }])
      (storesHome a.space sub host))) := by
  obtain ⟨rfl, hl⟩ := hr
  have ho : (ord && e.det) = false := Bool.and_eq_false_iff.mpr hn
  simp only [storeAct, ho, hl, hc]
  rfl

theorem storeAct_peer (hn : ord = false ∨ e.det = false) (hr : Reaches u e a z (.peer k chip p)) (hc : acquireHeld z e.r e.h = false) :
    storeAct u e sub ord a v mask = .done (pushStore z e.r e.gr.level a.space (.remote k chip p
      (if mask = 0xFF then .write (bytesOfNat a.size v) else .nibble (BitVec.ofNat 8 v) mask))) := by
  obtain ⟨rfl, hl⟩ := hr
  have ho : (ord && e.det) = false := Bool.and_eq_false_iff.mpr hn
  simp only [storeAct, ho, hl, hc]
  rfl

/-- An ordered store in a kernel of level 0 whose buffer has a place. -/
theorem bufferOrd_place {o : OrdEntry} (hw : e.g.batchWords < 256) (ho : o.words = 1) (hb : (o.kind.isRight && e.gr.level != 0) = false) :
    bufferOrd z e o = .done (z.modHart e.r fun h => { h with ord := h.ord ++ [o] }) := by
  have h1 : ¬ 4096 < e.g.batchWords + o.words := by omega
  have h2 : (decide (e.g.batchWords + o.words ≤ 256) || decide (o.words = 0)) = true := by
    simp
    omega
  simp only [bufferOrd, h1, h2, hb]
  rfl

end Accesses

theorem NotPrivateOrd.of_reg {e : Env} {f : Form} {a : Access} (h : f.d ≠ .x 1 ∨ e.det = false ∨ e.steward = true ∨ a.space ≠ 0) :
    NotPrivateOrd e (f.d == .x 1) a := by
  rcases h with h | h
  · exact .inl (by simpa using h)
  · exact .inr h

/-- `loadExt` is the extension of R274. -/
theorem loadExt_apply (ty : Ty) (v : Nat) : (loadExt ty).apply v = match ty with
    | .i8 => wrap (sext v 8) 32
    | .i16 => wrap (sext v 16) 32
    | _ => v := by
  cases ty <;> rfl

section Prefetch
variable {f : Form} {u : State} {e : Env} {a : Access} {n : Nat}

/-- PF makes the checks of the bounds and of alignment. -/
def pfAct (s : State) (e : Env) (f : Form) (n : Nat) (a : Access) : Act :=
  if farBase s e rowPf f || !inBounds s e a.space a.addr then .trap (a.trap e .spaceBounds)
  else if a.addr.toNat % n != 0 then .trap (a.trap e .misalign)
  else .done s

theorem pfAct_passes (hf : farBase u e rowPf f = false) (hb : inBounds u e a.space a.addr = true) (ha : a.addr.toNat % n = 0) :
    pfAct u e f n a = .done u := by
  simp [pfAct, hf, hb, ha]

theorem pfAct_bounds (h : farBase u e rowPf f = true ∨ inBounds u e a.space a.addr = false) :
    pfAct u e f n a = .trap (a.trap e .spaceBounds) := by
  rcases h with h | h <;> simp [pfAct, h]

theorem pfAct_misalign (hf : farBase u e rowPf f = false) (hb : inBounds u e a.space a.addr = true) (ha : a.addr.toNat % n ≠ 0) :
    pfAct u e f n a = .trap (a.trap e .misalign) := by
  simp [pfAct, hf, hb, ha]

end Prefetch

section Tensors
variable {f : Form} {s u : State} {e e' : Env} {store : BitVec 1024} {a : Int} {odd : Bool} {act : Act}

/-- The access of an element of a tensor. -/
def tensorAccess (f : Form) (store : BitVec 1024) (a : Int) (write : Bool) : Access :=
  { space := Desc.space store, addr := a, size := Ty.size f.ty, write := write, need := if write then needWrite else needRead }

theorem exec_ldt (hx : Executes s rowLdt f e e' u) (he : findElement u e' f (e'.B u rowLdt f) = .at store a odd)
    (h : loadAct u e' rowLdt f (tensorAccess f store a false) (elementExt store f.ty odd) = act) :
    exec (.ldt f) s = .next (after s e rowLdt f act) := by
  refine exec_of_executes hx rfl ?_
  simp only [he]
  exact h

/-- An STT of a whole element. -/
theorem exec_stt_whole (hx : Executes s rowStt f e e' u) (he : findElement u e' f (e'.B u rowStt f) = .at store a odd)
    (hw : Desc.fmt store ≠ 14)
    (h : storeAct u e' f.sub.toNat (f.d == .x 1) (tensorAccess f store a true) (e'.C u rowStt f) 0xFF = act) :
    exec (.stt f) s = .next (after s e rowStt f act) := by
  refine exec_of_executes hx rfl ?_
  simp only [he, beq_eq_false_iff_ne.mpr hw]
  exact h

/-- An STT of four bits of a byte. -/
theorem exec_stt_nibble (hx : Executes s rowStt f e e' u) (he : findElement u e' f (e'.B u rowStt f) = .at store a odd)
    (hw : Desc.fmt store = 14)
    (h : storeAct u e' f.sub.toNat (f.d == .x 1) (tensorAccess f store a true) (e'.C u rowStt f % 16 * if odd then 16 else 1)
      (if odd then 0xF0 else 0x0F) = act) :
    exec (.stt f) s = .next (after s e rowStt f act) := by
  refine exec_of_executes hx rfl ?_
  simp only [he, hw]
  cases odd
  · rw [← h]
    simp only [Bool.false_eq_true, if_false, Nat.mul_one]
    rfl
  · exact h

theorem nibbleMask_ne (odd : Bool) : (if odd then 0xF0 else 0x0F : Byte) ≠ 0xFF := by
  cases odd <;> decide

end Tensors

/-- Settles O25. -/
theorem loadsAndStores : Obligations.LoadsAndStores := by
  unfold Obligations.LoadsAndStores
  intro n ldAcc stAcc pfAcc clear ext tenAcc held asks ordered
  have hext (f : Form) (v : Nat) : (loadExt f.ty).apply v = ext f v := loadExt_apply f.ty v
  refine ⟨?ld, ?ldp, ?ldFails, ?ldpFails, ?ldWaits, ?ldpWaits, ?stWaits, ?ldtWaits, ?sttWaits, ?stFlat, ?stPeer, ?stOrd, ?stPriv,
    ?stFails, ?pf, ?pfBounds, ?pfAlign, ?ldtFlat, ?ldtOutside, ?sttOutside, ?sttFlat, ?sttNibble, ?ldtTrap, ?sttTrap, ?ldtFails, ?sttFails⟩
  case ld =>
    intro f s e e' u z p host v w hx hr hc hv
    refine exec_of_executes hx rfl ((loadAct_flat hr hc hv).trans ?_)
    rw [hext]
  case ldp => exact fun f s e e' u z p host v w hx hr hc hv => exec_of_executes hx rfl (loadAct_flat hr hc hv)
  case ldFails => exact fun f s e e' u c hx h => exec_of_executes hx rfl (loadAct_fails h)
  case ldpFails => exact fun f s e e' u c hx h => exec_of_executes hx rfl (loadAct_fails h)
  case ldWaits =>
    exact fun f s e e' u hx => ⟨fun z l hr hc => exec_of_executes hx rfl (loadAct_hold hr hc),
      fun z l chip p hr hc => exec_of_executes hx rfl (loadAct_peer hr hc)⟩
  case ldpWaits =>
    exact fun f s e e' u hx => ⟨fun z l hr hc => exec_of_executes hx rfl (loadAct_hold hr hc),
      fun z l chip p hr hc => exec_of_executes hx rfl (loadAct_peer hr hc)⟩
  case stWaits =>
    refine fun f s e e' u hx => ⟨fun hd hdet hp z l hr hc => exec_of_executes hx rfl ?_, fun hn z l hr hc => exec_of_executes hx rfl ?_⟩
    · rw [hd]
      exact storeAct_ordered hdet hp hr hc
    · exact storeAct_hold (.of_reg (hn.imp_right fun h => h.imp_right fun h => .inr (BitVec.toNat_ne.mp h))) hr hc
  case ldtWaits =>
    exact fun f s e e' u store a odd hx he => ⟨fun z l hr hc => exec_ldt hx he (loadAct_hold hr hc),
      fun z l chip p hr hc => exec_ldt hx he (loadAct_peer hr hc)⟩
  case sttWaits =>
    intro f s e e' u store a odd hx he acc v whole
    refine ⟨fun hd hdet hst hp => ?_, fun hw hd hdet hp z l hr hc => exec_stt_whole hx he hw ?_,
      fun hw hd hdet hp z l hr hc => exec_stt_nibble hx he (not_not.mp hw) ?_, fun hn z l hr hc => ?_, fun z l chip p hr hc hn => ?_⟩
    · have hpriv {v : Nat} {mask : Byte} : storeAct u e' f.sub.toNat (f.d == .x 1) acc v mask = .trap (acc.trap e' .ordSpace) := by
        rw [hd]
        exact storeAct_ordSpace hdet hst hp
      by_cases hw : Desc.fmt store = 14
      · exact exec_stt_nibble hx he hw hpriv
      · exact exec_stt_whole hx he hw hpriv
    · rw [hd]
      exact storeAct_ordered hdet hp hr hc
    · rw [hd]
      exact storeAct_ordered hdet hp hr hc
    · have hn' : NotPrivateOrd e' (f.d == .x 1) acc := .of_reg (hn.imp_right fun h => h.imp_right .inr)
      by_cases hw : Desc.fmt store = 14
      · exact exec_stt_nibble hx he hw (storeAct_hold hn' hr hc)
      · exact exec_stt_whole hx he hw (storeAct_hold hn' hr hc)
    · by_cases hw : Desc.fmt store = 14
      · refine exec_stt_nibble hx he hw ((storeAct_peer (hn.imp_left beq_eq_false_iff_ne.mpr) hr hc).trans ?_)
        rw [if_neg (nibbleMask_ne odd), if_neg (not_not.mpr hw)]
      · refine exec_stt_whole hx he hw ((storeAct_peer (hn.imp_left beq_eq_false_iff_ne.mpr) hr hc).trans ?_)
        rw [if_pos rfl, if_pos hw]
  case stFlat =>
    intro f s e e' u z p host hx hr hc hn
    exact exec_of_executes hx rfl (storeAct_flat (hn.imp_left beq_eq_false_iff_ne.mpr) hr hc)
  case stPeer =>
    intro f s e e' u z l chip p hx hr hc hn
    exact exec_of_executes hx rfl (storeAct_peer (hn.imp_left beq_eq_false_iff_ne.mpr) hr hc)
  case stOrd =>
    intro f s e e' u z p host hx hr hc hm hd hdet hp hl hw
    refine exec_of_executes hx rfl ?_
    rw [hd]
    refine (storeAct_ordered hdet (BitVec.toNat_ne.mp hp) hr hc).trans ?_
    rw [if_neg (by simpa [hl] using hm)]
    exact bufferOrd_place hw rfl (by simp [hl])
  case stPriv =>
    refine performs_of_issue (fun _ _ => rfl) fun f e u h => ?_
    obtain ⟨hd, hdet, hst, hp⟩ := h
    rw [hd]
    exact storeAct_ordSpace hdet hst (congrArg BitVec.toNat hp)
  case stFails =>
    intro f s e e' u c hx h hn
    exact exec_of_executes hx rfl (storeAct_fails (.of_reg (hn.imp_right fun h => h.imp_right fun h => h.imp_right BitVec.toNat_ne.mp)) h)
  case pf =>
    refine performs_of_issue (fun _ _ => rfl) fun f e u h => ?_
    obtain ⟨hf, hb, ha⟩ := h
    exact pfAct_passes hf hb ha
  case pfBounds => exact performs_of_issue (fun _ _ => rfl) fun f e u h => pfAct_bounds h
  case pfAlign =>
    refine performs_of_issue (fun _ _ => rfl) fun f e u h => ?_
    obtain ⟨hf, hb, ha⟩ := h
    exact pfAct_misalign hf hb ha
  case ldtFlat =>
    intro f s e e' u z store a odd p host v w hx he hr hc hv
    refine exec_ldt hx he ((loadAct_flat hr hc hv).trans ?_)
    rw [← hext, elementExt]
    split <;> rfl
  case ldtOutside =>
    intro f s e e' u pad hx he
    refine exec_of_executes hx rfl ?_
    simp only [he, hext, n]
  case sttOutside =>
    intro f s e e' u pad hx he
    refine exec_of_executes hx rfl ?_
    simp only [he]
  case sttFlat =>
    intro f s e e' u z store a odd p host hx he hw hr hc hn
    exact exec_stt_whole hx he hw (storeAct_flat (hn.imp_left beq_eq_false_iff_ne.mpr) hr hc)
  case sttNibble =>
    intro f s e e' u z store a odd p host hx he hw hr hc hn v
    refine exec_stt_nibble hx he hw ((storeAct_flat (hn.imp_left beq_eq_false_iff_ne.mpr) hr hc).trans ?_)
    rw [if_neg (nibbleMask_ne odd)]
    cases odd
    · rw [show (e'.C u rowStt f % 16 * if false then 16 else 1) = e'.C u rowStt f % 16 from Nat.mul_one _]
      rfl
    · rfl
  case ldtTrap =>
    intro f s e e' u c hx he
    refine exec_of_executes hx rfl ?_
    simp only [he]
  case sttTrap =>
    intro f s e e' u c hx he
    refine exec_of_executes hx rfl ?_
    simp only [he]
  case ldtFails =>
    intro f s e e' u store a odd c hx he acc h
    exact exec_ldt hx he (loadAct_fails h)
  case sttFails =>
    intro f s e e' u store a odd c hx he acc hn h
    by_cases hw : Desc.fmt store = 14
    · exact exec_stt_nibble hx he hw (storeAct_fails (.of_reg hn) h)
    · exact exec_stt_whole hx he hw (storeAct_fails (.of_reg hn) h)

end Sys2Proof
end

section
/-!
ATOMICS (13 R285 to R290): O26.
-/
namespace Sys2Proof
open Machine

section Atomics
variable {u z : State} {e : Env} {row : OpRow} {f : Form} {k : AtomKind} {l : Loc} {p n : Nat} {chip host : Bool} {c : Cause}

/-- The access of an atomic. -/
def atomAccess (f : Form) (row : OpRow) (k : AtomKind) (e : Env) (s : State) : Access :=
  { space := f.op2.toNat, addr := memAddr s e row f (Ty.size f.ty) (sext f.imm.toNat 28), size := Ty.size f.ty, write := true
    atomic := true, far := farBase s e row f, need := atomNeed (row.opc == 0x28A) k }

/-- The state whose buffer takes an atomic: its result is pending where it has one, and a region begins. -/
def atomPending (s : State) (e : Env) (row : OpRow) (f : Form) : State :=
  (if row.opc == 0x28A then s else markPending s e row f).modHart e.r Hart.nextSerial

/-- What an atomic sends to a peer. -/
def atomSent (k : AtomKind) (e : Env) : LinkKind :=
  match k with
  | .op code ty c => .red code ty (BitVec.ofNat 64 c) e.tag.lane e.h.pc.toNat
  | .signal => .signal
  | .cas .. => .read 0

/-- An atomic that has passed its checks. -/
def atomPlaced (s : State) (e : Env) (row : OpRow) (f : Form) (k : AtomKind) (a : Access) (l : Loc) : Act :=
  if !e.h.stores.isEmpty || acquireHeld s e.r e.h then .hold
  else if e.det && (wideScope f.sub.toNat || !(e.ordMeeting l a.size).isEmpty) then
    let dst := if row.opc == 0x28A then none else ((atomPending s e row f).hart? e.r).bind fun h => h.results.getLast?
    bufferOrd (atomPending s e row f) e { e.ordEntry a l (.inl k) with dst := dst, words := if wideScope f.sub.toNat then 1 else 0 }
  else
    match l with
    | .flat p host =>
      (match (meetMemory s e.n p).2 with
      | some c => .event (meetMemory s e.n p).1 c
      | none =>
        let r := performAtomic (meetMemory s e.n p).1 e.g.coreNo k p (storesHome a.space f.sub.toNat host) e.tag
        .done (boundaryAfter (writeDst r.1 e row f r.2) e))
    | .peer link chip p => .done (boundaryAfter (sendFrom s e link chip p (atomSent k e) none) e)

theorem atomAct_eq (s : State) (e : Env) (row : OpRow) (f : Form) (k : AtomKind) :
    atomAct s e row f k = match checkAccess (meetPath s e (atomAccess f row k e s)) e (atomAccess f row k e s) with
      | .error c => failAccess (meetPath s e (atomAccess f row k e s)) e (atomAccess f row k e s) c
      | .ok l => atomPlaced (meetPath s e (atomAccess f row k e s)) e row f k (atomAccess f row k e s) l :=
  rfl

theorem atomAct_fails (h : Fails u e (atomAccess f row k e u) c) :
    atomAct u e row f k = .trap ((atomAccess f row k e u).trap e c) := by
  obtain ⟨hc, hw⟩ := h
  rw [atomAct_eq, hc]
  exact failAccess_of_trap hw

theorem atomAct_of_reaches (hr : Reaches u e (atomAccess f row k e u) z l) :
    atomAct u e row f k = atomPlaced z e row f k (atomAccess f row k e u) l := by
  obtain ⟨rfl, hl⟩ := hr
  rw [atomAct_eq, hl]

/-- Nothing of the context keeps an atomic from being performed. -/
def AtomFree (s : State) (e : Env) : Prop := e.h.stores = [] ∧ acquireHeld s e.r e.h = false

theorem atomFree_iff : AtomFree z e ↔ (!e.h.stores.isEmpty || acquireHeld z e.r e.h) = false := by
  simp [AtomFree]

theorem atomPlaced_hold {a : Access} (hf : ¬ AtomFree z e) : atomPlaced z e row f k a l = .hold := by
  rw [atomFree_iff, Bool.not_eq_false] at hf
  unfold atomPlaced
  rw [if_pos hf]

/-- An atomic that does not go into the ordered buffer. -/
theorem not_ordered {a : Access} (h : e.det = false ∨ (f.sub.toNat < 4 ∧ e.ordMeeting l a.size = [])) :
    (e.det && (wideScope f.sub.toNat || !(e.ordMeeting l a.size).isEmpty)) = false := by
  rcases h with h | ⟨hs, ho⟩
  · simp [h]
  · simp [ho, wideScope, hs]

theorem atomPlaced_flat {a : Access} {m w : State} {old : Nat} (hf : AtomFree z e)
    (ho : e.det = false ∨ (f.sub.toNat < 4 ∧ e.ordMeeting (.flat p host) a.size = [])) (hm : meetMemory z e.n p = (m, none))
    (hp : performAtomic m e.g.coreNo k p (storesHome a.space f.sub.toNat host) e.tag = (w, old)) :
    atomPlaced z e row f k a (.flat p host) = .done (boundaryAfter (writeDst w e row f old) e) := by
  simp only [atomPlaced, atomFree_iff.mp hf, not_ordered ho, hm, hp]
  rfl

theorem atomPlaced_peer {a : Access} {link : Nat} (hf : AtomFree z e)
    (ho : e.det = false ∨ (f.sub.toNat < 4 ∧ e.ordMeeting (.peer link chip p) a.size = [])) :
    atomPlaced z e row f k a (.peer link chip p) = .done (boundaryAfter (sendFrom z e link chip p (atomSent k e) none) e) := by
  simp only [atomPlaced, atomFree_iff.mp hf, not_ordered ho]
  rfl

theorem atomPlaced_ordered {a : Access} (hf : AtomFree z e) (hd : e.det = true) (hw : 4 ≤ f.sub.toNat) (hb : e.g.batchWords < 256) :
    atomPlaced z e row f k a l = .done ((atomPending z e row f).modHart e.r fun h => { h with ord := h.ord ++
      [{ e.ordEntry a l (.inl k) with
         dst := if row.opc == 0x28A then none else ((atomPending z e row f).hart? e.r).bind fun h => h.results.getLast? }] }) := by
  have hwide : wideScope f.sub.toNat = true := decide_eq_true hw
  unfold atomPlaced
  rw [if_neg (by rw [atomFree_iff.mp hf]; decide), if_pos (by simp [hd, hwide])]
  simp only [hwide, if_true]
  exact bufferOrd_place hb rfl rfl

end Atomics

/-- Settles O26: each way that `atomPlaced` takes, for each of the three instructions. -/
theorem atomics : Obligations.Atomics := by
  unfold Obligations.Atomics
  intro acc free whole
  have hwhole {i : Form → Instr} {row : OpRow} {kind : Form → Env → State → AtomKind}
      (hi : ∀ f s, exec (i f) s = issue row f s fun e s => atomAct s e row f (kind f e s)) : whole i row kind := by
    have hplaced {f : Form} {s u z : State} {e e' : Env} {l : Loc} {act : Act} (hx : Executes s row f e e' u)
        (hr : Reaches u e' (acc f row (kind f e' u) e' u) z l)
        (h : atomPlaced z e' row f (kind f e' u) (acc f row (kind f e' u) e' u) l = act) :
        exec (i f) s = .next (after s e row f act) :=
      exec_of_executes hx (hi f s) ((atomAct_of_reaches hr).trans h)
    refine ⟨?flat, ?peer, ?ordered, ?held, ?fails⟩
    case flat => exact fun f s e e' u z p host m old w hx hr hf ho hm hp => hplaced hx hr (atomPlaced_flat hf ho hm hp)
    case peer =>
      intro f s e e' u z l chip p op ty v hx hr hf hk ho
      refine hplaced hx hr ((atomPlaced_peer hf ho).trans ?_)
      rw [hk]
      rfl
    case ordered =>
      intro f s e e' u z p host hx hr hf hd hw hb w
      refine hplaced hx hr ((atomPlaced_ordered hf hd hw hb).trans ?_)
      simp only [beq_iff_eq, atomPending]
      rfl
    case held => exact fun f s e e' u z l hx hr hf => hplaced hx hr (atomPlaced_hold hf)
    case fails => exact fun f s e e' u c hx h => exec_of_executes hx (hi f s) (atomAct_fails h)
  exact ⟨hwhole fun _ _ => rfl, hwhole fun _ _ => rfl, hwhole fun _ _ => rfl⟩

end Sys2Proof
end

section
/-!
LAUNCH AND SIGNAL (14 R315, R316; 15 R326): O34.
-/
namespace Sys2Proof
open Machine

@[simp] theorem writeHome_refNs (s : State) (own : Option (Nat × Nat)) (ws : List WByte) : (writeHome s own ws).refNs = s.refNs := by
  unfold writeHome
  split <;> rfl

@[simp] theorem flushL1_refNs (s : State) (k : Nat) : (flushL1 s k).refNs = s.refNs := by
  rw [flushL1, writeHome_refNs, State.modCore_refNs]

section Launch
variable {s w : State} {e : Env} {row : OpRow} {f : Form} {r : BitVec 1024} {c : Ctx} {va k : Nat}

/-- Steps 3 to 5 of R315, once the record has been read: `c` is the context as it was at issue. -/
def launchWith (s : State) (e : Env) (c : Ctx) (k : Nat) (r : BitVec 1024) : Act :=
  if !recordOk r then trapAct .launchRecord
  else if 63 < k || !(s.queue c.part k).launchable e.n || decide (c.ilMax < Rec.integrity r) then trapAct .launchDenied
  else if (s.queue c.part k).full then .block (.launch c.part k r) s
  else match appendRecord s e.n c.part k r with
    | none => .raw (launchFault s e.r.group c.part k e.h.pc.toNat)
    | some s => .done (boundaryAfter s e)

/-- LAUNCH of the record at an address into queue `k`. -/
def launchAct (s : State) (e : Env) (va k : Nat) : Act :=
  if va % 128 != 0 then .trap { cause := .misalign, pc := 0, addr := BitVec.ofNat 64 va, space := 4 }
  else if !e.h.stores.isEmpty || linkBusy s e.r then .hold
  else if checkAccess (flushL1 s e.g.coreNo) e (launchRead va) matches .error .rangeLock then .trap ((launchRead va).trap e .rangeLock)
  else match readRecord (flushL1 s e.g.coreNo) e.n va e.ownOrd with
    | (s, none) => .raw (killGroup s e.r.group .launchFault e.h.pc.toNat 0 0)
    | (w, some r) => launchWith w e (s.ctx e.n) k r

theorem execLaunch_eq (f : Form) (s : State) :
    execLaunch f s = issue rowLaunch f s fun e s => launchAct s e (e.A s rowLaunch f) (e.B s rowLaunch f % 2 ^ 32) := by
  unfold execLaunch
  congr 1

/-- What keeps LAUNCH and SIGNAL from being performed. -/
def Unpublished (s : State) (e : Env) : Prop := e.h.stores ≠ [] ∨ linkBusy s e.r = true

theorem unpublished_iff : Unpublished s e ↔ (!e.h.stores.isEmpty || linkBusy s e.r) = true := by
  simp [Unpublished]

theorem not_unpublished_iff : ¬ Unpublished s e ↔ (!e.h.stores.isEmpty || linkBusy s e.r) = false := by
  rw [unpublished_iff, Bool.not_eq_true]

theorem not_unpublished (hs : e.h.stores = []) (hl : linkBusy s e.r = false) : ¬ Unpublished s e := by
  simp [Unpublished, hs, hl]

theorem launchAct_misalign (h : va % 128 ≠ 0) :
    launchAct s e va k = .trap { cause := .misalign, pc := 0, addr := BitVec.ofNat 64 va, space := 4 } := by
  unfold launchAct
  rw [if_pos (bne_iff_ne.mpr h)]

theorem launchAct_hold (h : va % 128 = 0) (hu : Unpublished s e) : launchAct s e va k = .hold := by
  unfold launchAct
  rw [if_neg (by simp [h]), if_pos (unpublished_iff.mp hu)]

theorem launchAct_rangeLock (h : va % 128 = 0) (hu : ¬ Unpublished s e)
    (hl : checkAccess (flushL1 s e.g.coreNo) e (launchRead va) = .error .rangeLock) :
    launchAct s e va k = .trap ((launchRead va).trap e .rangeLock) := by
  unfold launchAct
  rw [if_neg (by simp [h]), if_neg (Bool.not_eq_true _ ▸ not_unpublished_iff.mp hu), hl]
  rfl

theorem launchAct_read (h : va % 128 = 0) (hu : ¬ Unpublished s e)
    (hl : checkAccess (flushL1 s e.g.coreNo) e (launchRead va) ≠ .error .rangeLock)
    (hr : readRecord (flushL1 s e.g.coreNo) e.n va e.ownOrd = (w, some r)) : launchAct s e va k = launchWith w e (s.ctx e.n) k r := by
  unfold launchAct
  have hm : ¬ (checkAccess (flushL1 s e.g.coreNo) e (launchRead va) matches .error .rangeLock) = true := by
    intro hm
    split at hm
    · next hx => exact hl hx
    · cases hm
  rw [if_neg (by simp [h]), if_neg (Bool.not_eq_true _ ▸ not_unpublished_iff.mp hu), if_neg hm, hr]

/-- The queue takes the record from a steward of the context. -/
def Launches (s : State) (e : Env) (c : Ctx) (k : Nat) (r : BitVec 1024) : Prop :=
  recordOk r = true ∧ k ≤ 63 ∧ (s.queue c.part k).launchable e.n = true ∧ Rec.integrity r ≤ c.ilMax

theorem launchWith_record (h : recordOk r = false) : launchWith s e c k r = trapAct .launchRecord := by
  simp [launchWith, h]

theorem launchWith_denied (hr : recordOk r = true) (h : ¬ Launches s e c k r) : launchWith s e c k r = trapAct .launchDenied := by
  have hd : (decide (63 < k) || !(s.queue c.part k).launchable e.n || decide (c.ilMax < Rec.integrity r)) = true := by
    by_contra hd
    refine h ⟨hr, ?_⟩
    simpa [and_assoc] using hd
  unfold launchWith
  rw [if_neg (by simp [hr]), if_pos hd]

/-- A record that the queue takes waits for a slot, or stands in one. -/
theorem launchWith_taken (h : Launches s e c k r) : launchWith s e c k r =
    if (s.queue c.part k).full then .block (.launch c.part k r) s
    else match appendRecord s e.n c.part k r with
      | none => .raw (launchFault s e.r.group c.part k e.h.pc.toNat)
      | some s => .done (boundaryAfter s e) := by
  obtain ⟨hr, hk, hq, hi⟩ := h
  unfold launchWith
  rw [if_neg (by simp [hr]), if_neg (by simp [hq]; omega)]

end Launch

theorem allOnes64_eq : allOnes64 = 2 ^ 64 - 1 := rfl

section Signal
variable {u z : State} {e : Env} {f : Form} {l : Loc}

/-- The access of a SIGNAL. -/
def signalAccess (f : Form) (e : Env) (s : State) : Access :=
  { space := f.op2.toNat, addr := memAddr s e rowSignal f 8 (sext f.imm.toNat 32), size := 8, write := true
    far := farBase s e rowSignal f, need := needReadWrite }

/-- A SIGNAL that has passed its checks. -/
def signalPlaced (s : State) (e : Env) (a : Access) (l : Loc) : Act :=
  if !e.h.stores.isEmpty || linkBusy s e.r then .hold
  else if e.det && !(e.ordMeeting l 8).isEmpty then
    bufferOrd ((flushL1 s e.g.coreNo).modHart e.r Hart.nextSerial) e { e.ordEntry a l (.inl .signal) with words := 0 }
  else match l with
    | .flat p _ =>
      (match (meetMemory (flushL1 s e.g.coreNo) e.n p).2 with
      | some c => .event (meetMemory (flushL1 s e.g.coreNo) e.n p).1 c
      | none => .done (boundaryAfter (signalFlat (meetMemory (flushL1 s e.g.coreNo) e.n p).1 e.n p
          (placeEntry e.g { kind := 2, cause := .eventOverflow, pc := e.h.pc.toNat, quad := e.h.quad })) e))
    | .peer link chip p => .done (boundaryAfter (sendFrom (flushL1 s e.g.coreNo) e link chip p .signal none) e)

theorem execSignal_eq (f : Form) (s : State) : execSignal f s = issue rowSignal f s fun e s =>
    match checkAccess (meetPath s e (signalAccess f e s)) e (signalAccess f e s) with
    | .error c => failAccess (meetPath s e (signalAccess f e s)) e (signalAccess f e s) c
    | .ok l => signalPlaced (meetPath s e (signalAccess f e s)) e (signalAccess f e s) l :=
  rfl

/-- The steward's own ordered accesses do not meet the word. -/
def Alone (e : Env) (l : Loc) : Prop := e.det = false ∨ e.ordMeeting l 8 = []

theorem alone_iff : Alone e l ↔ (e.det && !(e.ordMeeting l 8).isEmpty) = false := by
  rw [Alone, Bool.and_eq_false_iff, Bool.not_eq_false', List.isEmpty_iff]

theorem signalPlaced_hold {a : Access} (h : Unpublished z e) : signalPlaced z e a l = .hold := by
  unfold signalPlaced
  rw [if_pos (unpublished_iff.mp h)]

theorem signalPlaced_ordered {a : Access} (hu : ¬ Unpublished z e) (ha : ¬ Alone e l) :
    signalPlaced z e a l
      = bufferOrd ((flushL1 z e.g.coreNo).modHart e.r Hart.nextSerial) e { e.ordEntry a l (.inl .signal) with words := 0 } := by
  rw [alone_iff, Bool.not_eq_false] at ha
  unfold signalPlaced
  rw [if_neg (Bool.not_eq_true _ ▸ not_unpublished_iff.mp hu), if_pos ha]

theorem signalPlaced_flat {a : Access} {p : Nat} {host : Bool} {m : State} (hu : ¬ Unpublished z e) (ha : Alone e (.flat p host))
    (hm : meetMemory (flushL1 z e.g.coreNo) e.n p = (m, none)) :
    signalPlaced z e a (.flat p host) = .done (boundaryAfter (signalFlat m e.n p
      (placeEntry e.g { kind := 2, cause := .eventOverflow, pc := e.h.pc.toNat, quad := e.h.quad })) e) := by
  simp only [signalPlaced, not_unpublished_iff.mp hu, alone_iff.mp ha, hm]
  rfl

theorem signalPlaced_peer {a : Access} {link p : Nat} {chip : Bool} (hu : ¬ Unpublished z e) (ha : Alone e (.peer link chip p)) :
    signalPlaced z e a (.peer link chip p)
      = .done (boundaryAfter (sendFrom (flushL1 z e.g.coreNo) e link chip p .signal none) e) := by
  simp only [signalPlaced, not_unpublished_iff.mp hu, alone_iff.mp ha]
  rfl

/-- A SIGNAL whose checks pass does what `signalPlaced` gives. -/
theorem exec_signal {s : State} {e e' : Env} {act : Act} (hx : Executes s rowSignal f e e' u)
    (hr : Reaches u e' (signalAccess f e' u) z l) (h : signalPlaced z e' (signalAccess f e' u) l = act) :
    exec (.signal f) s = .next (after s e rowSignal f act) := by
  obtain ⟨rfl, hl⟩ := hr
  refine exec_of_executes hx (execSignal_eq f s) ?_
  rw [hl]
  exact h

end Signal

/-- Settles O34. -/
theorem launchAndSignal : Obligations.LaunchAndSignal := by
  unfold Obligations.LaunchAndSignal
  intro ready part waits sigAcc free alone
  have hread {f : Form} {s u w : State} {e e' : Env} {r : BitVec 1024} {act : Act} (hx : Executes s rowLaunch f e e' u)
      (hready : ready e' u (e'.A u rowLaunch f))
      (hr : readRecord (flushL1 u e'.g.coreNo) e'.n (e'.A u rowLaunch f) e'.ownOrd = (w, some r))
      (h : launchWith w e' (u.ctx e'.n) (e'.B u rowLaunch f % 2 ^ 32) r = act) :
      exec (.launch f) s = .next (after s e rowLaunch f act) := by
    obtain ⟨ha, hs, hl, hlock⟩ := hready
    exact exec_of_executes hx (execLaunch_eq f s) ((launchAct_read ha (not_unpublished hs hl) hlock hr).trans h)
  have hfree {u w : State} {e : Env} {r : BitVec 1024} {k : Nat} (hp : part e u = part e w)
      (hi : (u.ctx e.n).ilMax = (w.ctx e.n).ilMax) : free e w r k ↔ Launches w e (u.ctx e.n) k r := by
    have hp' : (u.ctx e.n).part = (w.ctx e.n).part := hp
    rw [Launches, hp', hi]
  have hpart {u w : State} {e : Env} (hp : part e u = part e w) : (u.ctx e.n).part = part e w := hp
  refine ⟨?taken, ?refused, ?misalign, ?unpublished, ?locked, ?flat, ?peer, ?ordered, ?waits, ?fails⟩
  case taken =>
    intro f s e e' u w r w' hx hready hr hp hi hf
    have hl := launchWith_taken ((hfree hp hi).mp hf)
    rw [hpart hp] at hl
    refine ⟨fun hfull happend => hread hx hready hr (hl.trans ?_), fun hfull => hread hx hready hr (hl.trans ?_)⟩
    · rw [if_neg (Bool.not_eq_true _ ▸ hfull), happend]
    · rw [if_pos hfull]
  case refused =>
    intro f s e e' u w r hx hready hr
    exact ⟨fun h => hread hx hready hr (launchWith_record h),
      fun h hp hi hf => hread hx hready hr (launchWith_denied h fun hl => hf ((hfree hp hi).mpr hl))⟩
  case misalign => exact performs_of_issue execLaunch_eq fun f e u h => launchAct_misalign h
  case unpublished => exact performs_of_issue execLaunch_eq fun f e u h => launchAct_hold h.1 h.2
  case locked =>
    refine performs_of_issue execLaunch_eq fun f e u h => ?_
    obtain ⟨ha, hu, hl⟩ := h
    exact launchAct_rangeLock ha hu hl
  case flat =>
    intro f s e e' u z p host m hx hr hs hl ha hm
    have hplaced := signalPlaced_flat (a := sigAcc f e' u) (not_unpublished hs hl) ha hm
    refine ⟨fun hn => exec_signal hx hr (hplaced.trans ?_), fun hn => exec_signal hx hr (hplaced.trans ?_)⟩
    · rw [signalFlat, allOnes64_eq, if_neg hn]
    · rw [signalFlat, allOnes64_eq, if_pos hn]
      rfl
  case peer =>
    intro f s e e' u z l chip p hx hr hs hl ha
    refine exec_signal hx hr ((signalPlaced_peer (not_unpublished hs hl) ha).trans ?_)
    rw [sendFrom, flushL1_refNs]
  case ordered => exact fun f s e e' u z l hx hr hw ha => exec_signal hx hr (signalPlaced_ordered hw ha)
  case waits =>
    intro f s e e' u z l hx hr hw
    exact exec_signal hx hr (signalPlaced_hold hw)
  case fails =>
    intro f s e e' u c hx h
    obtain ⟨hc, hw⟩ := h
    have hc' : checkAccess (meetPath u e' (signalAccess f e' u)) e' (signalAccess f e' u) = .error c := hc
    refine exec_of_executes hx (execSignal_eq f s) ?_
    rw [hc']
    exact failAccess_of_trap hw

end Sys2Proof
end

section
/-!
ENGINE COMMANDS AT ISSUE (14 R295, R310; 07 R167): O32. Each instruction makes its checks in order; the conditions are written here as
propositions, one equation per instruction.
-/
namespace Sys2Proof
open Machine

section Commands
variable {s : State} {e : Env} {f : Form} {b : List Word}

/-! ## The claim of the tiles -/

/-- No other group has the tiles of the core. -/
def TilesFree (s : State) (e : Env) : Prop := (s.core e.g.coreNo).claim = none ∨ (s.core e.g.coreNo).claim = some e.r.group

theorem withClaim_of_free {a : Act} (h : TilesFree s e) : withClaim s e a = a := by
  unfold withClaim
  rcases h with h | h <;> rw [h]
  exact if_pos rfl

theorem withClaim_of_not_free {a : Act} (h : ¬ TilesFree s e) : withClaim s e a = .block .claim s := by
  unfold withClaim
  cases hc : (s.core e.g.coreNo).claim with
  | none => exact absurd (.inl hc) h
  | some k =>
    have hk : k ≠ e.r.group := fun hk => h (.inr (hk ▸ hc))
    exact if_neg hk

theorem not_isNone {α : Type} {o : Option α} (h : o.isSome = true) : ¬ o.isNone = true := by
  cases o
  · cases h
  · exact Bool.false_ne_true

theorem acceptCmd_unpublished {kind : CmdKind} {descs : Map (BitVec 1024)} {asks : List LockAsk} {claims : Bool}
    (h : Unpublished s e) : acceptCmd s e kind b descs asks claims = .hold := by
  refine if_pos ?_
  rw [Bool.or_assoc, unpublished_iff.mp h, Bool.or_true]

theorem isMatrix_iff {k : CmdKind} : k.isMatrix = true ↔ k ≠ .cpy := by
  cases k <;> simp [CmdKind.isMatrix]

/-! ## MXZ and MX -/

/-- The reserved bits of the block of a matrix command of `n` words. -/
abbrev MatFields (b : List Word) (n : Nat) : Prop := blkBits b 0 28 4 = 0 ∧ blkBits b 0 21 3 = 0 ∧ (n = 4 → blkBits b 3 9 23 = 0)

/-- The checks that MXZ and MX begin with. -/
def tileChecked (b : List Word) (n : Nat) (go : Act) : Act :=
  if ¬ MatFields b n then trapAct .tensorGeom
  else if blkBits b 0 24 4 = 0 then trapAct .mxQuad
  else if 23 < blkBits b 0 16 5 then trapAct .accTile
  else go

theorem execMxz_eq (f : Form) (s : State) : execMxz f s = issue rowMxz f s fun e s =>
    tileChecked (blockWords s e rowMxz f 1) 1 (withClaim s e (acceptCmd s e .mxz (blockWords s e rowMxz f 1) [] [] true)) := by
  unfold execMxz
  congr 1
  funext e s
  refine if_congr ?_ rfl rfl
  simp only [Bool.or_eq_true, bne_iff_ne]
  omega

/-- The operands of an MX: of one K, and in the formats of its type. -/
abbrev MxOperands (f : Form) (da db : BitVec 1024) : Prop :=
  operandOk da false (if f.ty = .i8 then 9 else 13) = true
  ∧ operandOk db true (if f.op2 = 1 then 22 - (if f.ty = .i8 then 9 else 13) else if f.ty = .i8 then 9 else 13) = true
  ∧ Desc.size da 0 = Desc.size db 0

/-- The accumulated depth of every tile stays in the range of R39. -/
abbrev MxShallow (s : State) (e : Env) (b : List Word) : Prop :=
  ∀ q, q < 4 → (blkBits b 0 24 4).testBit q = true → depthAhead s e.g.coreNo (q * 24 + blkBits b 0 16 5) + 64 * blkBits b 3 0 9 ≤ 32767

/-- MX behind the checks of its tiles. -/
def mxChecked (s : State) (e : Env) (f : Form) (b : List Word) (da db : BitVec 1024) : Act :=
  if blkWord b 1 % 64 ≠ 0 ∨ blkBits b 3 0 9 = 0 then trapAct .tensorGeom
  else if ¬ ((storeOf (s.ctx e.n).desc da).isSome = true ∧ (storeOf (s.ctx e.n).desc db).isSome = true) then trapAct .tidInvalid
  else if ¬ MxOperands f da db then trapAct .tensorGeom
  else withClaim s e
    (if ¬ MxShallow s e b then trapAct .mxKlimit
     else acceptCmd s e (.mx f.ty (f.op2 == 1)) b [(0, da), (1, db)] (lockOf s e da false ++ lockOf s e db false) true)

theorem execMx_eq (f : Form) (s : State) : execMx f s = issue rowMx f s fun e s =>
    tileChecked (blockWords s e rowMx f 4) 4 (mxChecked s e f (blockWords s e rowMx f 4)
      ((s.ctx e.n).desc (blkBits (blockWords s e rowMx f 4) 0 0 8)) ((s.ctx e.n).desc (blkBits (blockWords s e rowMx f 4) 0 8 8))) := by
  unfold execMx
  congr 1
  funext e s
  dsimp only
  generalize blockWords s e rowMx f 4 = b
  generalize (s.ctx e.n).desc (blkBits b 0 0 8) = da
  generalize (s.ctx e.n).desc (blkBits b 0 8 8) = db
  refine if_congr ?_ rfl (if_congr Iff.rfl rfl (if_congr Iff.rfl rfl (if_congr ?_ rfl (if_congr ?_ rfl (if_congr ?_ rfl ?_)))))
  · simp only [Bool.or_eq_true, bne_iff_ne]
    omega
  · simp only [Bool.or_eq_true, bne_iff_ne, decide_eq_true_eq]
  · simp only [Bool.or_eq_true, Option.isNone_iff_eq_none, Option.isSome_iff_ne_none, not_and_or, not_not, ne_eq]
  · simp only [Bool.or_eq_true, Bool.not_eq_true', bne_iff_ne, beq_iff_eq, ← Bool.not_eq_true, MxOperands, not_and_or, or_assoc,
      ne_eq]
  · refine congrArg (withClaim s e) (if_congr ?_ rfl rfl)
    simp [MxShallow]

/-- The checks of the tiles pass. -/
theorem tileChecked_passes {n : Nat} {go : Act} (h : MatFields b n) (hq : blkBits b 0 24 4 ≠ 0) (ht : blkBits b 0 16 5 ≤ 23) :
    tileChecked b n go = go :=
  (if_neg (not_not.mpr h)).trans ((if_neg hq).trans (if_neg (Nat.not_lt.mpr ht)))

/-! ## Drains -/

/-- The fields of the block of a drain. -/
abbrev DrainFields (b : List Word) (mxs : Bool) : Prop :=
  blkBits b 0 28 4 = 0 ∧ blkBits b 0 7 1 = 0 ∧ (mxs = true → blkBits b 5 8 24 = 0) ∧ blkBits b 0 23 3 ≤ 3 ∧ blkBits b 0 21 2 ≠ 3

/-- A drain of the group to the same readers is under way. -/
def DrainBusy (s : State) (e : Env) (b : List Word) : Prop :=
  ∃ c z, c ∈ s.cmdsOf e.r.group e.g ∧ c.kind = .mxd z ∧ blkBits c.block 0 16 4 = blkBits b 0 16 4

theorem drainCheck_fields {mxs : Bool} (h : ¬ DrainFields b mxs) : drainCheck s e b mxs = some .tensorGeom := by
  unfold drainCheck
  by_cases h1 : (blkBits b 0 28 4 != 0 || blkBits b 0 7 1 != 0 || (mxs && blkBits b 5 8 24 != 0)) = true
  · rw [if_pos h1]
  · rw [if_neg h1, if_pos]
    by_contra h2
    refine h ?_
    simp only [Bool.or_eq_true, Bool.and_eq_true, bne_iff_ne, decide_eq_true_eq, not_or, not_and, not_not, ne_eq] at h1 h2
    exact ⟨h1.1.1, h1.1.2, h1.2, by omega, h2.2⟩

theorem drainCheck_of_fields {mxs : Bool} (h : DrainFields b mxs) : drainCheck s e b mxs =
    if 23 < blkBits b 0 0 5 then some .accTile
    else if !mxs && decide (Hdr.threads e.hdr ≤ 64 * blkBits b 0 16 4) then some .tensorGeom
    else if !mxs && (s.cmdsOf e.r.group e.g).any fun c =>
        c.kind matches .mxd _ && blkBits c.block 0 16 4 == blkBits b 0 16 4 then some .drainBusy
    else none := by
  obtain ⟨h1, h2, h3, h4, h5⟩ := h
  have hfields : ¬ (blkBits b 0 28 4 != 0 || blkBits b 0 7 1 != 0 || (mxs && blkBits b 5 8 24 != 0)) = true := by
    simp only [Bool.or_eq_true, Bool.and_eq_true, bne_iff_ne, not_or, not_and, not_not, ne_eq]
    exact ⟨⟨h1, h2⟩, h3⟩
  have hformat : ¬ (decide (3 < blkBits b 0 23 3) || decide (blkBits b 0 21 2 = 3)) = true := by
    simp only [Bool.or_eq_true, decide_eq_true_eq, not_or]
    exact ⟨by omega, h5⟩
  exact (if_neg hfields).trans (if_neg hformat)

theorem drainBusy_any (h : DrainBusy s e b) : ((s.cmdsOf e.r.group e.g).any fun c =>
    c.kind matches .mxd _ && blkBits c.block 0 16 4 == blkBits b 0 16 4) = true := by
  obtain ⟨c, z, hc, hk, hb⟩ := h
  refine List.any_eq_true.mpr ⟨c, hc, ?_⟩
  rw [hk, hb, beq_self_eq_true]
  rfl

theorem epiDesc_none (h1 : blkBits b 0 26 1 = 1)
    (h : storeOf (s.ctx e.n).desc ((s.ctx e.n).desc (blkBits b 0 8 8)) = none) : epiDesc s e b = .error .tidInvalid := by
  unfold epiDesc
  rw [if_neg (by omega), h]

/-- What comes of the drain checks of MXD and MXS. -/
def drainChecked (s : State) (e : Env) (b : List Word) (mxs : Bool) (go : Option (BitVec 1024) → Act) : Act :=
  match drainCheck s e b mxs with
  | some c => trapAct c
  | none =>
    match epiDesc s e b with
    | .error c => trapAct c
    | .ok d => go d

theorem drainChecked_fails {mxs : Bool} {go : Option (BitVec 1024) → Act} {c : Cause}
    (h : drainCheck s e b mxs = some c ∨ (drainCheck s e b mxs = none ∧ epiDesc s e b = .error c)) :
    drainChecked s e b mxs go = trapAct c := by
  rcases h with h | ⟨h, he⟩
  · simp only [drainChecked, h]
  · simp only [drainChecked, h, he]

theorem drainChecked_passes {mxs : Bool} {go : Option (BitVec 1024) → Act} {d : Option (BitVec 1024)}
    (h : drainCheck s e b mxs = none) (he : epiDesc s e b = .ok d) : drainChecked s e b mxs go = go d := by
  simp only [drainChecked, h, he]

theorem execMxd_eq (f : Form) (s : State) : execMxd f s = issue rowMxd f s fun e s =>
    drainChecked s e (blockWords s e rowMxd f 5) false fun d =>
      withClaim s e (acceptCmd s e (.mxd (f.op2 == 1)) (blockWords s e rowMxd f 5) (epiMap d) [] true) :=
  rfl

/-- The destination of an MXS: a stored tensor of rank 2 in the output format. -/
abbrev MxsShaped (b : List Word) (d : BitVec 1024) : Prop :=
  Desc.kind d ≠ 1 ∧ Desc.rank d = 2 ∧ Desc.fmt d = drainFmt (blkBits b 0 23 3)

/-- An element of the tile has a coordinate that traps. -/
def MxsOutside (s : State) (e : Env) (b : List Word) (d : BitVec 1024) : Prop :=
  ∃ p c, p ∈ tilePoints ∧ resolveTensor (s.ctx e.n).desc d (mxsCoord b p.1 p.2) = .trap c

theorem mxsOutside_iff {d : BitVec 1024} : MxsOutside s e b d ↔
    (tilePoints.any fun p => resolveTensor (s.ctx e.n).desc d (mxsCoord b p.1 p.2) matches .trap _) = true := by
  rw [List.any_eq_true]
  constructor
  · rintro ⟨p, c, hp, hc⟩
    exact ⟨p, hp, by rw [hc]⟩
  · rintro ⟨p, hp, hc⟩
    split at hc
    · next c hx => exact ⟨p, c, hp, hx⟩
    · cases hc

/-- MXS behind the checks of a drain. -/
def mxsChecked (s : State) (e : Env) (f : Form) (b : List Word) (d : BitVec 1024) (epi : Option (BitVec 1024)) : Act :=
  if (storeOf (s.ctx e.n).desc d).isNone then trapAct .tidInvalid
  else if ¬ MxsShaped b d then trapAct .tensorGeom
  else if tilePoints.any fun p => resolveTensor (s.ctx e.n).desc d (mxsCoord b p.1 p.2) matches .trap _ then trapAct .tensorBounds
  else withClaim s e (acceptCmd s e (.mxs (f.op2 == 1)) b (epiMap epi ++ [(1, d)])
    ((match epi with | some x => vectorLocks s e b x | none => []) ++ lockOf s e d true) true)

theorem execMxs_eq (f : Form) (s : State) : execMxs f s = issue rowMxs f s fun e s =>
    drainChecked s e (blockWords s e rowMxs f 8) true
      (mxsChecked s e f (blockWords s e rowMxs f 8) ((s.ctx e.n).desc (blkBits (blockWords s e rowMxs f 8) 5 0 8))) := by
  unfold execMxs
  congr 1
  funext e s
  dsimp only
  generalize blockWords s e rowMxs f 8 = b
  unfold drainChecked
  cases drainCheck s e b true with
  | some c => rfl
  | none =>
    cases epiDesc s e b with
    | error c => rfl
    | ok epi =>
      refine if_congr Iff.rfl rfl (if_congr ?_ rfl rfl)
      simp only [Bool.or_eq_true, bne_iff_ne, decide_eq_true_eq, not_and_or, or_assoc, not_not, ne_eq]

/-! ## DLT -/

/-- The reserved bits of the block of a DLT. -/
abbrev DltFields (b : List Word) : Prop := blkBits b 0 26 6 = 0 ∧ blkBits b 0 21 3 = 0 ∧ blkBits b 0 6 2 = 0

/-- The operands of a DLT: the weights of the binding and activations that fit them. -/
abbrev DltFits (r : BitVec 512) (w x : BitVec 1024) : Prop :=
  bindOk w r = true ∧ operandOk x true 9 = true ∧ Desc.size x 0 = 16 * Slot.kb r ∧ Desc.size x 1 = Slot.cols r

/-- DLT at its turn at the slot, whose record is `r`. -/
def dltAtSlot (s : State) (e : Env) (b : List Word) (r : BitVec 512) (w x : BitVec 1024) : Act :=
  if Slot.state r = 0 ∨ Slot.state r = 5 then trapAct .rslotState
  else if ¬ ((storeOf (s.ctx e.n).desc w).isSome = true ∧ (storeOf (s.ctx e.n).desc x).isSome = true) then trapAct .tidInvalid
  else if Desc.watch w = false then trapAct .rslotVersion
  else if ¬ DltFits r w x then trapAct .tensorGeom
  else if 24 < blkBits b 0 16 5 + ceilDiv (Slot.rows r) 32 * ceilDiv (Slot.cols r) 32 then trapAct .accTile
  else withClaim s e (acceptCmd s e .dlt b [(0, w), (1, x)]
    (lockOf s e w false ++ lockOf s e x false ++ bufferLock s e (Slot.refSpace r) (Slot.refBase r) (Slot.refBytes r)
      ++ bufferLock s e (Slot.resSpace r) (Slot.resBase r) (Slot.resBytes r)) true)

/-- The record of the slot that the block of a DLT names. -/
def dltRecord (s : State) (e : Env) (b : List Word) : BitVec 512 := ((s.ctx e.n).slot (blkBits b 0 0 6)).bits

/-- DLT with the words of its block. -/
def dltAct (s : State) (e : Env) (b : List Word) : Act :=
  if ¬ DltFields b then trapAct .tensorGeom
  else if !e.h.stores.isEmpty || linkBusy s e.r then .hold
  else slotTurn s e (blkBits b 0 0 6) (dltAtSlot s e b (dltRecord s e b) ((s.ctx e.n).desc (Slot.wTid (dltRecord s e b)))
    ((s.ctx e.n).desc (blkBits b 0 8 8)))

theorem execDlt_eq (f : Form) (s : State) : execDlt f s = issue rowDlt f s fun e s => dltAct s e (blockWords s e rowDlt f 1) := by
  unfold execDlt
  congr 1
  funext e s
  dsimp only
  generalize blockWords s e rowDlt f 1 = b
  refine if_congr ?_ rfl (if_congr Iff.rfl rfl (congrArg (slotTurn s e (blkBits b 0 0 6)) ?_))
  · simp only [Bool.or_eq_true, bne_iff_ne, not_and_or, or_assoc, ne_eq]
  · unfold dltRecord dltAtSlot
    generalize ((s.ctx e.n).slot (blkBits b 0 0 6)).bits = r
    generalize (s.ctx e.n).desc (Slot.wTid r) = w
    generalize (s.ctx e.n).desc (blkBits b 0 8 8) = x
    refine if_congr (slotUnfit_eq_true_iff r) rfl (if_congr ?_ rfl (if_congr ?_ rfl (if_congr ?_ rfl rfl)))
    · simp only [Bool.or_eq_true, Option.isNone_iff_eq_none, Option.isSome_iff_ne_none, not_and_or, not_not, ne_eq]
    · exact Iff.of_eq (Bool.not_eq_true' _)
    · simp only [Bool.or_eq_true, Bool.not_eq_true', ← Bool.not_eq_true, Bool.and_eq_true, beq_iff_eq, not_and_or, or_assoc]

theorem dltAct_fields (h : ¬ DltFields b) : dltAct s e b = trapAct .tensorGeom := if_pos h

theorem dltAct_hold (h : DltFields b) (hu : Unpublished s e) : dltAct s e b = .hold :=
  (if_neg (not_not.mpr h)).trans (if_pos (unpublished_iff.mp hu))

/-- A DLT at its turn. -/
theorem dltAct_turn (h : DltFields b) (hu : ¬ Unpublished s e) (hw : ¬ WaitsForSlot s e (blkBits b 0 0 6)) :
    dltAct s e b = dltAtSlot s e b (dltRecord s e b) ((s.ctx e.n).desc (Slot.wTid (dltRecord s e b)))
      ((s.ctx e.n).desc (blkBits b 0 8 8)) :=
  (if_neg (not_not.mpr h)).trans
    ((if_neg (Bool.not_eq_true _ ▸ not_unpublished_iff.mp hu)).trans (slotTurn_of_not_waits hw))

/-! ## CPY -/

/-- The reserved bits of the block of a CPY. -/
abbrev CpyFields (b : List Word) : Prop := blkBits b 0 19 13 = 0 ∧ blkBits b 1 21 11 = 0

/-- The completion word of a CPY is a word of the core memory of its group. -/
abbrev CpyWord (e : Env) (b : List Word) : Prop := blkWord b 2 % 4 = 0 ∧ blkWord b 2 + 4 ≤ Hdr.cbytes e.hdr

/-- Source and destination of a CPY have one shape, up to a permutation. -/
abbrev CpyShaped (b : List Word) (src dst st : BitVec 1024) : Prop :=
  Desc.kind dst ≠ 1 ∧ Desc.rank src = Desc.rank dst ∧ Desc.fmt st = Desc.fmt dst ∧ blkWord b 1 / 2 ^ (3 * Desc.rank dst) = 0
  ∧ ((List.range (Desc.rank dst)).map (cpyPerm b)).Nodup ∧ ∀ i, i < Desc.rank dst → cpyPerm b i < Desc.rank dst

/-- Every element of the source that a CPY reads resolves. -/
def CpyInside (s : State) (e : Env) (b : List Word) (src dst : BitVec 1024) : Prop :=
  ∀ p, p ∈ extentPoints (cpyExtents dst) → ∀ c, resolveTensor (s.ctx e.n).desc src (cpySource b (Desc.rank dst) p) ≠ .trap c

theorem cpyInside_iff {src dst : BitVec 1024} : ¬ CpyInside s e b src dst ↔
    ((extentPoints (cpyExtents dst)).any fun p =>
      resolveTensor (s.ctx e.n).desc src (cpySource b (Desc.rank dst) p) matches .trap _) = true := by
  unfold CpyInside
  push Not
  rw [List.any_eq_true]
  constructor
  · rintro ⟨p, hp, c, hc⟩
    exact ⟨p, hp, by rw [hc]⟩
  · rintro ⟨p, hp, hc⟩
    split at hc
    · next c hx => exact ⟨p, hp, c, hx⟩
    · cases hc

/-- The copies that the core has not completed. -/
def copies (s : State) (e : Env) : Nat := ((s.core e.g.coreNo).cmds.filter fun c => c.kind == .cpy).length

/-- CPY whose source and destination are stored, the source in `st`. -/
def cpyStored (s : State) (e : Env) (b : List Word) (src dst st : BitVec 1024) : Act :=
  if ¬ CpyShaped b src dst st then trapAct .tensorGeom
  else if (extentPoints (cpyExtents dst)).any fun p =>
      resolveTensor (s.ctx e.n).desc src (cpySource b (Desc.rank dst) p) matches .trap _ then trapAct .cpyRange
  else if overlapAsks (lockOf s e st false) (lockOf s e dst true) then trapAct .cpyRange
  else if 16 ≤ copies s e then .hold
  else acceptCmd s e .cpy b [(0, src), (1, dst), (2, st)] (lockOf s e st false ++ lockOf s e dst true) false

/-- CPY with the words of its block. -/
def cpyAct (s : State) (e : Env) (b : List Word) (src dst : BitVec 1024) : Act :=
  if ¬ CpyFields b then trapAct .tensorGeom
  else if ¬ CpyWord e b then trapAct .cpyCompletion
  else match storeOf (s.ctx e.n).desc src, storeOf (s.ctx e.n).desc dst with
    | some st, some _ => cpyStored s e b src dst st
    | _, _ => trapAct .tidInvalid

theorem execCpy_eq (f : Form) (s : State) : execCpy f s = issue rowCpy f s fun e s =>
    cpyAct s e (blockWords s e rowCpy f 8) ((s.ctx e.n).desc (blkBits (blockWords s e rowCpy f 8) 0 0 8))
      ((s.ctx e.n).desc (blkBits (blockWords s e rowCpy f 8) 0 8 8)) := by
  unfold execCpy
  congr 1
  funext e s
  dsimp only
  generalize blockWords s e rowCpy f 8 = b
  generalize (s.ctx e.n).desc (blkBits b 0 0 8) = src
  generalize (s.ctx e.n).desc (blkBits b 0 8 8) = dst
  refine if_congr ?_ rfl (if_congr ?_ rfl ?_)
  · simp only [Bool.or_eq_true, bne_iff_ne, not_and_or, ne_eq]
  · simp only [Bool.or_eq_true, bne_iff_ne, decide_eq_true_eq, not_and_or, ne_eq, Nat.not_le]
  · cases storeOf (s.ctx e.n).desc src with
    | none => rfl
    | some st =>
      cases storeOf (s.ctx e.n).desc dst with
      | none => rfl
      | some st' =>
        refine if_congr ?_ rfl (if_congr Iff.rfl rfl (if_congr Iff.rfl rfl (if_congr decide_eq_true_iff rfl rfl)))
        simp only [Bool.or_eq_true, bne_iff_ne, decide_eq_true_eq, Bool.not_eq_true', decide_eq_false_iff_not, List.any_eq_true,
          List.mem_map, List.mem_range, not_and_or, or_assoc, not_not, ne_eq, not_forall, Nat.not_lt,
          exists_prop, exists_exists_and_eq_and]

theorem cpyAct_fields {src dst : BitVec 1024} (h : ¬ CpyFields b) : cpyAct s e b src dst = trapAct .tensorGeom := if_pos h

theorem cpyAct_word {src dst : BitVec 1024} (h : CpyFields b) (hw : ¬ CpyWord e b) : cpyAct s e b src dst = trapAct .cpyCompletion :=
  (if_neg (not_not.mpr h)).trans (if_pos hw)

theorem cpyAct_not_stored {src dst : BitVec 1024} (h : CpyFields b) (hw : CpyWord e b)
    (hs : ¬ ((storeOf (s.ctx e.n).desc src).isSome = true ∧ (storeOf (s.ctx e.n).desc dst).isSome = true)) :
    cpyAct s e b src dst = trapAct .tidInvalid := by
  refine (if_neg (not_not.mpr h)).trans ((if_neg (not_not.mpr hw)).trans ?_)
  cases h1 : storeOf (s.ctx e.n).desc src with
  | none => rfl
  | some st =>
    cases h2 : storeOf (s.ctx e.n).desc dst with
    | none => rfl
    | some st' => exact absurd ⟨by rw [h1]; rfl, by rw [h2]; rfl⟩ hs

theorem cpyAct_stored {src dst st st' : BitVec 1024} (h : CpyFields b) (hw : CpyWord e b)
    (h1 : storeOf (s.ctx e.n).desc src = some st) (h2 : storeOf (s.ctx e.n).desc dst = some st') :
    cpyAct s e b src dst = cpyStored s e b src dst st := by
  refine (if_neg (not_not.mpr h)).trans ((if_neg (not_not.mpr hw)).trans ?_)
  rw [h1, h2]

theorem cpyStored_shape {src dst st : BitVec 1024} (h : ¬ CpyShaped b src dst st) : cpyStored s e b src dst st = trapAct .tensorGeom :=
  if_pos h

theorem cpyStored_range {src dst st : BitVec 1024} (h : CpyShaped b src dst st)
    (hr : ¬ CpyInside s e b src dst ∨ overlapAsks (lockOf s e st false) (lockOf s e dst true) = true) :
    cpyStored s e b src dst st = trapAct .cpyRange := by
  refine (if_neg (not_not.mpr h)).trans ?_
  by_cases hi : CpyInside s e b src dst
  · exact (if_neg (cpyInside_iff.not.mp (not_not.mpr hi))).trans (if_pos (hr.resolve_left (not_not.mpr hi)))
  · exact if_pos (cpyInside_iff.mp hi)

theorem cpyStored_passes {src dst st : BitVec 1024} (h : CpyShaped b src dst st) (hi : CpyInside s e b src dst)
    (ho : overlapAsks (lockOf s e st false) (lockOf s e dst true) = false) :
    cpyStored s e b src dst st = if 16 ≤ copies s e then .hold
      else acceptCmd s e .cpy b [(0, src), (1, dst), (2, st)] (lockOf s e st false ++ lockOf s e dst true) false :=
  (if_neg (not_not.mpr h)).trans ((if_neg (cpyInside_iff.not.mp (not_not.mpr hi))).trans (if_neg (Bool.not_eq_true _ ▸ ho)))

/-! ## CPYC -/

theorem modTovor_due_nil (hd : s.tovor.due = []) : (s.modTovor fun t => { t with due := [] }) = s := by
  unfold State.modTovor
  rw [← hd]

/-- A cancelled copy leaves its word, which is written at once where nothing is outstanding over a link. -/
theorem cancelCpy_eq {g : Group} {c : Cmd} (hd : s.tovor.due = []) : cancelCpy s g c = if engReleased s c.id = true
    then writeDue s (cpyDue g c 0x80000000) else s.modTovor fun t => { t with due := [cpyDue g c 0x80000000] } := by
  have hone : cancelCpy s g c = settleDue (s.modTovor fun t => { t with due := [cpyDue g c 0x80000000] }) := by
    rw [cancelCpy]
    congr 1
    unfold State.modTovor
    dsimp only
    rw [hd]
    rfl
  have hsettle : settleDue (s.modTovor fun t => { t with due := [cpyDue g c 0x80000000] })
      = ([cpyDue g c 0x80000000].filter fun _ => engReleased s c.id).foldl writeDue
        (s.modTovor fun t => { t with due := [cpyDue g c 0x80000000].filter fun _ => !engReleased s c.id }) := rfl
  rw [hone, hsettle]
  cases engReleased s c.id
  · rfl
  · exact congrArg (fun s => writeDue s (cpyDue g c 0x80000000)) (modTovor_due_nil hd)

end Commands

/-- Settles O32. -/
theorem engineCommands : Obligations.EngineCommands := by
  unfold Obligations.EngineCommands
  intro mine bits quadsOk look mxOk mxShallow mxsOk dltFields dltOk traps matFields tileTraps mxWords stored drainTraps slotOf dltTurn
    dltBound dltFits dltStored dltTiles cpyWords cpyDone
  have htile {i : Form → Instr} {row : OpRow} {n : Nat} {go : Form → Env → State → Act}
      (hi : ∀ f s, exec (i f) s = issue row f s fun e s => tileChecked (blockWords s e row f n) n (go f e s)) : tileTraps i row n := by
    refine ⟨performs_of_issue hi fun f e u h => if_pos h, performs_of_issue hi fun f e u h => ?_,
      performs_of_issue hi fun f e u h => ?_⟩
    · exact (if_neg (not_not.mpr h.1)).trans (if_pos h.2)
    · obtain ⟨hf, hq, ht⟩ := h
      exact (if_neg (not_not.mpr hf)).trans ((if_neg hq).trans (if_pos ht))
  have hdrain {i : Form → Instr} {row : OpRow} {n : Nat} {mxs : Bool} {go : Form → Env → State → Option (BitVec 1024) → Act}
      (hi : ∀ f s, exec (i f) s = issue row f s fun e s => drainChecked s e (blockWords s e row f n) mxs (go f e s)) :
      drainTraps i row n mxs :=
    fun f s e e' u c hx h => exec_of_executes hx (hi f s) (drainChecked_fails h)
  have hmx {f : Form} {e : Env} {u : State} (h : mxOk f e u) : tileChecked (blockWords u e rowMx f 4) 4
      (mxChecked u e f (blockWords u e rowMx f 4) (look u e (bits u e rowMx f 4 0 0 8)) (look u e (bits u e rowMx f 4 0 8 8)))
      = withClaim u e (if ¬ mxShallow f e u then trapAct .mxKlimit
        else acceptCmd u e (.mx f.ty (f.op2 == 1)) (blockWords u e rowMx f 4)
          [(0, look u e (bits u e rowMx f 4 0 0 8)), (1, look u e (bits u e rowMx f 4 0 8 8))]
          (lockOf u e (look u e (bits u e rowMx f 4 0 0 8)) false ++ lockOf u e (look u e (bits u e rowMx f 4 0 8 8)) false) true) := by
    obtain ⟨⟨h1, h2, hq, ht⟩, h3, hw, hn, hs1, hs2, ho⟩ := h
    exact (tileChecked_passes ⟨h1, h2, fun _ => h3⟩ hq ht).trans ((if_neg (not_or.mpr ⟨not_not.mpr hw, hn⟩)).trans
      ((if_neg (not_not.mpr ⟨hs1, hs2⟩)).trans (if_neg (not_not.mpr ho))))
  have hdlt {f : Form} {e : Env} {u : State} (h : dltOk f e u) (hu : ¬ Unpublished u e) : dltAct u e (blockWords u e rowDlt f 1)
      = withClaim u e (acceptCmd u e .dlt (blockWords u e rowDlt f 1)
          [(0, look u e (Slot.wTid (slotOf f e u))), (1, look u e (bits u e rowDlt f 1 0 8 8))]
          (lockOf u e (look u e (Slot.wTid (slotOf f e u))) false ++ lockOf u e (look u e (bits u e rowDlt f 1 0 8 8)) false
            ++ bufferLock u e (Slot.refSpace (slotOf f e u)) (Slot.refBase (slotOf f e u)) (Slot.refBytes (slotOf f e u))
            ++ bufferLock u e (Slot.resSpace (slotOf f e u)) (Slot.resBase (slotOf f e u)) (Slot.resBytes (slotOf f e u))) true) := by
    obtain ⟨hf, hw, h0, h5, hs1, hs2, hwatch, hbind, hx, hk, hc, ht⟩ := h
    exact (dltAct_turn hf hu hw).trans ((if_neg (not_or.mpr ⟨h0, h5⟩)).trans ((if_neg (not_not.mpr ⟨hs1, hs2⟩)).trans
      ((if_neg (Bool.not_eq_false _ ▸ hwatch)).trans ((if_neg (not_not.mpr ⟨hbind, hx, hk, hc⟩)).trans (if_neg (Nat.not_lt.mpr ht))))))
  refine ⟨htile execMxz_eq, htile execMx_eq, ?mxSteps, ?mxStored, ?mxOperands, hdrain execMxd_eq, hdrain execMxs_eq, ?drainCheck, ?mxsTraps,
    ?dltFields, ?dltState, ?dltStored, ?dltWatch, ?dltFits, ?dltTiles, ?cpyFields, ?cpyWord, ?cpyNotStored, ?cpyChecks,
    ?mxz, ?mxzClaim, ?mxClaim, ?mxDeep, ?mx, ?mxd, ?mxdClaim, ?mxs, ?mxw, ?mxwHold, ?cpy, ?cpyq, ?cpyqNone, ?cpyc, ?cancel, ?cpycNone,
    ?dltHold, ?dltClaim, ?dlt⟩
  case mxSteps =>
    refine performs_of_issue execMx_eq fun f e u h => ?_
    obtain ⟨⟨h1, h2, hq, ht⟩, h3, hk⟩ := h
    exact (tileChecked_passes ⟨h1, h2, fun _ => h3⟩ hq ht).trans (if_pos hk)
  case mxStored =>
    refine performs_of_issue execMx_eq fun f e u h => ?_
    obtain ⟨⟨⟨h1, h2, hq, ht⟩, h3, hw, hn⟩, hs⟩ := h
    exact (tileChecked_passes ⟨h1, h2, fun _ => h3⟩ hq ht).trans ((if_neg (not_or.mpr ⟨not_not.mpr hw, hn⟩)).trans (if_pos hs))
  case mxOperands =>
    refine performs_of_issue execMx_eq fun f e u h => ?_
    obtain ⟨⟨⟨h1, h2, hq, ht⟩, h3, hw, hn⟩, hs1, hs2, ho⟩ := h
    refine (tileChecked_passes ⟨h1, h2, fun _ => h3⟩ hq ht).trans ((if_neg (not_or.mpr ⟨not_not.mpr hw, hn⟩)).trans
      ((if_neg (not_not.mpr ⟨hs1, hs2⟩)).trans (if_pos ?_)))
    exact fun h => ho ⟨⟨h1, h2, hq, ht⟩, h3, hw, hn, hs1, hs2, h⟩
  case drainCheck =>
    intro s e b mxs fields
    refine ⟨drainCheck_fields, fun h ht => ?_, fun h ht hm hr => ?_, fun h ht hm hr hb => ?_, epiDesc_none⟩
    · exact (drainCheck_of_fields h).trans (if_pos ht)
    · subst hm
      exact (drainCheck_of_fields h).trans ((if_neg (by omega)).trans (if_pos (by simpa using hr)))
    · subst hm
      exact (drainCheck_of_fields h).trans
        ((if_neg (by omega)).trans ((if_neg (by simpa using hr)).trans (if_pos (drainBusy_any hb))))
  case mxsTraps =>
    intro f s e e' u epi hx b d shaped stop hd hepi
    have hstop {c : Cause} (h : mxsChecked u e' f b d epi = trapAct c) : stop c :=
      exec_of_executes hx (execMxs_eq f s) ((drainChecked_passes hd hepi).trans h)
    refine ⟨fun hs => hstop (if_pos hs), fun hs hn => hstop ?_, fun hs hn ho => hstop ?_⟩
    · exact (if_neg (not_isNone hs)).trans (if_pos hn)
    · exact (if_neg (not_isNone hs)).trans ((if_neg (not_not.mpr hn)).trans (if_pos (mxsOutside_iff.mp ho)))
  case dltFields => exact performs_of_issue execDlt_eq fun f e u h => dltAct_fields h
  case dltState =>
    refine performs_of_issue execDlt_eq fun f e u h => ?_
    obtain ⟨⟨hf, hs, hl, hw⟩, hr⟩ := h
    exact (dltAct_turn hf (not_unpublished hs hl) hw).trans (if_pos hr)
  case dltStored =>
    refine performs_of_issue execDlt_eq fun f e u h => ?_
    obtain ⟨⟨⟨hf, hs, hl, hw⟩, h0, h5⟩, hst⟩ := h
    exact (dltAct_turn hf (not_unpublished hs hl) hw).trans ((if_neg (not_or.mpr ⟨h0, h5⟩)).trans (if_pos hst))
  case dltWatch =>
    refine performs_of_issue execDlt_eq fun f e u h => ?_
    obtain ⟨⟨⟨hf, hs, hl, hw⟩, h0, h5⟩, hst, hwatch⟩ := h
    exact (dltAct_turn hf (not_unpublished hs hl) hw).trans
      ((if_neg (not_or.mpr ⟨h0, h5⟩)).trans ((if_neg (not_not.mpr hst)).trans (if_pos hwatch)))
  case dltFits =>
    refine performs_of_issue execDlt_eq fun f e u h => ?_
    obtain ⟨⟨⟨hf, hs, hl, hw⟩, h0, h5⟩, hst, hwatch, hfit⟩ := h
    exact (dltAct_turn hf (not_unpublished hs hl) hw).trans ((if_neg (not_or.mpr ⟨h0, h5⟩)).trans
      ((if_neg (not_not.mpr hst)).trans ((if_neg (Bool.not_eq_false _ ▸ hwatch)).trans (if_pos hfit))))
  case dltTiles =>
    refine performs_of_issue execDlt_eq fun f e u h => ?_
    obtain ⟨⟨⟨hf, hs, hl, hw⟩, h0, h5⟩, hst, hwatch, hfit, ht⟩ := h
    exact (dltAct_turn hf (not_unpublished hs hl) hw).trans ((if_neg (not_or.mpr ⟨h0, h5⟩)).trans
      ((if_neg (not_not.mpr hst)).trans ((if_neg (Bool.not_eq_false _ ▸ hwatch)).trans ((if_neg (not_not.mpr hfit)).trans (if_pos ht)))))
  case cpyFields => exact performs_of_issue execCpy_eq fun f e u h => cpyAct_fields h
  case cpyWord => exact performs_of_issue execCpy_eq fun f e u h => cpyAct_word h.1 h.2
  case cpyNotStored =>
    refine performs_of_issue execCpy_eq fun f e u h => ?_
    obtain ⟨hf, hw, hs⟩ := h
    exact cpyAct_not_stored hf hw hs
  case cpyChecks =>
    rintro f s e e' u _ _ st st' hx hf hw b words r shaped inside overlap gives rfl rfl h1 h2
    have hgives {a : Act} (h : cpyStored u e' words (look u e' (b 0 0 8)) (look u e' (b 0 8 8)) st = a) : gives a :=
      exec_of_executes hx (execCpy_eq f s) ((cpyAct_stored hf hw h1 h2).trans h)
    exact ⟨fun hs => hgives (cpyStored_shape hs), fun hs hr => hgives (cpyStored_range hs hr),
      fun hs hi ho hc => hgives ((cpyStored_passes hs hi ho).trans (if_pos hc))⟩
  case mxz =>
    refine performs_of_issue execMxz_eq fun f e u h => ?_
    obtain ⟨⟨h1, h2, hq, ht⟩, hm⟩ := h
    exact (tileChecked_passes ⟨h1, h2, fun h => absurd h (by decide)⟩ hq ht).trans (withClaim_of_free hm)
  case mxzClaim =>
    refine performs_of_issue execMxz_eq fun f e u h => ?_
    obtain ⟨⟨h1, h2, hq, ht⟩, hm⟩ := h
    exact (tileChecked_passes ⟨h1, h2, fun h => absurd h (by decide)⟩ hq ht).trans (withClaim_of_not_free hm)
  case mxClaim => exact performs_of_issue execMx_eq fun f e u h => (hmx h.1).trans (withClaim_of_not_free h.2)
  case mxDeep =>
    refine performs_of_issue execMx_eq fun f e u h => ?_
    obtain ⟨hok, hm, hd⟩ := h
    exact (hmx hok).trans ((withClaim_of_free hm).trans (if_pos hd))
  case mx =>
    refine performs_of_issue execMx_eq fun f e u h => ?_
    obtain ⟨hok, hm, hd⟩ := h
    exact (hmx hok).trans ((withClaim_of_free hm).trans (if_neg (not_not.mpr hd)))
  case mxd =>
    intro f s e e' u d hx hd hepi hm
    exact exec_of_executes hx (execMxd_eq f s) ((drainChecked_passes hd hepi).trans (withClaim_of_free hm))
  case mxdClaim =>
    intro f s e e' u d hx hd hepi hm
    exact exec_of_executes hx (execMxd_eq f s) ((drainChecked_passes hd hepi).trans (withClaim_of_not_free hm))
  case mxs =>
    rintro f s e e' u epi _ hx ⟨hd, hepi, rfl, hs, hk, hr, hf, hin⟩
    have hin' : ¬ MxsOutside u e' (blockWords u e' rowMxs f 8) (look u e' (blkBits (blockWords u e' rowMxs f 8) 5 0 8)) := by
      rintro ⟨p, c, hp, hc⟩
      exact hin p hp c hc
    have hpass := (drainChecked_passes (go := mxsChecked u e' f (blockWords u e' rowMxs f 8)
      (look u e' (blkBits (blockWords u e' rowMxs f 8) 5 0 8))) hd hepi).trans
        ((if_neg (not_isNone hs)).trans ((if_neg (not_not.mpr ⟨hk, hr, hf⟩)).trans (if_neg (mxsOutside_iff.not.mp hin'))))
    exact ⟨fun hm => exec_of_executes hx (execMxs_eq f s) (hpass.trans (withClaim_of_free hm)),
      fun hm => exec_of_executes hx (execMxs_eq f s) (hpass.trans (withClaim_of_not_free hm))⟩
  case mxw =>
    refine performs_of_issue (fun _ _ => rfl) fun f e u h => if_neg ?_
    rw [List.any_eq_true]
    rintro ⟨c, hc, hm⟩
    exact isMatrix_iff.mp hm (h c hc)
  case mxwHold =>
    refine performs_of_issue (fun _ _ => rfl) fun f e u h => if_pos ?_
    obtain ⟨c, hc, hk⟩ := h
    exact List.any_eq_true.mpr ⟨c, hc, isMatrix_iff.mpr hk⟩
  case cpy =>
    rintro f s e e' u _ _ st st' hx b words r rfl rfl h1 h2 hf1 hf2 hw1 hw2 hs1 hs2 hs3 hs4 hs5 hs6 hi ho hc
    refine exec_of_executes hx (execCpy_eq f s) ((cpyAct_stored ⟨hf1, hf2⟩ ⟨hw1, hw2⟩ h1 h2).trans
      ((cpyStored_passes ⟨hs1, hs2, hs3, hs4, hs5, hs6⟩ hi ho).trans (if_neg (Nat.not_le.mpr hc))))
  case cpyq =>
    intro f s e e' u c hx hc
    refine exec_of_executes hx rfl ?_
    simp only [zext, hc]
  case cpyqNone =>
    refine performs_of_issue (fun _ _ => rfl) fun f e u h => ?_
    simp only [zext, h]
  case cpyc =>
    intro f s e e' u c hx hc
    refine exec_of_executes hx rfl ?_
    simp only [zext, hc]
  case cancel =>
    intro s g c hd
    exact ⟨fun h => (cancelCpy_eq hd).trans (if_pos h), fun h => (cancelCpy_eq hd).trans (if_neg (Bool.not_eq_true _ ▸ h))⟩
  case cpycNone =>
    refine performs_of_issue (fun _ _ => rfl) fun f e u h => ?_
    simp only [zext, h]
  case dltHold => exact performs_of_issue execDlt_eq fun f e u h => dltAct_hold h.1 h.2
  case dltClaim =>
    refine performs_of_issue execDlt_eq fun f e u h => ?_
    obtain ⟨hok, hs, hl, hm⟩ := h
    exact (hdlt hok (not_unpublished hs hl)).trans (withClaim_of_not_free hm)
  case dlt =>
    refine performs_of_issue execDlt_eq fun f e u h => ?_
    obtain ⟨hok, hm⟩ := h
    by_cases hu : Unpublished u e
    · exact (dltAct_hold hok.1 hu).trans (acceptCmd_unpublished hu).symm
    · exact (hdlt hok hu).trans (withClaim_of_free hm)

end Sys2Proof
end

section
/-!
LAUNCH QUEUES (16 R333 to R340; 15 R327; 17 R362): O44.
-/
namespace Sys2Proof
open Machine

section Queues
variable {s : State} {f p k : Nat}

@[simp] theorem modQueue_modQueue (s : State) (p k : Nat) (g h : Queue → Queue) :
    (s.modQueue p k g).modQueue p k h = s.modQueue p k fun q => h (g q) := by
  simp [State.modQueue, State.setQueue, State.queue, mapGet, mapPut_mapPut, mapFind_put_same]

/-! ## What a write of the host comes to -/

/-- A queue that a function reaches (17 R351, 20 R409). -/
theorem noQueue_iff : noQueue s ⟨f, p⟩ k = true ↔ (s.tovor.released = false ∨ 12 ≤ p ∨ 64 ≤ k
    ∨ (f ≠ 0 ∧ ¬ ((s.ctx (s.queue p k).ctx).func = f ∧ (s.ctx (s.queue p k).ctx).state ≠ .free ∧ (s.ctx (s.queue p k).ctx).part = p))) := by
  simp only [noQueue, queueReached, Bool.or_eq_true, Bool.not_eq_true', decide_eq_true_eq, ← Bool.not_eq_true, Bool.and_eq_true,
    beq_iff_eq, bne_iff_ne, or_assoc, and_assoc, not_or, ne_eq]

theorem queueResets_eq_true_iff {q : Queue} : queueResets s ⟨f, p⟩ q = true ↔ f ≠ 0 ∧ (s.ctx q.ctx).state = .resetting := by
  simp [queueResets]

theorem unserved_eq {u : State} {q : Queue} : unserved u ⟨f, p⟩ q
    = if f ≠ 0 ∧ (u.ctx q.ctx).state = .resetting then answerHost u .unsupported else u :=
  if_congr queueResets_eq_true_iff rfl rfl

section Reached
variable (hq : noQueue s ⟨f, p⟩ k = false) {w : QueueWrite}
include hq

/-- A queue that a reset holds takes nothing. -/
theorem sendQueue_held (hh : queueHeld s (s.queue p k) = true) : sendQueue s ⟨f, p⟩ k w
    = .next (unserved (match w with | .doorbell _ => s | _ => denyDevice s (some (s.queue p k).ctx)) ⟨f, p⟩ (s.queue p k)) := by
  cases w <;> simp [sendQueue, queueWrite, hq, hh]

/-- The function of a RESETTING context is not served. -/
theorem sendQueue_resetting (hh : queueHeld s (s.queue p k) = false) (hr : queueResets s ⟨f, p⟩ (s.queue p k) = true) :
    sendQueue s ⟨f, p⟩ k w = .next (answerHost s .unsupported) := by
  simp only [sendQueue, queueWrite, hq, hh, hr]
  simp

theorem sendQueue_taken (hh : queueHeld s (s.queue p k) = false) (hr : queueResets s ⟨f, p⟩ (s.queue p k) = false) :
    sendQueue s ⟨f, p⟩ k w = .next (if hostBusy s then postHost s (.queue ⟨f, p⟩ k w) else queueWrite s ⟨f, p⟩ k w) := by
  simp only [sendQueue, hq, hh, hr]
  simp

theorem queueWrite_taken (hh : queueHeld s (s.queue p k) = false) (hr : queueResets s ⟨f, p⟩ (s.queue p k) = false) :
    queueWrite s ⟨f, p⟩ k w = takeQueueWrite s p k w := by
  simp only [queueWrite, hq, hh, hr]
  simp

end Reached

/-! ## The writes that are taken -/

/-- A queue that is enabled and not in ERROR. -/
abbrev QueueOpen (q : Queue) : Prop := q.state = .idle ∨ q.state = .active ∨ q.state = .headWait

/-- An index that no doorbell may write. -/
abbrev BadIndex (q : Queue) (v : Word) : Prop := 2 ^ 31 ≤ (v - q.writeIdx).toNat ∨ 2 ^ q.log2 < (v - q.readIdx).toNat

theorem ringDoorbell_open {v : Word} (ho : QueueOpen (s.queue p k)) : ringDoorbell s p k v =
    if BadIndex (s.queue p k) v then failQueue (s.modQueue p k fun q => { q with writeIdx := v }) p k .launchRecord
    else (s.modQueue p k fun q => { q with writeIdx := v }).modQueue p k fun q =>
      if q.state = .idle && q.occupancy != 0 then { q with state := .active } else q := by
  have hbad : (decide (2 ^ 31 ≤ (v - (s.queue p k).writeIdx).toNat) || decide (2 ^ (s.queue p k).log2 < (v - (s.queue p k).readIdx).toNat))
      = true ↔ BadIndex (s.queue p k) v := by
    simp only [Bool.or_eq_true, decide_eq_true_eq]
  unfold ringDoorbell
  rcases ho with h | h | h
  all_goals
    simp only [h]
    exact if_congr hbad rfl rfl

theorem ringDoorbell_closed {v : Word} (ho : ¬ QueueOpen (s.queue p k)) :
    ringDoorbell s p k v = s.modQueue p k fun q => { q with writeIdx := v } := by
  unfold ringDoorbell
  cases h : (s.queue p k).state with
  | disabled => simp only [h]
  | draining => simp only [h]
  | error => simp only [h]
  | idle => exact absurd (.inl h) ho
  | active => exact absurd (.inr (.inl h)) ho
  | headWait => exact absurd (.inr (.inr h)) ho

/-- What is written between the indices is there. -/
theorem occupancy_ne_zero {q : Queue} : q.occupancy ≠ 0 ↔ q.writeIdx ≠ q.readIdx := by
  rw [Queue.occupancy, not_iff_not]
  constructor
  · intro h
    exact eq_of_sub_eq_zero (BitVec.eq_of_toNat_eq h)
  · intro h
    rw [h, sub_self]
    rfl

theorem queue_ringDoorbell {v : Word} (ho : QueueOpen (s.queue p k)) (hb : ¬ BadIndex (s.queue p k) v) :
    (ringDoorbell s p k v).queue p k = { s.queue p k with
      writeIdx := v
      state := if (s.queue p k).state = .idle ∧ v ≠ (s.queue p k).readIdx then .active else (s.queue p k).state } := by
  rw [ringDoorbell_open ho, if_neg hb, modQueue_modQueue, State.modQueue, State.queue_setQueue]
  generalize s.queue p k = q
  have hnew : (decide (q.state = .idle) && { q with writeIdx := v }.occupancy != 0) = true ↔ q.state = .idle ∧ v ≠ q.readIdx := by
    rw [Bool.and_eq_true, decide_eq_true_eq, bne_iff_ne, occupancy_ne_zero]
  by_cases hn : q.state = .idle ∧ v ≠ q.readIdx
  · rw [if_pos hn]
    exact if_pos (hnew.mpr hn)
  · rw [if_neg hn]
    exact if_neg (hnew.not.mpr hn)

theorem enableQueue_disabled (h : (s.queue p k).state = .disabled) : enableQueue s p k = (disown s p k).setQueue p k
    { s.queue p k with enable := true, state := .idle, readIdx := (s.queue p k).writeIdx, doneIdx := (s.queue p k).writeIdx, doneOut := []
                       head := none, met := [] } := by
  simp only [enableQueue, h]
  rfl

theorem enableQueue_draining (h : (s.queue p k).state = .draining) : enableQueue s p k = denyCtx s (s.queue p k).ctx 3 := by
  simp only [enableQueue, h]

theorem disableQueue_enabled (h : (s.queue p k).enable = true) :
    disableQueue s p k = denyLaunchers (s.setQueue p k (s.queue p k).stop) p k := if_pos h

theorem configQueue_disabled {b : BitVec 512} (h : (s.queue p k).state = .disabled) (hl : field b 65 4 ≤ 12) :
    configQueue s p k b = s.setQueue p k { s.queue p k with
      qbase := BitVec.ofNat 64 (field b 7 57 * 128), launchOk := flag b 64, log2 := field b 65 4, prio := field b 69 3
      ctx := field b 80 16 } := by
  refine if_neg ?_
  simp [h]
  omega

theorem configQueue_refused {b : BitVec 512} (h : (s.queue p k).state ≠ .disabled ∨ 12 < field b 65 4) :
    configQueue s p k b = denyCtx s (s.queue p k).ctx 3 := by
  refine if_pos ?_
  rw [Bool.or_eq_true, decide_eq_true_eq, bne_iff_ne]
  exact h.symm

/-! ## Dispatch (R338; 15 R327) -/

/-- The head of the queue may be looked at. -/
structure Dispatches (s : State) (q : Queue) : Prop where
  state   : q.state = .active ∨ q.state = .headWait
  held    : q.held = false
  written : q.writeIdx ≠ q.readIdx
  room    : q.inflight < 8
  free    : (s.ctx q.ctx).state ≠ .free
  reset   : (s.ctx q.ctx).state ≠ .resetting

theorem execQueueDispatch_eq (h : Dispatches s (s.queue p k)) : execQueueDispatch p k s = match headRecord s (s.queue p k) with
    | (w, none) => .next (logQueue (failQueue w p k .launchFault) (s.queue p k).ctx .launchFault 0)
    | (w, some r) =>
      if !recordOk r then .next (refuse w p k (s.queue p k).ctx r 2 none)
      else match readWaits (s.queue p k).ctx r (s.queue p k).met w (List.range (Rec.nwaits r)) with
        | .fault x => .next (refuse x p k (s.queue p k).ctx r 8 (some .eventWaitFault))
        | .known x met => .next (dispatch x p k (s.queue p k).ctx r met) := by
  obtain ⟨hs, hh, hw, hr, hf, hz⟩ := h
  have hocc := occupancy_ne_zero.mpr hw
  refine if_neg ?_
  rcases hs with hs | hs <;> simp [hs, hh, hocc, hf, hz] <;> omega

theorem dispatch_unreadable {w : State} (h : Dispatches s (s.queue p k)) (hd : headRecord s (s.queue p k) = (w, none)) :
    execQueueDispatch p k s = .next (logQueue (failQueue w p k .launchFault) (s.queue p k).ctx .launchFault 0) := by
  rw [execQueueDispatch_eq h, hd]

section Read
variable {w : State} {r : BitVec 1024} (h : Dispatches s (s.queue p k)) (hd : headRecord s (s.queue p k) = (w, some r))
include h hd

theorem dispatch_badRecord (hr : recordOk r = false) : execQueueDispatch p k s = .next (refuse w p k (s.queue p k).ctx r 2 none) := by
  rw [execQueueDispatch_eq h, hd]
  exact if_pos (by rw [hr]; rfl)

theorem dispatch_waitFault {x : State} (hr : recordOk r = true)
    (hw : readWaits (s.queue p k).ctx r (s.queue p k).met w (List.range (Rec.nwaits r)) = .fault x) :
    execQueueDispatch p k s = .next (refuse x p k (s.queue p k).ctx r 8 (some .eventWaitFault)) := by
  rw [execQueueDispatch_eq h, hd]
  simp only [hr, hw]
  rfl

theorem dispatch_known {x : State} {met : List Nat} (hr : recordOk r = true)
    (hw : readWaits (s.queue p k).ctx r (s.queue p k).met w (List.range (Rec.nwaits r)) = .known x met) :
    execQueueDispatch p k s = .next (dispatch x p k (s.queue p k).ctx r met) := by
  rw [execQueueDispatch_eq h, hd]
  simp only [hr, hw]
  rfl

end Read

/-- A record with a wait that is not met stays at the head. -/
theorem dispatch_waits {n : Nat} {r : BitVec 1024} {met : List Nat} (h : ∃ i, i < Rec.nwaits r ∧ i ∉ met) :
    dispatch s p k n r met = s.setQueue p k { s.queue p k with state := .headWait, head := some r, met := met } := by
  refine if_pos ?_
  obtain ⟨i, hi, hm⟩ := h
  simpa using ⟨i, hi, hm⟩

theorem dispatch_judged {n : Nat} {r : BitVec 1024} {met : List Nat} (h : ∀ i, i < Rec.nwaits r → i ∈ met) :
    dispatch s p k n r met = match judgeRecord s n r with
      | (s, .error (status, c)) => refuse s p k n r status c
      | (s, .ok (h, level)) => startGrid s p k n r h level := by
  refine if_neg ?_
  simpa using h

end Queues

/-- Settles O44. -/
theorem queueHappenings : Obligations.QueueHappenings := by
  unfold Obligations.QueueHappenings
  intro queueInstr
  refine ⟨?host, ?unreached, fun s f p k => noQueue_iff, ?dispatch, ?launch⟩
  case host =>
    intro s f p k hq q open_ bad
    refine ⟨fun hh => ?_, fun hh hf hr i hi => ?_, fun hh hn => ?_⟩
    · intro answers
      refine ⟨fun v => ?_, ?_, ?_, fun b => ?_⟩
      · exact (sendQueue_held hq hh).trans (congrArg Host.Outcome.next unserved_eq)
      · exact sendQueue_held hq hh
      · exact sendQueue_held hq hh
      · exact sendQueue_held hq hh
    · have hr' : queueResets s ⟨f, p⟩ q = true := queueResets_eq_true_iff.mpr ⟨hf, hr⟩
      rcases hi with hi | ⟨v, rfl⟩ | ⟨b, rfl⟩
      · rcases List.mem_pair.mp hi with rfl | rfl
        · exact sendQueue_resetting hq hh hr'
        · exact sendQueue_resetting hq hh hr'
      · exact sendQueue_resetting hq hh hr'
      · exact sendQueue_resetting hq hh hr'
    · have hr : queueResets s ⟨f, p⟩ q = false := by
        rw [← Bool.not_eq_true, queueResets_eq_true_iff]
        tauto
      have hsend (w : QueueWrite) : exec (queueInstr ⟨f, p⟩ k w) s = sendQueue s ⟨f, p⟩ k w := by
        cases w <;> rfl
      have htake (w : QueueWrite) : queueWrite s ⟨f, p⟩ k w = takeQueueWrite s p k w := queueWrite_taken hq hh hr
      refine ⟨fun w hb => ?_, fun w hb => ?_, fun v => htake _, fun v ho hb => queue_ringDoorbell ho hb, fun v ho hb => ?_,
        fun v ho => ringDoorbell_closed ho, fun h => (htake _).trans (enableQueue_disabled h),
        fun h => (htake _).trans (enableQueue_draining h), fun h => (htake _).trans (disableQueue_enabled h),
        fun b h hl => (htake _).trans (configQueue_disabled h hl), fun b h => (htake _).trans (configQueue_refused h)⟩
      · rw [hsend, sendQueue_taken hq hh hr, if_pos hb]
      · rw [hsend, sendQueue_taken hq hh hr, hb, if_neg Bool.false_ne_true]
      · rw [ringDoorbell_open ho, if_pos hb]
  case unreached =>
    intro s f p k hq i hi
    have hsend (w : QueueWrite) : sendQueue s ⟨f, p⟩ k w = .next s := by simp [sendQueue, queueWrite, hq]
    rcases List.mem_pair.mp hi with rfl | rfl
    · exact hsend .enable
    · exact hsend .disable
  case dispatch =>
    intro s p k q hs hh hw hr hf hz
    have hd : Dispatches s (s.queue p k) := ⟨hs, hh, hw, hr, hf, hz⟩
    refine ⟨fun w hhead => dispatch_unreadable hd hhead, fun w r hhead => ⟨dispatch_badRecord hd hhead,
      fun x hok hx => dispatch_waitFault hd hhead hok hx, fun x met hok hx => ⟨fun hm => ?_, fun hm => ⟨fun y h lv hj => ?_,
        fun y st c hj => ?_⟩⟩⟩⟩
    · exact (dispatch_known hd hhead hok hx).trans (congrArg Host.Outcome.next (dispatch_waits hm))
    · refine (dispatch_known hd hhead hok hx).trans (congrArg Host.Outcome.next ((dispatch_judged hm).trans ?_))
      rw [hj]
    · refine (dispatch_known hd hhead hok hx).trans (congrArg Host.Outcome.next ((dispatch_judged hm).trans ?_))
      rw [hj]
  case launch =>
    intro s p k r g h b u hg hh hw hst hl he hf hq ha
    have hgo : (!s.groupLive g || g.isEvicting || h.status != .blocked || (s.queue p k).full || !(s.queue p k).launchable g.ctx) = false := by
      simp [hl, he, hst, hf, hq]
    simp only [exec, execLaunchHeldPerform, hg, hh, hw, hgo, ha]
    rfl

end Sys2Proof
end

section
/-!
CONTEXTS (17 R351 to R365): O45, O46.
-/
namespace Sys2Proof
open Machine

section Registers
variable {s : State} {n : Nat}

theorem ctx_preemptCtx : ((preemptCtx s n).ctx n).state = .saving := by
  have h : (preemptCtx s n).ctx n = (s.modCtx n fun c => { c with state := .saving, haltAt := some s.refNs, sliceAt := none }).ctx n := rfl
  rw [h, State.modCtx, State.ctx_setCtx]

/-- A context as RESET and DESTROY find it. -/
theorem execReset_eq (hr : s.tovor.released = true) (hn : n < 1024) : execReset n s
    = .next (if (s.ctx n).state = .free ∨ (s.ctx n).state = .resetting then denyDevice s (some n) else startReset s n .contextKill 6) := by
  have h0 : ¬ (!s.tovor.released || decide (1024 ≤ n)) = true := by simp [hr]; omega
  unfold execReset
  rw [if_neg h0]
  cases (s.ctx n).state <;> rfl

theorem execDestroy_eq (hr : s.tovor.released = true) (hn : n < 1024) : execDestroy n s
    = .next (if (s.ctx n).state = .idle ∨ (s.ctx n).state = .running then startReset s n .contextKill 6 else denyDevice s (some n)) := by
  have h0 : ¬ (!s.tovor.released || decide (1024 ≤ n)) = true := by simp [hr]; omega
  unfold execDestroy
  rw [if_neg h0]
  cases (s.ctx n).state <;> rfl

/-- A write through a virtual function that changes nothing. -/
theorem ctxWrite_virtual_same (hr : s.tovor.released = true) (hn : n < 1024) : ctxWrite s n false (fun s => s)
    = if (s.ctx n).func ≠ 0 ∧ (s.ctx n).state = .resetting then answerHost s .unsupported else s := by
  have h0 : ¬ (!s.tovor.released || decide (1024 ≤ n)) = true := by simp [hr]; omega
  refine (if_neg h0).trans ((if_neg Bool.false_ne_true).trans ?_)
  by_cases hf : (decide ((s.ctx n).func = 0) || decide ((s.ctx n).state = .free)) = true
  · rw [if_pos hf, if_neg]
    rintro ⟨h1, h2⟩
    simp [h1, h2] at hf
  · rw [if_neg hf]
    simp only [Bool.or_eq_true, decide_eq_true_eq, not_or] at hf
    exact if_congr (by simp [hf.1]) rfl rfl

end Registers

/-- Settles O45. -/
theorem contextRegisters : Obligations.ContextRegisters := by
  unfold Obligations.ContextRegisters
  intro s n hr hn c
  have h0 : ¬ (!s.tovor.released || decide (1024 ≤ n)) = true := by simp [hr]; omega
  refine ⟨fun hd => ⟨_, (if_neg h0).trans (if_neg (by simp [hd])), ?_⟩, fun hd => (if_neg h0).trans (if_pos hd), fun h => ?_, fun h1 h2 => ?_,
    fun h1 h2 => ?_, fun h => ⟨(if_neg h0).trans (if_pos h), ctx_preemptCtx⟩, fun h => (if_neg h0).trans (if_neg h), fun b h => ?_,
    fun b h1 h2 => ?_, fun v => ⟨?_, ?_⟩, fun t us ht hs hu hd hw => ?_, if_neg (by simp [hr]), if_neg (by simp [hr])⟩
  · rw [State.modCtx, State.ctx_setCtx]
    rfl
  · exact (execDestroy_eq hr hn).trans (congrArg _ (if_pos h))
  · exact (execDestroy_eq hr hn).trans (congrArg _ (if_neg (not_or.mpr ⟨h1, h2⟩)))
  · exact (execReset_eq hr hn).trans (congrArg _ (if_neg (not_or.mpr ⟨h1, h2⟩)))
  · have h' : (s.ctx n).state = .free := h
    exact (if_neg h0).trans (if_pos (by simp [h']))
  · have h1' : (s.ctx n).state ≠ .free := h1
    have h2' : (b &&& ctlMask ^^^ (s.ctx n).ctl) &&& ~~~timerMask ≠ 0 := h2
    exact (if_neg h0).trans (if_neg (by simp only [Bool.or_eq_true, decide_eq_true_eq]; tauto))
  · simp only [exec, execGrpSelWrite, ctxWrite]
    rw [if_neg h0]
    rfl
  · exact congrArg Host.Outcome.next (ctxWrite_virtual_same hr hn)
  · have ht' : (s.ctx n).sliceAt = some (t, us) := ht
    have hs' : (s.ctx n).state = .running := hs
    simp only [exec, execSliceExpiry, ht']
    exact if_pos (by simp [hs', hu, hd, hw])

/-! ## Sequences (R356 to R365) -/

section Sequences
variable {s : State} {n : Nat}

/-- No grid of the context is left. -/
theorem no_grid (h : ∀ p, p ∈ s.grids → p.2.ctx ≠ n) : (s.grids.any fun p => p.2.ctx == n) = false := by
  rw [List.any_eq_false]
  exact fun p hp => by simpa using h p hp

theorem queue_ctxQueues (f : Queue → Queue) (p k : Nat) (hc : (s.queue p k).ctx = n) (hi : (s.queue p k).held = true) :
    (ctxQueues s n f).queue p k = f (s.queue p k) := by
  simp only [State.queue, mapGet, ctxQueues, mapFind_each] at hc hi ⊢
  cases hq : mapFind s.queues (p * 64 + k) with
  | none =>
    rw [hq] at hi
    cases hi
  | some q =>
    rw [hq] at hc
    exact if_pos hc

/-! ### Zeroing -/

/-- The context has no descriptor, and its slots are EMPTY. -/
def Blank (s : State) (n : Nat) : Prop := (s.ctx n).descs = [] ∧ ∀ k, ((s.ctx n).slot k).bits = 0

/-- Nothing is stored at an address. -/
def Absent (s : State) (a : Nat) : Prop := ∀ c, c ∈ s.mem → c.1 ≠ a

theorem memGet_of_absent {m : Memory} {a : Nat} (h : ∀ c, c ∈ m → c.1 ≠ a) : memGet m a = 0 := by
  induction m with
  | nil => rfl
  | cons c m ih =>
    rw [List.forall_mem_cons] at h
    rw [memGet, if_neg (Ne.symm h.1), ih h.2]
    exact ite_self 0

theorem ctx_touch (s : State) (own : Option (Nat × Nat)) (t : Touched) (n : Nat) :
    (touch s own t).ctx n = touchCtx s own t n (s.ctx n) ∨ (touch s own t).ctx n = s.ctx n := by
  have h : (touch s own t).ctx n = ((mapFind s.ctxs n).map (touchCtx s own t n)).getD initCtx := by
    rw [← mapFind_each]
    rfl
  rw [h, State.ctx, mapGet]
  cases mapFind s.ctxs n with
  | none => exact .inr rfl
  | some c => exact .inl rfl

theorem blank_touchCtx {own : Option (Nat × Nat)} {t : Touched} (h : Blank s n) :
    (touchCtx s own t n (s.ctx n)).descs = [] ∧ ∀ k, ((touchCtx s own t n (s.ctx n)).slot k).bits = 0 := by
  obtain ⟨hd, hs⟩ := h
  refine ⟨?_, fun k => ?_⟩
  · simp only [touchCtx, hd]
    rfl
  · have hk := hs k
    simp only [touchCtx, Ctx.slot, mapGet, mapFind_each] at hk ⊢
    cases hf : mapFind (s.ctx n).slots k with
    | none => rfl
    | some v =>
      rw [hf] at hk
      have hv : v.bits = 0 := hk
      have hno : slotHit s n k own v.bits t = false := by
        have hst : Slot.state 0 = 0 := congrArg (bitsOf · 23 3) BitVec.toNat_zero
        rw [hv]
        simp only [slotHit, hst, bne_self_eq_false, Bool.false_and]
      simp only [Option.map_some, Option.getD_some, hno]
      exact hv

theorem Blank.touch {own : Option (Nat × Nat)} {t : Touched} (h : Blank s n) : Blank (touch s own t) n := by
  rcases ctx_touch s own t n with hc | hc
  · rw [Blank, hc]
    exact blank_touchCtx h
  · rw [Blank, hc]
    exact h

theorem Blank.zeroRange {a len : Nat} (h : Blank s n) : Blank (zeroRange s a len) n := by
  unfold Machine.zeroRange
  split
  · exact h
  · exact Blank.touch h

theorem Absent.zeroRange {a b len : Nat} (h : Absent s b) : Absent (zeroRange s a len) b := by
  unfold Machine.zeroRange
  split
  · exact h
  · exact fun c hc => h c (List.mem_of_mem_filter hc)

theorem absent_zeroRange {a b len : Nat} (h1 : a ≤ b) (h2 : b < a + len) : Absent (zeroRange s a len) b := by
  unfold Machine.zeroRange
  rw [if_neg (by omega)]
  intro c hc
  have hout := (List.mem_filter.mp hc).2
  simp only [Bool.or_eq_true, decide_eq_true_eq] at hout
  omega

theorem Blank.foldl_zeroRange (l : List (Nat × Nat)) (h : Blank s n) : Blank (l.foldl (fun s p => Machine.zeroRange s p.1 p.2) s) n := by
  induction l generalizing s with
  | nil => exact h
  | cons p l ih => exact ih h.zeroRange

theorem Absent.foldl_zeroRange (l : List (Nat × Nat)) {b : Nat} (h : Absent s b) :
    Absent (l.foldl (fun s p => Machine.zeroRange s p.1 p.2) s) b := by
  induction l generalizing s with
  | nil => exact h
  | cons p l ih => exact ih h.zeroRange

theorem absent_foldl_zeroRange {l : List (Nat × Nat)} {q : Nat × Nat} (hq : q ∈ l) {b : Nat} (h1 : q.1 ≤ b) (h2 : b < q.1 + q.2) :
    Absent (l.foldl (fun s p => Machine.zeroRange s p.1 p.2) s) b := by
  induction l generalizing s with
  | nil => cases hq
  | cons p l ih =>
    rcases List.mem_cons.mp hq with rfl | hq
    · exact (absent_zeroRange h1 h2).foldl_zeroRange l
    · exact ih hq

/-! ### The steps -/

/-- The queues of a context let go. -/
def releaseQueue (q : Queue) : Queue :=
  if q.held then { q with held := false, enable := false, state := .disabled, inflight := 0, doneOut := [], head := none, met := [] } else q

theorem execResetQueueHoldExpiry_eq {r : ResetSeq} (hr : (s.ctx n).reset = some r) (hq : r.queuesHeld = true) (ht : r.start + 20000 ≤ s.refNs)
    (hg : ∀ p, p ∈ s.grids → p.2.ctx ≠ n) : execResetQueueHoldExpiry n s
      = .next ((ctxQueues s n releaseQueue).modCtx n fun c => { c with reset := some { r with queuesHeld := false } }) := by
  have h0 : ¬ (!r.queuesHeld || decide (s.refNs < r.start + 20000) || (s.grids.any fun p => p.2.ctx == n)) = true := by
    simp [hq, no_grid hg]
    omega
  simp only [execResetQueueHoldExpiry, hr]
  exact if_neg h0

/-- The context blank before its memory is zeroed. -/
def blanked (s : State) (n : Nat) : State :=
  s.modCtx n fun c => { c with descs := [], slots := mapEach c.slots fun _ v => { v with bits := 0 } }

theorem execResetZeroingComplete_eq {r : ResetSeq} (hr : (s.ctx n).reset = some r) (hq : r.queuesHeld = false)
    (hg : ∀ p, p ∈ s.grids → p.2.ctx ≠ n) : execResetZeroingComplete n s
      = .next ((((resetRanges (meetTables s n) n).foldl (fun s p => Machine.zeroRange s p.1 p.2) (blanked (meetTables s n) n)).modCtx n
          fun c => { clearStatus c with state := .free, reset := none }).modTovor fun t => { t with irqs := t.irqs ++ [1] }) := by
  have h0 : ¬ (r.queuesHeld || (s.grids.any fun p => p.2.ctx == n)) = true := by simp [hq, no_grid hg]
  simp only [execResetZeroingComplete, hr]
  exact if_neg h0

theorem blank_blanked : Blank (blanked s n) n := by
  unfold Blank blanked
  rw [State.modCtx, State.ctx_setCtx]
  refine ⟨rfl, fun k => ?_⟩
  simp only [Ctx.slot, mapGet, mapFind_each]
  cases mapFind (s.ctx n).slots k <;> rfl

theorem execContextSave_eq (hs : (s.ctx n).state = .saving) (hr : ∀ p, p ∈ s.groups → p.2.ctx = n → saveReady s p.1 p.2 = true) :
    execContextSave n s = match saveFault s (savedKeys s n) with
      | .error s => .next s
      | .ok s =>
        match moveCmds s (cmdsToMove s (savedKeys s n)) with
        | (s1, false) => .next s1
        | (s1, true) =>
          .next ((saveGroups s1 n).modCtx n fun c =>
            { c with state := .saved, haltAt := none, saves := satInc c.saves
                     lastSaveNs := BitVec.ofNat 32 (min (2 ^ 32 - 1) (s.refNs - (s.ctx n).haltAt.getD s.refNs))
                     lastSaveBlk := BitVec.ofNat 32 (min (2 ^ 32 - 1) (ceilDiv (savedBytes (saveGroups s1 n) n) 64)) }) := by
  have hready : (s.groups.all fun p => p.2.ctx != n
      || !(p.2.state == .halted || p.2.state == .retiring || p.2.state == .resident || p.2.state == .waiting) || saveReady s p.1 p.2) = true := by
    refine List.all_eq_true.mpr fun p hp => ?_
    by_cases hc : p.2.ctx = n
    · rw [hr p hp hc, Bool.or_true]
    · simp [hc]
  unfold execContextSave
  rw [hready, hs]
  rfl

end Sequences

/-- Settles O46. -/
theorem contextSequences : Obligations.ContextSequences := by
  unfold Obligations.ContextSequences
  refine ⟨?hold, ?held, ?zero, ?save, ?saveFault, ?restore, ?slice, ?noRestore⟩
  case hold =>
    intro s n r hr hq ht hg
    refine ⟨_, execResetQueueHoldExpiry_eq hr hq ht hg, ?_, rfl, fun p k hc hh => ?_⟩
    · rw [State.modCtx, State.ctx_setCtx]
    · have hqueue := queue_ctxQueues releaseQueue p k hc hh
      have hfree : (releaseQueue (s.queue p k)).held = false ∧ (releaseQueue (s.queue p k)).state = .disabled := by
        rw [releaseQueue, if_pos hh]
        exact ⟨rfl, rfl⟩
      rw [← hqueue] at hfree
      exact hfree
  case held =>
    intro s n r hr h
    simp only [exec, execResetQueueHoldExpiry, hr]
    refine if_pos ?_
    rcases h with h | ⟨p, hp, hc⟩
    · simp [h]
    · rw [Bool.or_eq_true]
      exact .inr (List.any_eq_true.mpr ⟨p, hp, beq_iff_eq.mpr hc⟩)
  case zero =>
    intro s n r hr hq hg
    have hblank := (blank_blanked (s := meetTables s n) (n := n)).foldl_zeroRange (resetRanges (meetTables s n) n)
    have habsent {q : Nat × Nat} (hq : q ∈ resetRanges (meetTables s n) n) {a : Nat} (h1 : q.1 ≤ a) (h2 : a < q.1 + q.2) :=
      absent_foldl_zeroRange (s := blanked (meetTables s n) n) hq h1 h2
    refine ⟨_, execResetZeroingComplete_eq hr hq hg, ?_⟩
    generalize (resetRanges (meetTables s n) n).foldl (fun s p => Machine.zeroRange s p.1 p.2) (blanked (meetTables s n) n) = z at *
    have hz : ((z.modCtx n fun c => { clearStatus c with state := .free, reset := none }).modTovor fun t =>
        { t with irqs := t.irqs ++ [1] }).ctx n = { clearStatus (z.ctx n) with state := .free, reset := none } := State.ctx_setCtx ..
    obtain ⟨hd, hs⟩ := hblank
    rw [hz]
    exact ⟨rfl, rfl, hd, rfl, hs, fun q hq a h1 h2 => memGet_of_absent (habsent hq h1 h2)⟩
  case save =>
    intro s n hs hr w hw v done hm
    have hsave := execContextSave_eq hs hr
    rw [hw] at hsave
    simp only [hm] at hsave
    refine ⟨fun hd => ?_, fun hd => ?_⟩
    · rw [hd] at hsave
      exact hsave
    · rw [hd] at hsave
      refine ⟨_, hsave, ?_⟩
      rw [State.modCtx, State.ctx_setCtx]
      exact ⟨rfl, rfl⟩
  case saveFault =>
    intro s n v hs hr hf
    refine (execContextSave_eq hs hr).trans ?_
    rw [hf]
  case restore =>
    intro s n u hs hu ht hx
    have hfirst : (s.ctxs.any fun x => x.1 != n && x.2.state == .saved && x.2.part == (s.ctx n).part
        && decide (turnOrder s x.1 < turnOrder s n) && (restored s x.1).isSome) = false := by
      rw [List.any_eq_false]
      intro x hxs
      by_cases hn : x.1 = n
      · simp [hn]
      · rcases hx x hxs hn with h | h <;> simp [h]
    simp only [exec, execContextRestore, hs, hu, ht, hfirst]
    rfl
  case slice =>
    intro s n
    have h : (startSlice s n true).ctx n = (s.modCtx n fun c => { c with
        state := .running
        sliceAt := if true || s.sliceDue.contains (s.ctx n).part then some (s.refNs, c.sliceUs)
          else some (c.sliceAt.getD (s.refNs, c.sliceUs)) }).ctx n := rfl
    rw [h, State.modCtx, State.ctx_setCtx]
    rfl
  case noRestore =>
    intro s n hs hr
    simp [exec, execContextRestore, hs, hr]

end Sys2Proof
end

section
/-!
TRANSLATION (19 R396 to R401): O51.
-/
namespace Sys2Proof
open Machine

variable {s : State} {n core va : Nat}

theorem mem_of_mapFind {α : Type} {m : Map α} {k : Nat} {v : α} (h : mapFind m k = some v) : (k, v) ∈ m := by
  induction m with
  | nil => cases h
  | cons x m ih =>
    simp only [mapFind] at h
    split at h
    · next hk =>
      cases h
      exact hk ▸ List.mem_cons_self
    · split at h
      · cases h
      · exact List.mem_cons_of_mem _ (ih h)

theorem mem_harts_of_hart? {g : Group} {w : Who} {h : Hart} (hw : g.hart? w = some h) : (w, h) ∈ g.harts := by
  simp only [Group.harts, List.mem_append, List.mem_map, List.mem_singleton, Prod.exists, List.mem_zipIdx_iff_getElem?]
  cases w with
  | thread k => exact .inl ⟨h, k, hw, rfl⟩
  | steward => exact .inr (by cases hw; rfl)

/-! ## Invalidation -/

/-- A function reaches the registers of a context that is bound to it and not FREE. -/
abbrev Bound (s : State) (n : Nat) : Prop := (s.ctx n).func ≠ 0 ∧ (s.ctx n).state ≠ .free

section Write
variable (hr : s.tovor.released = true) (hn : n < 1024) {take : State → State}
include hr hn

theorem ctxWrite_phys : ctxWrite s n true take = take s := by
  have h0 : ¬ (!s.tovor.released || decide (1024 ≤ n)) = true := by simp [hr]; omega
  exact (if_neg h0).trans (if_pos rfl)

theorem ctxWrite_unbound (h : ¬ Bound s n) : ctxWrite s n false take = s := by
  have h0 : ¬ (!s.tovor.released || decide (1024 ≤ n)) = true := by simp [hr]; omega
  refine (if_neg h0).trans ((if_neg Bool.false_ne_true).trans (if_pos ?_))
  rw [Bool.or_eq_true, decide_eq_true_eq, decide_eq_true_eq]
  by_contra hc
  exact h (not_or.mp hc)

theorem ctxWrite_bound (h : Bound s n) :
    ctxWrite s n false take = if (s.ctx n).state = .resetting then answerHost s .unsupported else take s := by
  have h0 : ¬ (!s.tovor.released || decide (1024 ≤ n)) = true := by simp [hr]; omega
  refine (if_neg h0).trans ((if_neg Bool.false_ne_true).trans (if_neg ?_))
  rw [Bool.or_eq_true, decide_eq_true_eq, decide_eq_true_eq]
  exact not_or.mpr h

end Write

theorem modCtx_modCtx (f g : Ctx → Ctx) : (s.modCtx n f).modCtx n g = s.modCtx n fun c => g (f c) := by
  simp only [State.modCtx, State.ctx_setCtx]
  simp only [State.setCtx, mapPut_mapPut]

/-- The oldest command is complete: what it covers leaves the TLBs, and the walks of before serve no more. -/
theorem mem_dropTlb {cmd p : Nat} {t : List TlbEntry} {x : TlbEntry} (h : x ∈ dropTlb n cmd p t) :
    x ∈ t ∧ (x.ctx = n → x.covered cmd p = false) := by
  obtain ⟨hm, hc⟩ := List.mem_filter.mp h
  refine ⟨hm, fun hx => ?_⟩
  simpa [hx] using hc

theorem mapGet_each {α : Type} {d : α} {m : Map α} {f : Nat → α → α} (k : Nat) (hd : f k d = d) :
    mapGet d (mapEach m f) k = f k (mapGet d m k) := by
  unfold mapGet
  rw [mapFind_each]
  cases mapFind m k with
  | none => exact hd.symm
  | some v => rfl

theorem invalidation_completes {cmd p : Nat} {rest : List (Nat × Nat)} (hc : (s.ctx n).invCmds = (cmd, p) :: rest)
    (hd : accessesDone s n = true) :
    ∃ u, exec (.invalidationComplete n) s = .next u ∧ (u.ctx n).invCmds = rest ∧ (u.ctx n).invSeq = (s.ctx n).invSeq + 1
        ∧ (∀ k x, x ∈ (u.core k).tlb → x ∈ (s.core k).tlb ∧ (x.ctx = n → x.covered cmd p = false))
        ∧ (∀ k x, x ∈ mapGet [] u.tlb2 k → x ∈ mapGet [] s.tlb2 k ∧ (x.ctx = n → x.covered cmd p = false))
        ∧ ∀ k w, w ∈ (u.core k).walks → w ∈ (s.core k).walks ∧ w.ctx ≠ n := by
  have hx : exec (.invalidationComplete n) s = .next (renewWaits
      { s.modCtx n fun c => { c with invCmds := rest, invSeq := c.invSeq + 1 } with
        cores := mapEach s.cores fun _ c => { c with tlb := dropTlb n cmd p c.tlb, walks := c.walks.filter fun w => w.ctx != n }
        tlb2 := mapEach s.tlb2 fun _ t => dropTlb n cmd p t } n) := by
    show execInvalidationComplete n s = _
    unfold execInvalidationComplete
    rw [hc]
    exact if_neg (by simp [hd])
  have hcore (k : Nat) : mapGet initCore (mapEach s.cores fun _ c =>
      { c with tlb := dropTlb n cmd p c.tlb, walks := c.walks.filter fun w => w.ctx != n }) k
        = { s.core k with tlb := dropTlb n cmd p (s.core k).tlb, walks := (s.core k).walks.filter fun w => w.ctx != n } :=
    mapGet_each k rfl
  have hctx : ∀ v : State, v.ctxs = (s.modCtx n fun c => { c with invCmds := rest, invSeq := c.invSeq + 1 }).ctxs →
      v.ctx n = { s.ctx n with invCmds := rest, invSeq := (s.ctx n).invSeq + 1 } := fun v hv =>
    (congrArg (fun m => mapGet initCtx m n) hv).trans (State.ctx_setCtx s n _)
  refine ⟨_, hx, congrArg Ctx.invCmds (hctx _ rfl), congrArg Ctx.invSeq (hctx _ rfl), fun k x hm => ?_, fun k x hm => ?_, fun k w hm => ?_⟩
  · exact mem_dropTlb ((congrArg (x ∈ Core.tlb ·) (hcore k)).mp hm)
  · exact mem_dropTlb ((mapGet_each (d := []) (m := s.tlb2) (f := fun _ t => dropTlb n cmd p t) k rfl) ▸ hm)
  · obtain ⟨hw, hne⟩ := List.mem_filter.mp ((congrArg (w ∈ Core.walks ·) (hcore k)).mp hm)
    exact ⟨hw, bne_iff_ne.mp hne⟩

theorem accessesDone_hart (hd : accessesDone s n = true) {key : Nat} {g : Group} (hg : s.group? key = some g) (hn : g.ctx = n)
    {who : Who} {h : Hart} (hh : g.hart? who = some h) : h.stores = [] ∧ ∀ o, o ∈ g.pendingOrd who h → o.translated = false := by
  simp only [accessesDone, Bool.and_eq_true] at hd
  have h1 := List.all_eq_true.mp hd.1.1 _ (mem_of_mapFind hg)
  rw [hn, bne_self_eq_false, Bool.false_or] at h1
  have h2 := List.all_eq_true.mp h1 _ (mem_harts_of_hart? hh)
  simp only [Bool.and_eq_true, Bool.not_eq_true', List.isEmpty_iff] at h2
  exact ⟨h2.1, fun o ho => by simpa using List.any_eq_false.mp h2.2 o ho⟩

/-! ## Walks -/

theorem mem_fillTlb {cap : Nat} {x : TlbEntry} {t : List TlbEntry} (hc : 0 < cap) : x ∈ fillTlb cap x t := by
  unfold fillTlb
  rw [List.drop_append_of_le_length (by omega)]
  simp

theorem sharedWalk_recordWalk : sharedWalk (recordWalk s core n va) core n va
    = some { cycle := s.clusterCycles (core / 8), ctx := n, page := va / 65536, result := walkResult s n va } := by
  have hc : (recordWalk s core n va).clusterCycles (core / 8) = s.clusterCycles (core / 8) := rfl
  unfold sharedWalk
  rw [hc]
  unfold recordWalk State.modCore
  rw [State.core_setCore]
  exact List.find?_cons_of_pos (by simp)

/-- The combined entry is that of stage 2 behind the leaf of stage 1. -/
theorem walkBoth_of_leaf {l1 : Leaf} (h : stage1Walk s (s.ctx n) va = .ok l1) : walkBoth s n va = walkFrom s n va l1 := by
  unfold walkBoth
  rw [h]

theorem stage1Walk_of_walkBoth {e : TlbEntry} (h : walkBoth s n va = .ok e) : ∃ l1, stage1Walk s (s.ctx n) va = .ok l1 ∧ walkFrom s n va l1 = .ok e := by
  unfold walkBoth at h
  cases hl : stage1Walk s (s.ctx n) va with
  | error c => rw [hl] at h; cases h
  | ok l1 => rw [hl] at h; exact ⟨l1, rfl, h⟩

theorem walkFrom_ok {l1 l2 : Leaf} (h : stage2Walk s (s.ctx n).s2Root (l1.base + va % l1.size) = .ok l2) : walkFrom s n va l1 = .ok
    { ctx := n, page := va / min l1.size l2.size, size := min l1.size l2.size
      ipa := (l1.base + va % l1.size) / min l1.size l2.size * min l1.size l2.size
      pa := l2.base + ((l1.base + va % l1.size) % l2.size) / min l1.size l2.size * min l1.size l2.size
      attr := l2.attr, perm1 := l1.perm, perm2 := l2.perm } := by
  unfold walkFrom
  dsimp only
  rw [h]

theorem walkFrom_perm1 {l1 : Leaf} {e : TlbEntry} (h : walkFrom s n va l1 = .ok e) : e.perm1 = l1.perm := by
  cases h2 : stage2Walk s (s.ctx n).s2Root (l1.base + va % l1.size) with
  | error c =>
    simp only [walkFrom, h2] at h
    cases h
  | ok l2 =>
    rw [walkFrom_ok h2] at h
    cases h
    rfl

theorem walkResult_of_leaf {l1 : Leaf} (h : stage1Walk s (s.ctx n) va = .ok l1) :
    walkResult s n va = .inr (l1.perm, match walkFrom s n va l1 with | .error e => .inl e | .ok e => .inr e) := by
  unfold walkResult
  rw [h] <;> rfl

theorem walkResult_ok {e : TlbEntry} (h : walkBoth s n va = .ok e) : walkResult s n va = .inr (e.perm1, .inr e) := by
  obtain ⟨l1, h1, hf⟩ := stage1Walk_of_walkBoth h
  rw [walkResult_of_leaf h1, hf, walkFrom_perm1 hf]

theorem walkResult_error {c : WalkStop} (h : walkBoth s n va = .error c) :
    walkResult s n va = .inl c ∨ ∃ p, walkResult s n va = .inr (p, .inl c) := by
  cases h1 : stage1Walk s (s.ctx n) va with
  | error c' =>
    unfold walkBoth at h
    rw [h1] at h
    cases h
    left
    unfold walkResult
    rw [h1]
  | ok l1 =>
    rw [walkBoth_of_leaf h1] at h
    right
    rw [walkResult_of_leaf h1, h]
    exact ⟨_, rfl⟩

/-- The entry of a walk, or none, for both TLBs. -/
def entryFound : Option (WalkStop ⊕ (BitVec 3 × (WalkStop ⊕ TlbEntry))) → Option TlbEntry
  | some (.inr (_, .inr e)) => some e
  | _ => none

/-- Both TLBs with an entry more. -/
def fillBoth (s : State) (core cluster : Nat) (l2 : List TlbEntry) (e : TlbEntry) : State :=
  { s.modCore core fun c => { c with tlb := fillTlb 256 e c.tlb } with tlb2 := mapPut s.tlb2 cluster (fillTlb 4096 e l2) }

section Miss
variable {va : BitVec 48} (hk : core < 128) (hn : n < 1024) (hp : core / 8 ∈ s.partClusters (s.ctx n).part)
  (h1 : tlbHit (s.core core).tlb n va.toNat = none)
include hk hn hp h1

theorem pageWalk_tlb2 {x : TlbEntry} (h2 : tlbHit (mapGet [] s.tlb2 (core / 8)) n va.toNat = some x) :
    exec (.pageWalk core n va) s = .next (s.modCore core fun c => { c with tlb := fillTlb 256 x c.tlb }) := by
  show execPageWalk core n va s = _
  unfold execPageWalk
  simp only [h2]
  refine if_neg ?_
  simp only [h1, List.contains_iff_mem.mpr hp]
  simp
  omega

theorem pageWalk_walk (h2 : tlbHit (mapGet [] s.tlb2 (core / 8)) n va.toNat = none) :
    exec (.pageWalk core n va) s = .next
      (match entryFound ((sharedWalk (coreWalk s core n va.toNat) core n va.toNat).map fun w => w.result) with
        | none => coreWalk s core n va.toNat
        | some e => fillBoth (coreWalk s core n va.toNat) core (core / 8) (mapGet [] s.tlb2 (core / 8)) e) := by
  show execPageWalk core n va s = _
  unfold execPageWalk
  simp only [h2]
  refine (if_neg ?_).trans ?_
  · simp only [h1, List.contains_iff_mem.mpr hp]
    simp
    omega
  · cases (sharedWalk (coreWalk s core n va.toNat) core n va.toNat).map fun w => w.result with
    | none => rfl
    | some r =>
      rcases r with c | ⟨p, c | e⟩
      · rfl
      · rfl
      · rfl

end Miss

theorem core_fillBoth (u : State) (l2 : List TlbEntry) (e : TlbEntry) : e ∈ ((fillBoth u core (core / 8) l2 e).core core).tlb := by
  have h : (fillBoth u core (core / 8) l2 e).core core = (u.modCore core fun c => { c with tlb := fillTlb 256 e c.tlb }).core core := rfl
  rw [h, State.modCore, State.core_setCore]
  dsimp only
  exact mem_fillTlb (by omega)

theorem tlb2_fillBoth (u : State) (l2 : List TlbEntry) (e : TlbEntry) : e ∈ mapGet [] (fillBoth u core (core / 8) l2 e).tlb2 (core / 8) := by
  unfold fillBoth mapGet
  rw [mapFind_put_same]
  rw [Option.getD_some]
  exact mem_fillTlb (by omega)

theorem cachedEntry_none (h1 : tlbHit (s.core core).tlb n va = none) (h2 : tlbHit (mapGet [] s.tlb2 (core / 8)) n va = none) :
    cachedEntry s core n va = none := by
  simp only [cachedEntry, h1, h2]
  rfl

theorem coreWalk_shared {w : Walk} (h : sharedWalk s core n va = some w) : coreWalk s core n va = s := by
  simp [coreWalk, h]

theorem coreWalk_clean (hc : cachedEntry s core n va = none) (hw : sharedWalk s core n va = none) (hl : s.tovor.latent = []) :
    coreWalk s core n va = recordWalk s core n va := by
  simp [coreWalk, hc, hw, walkCorrect, hl]

/-! ## Permissions -/

section Perm
variable {need : Need} {e : TlbEntry}

theorem useEntry_perm1 (hf : need.fetch = false) (h : e.perm1 &&& need.perm ≠ need.perm) : useEntry e va need = .error .pagePerm := by
  simp [useEntry, h, Need.cause, hf]

theorem useEntry_perm2 (h1 : e.perm1 &&& need.perm = need.perm) (h : e.perm2 &&& need.perm ≠ need.perm) :
    useEntry e va need = .error .stage2 := by
  simp [useEntry, h1, h]

theorem useEntry_dram (h1 : e.perm1 &&& need.perm = need.perm) (h2 : e.perm2 &&& need.perm = need.perm) (ha : e.attr = 0) :
    useEntry e va need = .ok (.flat (dramBase + (e.pa + va % e.size)) false) := by
  simp [useEntry, h1, h2, ha]

/-- A cached entry, and the one that a walk of this access gives, are used in the same way. -/
theorem translate_entry (hf : need.fetch = false) (h : cachedEntry s core n va = some e
    ∨ (cachedEntry s core n va = none ∧ sharedWalk s core n va = none ∧ walkBoth s n va = .ok e)) :
    translate s core n va need = useEntry e va need := by
  rcases h with hc | ⟨hc, hs, hw⟩
  · simp only [Machine.translate, hc]
  · simp only [Machine.translate, hc, hs, translateDirect, walkResult_ok hw, useWalk]
    by_cases hp : e.perm1 &&& need.perm = need.perm
    · simp [hp]
    · simp [useEntry_perm1 hf hp, hp, Need.cause, hf]

theorem translate_stage1 {l1 : Leaf} (hc : cachedEntry s core n va = none) (hs : sharedWalk s core n va = none)
    (h1 : stage1Walk s (s.ctx n) va = .ok l1) (hf : need.fetch = false) (hp : l1.perm &&& need.perm ≠ need.perm) :
    translate s core n va need = .error .pagePerm := by
  simp [Machine.translate, hc, hs, translateDirect, walkResult_of_leaf h1, useWalk, hp, Need.cause, hf]

end Perm

/-- The place of an address in the smaller of its two leaves is its place in that of stage 2. -/
theorem offset_of_leaves {b1 z1 z2 v : Nat} (hd : min z1 z2 ∣ z1) (hd2 : min z1 z2 ∣ z2) (hb : b1 % z1 = 0) :
    (b1 + v % z1) % z2 / min z1 z2 * min z1 z2 + v % min z1 z2 = (b1 + v % z1) % z2 := by
  have hv : v % min z1 z2 = (b1 + v % z1) % z2 % min z1 z2 := by
    rw [Nat.mod_mod_of_dvd _ hd2, Nat.add_mod, Nat.mod_eq_zero_of_dvd (hd.trans (Nat.dvd_of_mod_eq_zero hb)), Nat.zero_add, Nat.mod_mod,
      Nat.mod_mod_of_dvd _ hd]
  rw [hv, Nat.mul_comm, Nat.div_add_mod]

/-- Of two leaf sizes the smaller divides both. -/
theorem min_size_dvd {z1 z2 : Nat} (h1 : z1 ∈ [2 ^ 16, 2 ^ 29]) (h2 : z2 ∈ [2 ^ 16, 2 ^ 29]) : min z1 z2 ∣ z1 ∧ min z1 z2 ∣ z2 := by
  simp only [List.mem_cons, List.not_mem_nil, or_false] at h1 h2
  rcases h1 with rfl | rfl <;> rcases h2 with rfl | rfl <;> decide

theorem walkBoth_leaves {l1 l2 : Leaf} (h1 : stage1Walk s (s.ctx n) va = .ok l1)
    (h2 : stage2Walk s (s.ctx n).s2Root (l1.base + va % l1.size) = .ok l2) :
    ∃ e, walkBoth s n va = .ok e ∧ e.ctx = n ∧ e.size = min l1.size l2.size ∧ e.attr = l2.attr ∧ e.perm1 = l1.perm ∧ e.perm2 = l2.perm
        ∧ (l1.size ∈ [2 ^ 16, 2 ^ 29] → l2.size ∈ [2 ^ 16, 2 ^ 29] → l1.base % l1.size = 0 →
            e.pa + va % e.size = l2.base + (l1.base + va % l1.size) % l2.size) := by
  refine ⟨_, (walkBoth_of_leaf h1).trans (walkFrom_ok h2), rfl, rfl, rfl, rfl, rfl, fun hz1 hz2 hb => ?_⟩
  obtain ⟨hd1, hd2⟩ := min_size_dvd hz1 hz2
  exact (Nat.add_assoc _ _ _).trans (congrArg (l2.base + ·) (offset_of_leaves hd1 hd2 hb))

/-! ## The commands -/

/-- What the host asks of a context: an invalidation command, or its root with command 2. -/
theorem invalidations (hr : s.tovor.released = true) (hn : n < 1024) :
      let page (v : BitVec 64) : Nat := v.toNat % 2 ^ 48 / 65536
      let asked (c p : Nat) : State := s.modCtx n fun x => { x with invCmds := x.invCmds ++ [(c, p)] }
      let bound : Prop := (s.ctx n).func ≠ 0 ∧ (s.ctx n).state ≠ .free
      let byFunction : List Instr :=
        [.invStage1Page n false, .invStage1All n false, .invStage2Page n false, .invStage2All n false, .invBoth n false]
      exec (.invStage1Page n true) s = .next (asked 1 (page (s.ctx n).invVa))
      ∧ exec (.invStage1All n true) s = .next (asked 2 0)
      ∧ exec (.invStage2Page n true) s = .next (asked 3 (page (s.ctx n).invIpa))
      ∧ exec (.invStage2All n true) s = .next (asked 4 0)
      ∧ exec (.invBoth n true) s = .next (asked 5 0)
      ∧ (∀ v phys, phys = true ∨ (bound ∧ (s.ctx n).state ≠ .resetting) →
          exec (.s1RootWrite ⟨n, phys⟩ v) s = .next (s.modCtx n fun x => { x with s1Root := v, invCmds := x.invCmds ++ [(2, 0)] }))
      ∧ (∀ i, i ∈ byFunction ∨ (∃ v, i = .s1RootWrite ⟨n, false⟩ v) →
          (¬ bound → exec i s = .next s) ∧ (bound → (s.ctx n).state = .resetting → exec i s = .next (answerHost s .unsupported)))
      ∧ (bound → (s.ctx n).state ≠ .resetting →
          exec (.invStage1Page n false) s = .next (asked 1 (page (s.ctx n).invVa)) ∧ exec (.invStage1All n false) s = .next (asked 2 0)
          ∧ exec (.invStage2Page n false) s = .next (denyCtx s n 2) ∧ exec (.invStage2All n false) s = .next (denyCtx s n 2)
          ∧ exec (.invBoth n false) s = .next (denyCtx s n 2)) := by
  have hphys (c p : Nat) : invWrite n true c p s = s.modCtx n fun x => { x with invCmds := x.invCmds ++ [(c, p)] } := ctxWrite_phys hr hn
  have hvirt (hb : Bound s n) (hs : (s.ctx n).state ≠ .resetting) (c p : Nat) : invWrite n false c p s = takeInv n false c p s :=
    (ctxWrite_bound hr hn hb).trans (if_neg hs)
  refine ⟨congrArg _ (hphys ..), congrArg _ (hphys ..), congrArg _ (hphys ..), congrArg _ (hphys ..), congrArg _ (hphys ..), ?_, ?_, ?_⟩
  · intro v phys h
    have hroot : takeInv n phys 2 0 (s.modCtx n fun c => { c with s1Root := v })
        = s.modCtx n fun x => { x with s1Root := v, invCmds := x.invCmds ++ [(2, 0)] } := by
      simp [takeInv, modCtx_modCtx]
    refine congrArg Host.Outcome.next (Eq.trans ?_ hroot)
    cases phys with
    | true => exact ctxWrite_phys hr hn
    | false =>
      obtain ⟨hb, hs⟩ := h.resolve_left Bool.false_ne_true
      exact (ctxWrite_bound hr hn hb).trans (if_neg hs)
  · intro i hi
    have hw : ∃ take, exec i s = .next (ctxWrite s n false take) := by
      rcases hi with hi | ⟨v, rfl⟩
      · simp only [List.mem_cons, List.not_mem_nil, or_false] at hi
        rcases hi with rfl | rfl | rfl | rfl | rfl
        all_goals exact ⟨_, rfl⟩
      · exact ⟨_, rfl⟩
    obtain ⟨take, hi⟩ := hw
    rw [hi]
    exact ⟨fun h => congrArg _ (ctxWrite_unbound hr hn h), fun h hs => congrArg _ ((ctxWrite_bound hr hn h).trans (if_pos hs))⟩
  · intro hb hs
    exact ⟨congrArg _ (hvirt hb hs ..), congrArg _ (hvirt hb hs ..), congrArg _ (hvirt hb hs ..), congrArg _ (hvirt hb hs ..),
      congrArg _ (hvirt hb hs ..)⟩

/-- Settles O51. -/
theorem translation : Obligations.Translation := by
  unfold Obligations.Translation
  refine ⟨fun s n hr hn => invalidations hr hn, fun s n cmd p rest => invalidation_completes,
    fun s n hd key g hg hn who h => accessesDone_hart hd hg hn, ?_, ?_, ?_, ?_, ?_, ?_, fun s n va l1 l2 => walkBoth_leaves, ?_⟩
  · intro s n hc hd
    show execInvalidationComplete n s = _
    unfold execInvalidationComplete
    cases h : (s.ctx n).invCmds with
    | nil => exact absurd h hc
    | cons x rest => exact if_pos (by simp [hd])
  · intro s core n va hk hn hp h1
    refine ⟨fun x => pageWalk_tlb2 hk hn hp h1, fun h2 => ⟨fun w p x hw hx => ?_, fun hw hl => ⟨fun x hx => ?_, fun x hx => ?_⟩⟩⟩
    · have h := pageWalk_walk hk hn hp h1 h2
      rw [coreWalk_shared hw, hw, Option.map_some, hx] at h
      exact ⟨_, h, core_fillBoth .., tlb2_fillBoth .., rfl⟩
    · have h := pageWalk_walk hk hn hp h1 h2
      rw [coreWalk_clean (cachedEntry_none h1 h2) hw hl, sharedWalk_recordWalk, Option.map_some, walkResult_ok hx] at h
      exact ⟨_, h, core_fillBoth .., tlb2_fillBoth .., rfl⟩
    · have h := pageWalk_walk hk hn hp h1 h2
      rw [coreWalk_clean (cachedEntry_none h1 h2) hw hl, sharedWalk_recordWalk, Option.map_some] at h
      rcases walkResult_error hx with hr | ⟨p, hr⟩
      · rw [hr] at h
        exact h
      · rw [hr] at h
        exact h
  · intro s core n va hc
    refine ⟨fun w need hw => ?_, fun need hw => ⟨?_, sharedWalk_recordWalk⟩⟩
    · simp only [Machine.translate, hc, hw]
    · simp only [Machine.translate, hc, hw]
  · intro s core n va need e he hf
    rw [translate_entry hf he]
    exact ⟨useEntry_perm1 hf, useEntry_perm2, useEntry_dram⟩
  · exact fun s core n va need l1 hc hs h1 hf => translate_stage1 hc hs h1 hf
  · intro s n va need h
    have h1 : stage1Walk s (s.ctx n) va = .error .notMapped := if_pos h
    simp [translateDirect, walkResult, h1, useWalk, WalkStop.cause]
  · intro s n va h1 e he
    obtain ⟨l1, hl, -⟩ := stage1Walk_of_walkBoth he
    exact h1 l1 hl

end Sys2Proof
end

section
/-!
ERRORS OF MEMORY (18 R381, R382; 19 R404 to R406): O52.
-/
namespace Sys2Proof
open Machine

variable {s : State} {n a k b row line : Nat} {r : CtxRef} {x : LogEntry}

/-! ## Records and the registers of the device -/

@[simp] theorem writeHome_block (s : State) (own : Option (Nat × Nat)) (ws : List WByte) : (writeHome s own ws).tovor.block = s.tovor.block := by
  unfold writeHome
  split <;> rfl

@[simp] theorem writePf_getD_block {len v : Nat} : ((writePf s a len v).getD s).tovor.block = s.tovor.block := by
  unfold writePf writeNat
  split
  · exact writeHome_block ..
  · rfl

/-- DLOG_IDX always advances, and nothing else of the block. -/
@[simp] theorem deviceLog_block (s : State) (ctx : Option Nat) (n : Nat) (x : LogEntry) :
    (deviceLog s ctx n x).tovor.block = { s.tovor.block with dlogIdx := s.tovor.block.dlogIdx + 1 } := by
  unfold deviceLog
  dsimp only
  split
  · exact congrArg (fun d : DevBlock => { d with dlogIdx := d.dlogIdx + 1 }) writePf_getD_block
  · rfl

/-- A device log that is too small takes no record. -/
theorem deviceLog_small (h : s.tovor.block.dlogSize.toNat < 4) (ctx : Option Nat) (n : Nat) (x : LogEntry) :
    deviceLog s ctx n x = s.modBlock fun d => { d with dlogIdx := d.dlogIdx + 1 } := by
  unfold deviceLog
  dsimp only
  rw [if_neg (by omega)]

/-! ## What stays poisoned -/

/-- Neither log nor ring is written, and some blocks carry poison. -/
def Calm (s : State) (bs : List Nat) : Prop := s.tovor.block.dlogSize.toNat < 4 ∧ s.tovor.ring = none ∧ ∀ b, b ∈ bs → b ∈ s.tovor.poison

namespace Calm
variable {bs : List Nat}

theorem congr {u : State} (h : Calm s bs) (hb : u.tovor.block.dlogSize = s.tovor.block.dlogSize) (hr : u.tovor.ring = s.tovor.ring)
    (hp : u.tovor.poison = s.tovor.poison) : Calm u bs := ⟨hb ▸ h.1, hr ▸ h.2.1, hp ▸ h.2.2⟩

theorem deviceLog (h : Calm s bs) {ctx : Option Nat} : Calm (deviceLog s ctx n x) bs := by
  rw [deviceLog_small h.1]
  exact h

theorem report (h : Calm s bs) {r : Report} : Calm (report s r) bs := by
  have hr (seq : BitVec 24) (bits : BitVec 256) : ringWrite s seq bits = s := by
    unfold ringWrite
    rw [h.2.1]
  unfold Machine.report
  dsimp only
  rw [hr]
  exact h

theorem countRow (h : Calm s bs) : Calm (countRow s row) bs := by
  unfold Machine.countRow
  split
  · exact h
  · dsimp only
    split
    · unfold remapRow
      dsimp only
      split
      · exact h.congr rfl rfl rfl
      · refine Calm.report (Calm.deviceLog ?_)
        exact h.congr rfl rfl rfl
    · exact h.congr rfl rfl rfl

theorem correctedShared (h : Calm s bs) : Calm (correctedShared s a) bs := by
  have hc : Calm (correctedIn s (memSource a)) bs := by
    refine Calm.report (Calm.deviceLog ?_)
    exact h.congr rfl rfl rfl
  unfold Machine.correctedShared
  dsimp only
  split
  · exact hc.countRow
  · exact hc

theorem countUeShared (h : Calm s bs) {ctx : Option Nat} {c : Cause} : Calm (countUeShared s ctx n c) bs := by
  refine Calm.deviceLog ?_
  exact h.congr rfl rfl rfl

theorem poisonBlock (h : Calm s bs) : Calm (poisonBlock s b) (b :: bs) :=
  ⟨h.1, h.2.1, fun c hc => List.mem_eraseDups.mpr ((List.mem_cons.mp hc).elim (· ▸ List.mem_cons_self) fun hb => List.mem_cons_of_mem _ (h.2.2 c hb))⟩

theorem mono {cs : List Nat} (h : Calm s bs) (hc : ∀ b, b ∈ cs → b ∈ bs) : Calm s cs := ⟨h.1, h.2.1, fun b hb => h.2.2 b (hc b hb)⟩

end Calm

/-- What the copy of a line makes of one error. -/
def settleError (row line : Nat) (s : State) (u : Nat) (ok : Bool) : State :=
  if dramBytes ≤ 8 * u || rowOf (8 * u) != row || lineInRow (8 * u) != line then s
  else if ok then correctedShared (s.modTovor fun t => { t with latent := mapDrop t.latent u }) (8 * u)
  else countUeShared (poisonBlock s (8 * u / 64)) none 2 .memUe

theorem settleLine_cons (u : Nat) (ok : Bool) (ls : List (Nat × Bool)) :
    settleLine row line s ((u, ok) :: ls) = settleLine row line (settleError row line s u ok) ls := rfl

theorem Calm.settleError {bs : List Nat} (h : Calm s bs) (u : Nat) (ok : Bool) : Calm (settleError row line s u ok) bs := by
  unfold Sys2Proof.settleError
  split
  · exact h
  · split
    · refine Calm.correctedShared ?_
      exact h.congr rfl rfl rfl
    · exact h.poisonBlock.countUeShared.mono fun _ => List.mem_cons_of_mem _

theorem Calm.settleLine {bs : List Nat} (h : Calm s bs) (ls : List (Nat × Bool)) : Calm (settleLine row line s ls) bs := by
  induction ls generalizing s with
  | nil => exact h
  | cons p ls ih => exact ih (h.settleError p.1 p.2)

/-- An error of the line that cannot be corrected carries its poison across. -/
theorem Calm.settleLine_poisons {u : Nat} (h : Calm s []) {ls : List (Nat × Bool)} (hu : (u, false) ∈ ls) (hd : 8 * u < dramBytes)
    (hr : rowOf (8 * u) = row) (hl : lineInRow (8 * u) = line) : Calm (Machine.settleLine row line s ls) [8 * u / 64] := by
  induction ls generalizing s with
  | nil => cases hu
  | cons p ls ih =>
    rcases List.mem_cons.mp hu with rfl | hu
    · rw [settleLine_cons]
      refine Calm.settleLine ?_ ls
      unfold Sys2Proof.settleError
      rw [if_neg (by simp [hr, hl, hd]), if_neg Bool.false_ne_true]
      exact h.poisonBlock.countUeShared
    · exact ih (h.settleError p.1 p.2) hu

/-- A block poisoned, and the error counted: both where the device log takes no record. -/
theorem mem_poison_countUe {ctx : Option Nat} {c : Cause} (h : s.tovor.block.dlogSize.toNat < 4) :
    b ∈ (countUeShared (poisonBlock s b) ctx n c).tovor.poison := by
  unfold countUeShared
  rw [deviceLog_small (by exact h)]
  exact List.mem_eraseDups.mpr List.mem_cons_self

/-! ## The patrol -/

theorem channel_markSeen : (markSeen s k b).channel k = { s.channel k with seen := b :: (s.channel k).seen } := by
  simp [markSeen, State.channel, State.modTovor, mapGet]

theorem patrolVisit_seen (h : b ∈ (s.channel (blockChannel b)).seen) : exec (.patrolBlockVisit b) s = .next s :=
  if_pos (by simp [h])

theorem patrolVisit (hr : s.tovor.released = true) (hd : 64 * b < dramBytes) (hp : (s.channel (blockChannel b)).patrolEn = true)
    (h : b ∉ (s.channel (blockChannel b)).seen) :
    exec (.patrolBlockVisit b) s = .next (markSeen (patrolBlock s b) (blockChannel b) b) :=
  if_neg (by simp [h, hr, hd, hp])

theorem patrolBlock_none (h : mapFind s.tovor.latent (8 * b) = none) : patrolBlock s b = s := by
  unfold patrolBlock
  rw [h]

theorem patrolBlock_corrects (h : mapFind s.tovor.latent (8 * b) = some true) : patrolBlock s b
    = correctedShared (s.modTovor fun t => { t with latent := mapDrop t.latent (8 * b) }) (64 * b) := by
  unfold patrolBlock
  rw [h]

theorem patrolBlock_poisons (h : mapFind s.tovor.latent (8 * b) = some false) : patrolBlock s b
    = countUeShared (poisonBlock s b) none 2 .patrolUe := by
  unfold patrolBlock
  rw [h]

/-! ## What a read meets -/

section Read
variable (hc : a / 8 ∉ s.tovor.badCopies)
include hc

theorem meetMemory_eq : meetMemory s n a = if isCorePad a = true then
      (if s.tovor.poison.contains (a / 64) then (countUeCtx s n, some .eccPoison)
        else match mapFind s.tovor.latent (errUnit a) with
          | none => (s, none)
          | some true => (correctedCtx (s.modTovor fun t => { t with latent := mapDrop t.latent (errUnit a) }) n
              (padOwner (s.modTovor fun t => { t with latent := mapDrop t.latent (errUnit a) }) a), none)
          | some false => (countUeCtx (poisonBlock s (a / 64)) n, some .memUe))
    else meetShared s (some n) a := by
  have hb : s.tovor.badCopies.contains (a / 8) = false := by simpa using hc
  unfold meetMemory
  rw [hb]
  cases isCorePad a <;> rfl

theorem meetShared_eq {ctx : Option Nat} : meetShared s ctx a = if s.tovor.poison.contains (a / 64) then (s, some .eccPoison)
    else match mapFind s.tovor.latent (errUnit a) with
      | none => (s, none)
      | some true => (correctedShared (s.modTovor fun t => { t with latent := mapDrop t.latent (errUnit a) }) a, none)
      | some false => (countUeShared (poisonBlock s (a / 64)) ctx (memSource a) .memUe, some .memUe) :=
  if_neg (by simpa using hc)

theorem meetMemory_poison (hp : a / 64 ∈ s.tovor.poison) :
    meetMemory s n a = (if isCorePad a = true then countUeCtx s n else s, some .eccPoison) := by
  rw [meetMemory_eq hc, meetShared_eq hc]
  have h : s.tovor.poison.contains (a / 64) = true := List.contains_iff_mem.mpr hp
  rw [if_pos h, if_pos h]
  split <;> rfl

theorem meetMemory_sound (hp : a / 64 ∉ s.tovor.poison) (hl : mapFind s.tovor.latent (errUnit a) = none) : meetMemory s n a = (s, none) := by
  rw [meetMemory_eq hc, meetShared_eq hc]
  have h : ¬ s.tovor.poison.contains (a / 64) = true := mt List.contains_iff_mem.mp hp
  rw [if_neg h, if_neg h, hl]
  exact ite_self _

theorem meetMemory_ue (hp : a / 64 ∉ s.tovor.poison) (hl : mapFind s.tovor.latent (errUnit a) = some false) :
    ∃ u, meetMemory s n a = (u, some .memUe) ∧ (s.tovor.block.dlogSize.toNat < 4 → a / 64 ∈ u.tovor.poison) := by
  rw [meetMemory_eq hc, meetShared_eq hc]
  have h : ¬ s.tovor.poison.contains (a / 64) = true := mt List.contains_iff_mem.mp hp
  rw [if_neg h, if_neg h, hl]
  split
  · exact ⟨_, rfl, fun _ => List.mem_eraseDups.mpr List.mem_cons_self⟩
  · exact ⟨_, rfl, fun hs => mem_poison_countUe hs⟩

end Read

/-- A write leaves the errors beside what it touches. -/
theorem not_hitsRange {first len a size : Nat} : (!hitsRange first len a size) = true ↔ a + size ≤ first ∨ first + len ≤ a := by
  simp only [hitsRange, Bool.not_eq_true', Bool.and_eq_false_iff, decide_eq_false_iff_not, not_lt]
  exact or_comm

/-! ## The pass and the copy -/

theorem patrolPass (hr : s.tovor.released = true) (hk : k < 32) (hp : (s.channel k).patrolEn = true) :
    ∃ u, exec (.patrolPassComplete k) s = .next u ∧
      let v := (patrolRest s k).foldl patrolBlock s
      (u.channel k).passes = (v.channel k).passes + 1 ∧ (u.channel k).seen = [] ∧ u.mem = v.mem
      ∧ ∀ row, mapGet 0 u.tovor.rowCount row
          = if rowChannel row = k then mapGet 0 v.tovor.rowCount row - 1 else mapGet 0 v.tovor.rowCount row := by
  have hx : ¬ (!s.tovor.released || decide (32 ≤ k) || !(s.channel k).patrolEn) = true := by simp [hr, hk, hp]
  refine ⟨_, if_neg hx, ?_, ?_, rfl, fun row => ?_⟩
  · simp [State.channel, State.modTovor, mapGet]
  · simp [State.channel, State.modTovor, mapGet]
  · exact mapGet_each (f := fun r n => if rowChannel r = k then n - 1 else n) row (by simp)

theorem spareRowCopy_line {x : Spare} {c l : Nat} (hx : mapFind s.tovor.spares row = some x) (hc : x.copy = some (c, l)) (hl : l < 31) :
    exec (.spareRowCopy row) s = .next ((settleLine row l s s.tovor.latent).modTovor fun t =>
      { t with spares := mapPut t.spares row { x with copy := some (c, l + 1) } }) := by
  show execSpareRowCopy row s = _
  unfold execSpareRowCopy
  simp only [hx, Option.bind_some, hc, Option.map_some]
  exact if_pos hl

theorem spareRowCopy_done {x : Spare} {c l : Nat} (hx : mapFind s.tovor.spares row = some x) (hc : x.copy = some (c, l)) (hl : 31 ≤ l) :
    exec (.spareRowCopy row) s = .next ((s.modBlock fun b => { b with spareRemaps := satInc b.spareRemaps }).modTovor fun t =>
        { t with spares := mapPut t.spares row { entry := some c, copy := none }, rowCount := mapDrop t.rowCount row }) := by
  show execSpareRowCopy row s = _
  unfold execSpareRowCopy
  simp only [hx, Option.bind_some, hc, Option.map_some]
  exact if_neg (by omega)

theorem spareRowCopy_idle (h : ∀ x, mapFind s.tovor.spares row = some x → x.copy = none) : exec (.spareRowCopy row) s = .next s := by
  have hx : ((mapFind s.tovor.spares row).bind fun x => x.copy.map fun c => (x, c)) = none := by
    cases hf : mapFind s.tovor.spares row with
    | none => rfl
    | some x => simp [h x hf]
  show execSpareRowCopy row s = _
  unfold execSpareRowCopy
  rw [hx]

/-- Settles O52. -/
theorem memoryIntegrity : Obligations.MemoryIntegrity := by
  unfold Obligations.MemoryIntegrity
  refine ⟨?_, ?_, fun s k => patrolPass, ?_, fun s row => spareRowCopy_idle, ?_, ?_, ?_, ?_⟩
  · exact fun s b k hr => ⟨if_pos (by simp [hr]), if_pos (by simp [hr])⟩
  · intro s b hr hd hp
    refine ⟨patrolVisit_seen, fun hs => ?_⟩
    rw [patrolVisit hr hd hp hs]
    refine ⟨fun h => by rw [patrolBlock_none h], fun h => by rw [patrolBlock_corrects h], fun h => ?_⟩
    rw [patrolBlock_poisons h]
    refine ⟨_, rfl, fun hl => mem_poison_countUe hl, ?_, ?_, ?_, ?_⟩
    · exact congrArg DevBlock.poisoned (deviceLog_block ..)
    · exact congrArg DevBlock.ueShared (deviceLog_block ..)
    · exact congrArg DevBlock.dlogIdx (deviceLog_block ..)
    · rw [channel_markSeen]
      exact List.mem_cons_self
  · intro s row x k n hx hc
    refine ⟨spareRowCopy_line hx hc, fun hn => ⟨_, spareRowCopy_done hx hc hn, ?_, rfl, rfl, rfl⟩⟩
    exact mapFind_put_same ..
  · exact fun s row line ls u hu hd hr hl hs hn =>
      (Calm.settleLine_poisons ⟨hs, hn, fun _ h => absurd h List.not_mem_nil⟩ hu hd hr hl).2.2 _ List.mem_cons_self
  · exact fun s n a hc => ⟨meetMemory_poison hc, meetMemory_sound hc, meetMemory_ue hc⟩
  · intro a
    refine ⟨fun h1 h2 => ?_, fun h => ?_⟩
    · simp [errUnit, unitBytes, h1, h2]
    · have h1 : ¬ scrBase ≤ a := by omega
      simp [errUnit, unitBytes, h1]
  · intro t first n hn
    refine ⟨fun b => ?_, fun w => ?_⟩
    · exact List.mem_filter.trans (and_congr_right fun _ => not_hitsRange)
    · exact List.mem_filter.trans (and_congr_right fun _ => not_hitsRange)

end Sys2Proof
end

section
/-!
LINKS (20 R408 to R416; 16 R336): O53.
-/
namespace Sys2Proof
open Machine

variable {s : State} {n f off len : Nat}

/-! ## The host window -/

section Window
variable (hr : s.tovor.released = true) (hf : f ≤ 512) (hc : windowCtx s f = some n)

theorem windowReach_ctx (hc : windowCtx s f = some n) (hs : (s.ctx n).state ≠ .resetting) : windowReach s f = .ctx n := by
  unfold windowReach
  rw [hc]
  exact if_neg hs

theorem windowReach_resetting (hc : windowCtx s f = some n) (hs : (s.ctx n).state = .resetting) : windowReach s f = .unsupported := by
  unfold windowReach
  rw [hc]
  exact if_pos hs

theorem window_taken (hr : s.tovor.released = true) (hf : f ≤ 512) {len : Nat} (ho : off + len ≤ 2 ^ 32) :
    ¬ (!s.tovor.released || decide (2 ^ 32 < off + len) || decide (512 < f)) = true := by
  simp only [hr, Bool.not_true, Bool.false_or, Bool.or_eq_true, decide_eq_true_eq]
  omega

include hr hf hc

theorem windowRead_resetting (ho : off + len ≤ 2 ^ 32) (hs : (s.ctx n).state = .resetting) :
    exec (.hostWindowRead f off len) s = .next (answerHost s .unsupported) := by
  refine (if_neg (window_taken hr hf ho)).trans ?_
  rw [windowReach_resetting hc hs]

/-- A read of the window by the places of its bytes. -/
theorem hostWindowRead_eq (ho : off + len ≤ 2 ^ 32) (hs : (s.ctx n).state ≠ .resetting) {v : State}
    (hv : walkRange s n (windowAddr s f off) len needRead = v) : exec (.hostWindowRead f off len) s = .next
      (match bytePlaces v n (windowAddr s f off) needRead len with
        | none => windowAbort v
        | some ls => if hostBusy v then postHost v (.read n ls) else windowRead v n ls) := by
  subst hv
  refine (if_neg (window_taken hr hf ho)).trans ?_
  rw [windowReach_ctx hc hs]
  dsimp only
  cases bytePlaces (walkRange s n (windowAddr s f off) len needRead) n (windowAddr s f off) needRead len <;> rfl

theorem hostWindowWrite_bytes (hs : (s.ctx n).state ≠ .resetting) {bs : List Byte} (ho : off + bs.length ≤ 2 ^ 32) {v : State}
    (hv : walkRange s n (windowAddr s f off) bs.length needWrite = v) : exec (.hostWindowWrite f off (.bytes bs)) s = .next
      (match bytePlaces v n (windowAddr s f off) needWrite bs.length with
        | none => windowFault v
        | some ls => if hostBusy v then postHost v (.write n ls bs) else windowWrite v n ls bs) := by
  subst hv
  refine (if_neg (window_taken hr hf ho)).trans ?_
  rw [windowReach_ctx hc hs]
  dsimp only
  cases bytePlaces (walkRange s n (windowAddr s f off) bs.length needWrite) n (windowAddr s f off) needWrite bs.length <;> rfl

/-- An AtomicOp. -/
def IsAtomic (w : HostWrite) (k : Nat) : Prop := ∃ x y, w = .fetchAdd k x ∨ w = .swap k x ∨ w = .cas k x y

theorem hostWindowWrite_atomic (hs : (s.ctx n).state ≠ .resetting) {w : HostWrite} {k a : Nat} {h : Bool} {v : State} (hw : IsAtomic w k)
    (hk : k = 4 ∨ k = 8) (ha : off % k = 0) (ho : off + k ≤ 2 ^ 32) (hv : walked s n (windowAddr s f off) needAtomic = (v, .ok (.flat a h))) :
    exec (.hostWindowWrite f off w) s = .next (if hostBusy v = true then postHost v (.atomic n a w) else windowAtomic v n a w) := by
  have hfit : ¬ (!atomicFit off k) = true := by rcases hk with rfl | rfl <;> simp [atomicFit, ha]
  obtain ⟨x, y, rfl | rfl | rfl⟩ := hw
  all_goals
    refine (if_neg (window_taken hr hf ho)).trans ?_
    rw [windowReach_ctx hc hs]
    refine (if_neg hfit).trans ?_
    rw [hv]

end Window

/-- An AtomicOp at its place, where no error is met: the new value, if it has one, and the old one as its completion. -/
theorem windowAtomic_done {v : State} {a : Nat} (hm : meetMemory v n a = (v, none)) (w : HostWrite) : windowAtomic v n a w
    = answerHost (((hostNew (memNat v.mem a (hostSize w)) w).map (writeNat v a (hostSize w))).getD v)
        (.data (bytesOfNat (hostSize w) (memNat v.mem a (hostSize w)))) := by
  unfold windowAtomic
  rw [hm]
  dsimp only
  cases hostNew (memNat v.mem a (hostSize w)) w <;> rfl

theorem windowRead_fault {ls : List Loc} {v z : State} (h : meetAll n v (flatPlaces ls) = (z, false)) :
    windowRead v n ls = answerHost (windowFault z) .completerAbort := by
  unfold windowRead
  rw [h]
  rfl

/-- Places in the device and in host memory send nothing to peers. -/
theorem peerRuns_flat {ls : List Loc} (h : ∀ l, l ∈ ls → ∃ a b, l = .flat a b) (o : Nat) : peerRuns ls o = [] := by
  induction ls generalizing o with
  | nil => rfl
  | cons l ls ih =>
    obtain ⟨a, b, rfl⟩ := h l List.mem_cons_self
    exact ih (fun l hl => h l (List.mem_cons_of_mem _ hl)) (o + 1)

theorem windowRead_flat {ls : List Loc} {v z : State} (h : meetAll n v (flatPlaces ls) = (z, true)) (hl : ∀ l, l ∈ ls → ∃ a b, l = .flat a b) :
    windowRead v n ls = answerHost z (.data ((flatPlaces ls).map (memGet z.mem))) := by
  unfold windowRead
  rw [h, peerRuns_flat hl]

/-- The run of a byte at a peer. -/
theorem exists_mem_peerRuns {ls : List Loc} {k a : Nat} {c : Bool} (h : Loc.peer k c a ∈ ls) (o : Nat) :
    ∃ r, r ∈ peerRuns ls o ∧ r.link = k ∧ r.chip = c ∧ r.addr ≤ a ∧ a < r.addr + r.len := by
  induction ls generalizing o with
  | nil => cases h
  | cons l ls ih =>
    cases l with
    | flat a' b =>
      obtain ⟨r, hm, hr⟩ := ih ((List.mem_cons.mp h).resolve_left (by simp)) (o + 1)
      exact ⟨r, hm, hr⟩
    | peer k' c' a' =>
      rcases List.mem_cons.mp h with he | hm
      · cases he
        cases hp : peerRuns ls (o + 1) with
        | nil =>
          simp only [peerRuns, hp]
          exact ⟨_, List.mem_cons_self, rfl, rfl, Nat.le_refl _, Nat.lt_succ_self _⟩
        | cons r rs =>
          simp only [peerRuns, hp]
          split
          · next hj =>
            simp only [Bool.and_eq_true, beq_iff_eq] at hj
            exact ⟨_, List.mem_cons_self, hj.1.1.1, hj.1.1.2, Nat.le_refl _, by dsimp only; omega⟩
          · exact ⟨_, List.mem_cons_self, rfl, rfl, Nat.le_refl _, Nat.lt_succ_self _⟩
      · obtain ⟨r, hr, h1, h2, h3, h4⟩ := ih hm (o + 1)
        cases hp : peerRuns ls (o + 1) with
        | nil =>
          rw [hp] at hr
          cases hr
        | cons r' rs =>
          rw [hp] at hr
          simp only [peerRuns, hp]
          split
          · next hj =>
            simp only [Bool.and_eq_true, beq_iff_eq] at hj
            rcases List.mem_cons.mp hr with rfl | hr
            · exact ⟨_, List.mem_cons_self, h1, h2, by dsimp only; omega, by dsimp only; omega⟩
            · exact ⟨r, List.mem_cons_of_mem _ hr, h1, h2, h3, h4⟩
          · exact ⟨r, List.mem_cons_of_mem _ hr, h1, h2, h3, h4⟩

/-- A part of a window read, as it is asked of a peer. -/
def askOp (n k now : Nat) (r : PeerRun) : OutOp :=
  { link := r.link, ctx := n, who := none, chip := r.chip, addr := r.addr, kind := .read r.len, dst := none, sent := now
    win := some (.read k r.off) }

def askWindow (n k : Nat) (s : State) (r : PeerRun) : State := sendWindow s n r (.read r.len) (.read k r.off)

/-- Asking changes nothing of this device but what is under way. -/
theorem foldl_askWindow (k : Nat) (rs : List PeerRun) (s : State) : rs.foldl (askWindow n k) s
    = s.modTovor fun t => { t with outbound := t.outbound ++ rs.map (askOp n k s.refNs) } := by
  induction rs generalizing s with
  | nil => simp [State.modTovor]
  | cons r rs ih =>
    refine (ih _).trans ?_
    simp [State.modTovor, askWindow, sendWindow, sendLink, peerWritten, linkWritten, askOp]

/-- A read with bytes at peers, once those here are read. -/
def askedWindow (z : State) (n : Nat) (ls : List Loc) : State :=
  (peerRuns ls 0).foldl (askWindow n z.tovor.winNext) (z.modTovor fun t =>
    { t with winReads := mapPut t.winReads z.tovor.winNext (ls.map fun l => match l with | .flat a _ => some (memGet z.mem a) | .peer .. => none)
             winNext := z.tovor.winNext + 1 })

theorem windowRead_peer {ls : List Loc} {v z : State} {k a : Nat} {c : Bool} (h : meetAll n v (flatPlaces ls) = (z, true))
    (hl : Loc.peer k c a ∈ ls) : windowRead v n ls = askedWindow z n ls := by
  unfold windowRead
  rw [h]
  cases hp : peerRuns ls 0 with
  | nil =>
    obtain ⟨r, hr, -⟩ := exists_mem_peerRuns hl 0
    rw [hp] at hr
    cases hr
  | cons r rs =>
    unfold askedWindow
    rw [hp]
    rfl

theorem askedWindow_asks {ls : List Loc} {z : State} {k a : Nat} {c : Bool} (hl : Loc.peer k c a ∈ ls) :
    ∃ o, o ∈ (askedWindow z n ls).tovor.outbound ∧ o.link = k ∧ o.chip = c ∧ o.ctx = n ∧ o.addr ≤ a ∧ a < o.addr + LinkKind.size o.kind
      ∧ ∃ i, o.win = some (.read z.tovor.winNext i) := by
  obtain ⟨r, hr, h1, h2, h3, h4⟩ := exists_mem_peerRuns hl 0
  unfold askedWindow
  rw [foldl_askWindow]
  exact ⟨_, List.mem_append_right _ (List.mem_map_of_mem hr), h1, h2, rfl, h3, h4, _, rfl⟩

/-- A write of places in the device and in host memory. -/
theorem windowWrite_flat {ls : List Loc} {bs : List Byte} (hl : ∀ l, l ∈ ls → ∃ a h, l = .flat a h) : windowWrite s n ls bs
    = writeHome s none (((flatPlaces ls).zip bs).map fun p => { addr := p.1, val := p.2, mask := 0xFF : WByte }) := by
  unfold windowWrite
  rw [peerRuns_flat hl]
  refine congrArg (writeHome s none) ?_
  induction ls generalizing bs with
  | nil => rfl
  | cons l ls ih =>
    obtain ⟨a, h, rfl⟩ := hl l List.mem_cons_self
    cases bs with
    | nil => rfl
    | cons b bs => exact congrArg (_ :: ·) (ih fun l hm => hl l (List.mem_cons_of_mem _ hm))

/-! ## What waits behind a write -/

theorem settlePosted_waits (h : s.tovor.posted = [] ∨ (∃ o, o ∈ s.tovor.outbound ∧ o.win = some .write)) : settlePosted s = s := by
  unfold settlePosted
  cases hp : s.tovor.posted with
  | nil => rfl
  | cons x xs =>
    obtain ⟨o, ho, hw⟩ := h.resolve_left (by simp [hp])
    rw [List.length_cons, drainPosted]
    simp only [hp]
    exact if_pos (List.any_eq_true.mpr ⟨o, ho, by simp [hw]⟩)

theorem settlePosted_performs {x : HostPost} {xs : List HostPost} (hp : s.tovor.posted = x :: xs)
    (h : ∀ o, o ∈ s.tovor.outbound → o.win ≠ some .write) :
    settlePosted s = drainPosted xs.length (performPost (s.modTovor fun t => { t with posted := xs }) x) := by
  have hb : ¬ (s.tovor.outbound.any fun o => o.win == some .write) = true := by
    rw [List.any_eq_true]
    rintro ⟨o, ho, hw⟩
    exact h o ho (by simpa using hw)
  unfold settlePosted
  rw [hp, List.length_cons, drainPosted]
  simp only [hp]
  exact if_neg hb

end Sys2Proof
end

section
/-!
REGISTERS, PEERS AND PORTS (20 R409 to R416): O53.
-/
namespace Sys2Proof
open Machine

variable {s : State} {n f k : Nat}

/-! ## Registers -/

theorem registerWrite_eq (hr : s.tovor.released = true) (w : RegWrite) : exec (.registerWrite w) s = match w with
    | .deviceBlock base size => .next (s.modBlock fun b => { b with dlogBase := base, dlogSize := size })
    | .miCtl c v =>
      if 32 ≤ c then .next s
      else .next (s.modTovor fun t =>
        { t with channels := mapPut t.channels c { s.channel c with passMs := BitVec.ofNat 16 v.toNat, patrolEn := flag v 16 } })
    | .winBase func v =>
      if 512 < func then .next s
      else if funcResets s func then .next (answerHost s .unsupported)
      else .next (s.modTovor fun t =>
        { t with winBase := mapPut t.winBase func (BitVec.ofNat 64 (field v 32 16 * 2 ^ 32 + if func = 0 then field v 0 10 else 0)) })
    | .linkBinding link n v =>
      if 2 ≤ link || 1024 ≤ n then .next s
      else .next (s.modTovor fun t => { t with bindings := mapPut t.bindings (1024 * link + n) (v &&& bindingMask) })
    | .translation func n ipa va =>
      if 1024 ≤ n || 512 < func then .next s
      else if funcResets s func then .next (answerHost s .unsupported)
      else if !funcReaches s func n then .next s
      else .next (s.modCtx n fun c => { c with invIpa := ipa, invVa := va })
    | .unlisted func _ _ => if funcResets s func then .next (answerHost s .unsupported) else .next s
    | .read func off =>
      if 512 < func || off % 4 != 0 then .next s
      else if funcResets s func then .next (answerHost s .unsupported)
      else .next (answerHost s (.data (bytesOfNat 4 (readWord s func off).toNat))) := by
  refine (if_neg (by simp [hr])).trans ?_
  cases w <;> rfl

/-- The bits of a link binding that can be written. -/
theorem getLsbD_bindingMask {i : Nat} (h : i < 128) : bindingMask.getLsbD i = decide (i < 74 ∨ i = 80) := by
  have hall : ∀ i : Fin 128, bindingMask.getLsbD i.val = decide (i.val < 74 ∨ i.val = 80) := by decide
  exact hall ⟨i, h⟩

theorem winBase_toNat (x : BitVec 64) : (BitVec.ofNat 64 (field x 32 16 * 2 ^ 32 + if f = 0 then field x 0 10 else 0)).toNat
    = field x 32 16 * 2 ^ 32 + if f = 0 then field x 0 10 else 0 := by
  have h1 : field x 32 16 < 2 ^ 16 := field_lt ..
  have h2 : field x 0 10 < 2 ^ 10 := field_lt ..
  rw [BitVec.toNat_ofNat]
  apply Nat.mod_eq_of_lt
  split <;> omega

theorem registers (hr : s.tovor.released = true) :
      (∀ b z, exec (.registerWrite (.deviceBlock b z)) s = .next (s.modBlock fun d => { d with dlogBase := b, dlogSize := z }))
      ∧ (∀ c x, c < 32 → ∃ u, exec (.registerWrite (.miCtl c x)) s = .next u
          ∧ u.channel c = { s.channel c with passMs := BitVec.ofNat 16 (x.toNat % 2 ^ 16), patrolEn := x.toNat.testBit 16 }
          ∧ u.mem = s.mem ∧ u.groups = s.groups)
      ∧ (∀ f x, f ≤ 512 → funcResets s f = false → ∃ u, exec (.registerWrite (.winBase f x)) s = .next u
          ∧ (mapGet 0 u.tovor.winBase f).toNat = field x 32 16 * 2 ^ 32 + (if f = 0 then field x 0 10 else 0)
          ∧ u.mem = s.mem ∧ u.groups = s.groups)
      ∧ (∀ l n x, l < 2 → n < 1024 → ∃ u, exec (.registerWrite (.linkBinding l n x)) s = .next u ∧ u.mem = s.mem
          ∧ u.groups = s.groups ∧ ∀ i, i < 128 → (u.binding l n).getLsbD i = (decide (i < 74 ∨ i = 80) && x.getLsbD i))
      ∧ (∀ f n ipa va, f ≤ 512 → n < 1024 → funcResets s f = false →
          exec (.registerWrite (.translation f n ipa va)) s
            = .next (if funcReaches s f n = true then s.modCtx n fun c => { c with invIpa := ipa, invVa := va } else s))
      ∧ (∀ f o x, funcResets s f = false → exec (.registerWrite (.unlisted f o x)) s = .next s)
      ∧ (∀ f o, f ≤ 512 → o % 4 = 0 → funcResets s f = false →
          exec (.registerWrite (.read f o)) s = .next (answerHost s (.data (bytesOfNat 4 (readWord s f o).toNat))))
      ∧ (∀ f, f ≤ 512 → funcResets s f = true →
          (∀ o, o % 4 = 0 → exec (.registerWrite (.read f o)) s = .next (answerHost s .unsupported))
          ∧ ∀ x, exec (.registerWrite (.winBase f x)) s = .next (answerHost s .unsupported)) := by
  refine ⟨fun b z => registerWrite_eq hr _, fun c x hc => ⟨_, (registerWrite_eq hr _).trans (if_neg (by omega)), ?_, rfl, rfl⟩,
    fun f x hf hn => ⟨_, (registerWrite_eq hr _).trans ((if_neg (by omega)).trans (if_neg (by simp [hn]))), ?_, rfl, rfl⟩,
    fun l n x hl hn => ⟨_, (registerWrite_eq hr _).trans (if_neg (by simp; omega)), rfl, rfl, fun i hi => ?_⟩, ?_, ?_, ?_, ?_⟩
  · simp only [State.channel, State.modTovor, mapGet, mapFind_put_same, Option.getD_some, flag]
    congr 1
    exact BitVec.eq_of_toNat_eq (by simp)
  · simp only [State.modTovor, mapGet, mapFind_put_same, Option.getD_some]
    exact winBase_toNat x
  · simp only [State.binding, State.modTovor, mapGet, mapFind_put_same, Option.getD_some]
    rw [BitVec.getLsbD_and, getLsbD_bindingMask hi, Bool.and_comm]
  · intro f n ipa va hf hn hz
    refine (registerWrite_eq hr _).trans ((if_neg (by simp; omega)).trans ((if_neg (by simp [hz])).trans ?_))
    cases funcReaches s f n <;> rfl
  · exact fun f o x hz => (registerWrite_eq hr _).trans (if_neg (by simp [hz]))
  · exact fun f o hf ho hz => (registerWrite_eq hr _).trans ((if_neg (by simp [ho]; omega)).trans (if_neg (by simp [hz])))
  · exact fun f hf hz => ⟨fun o ho => (registerWrite_eq hr _).trans ((if_neg (by simp [ho]; omega)).trans (if_pos hz)),
      fun x => (registerWrite_eq hr _).trans ((if_neg (by omega)).trans (if_pos hz))⟩

/-- A function without a bound context reads no block but its WIN_BASE. -/
theorem readWord_unbound {o : Nat} (hc : windowCtx s f = none) (hf : f ≠ 0) (ho : o < 0x840 ∨ 0x848 ≤ o) : readWord s f o = 0 := by
  unfold readWord
  rw [if_neg hf, hc]
  exact if_neg (by simp only [Bool.and_eq_true, decide_eq_true_eq]; omega)

/-- The word of a context's status block. -/
theorem readWord_status {i : Nat} (hn : n < 1024) (hi : i < 16) :
    readWord s 0 (0x20000 + 64 * n + 4 * i) = BitVec.ofNat 32 (statusBits s n / 2 ^ (8 * (4 * i))) := by
  have h1 : (0x20000 + 64 * n + 4 * i) % 0x10000 / 64 = n := by omega
  have h2 : (0x20000 + 64 * n + 4 * i) % 64 = 4 * i := by omega
  unfold readWord physWord
  rw [if_pos rfl]
  simp only [Bool.and_eq_true, decide_eq_true_eq]
  rw [if_neg (by omega), if_neg (by omega), if_neg (by omega), if_neg (by omega), if_pos (by omega), h1, h2]
  rfl

theorem readWord_gap : readWord s 0 0x8000 = 0 := rfl

/-! ## Operations of a peer -/

section Inbound
variable {op : LinkOp} (hl : op.link < 2) (hc : op.ctx < 1024) (hu : s.tovor.linkUp.getD op.link false = true)
  (hr : s.tovor.released = true)
include hl hc hu hr

/-- An inbound operation over a link that is up. -/
theorem inbound_eq : exec (.linkInboundOperation op) s
    = if (s.ctx op.ctx).state = .resetting then .next (answerPeer s .aborted)
      else if !(flag (s.binding op.link op.ctx) 80 && field (s.binding op.link op.ctx) 64 10 == op.peer) then .next (answerPeer s .refused)
      else if op.kind = .abort then .next (linkAborted s op.link op.ctx)
      else .next (match inboundPlace s op with
        | (s, none) => answerPeer s .refused
        | (s, some a) => inboundPerform s op a) := by
  have h0 : ¬ (decide (2 ≤ op.link) || decide (1024 ≤ op.ctx) || !s.tovor.linkUp.getD op.link false || !s.tovor.released) = true := by
    simp only [hu, hr, Bool.not_true, Bool.or_false, Bool.or_eq_true, decide_eq_true_eq]
    omega
  refine (if_neg h0).trans ?_
  rcases inboundPlace s op with ⟨v, _ | a⟩ <;> rfl

theorem inbound_resetting (hs : (s.ctx op.ctx).state = .resetting) :
    exec (.linkInboundOperation op) s = .next (answerPeer s .aborted) := (inbound_eq hl hc hu hr).trans (if_pos hs)

theorem inbound_refused (hs : (s.ctx op.ctx).state ≠ .resetting)
    (hb : flag (s.binding op.link op.ctx) 80 = false ∨ field (s.binding op.link op.ctx) 64 10 ≠ op.peer) :
    exec (.linkInboundOperation op) s = .next (answerPeer s .refused) := by
  refine (inbound_eq hl hc hu hr).trans ((if_neg hs).trans (if_pos ?_))
  rcases hb with h | h
  · rw [h]
    rfl
  · rw [beq_false_of_ne h, Bool.and_false]
    rfl

variable (hs : (s.ctx op.ctx).state ≠ .resetting) (hb : flag (s.binding op.link op.ctx) 80 = true)
  (hp : field (s.binding op.link op.ctx) 64 10 = op.peer)
include hs hb hp

theorem inbound_bound : exec (.linkInboundOperation op) s = if op.kind = .abort then .next (linkAborted s op.link op.ctx)
      else .next (match inboundPlace s op with
        | (s, none) => answerPeer s .refused
        | (s, some a) => inboundPerform s op a) :=
  (inbound_eq hl hc hu hr).trans ((if_neg hs).trans (if_neg (by simp [hb, hp])))

end Inbound

/-! ## Answers to what was sent -/

section Answer
variable {op : OutOp} (ho : s.tovor.outbound[k]? = some op)
include ho

theorem acknowledgement_eq (r : LinkReply) : exec (.linkAcknowledgement k r) s
    = if !(s.tovor.linkUp.getD op.link false) || orderedBehind s k op then .next s
      else match if op.sent + 10000 < s.refNs then LinkReply.refused else r with
        | .ok bs => .next (settleDue (answered (peerWritten (takeOp s k) op) op (natOfLe bs)))
        | .aborted => .next (settleDue (abortOp (takeOp s k) op))
        | .refused => .next (settleDue (refuseOp (takeOp s k) op)) := by
  show execLinkAcknowledgement k r s = _
  unfold execLinkAcknowledgement
  rw [ho] <;> rfl

theorem acknowledgement_waits (r : LinkReply) (h : s.tovor.linkUp.getD op.link false = false ∨ orderedBehind s k op = true) :
    exec (.linkAcknowledgement k r) s = .next s := by
  refine (acknowledgement_eq ho r).trans (if_pos ?_)
  rw [Bool.or_eq_true, Bool.not_eq_true']
  exact h

theorem acknowledgement_taken (hu : s.tovor.linkUp.getD op.link false = true) (hb : orderedBehind s k op = false) (r : LinkReply) :
    exec (.linkAcknowledgement k r) s = match if op.sent + 10000 < s.refNs then LinkReply.refused else r with
        | .ok bs => .next (settleDue (answered (peerWritten (takeOp s k) op) op (natOfLe bs)))
        | .aborted => .next (settleDue (abortOp (takeOp s k) op))
        | .refused => .next (settleDue (refuseOp (takeOp s k) op)) :=
  (acknowledgement_eq ho r).trans (if_neg (by simp only [hu, hb]; simp))

theorem ackTimeout_eq : exec (.linkAckTimeout k) s
    = if s.refNs < op.sent + 10000 && s.tovor.linkUp.getD op.link false then .next s
      else .next (settleDue (refuseOp (takeOp s k) op)) := by
  show execLinkAckTimeout k s = _
  unfold execLinkAckTimeout
  rw [ho]

end Answer

/-! ## Frames of the vehicle network -/

section Frame
variable {port : Nat} {p : Port} {frame : List Byte} (hp : s.tovor.ports[port]? = some p)
include hp

/-- What a slot of a ring takes of a frame. -/
def slotBytes (port : Nat) (frame : List Byte) (t : Nat) : List Byte :=
  bytesOfNat 2 (frame.take (frame.length - 4)).length ++ [BitVec.ofNat 8 port] ++ bytesOfNat 5 0 ++ bytesOfNat 8 t ++ frame.take (frame.length - 4)

theorem frameArrival_eq (he : NetCtl.enabled p.ctl = true) : exec (.frameArrival port frame) s
    = if !frameOk frame then .next (s.setPort port { p with bad := satInc p.bad })
      else match ringIndices s (ringBase s p.ctl) with
        | (m, none) => .next (dropFrame m (ringBase s p.ctl))
        | (m, some (wr, rd)) => if (wr + 2 ^ 64 - rd) % 2 ^ 64 < 2 ^ NetCtl.log2 p.ctl then
            .next ((writeNat (writeHome m none (wholeBytes (ringBase s p.ctl + 64 + 2048 * (wr % 2 ^ NetCtl.log2 p.ctl))
              (slotBytes port frame m.refNs))) (ringBase s p.ctl) 8 (wr + 1)).setPort port { p with frames := p.frames + 1 })
            else .next (dropFrame m (ringBase s p.ctl)) := by
  show execFrameArrival port frame s = _
  unfold execFrameArrival
  rw [hp]
  refine (if_neg (by simp [he])).trans (if_congr Iff.rfl rfl ?_)
  dsimp only
  rcases ringIndices s (ringBase s p.ctl) with ⟨m, _ | ⟨wr, rd⟩⟩ <;> rfl

theorem netCtlWrite_eq (hr : s.tovor.released = true) (b : BitVec 512) {v : BitVec 64}
    (hv : BitVec.ofNat 64 (field b 32 16 * 2 ^ 32 + field b 20 8 * 2 ^ 20 + field b 0 1) = v) : exec (.netCtlWrite port b) s
    = if NetCtl.enabled p.ctl then
        (if NetCtl.enabled v then .next s else .next (s.setPort port { p with ctl := p.ctl &&& ~~~1 }))
      else if NetCtl.enabled v && !ringOk s v then .next (denyPort s port p v)
      else .next (s.setPort port { p with ctl := v }) := by
  subst hv
  show execNetCtlWrite port b s = _
  unfold execNetCtlWrite
  rw [hp]
  exact if_neg (by simp [hr])

end Frame

/-- The indices of a ring, one after the other. -/
theorem ringIndices_eq (s : State) (base : Nat) : ringIndices s base = match meetShared s none base with
    | (m, some _) => (m, none)
    | (z, none) => match meetShared z none (base + 8) with
      | (m, some _) => (m, none)
      | (m, none) => (m, some (memNat m.mem base 8, memNat m.mem (base + 8) 8)) := by
  unfold ringIndices meetEach
  rcases meetShared s none base with ⟨z, _ | c⟩
  · dsimp only
    unfold meetEach
    rcases meetShared z none (base + 8) with ⟨m, _ | c⟩ <;> rfl
  · rfl

theorem dropFrame_eq (s : State) (base : Nat) : dropFrame s base = match meetShared s none (base + 16) with
    | (m, some _) => m
    | (m, none) => writeNat m (base + 16) 8 (memNat m.mem (base + 16) 8 + 1) := rfl

/-- Settles O53. -/
theorem linkHappenings : Obligations.LinkHappenings := by
  unfold Obligations.LinkHappenings
  refine ⟨?_, ?_, fun s => settlePosted_waits, fun s x xs => settlePosted_performs, fun _ _ _ _ => rfl,
    fun s f off len n hr ho hf hc => windowRead_resetting hr hf hc ho, fun s hr => registers hr,
    fun s f o => readWord_unbound, fun s n hn => ⟨fun i => readWord_status hn, readWord_gap⟩, ?_, ?_, ?_, ?_, ?_, ?_, ?_, ?_, ?_, ?_, ?_, ?_, ?_⟩
  · intro s f off len n hr ho hf hc hs
    have hx := hostWindowRead_eq hr hf hc ho hs rfl
    refine ⟨fun h => ?_, fun ls h hb => ?_, fun ls h hb => ?_⟩
    · rw [hx, h]
      rfl
    · rw [hx, h]
      exact congrArg _ (if_pos hb)
    · have hread : exec (.hostWindowRead f off len) s
          = .next (windowRead (walkRange s n (windowAddr s f off) len needRead) n ls) := by
        rw [hx, h]
        exact congrArg _ (if_neg (by simp [hb]))
      refine ⟨hread, fun z hz => ?_, fun z hz hl => ?_, fun z k c a hz hl => ?_⟩
      · rw [hread, windowRead_fault hz]
      · rw [hread, windowRead_flat hz hl]
      · rw [hread, windowRead_peer hz hl]
        refine ⟨_, rfl, ?_, ?_, ?_, askedWindow_asks hl⟩
        all_goals
          unfold askedWindow
          rw [foldl_askWindow]
          rfl
  · intro s f off n hr hf hc hs
    refine ⟨fun bs ho => ?_, fun w k v a h hw hk ha ho hv => ?_, fun k x v a h hk ha ho hv hm hb => ?_⟩
    · have hx := hostWindowWrite_bytes hr hf hc hs ho rfl
      refine ⟨fun h => ?_, fun ls h => ?_, fun ls h hl => windowWrite_flat hl⟩
      · rw [hx, h]
      · rw [hx, h]
        rfl
    · obtain ⟨x, y, hw⟩ := hw
      exact hostWindowWrite_atomic hr hf hc hs ⟨x, y, hw⟩ hk ha ho hv
    · have hx {w : HostWrite} (hw : IsAtomic w k) : exec (.hostWindowWrite f off w) s = .next (windowAtomic v n a w) :=
        (hostWindowWrite_atomic hr hf hc hs hw hk ha ho hv).trans (congrArg _ (if_neg (by simp [hb])))
      refine ⟨?_, ?_, fun y => ?_⟩
      · rw [hx ⟨x, x, .inl rfl⟩, windowAtomic_done hm]
        rfl
      · rw [hx ⟨x, x, .inr (.inl rfl)⟩, windowAtomic_done hm]
        rfl
      · rw [hx ⟨y, x, .inr (.inr rfl)⟩, windowAtomic_done hm]
        refine congrArg (fun u => Host.Outcome.next (answerHost u _)) ?_
        by_cases hc : memNat v.mem a k = y.toNat % 2 ^ (8 * k)
        · exact (congrArg (fun o => (Option.map (writeNat v a k) o).getD v) (if_pos hc)).trans (if_pos hc).symm
        · exact (congrArg (fun o => (Option.map (writeNat v a k) o).getD v) (if_neg hc)).trans (if_neg hc).symm
  · intro s op a hl hc hu hr hs hb hp hk v
    have hx := (inbound_bound hl hc hu hr hs hb hp).trans (if_neg hk)
    exact ⟨fun h => by rw [hx, h], fun h => by rw [hx, h]⟩
  · exact fun s op hl hc hu hr hs hb hp hk => (inbound_bound hl hc hu hr hs hb hp).trans (if_pos hk)
  · exact fun s op hl hc hu hr => ⟨inbound_resetting hl hc hu hr, inbound_refused hl hc hu hr⟩
  · intro s k op ho hu hb
    have hx := acknowledgement_taken ho hu hb
    refine ⟨fun ht => ⟨fun bs => ?_, ?_⟩, fun r hr => ?_⟩
    · rw [hx, if_neg (by omega)]
    · rw [hx, if_neg (by omega)]
    · have hr' : (if op.sent + 10000 < s.refNs then LinkReply.refused else r) = .refused := by
        rcases hr with rfl | hr
        · exact ite_self _
        · exact if_pos hr
      rw [hx, hr']
  · exact fun s k op r ho => acknowledgement_waits ho r
  · intro s op r h hw hn hh
    simp only [refuseOp, hw, hn, hh]
  · intro s op hw hn
    simp only [refuseOp, hw, hn]
  · intro s k op ho h
    refine (ackTimeout_eq ho).trans (if_neg ?_)
    rcases h with h | h
    · rw [decide_eq_false (by omega), Bool.false_and]
      exact Bool.false_ne_true
    · rw [h, Bool.and_false]
      exact Bool.false_ne_true
  · exact fun s k op ho ht hu => (ackTimeout_eq ho).trans (if_pos (by rw [hu, decide_eq_true ht]; rfl))
  · intro s l hl hlen
    refine ⟨?_, if_neg (by omega)⟩
    have hlt : l < (s.tovor.linkUp.set l false).length := by rw [List.length_set]; omega
    exact (List.getD_eq_getElem _ _ hlt).trans (List.getElem_set_self ..)
  · intro s port p frame hp he
    have hx := frameArrival_eq (frame := frame) hp he
    refine ⟨fun h => hx.trans (if_pos (by simp [h])), fun h => ⟨fun m hm => ?_, fun m wr rd hm => ⟨fun hw => ?_, fun hw => ?_⟩⟩⟩
    all_goals
      refine (hx.trans (if_neg (by simp [h]))).trans ?_
      rw [hm]
    · exact if_pos hw
    · exact if_neg (by omega)
  · intro s base m
    refine ⟨fun c h => by rw [ringIndices_eq, h], fun z hz => ⟨fun c h => ?_, fun h => ?_⟩, fun c h => by rw [dropFrame_eq, h],
      fun h => by rw [dropFrame_eq, h]⟩
    · rw [ringIndices_eq, hz]
      dsimp only
      rw [h]
    · rw [ringIndices_eq, hz]
      dsimp only
      rw [h]
  · intro s port p b hr hp
    have hx := netCtlWrite_eq hp hr b rfl
    refine ⟨fun h hv => ?_, fun h hv hz => ?_, fun h hv => ?_, fun h hv => ?_⟩
    · refine hx.trans ((if_neg (by simp [h])).trans (if_neg ?_))
      rcases hv with hv | hv
      · rw [hv]
        exact Bool.false_ne_true
      · rw [hv, Bool.not_true, Bool.and_false]
        exact Bool.false_ne_true
    · exact hx.trans ((if_neg (by simp [h])).trans (if_pos (by rw [hv, hz]; rfl)))
    · exact hx.trans ((if_pos h).trans (if_pos hv))
    · exact hx.trans ((if_pos h).trans (if_neg (by rw [hv]; exact Bool.false_ne_true)))

end Sys2Proof
end

section
/-!
REDUNDANCY (18 R369 to R375, R377, R378, R381, R387): O48.
-/
namespace Sys2Proof
open Machine

variable {s : State} {core quad j key : Nat} {r : CtxRef} {d : Dup} {g : Group} {rest : List (CtxRef × Dup)}

/-! ## The comparator -/

theorem comparatorCompare_nil (h : ((meetRecord core s 0).core core).records = []) : exec (.comparatorCompare core) s = .next s := by
  show execComparatorCompare core s = _
  unfold execComparatorCompare
  simp only [h]

theorem comparatorCompare_cons (h : ((meetRecord core s 0).core core).records = (r, d) :: rest) : exec (.comparatorCompare core) s
    = if !d.met || d.lost then .next s
      else .next (if d.first = d.second then releaseRecord ((meetRecord core s 0).modCore core fun c => { c with records := rest }) core r d
        else pairEvent ((meetRecord core s 0).modCore core fun c => { c with records := rest }) (core / 16) r d.pc .pairMismatch d.inj) := by
  show execComparatorCompare core s = _
  unfold execComparatorCompare
  simp only [h]

theorem comparator_waits (h : ((meetRecord core s 0).core core).records = (r, d) :: rest) (hd : d.met = false ∨ d.lost = true) :
    exec (.comparatorCompare core) s = .next s := by
  refine (comparatorCompare_cons h).trans (if_pos ?_)
  rw [Bool.or_eq_true, Bool.not_eq_true']
  exact hd

theorem meetRecord_nil (h : (s.core core).records = []) : meetRecord core s 0 = s := by
  unfold meetRecord
  rw [h]
  rfl

section Arrival
variable (h : (s.core core).records = (r, d) :: rest)
include h

theorem meetRecord_cons : meetRecord core s 0 = if d.met || (s.pair (core / 16)).silent then s
    else (s.setPair (core / 16) (injectInto (s.pair (core / 16)) d).1).modCore core fun c =>
      { c with records := c.records.set 0 (r, { (injectInto (s.pair (core / 16)) d).2 with met := true }) } := by
  unfold meetRecord
  rw [h]
  rfl

theorem meetRecord_held (hd : (s.pair (core / 16)).silent = true ∨ d.met = true) : meetRecord core s 0 = s := by
  refine (meetRecord_cons h).trans (if_pos ?_)
  rw [Bool.or_eq_true]
  exact hd.symm

variable (hs : (s.pair (core / 16)).silent = false) (hm : d.met = false)
include hs hm

theorem records_meetRecord : ((meetRecord core s 0).core core).records
    = (r, { (injectInto (s.pair (core / 16)) d).2 with met := true }) :: rest := by
  rw [meetRecord_cons h, if_neg (by simp [hs, hm]), State.modCore, State.core_setCore]
  exact congrArg (List.set · 0 _) h

theorem pair_meetRecord : (meetRecord core s 0).pair (core / 16) = (injectInto (s.pair (core / 16)) d).1 := by
  rw [meetRecord_cons h, if_neg (by simp [hs, hm])]
  exact State.pair_setPair ..

end Arrival

section Injection
variable {p : Pair} {i : Injection} (hi : p.inj = some i) (hr : injectRow i.kind = d.row)
include hi hr

/-- An armed injection that is due alters the first value, and disarms. -/
theorem injectInto_due (hc : i.count ≤ 1) : injectInto p d = ({ p with inj := none },
    { d with inj := true, second := match d.second with | [] => [] | v :: vs => (v ^^^ i.mask.toNat) :: vs }) := by
  unfold injectInto
  rw [hi]
  exact (if_neg (by simp [hr])).trans ((if_neg (by omega)).trans (by cases d.second <;> rfl))

theorem injectInto_counts (hc : 1 < i.count) : injectInto p d = ({ p with inj := some { i with count := i.count - 1 } }, d) := by
  unfold injectInto
  rw [hi]
  exact (if_neg (by simp [hr])).trans (if_pos hc)

end Injection

theorem injectInto_none {p : Pair} (hi : p.inj = none) : injectInto p d = (p, d) := by
  unfold injectInto
  rw [hi]

/-! ## The timeout -/

theorem shadowTimeout_waits (h : waitingRecord s j = none) : exec (.shadowTimeout j) s = .next s := by
  show execShadowTimeout j s = _
  unfold execShadowTimeout
  rw [h]

theorem shadowTimeout_due (h : waitingRecord s j = some (r, d)) : exec (.shadowTimeout j) s = .next (pairEvent s j r d.pc .shadowTimeout false)
      ∧ settleTimeout s j = pairEvent s j r d.pc .shadowTimeout false := by
  constructor
  · show execShadowTimeout j s = _
    unfold execShadowTimeout
    rw [h]
  · unfold settleTimeout
    rw [h]

theorem timedOut_of_waitingRecord (h : waitingRecord s j = some (r, d)) : d.timedOut (s.clusterCycles (2 * j)) = true := by
  obtain ⟨k, -, hk⟩ := List.mem_filterMap.mp (List.mem_of_mem_head? h)
  exact List.find?_some (p := fun p : CtxRef × Dup => p.2.timedOut (s.clusterCycles (2 * j))) hk

theorem timedOut_iff {now : Nat} : d.timedOut now = true ↔ (d.lost = true ∧ d.met = true ∧ d.since + 8 + 64 ≤ now)
    ∨ (d.lost = false ∧ d.met = false ∧ d.since + 64 ≤ now) := by
  unfold Dup.timedOut
  cases d.lost <;> simp

theorem wakePair_answers (s : State) (j : Nat) :
    ((wakePair s j).pair j).silent = false ∧ ((wakePair s j).pair j).mute = false ∧ (wakePair s j).groups = s.groups := by
  unfold wakePair
  split
  · rw [State.pair_setPair]
    exact ⟨rfl, rfl, rfl⟩
  · next h =>
    rw [Bool.or_eq_true, not_or, Bool.not_eq_true, Bool.not_eq_true] at h
    exact ⟨h.1, h.2, rfl⟩

theorem core_addRecord : (addRecord s r core d).core core
      = { s.core core with records := (s.core core).records ++ [(r, { d with lost := (s.pair (core / 16)).mute })] } :=
  State.core_setCore ..

/-! ## Clones -/

theorem cloneExecute_eq {h : Hart} (hg : s.group? r.group = some g) (hh : s.hart? r = some h) (hd : h.dup = some d) (h0 : d.row = 0)
    (ha : d.agreed = false) (hq : d.queued = false) (hl : s.groupLive g = true) : exec (.cloneExecute r) s = .next (compareClone s r d) := by
  show execCloneExecute r s = _
  unfold execCloneExecute
  simp only [hg, hh, hd, Option.bind_some]
  exact congrArg _ (if_neg (by simp [h0, ha, hq, hl]))

/-- The lane of a clone is taken from then on in this cycle. -/
theorem laneTaken_useLane (s : State) (core quad l : Nat) : l ∈ cloneLanes (useLane s core quad l) core quad := by
  have hc : (useLane s core quad l).clusterCycles (core / 8) = s.clusterCycles (core / 8) := rfl
  unfold cloneLanes
  rw [hc]
  unfold useLane State.modCore
  rw [State.core_setCore]
  simp only [mapFind_put_same, if_true]
  exact List.mem_cons_self

theorem cloneLanes_useLane {l m : Nat} (h : l ∈ cloneLanes s core quad) : l ∈ cloneLanes (useLane s core quad m) core quad := by
  have hc : (useLane s core quad m).clusterCycles (core / 8) = s.clusterCycles (core / 8) := rfl
  unfold cloneLanes at h ⊢
  rw [hc]
  unfold useLane State.modCore
  rw [State.core_setCore]
  simp only [mapFind_put_same, if_true]
  exact List.mem_cons_of_mem _ h

theorem cloneLanes_foldl (ls : List Nat) : ∀ {s : State} {l : Nat}, (l ∈ cloneLanes s core quad ∨ l ∈ ls) →
    l ∈ cloneLanes (ls.foldl (fun s l => useLane s core quad l) s) core quad := by
  induction ls with
  | nil => exact fun h => h.elim id fun h => absurd h List.not_mem_nil
  | cons m ls ih =>
    intro s l h
    refine ih (s := useLane s core quad m) ?_
    rcases h with h | h
    · exact .inl (cloneLanes_useLane h)
    · rcases List.mem_cons.mp h with rfl | h
      · exact .inl (laneTaken_useLane ..)
      · exact .inr h

theorem quad_of_replaysOf {q : Replay} (h : (replaysOf s core quad).head? = some q) : q.quad = quad := by
  have hm := (List.mem_filter.mp (List.mem_of_mem_head? h)).2
  exact beq_iff_eq.mp hm

theorem cloneReplay_eq {q : Replay} (h : (replaysOf s core quad).head? = some q) : exec (.cloneReplay core quad) s
    = if decide (s.clusterCycles (core / 8) ≤ q.cycle) || !cloneLanesFree s core q then .next s else .next (replayEntry s core q) := by
  show execCloneReplay core quad s = _
  unfold execCloneReplay
  rw [h]

/-! ## Restart -/

theorem rollbackRestart_eq (hg : s.group? key = some g) (hr : g.rollback = true) (hk : g.state ≠ .killed)
    (h : ∀ k p, k ∈ s.peers key → s.group? k = some p → p.rollback = true → p.halting = none ∧ Group.resultsBack s p = true) :
    exec (.rollbackRestart key) s = .next ((s.peers key).foldl restartGroup s) := by
  have hany : (s.anyPeer key fun p => p.rollback && (p.halting.isSome || !Group.resultsBack s p)) = false := by
    refine List.any_eq_false.mpr fun k hk => ?_
    cases hp : s.group? k with
    | none => exact Bool.false_ne_true
    | some p =>
      by_cases hb : p.rollback = true
      · obtain ⟨h1, h2⟩ := h k p hk hp hb
        simp [h1, h2]
      · simp [hb]
  show execRollbackRestart key s = _
  unfold execRollbackRestart
  rw [hg]
  refine if_neg ?_
  rw [hany]
  simp [hr, hk]

theorem modGroup_setGroup_same (k : Nat) (g : Group) (f : Group → Group) : (s.setGroup k g).modGroup k f = s.setGroup k (f g) := by
  unfold State.modGroup
  rw [State.group?_setGroup]
  exact setGroup_setGroup ..

/-- The contexts of a group at the entries of their regions. -/
def restarted (stay : Bool) (g : Group) : Group :=
  { g.eachHart fun _ h => restartHart stay h with
    rollback := false, image := none, woken := false, state := if stay then .halted else .resident }

theorem restartGroup_eq (hg : s.group? key = some g) (hr : g.rollback = true) (stay : Bool)
    (hs : ((s.ctx g.ctx).state != .running) = stay) (h : stay = true ∨ ∃ p, p ∈ g.harts ∧ p.2.status ≠ .exited) :
    restartGroup s key = s.setGroup key (restarted stay g) := by
  unfold restartGroup
  rw [hg]
  dsimp only
  rw [if_neg (by simp [hr]), hs]
  unfold settleRetiring
  refine (modGroup_setGroup_same ..).trans (congrArg (s.setGroup key) (if_neg ?_))
  rw [Bool.and_eq_true]
  rintro ⟨hst, hall⟩
  cases stay with
  | true => exact absurd hst (by simp)
  | false =>
    obtain ⟨⟨w, x⟩, hx, hne⟩ := h.resolve_left Bool.false_ne_true
    have hx' : (restarted false g).hart? w = some (restartHart false x) :=
      (hart?_eachHart g (fun _ h => restartHart false h) w).trans (by rw [hart?_of_mem_harts hx]; rfl)
    have he : (restartHart false x).status = .exited := by simpa using List.all_eq_true.mp hall _ (mem_harts_of_hart? hx')
    rw [restartHart, if_neg hne] at he
    cases he

theorem restartHart_live {h : Hart} (stay : Bool) (hs : h.status ≠ .exited) : (restartHart stay h).pc = h.regionPc
      ∧ (restartHart stay h).rng = h.rngSnap ∧ (restartHart stay h).handler = false ∧ (restartHart stay h).regs = h.regs
      ∧ (restartHart stay h).preds = h.preds ∧ (restartHart stay h).status = if stay then .halted else .ready := by
  rw [restartHart, if_neg hs]
  exact ⟨rfl, rfl, rfl, rfl, rfl, rfl⟩

/-! ## Errors of the silicon -/

theorem memoryFault_eq {a : Nat} {ok : Bool} (ha : a < memTop) (hp : a / 64 ∉ s.tovor.poison) : exec (.hardwareFault (.memory a ok)) s
    = .next (s.modTovor fun t => { t with latent := putError t.latent (errUnit a) ok }) :=
  if_neg (by simp [ha, hp])

theorem fabricFault_met {walk : Bool} {h : Hart} (hg : s.group? r.group = some g) (hl : s.groupLive g = true) (hh : s.hart? r = some h)
    (hs : h.status ≠ .exited) : exec (.hardwareFault (.fabric (some (r, walk)))) s
    = .next (raiseOn (countUeShared s (some g.ctx) 4 (if walk then .walkUe else .memUe)) r (if walk then .walkUe else .memUe)) := by
  show execHardwareFault (.fabric (some (r, walk))) s = _
  unfold execHardwareFault
  have hlive : ((some (r, walk)).filter fun p => (s.group? p.1.group).any (fun g => s.groupLive g) && (s.hart? p.1).any fun h => h.status != .exited)
      = some (r, walk) := by
    simp [Option.filter, hg, hl, hh, hs]
  simp only [hlive, Option.any_some, Option.bind_some, hg, Option.map_some]

/-- Settles O48. -/
theorem redundancyHappenings : Obligations.RedundancyHappenings := by
  unfold Obligations.RedundancyHappenings
  refine ⟨?_, fun s core r d rest => comparator_waits, ?_, ?_, ?_, fun s j r d => shadowTimeout_due, wakePair_answers,
    fun s j => shadowTimeout_waits, fun s j r d h => timedOut_iff.mp (timedOut_of_waitingRecord h), fun s r core d => core_addRecord,
    ?_, ?_, ?_, ?_, fun s key g => rollbackRestart_eq, ?_, ?_, fun h halted => restartHart_live halted, ?_, fun _ _ => rfl,
    fun _ => rfl, fun s r walk g h => fabricFault_met, ?_, fun _ _ _ => rfl, ?_⟩
  · exact fun s core r d rest h hm hl => (comparatorCompare_cons h).trans (if_neg (by simp [hm, hl]))
  · intro s core h
    refine comparatorCompare_nil ?_
    rw [meetRecord_nil h, h]
  · intro s core r d rest h
    refine ⟨fun hs hm hi => ?_, meetRecord_held h⟩
    rw [records_meetRecord h hs hm, injectInto_none hi]
  · intro s core r d rest i h hs hm hi hr
    rw [records_meetRecord h hs hm, pair_meetRecord h hs hm]
    refine ⟨fun hc => ?_, fun hc => ?_⟩
    · rw [injectInto_due hi hr hc]
      refine ⟨rfl, _, rfl, rfl, rfl, rfl, fun v vs hv => ?_⟩
      dsimp only
      rw [hv]
    · rw [injectInto_counts hi hr hc]
  · exact fun s r g h d hg hh hd h0 ha hq hl he => (cloneExecute_eq hg hh hd h0 ha hq hl).trans (congrArg _ (if_pos he))
  · exact fun s r g h d hg hh hd h0 ha hq hl he => (cloneExecute_eq hg hh hd h0 ha hq hl).trans (congrArg _ (if_neg he))
  · intro s core quad q h hc hf u lanes v
    refine ⟨?_, fun l hl => ?_⟩
    · refine (cloneReplay_eq h).trans ((if_neg (by simp [hf]; omega)).trans ?_)
      unfold replayEntry
      rw [quad_of_replaysOf h]
      rfl
    · unfold laneTaken
      rw [Bool.or_eq_true]
      exact .inr (List.contains_iff_mem.mpr (cloneLanes_foldl lanes (.inr hl)))
  · intro s core quad q h hc
    refine (cloneReplay_eq h).trans (if_pos ?_)
    rw [Bool.or_eq_true, decide_eq_true_eq, Bool.not_eq_true']
    exact hc
  · exact fun s key g hg hr hs hx => restartGroup_eq hg hr false (by simp [hs]) (.inr hx)
  · exact fun s key g hg hr hs => restartGroup_eq hg hr true (by simp [hs]) (.inl rfl)
  · intro s a ok ha hp
    refine ⟨fun hl => ?_, fun hl => ?_⟩
    · rw [memoryFault_eq ha hp]
      exact congrArg (fun l => Host.Outcome.next (s.modTovor fun t => { t with latent := l })) (if_neg hl)
    · rw [memoryFault_eq ha hp]
      exact congrArg (fun l => Host.Outcome.next (s.modTovor fun t => { t with latent := l })) (if_pos hl)
  · intro s core tile elem x hc ht he
    exact if_neg (by simp; omega)
  · exact fun s j h => ⟨if_pos h, if_pos h⟩

end Sys2Proof
end

section
/-!
WHAT STANDS STILL. The slot sets, the ports, the step of the clocks that is in force and that is asked for, the time, and since when
FAULT_N is asserted: no record, no error of memory, no kill and no integrity event changes them, but that FAULT_N may be asserted now.
-/
namespace Sys2Proof
open Machine

/-- The slot sets, the ports, the step of the clocks, the time, and since when FAULT_N stands, or would stand if it came now. -/
def steady (s : State) : PartSet × Option (PartSet × Word) × List Port × Option Bool × Bool × Nat × Nat :=
  (s.tovor.active, s.tovor.waiting, s.tovor.ports, s.tovor.stepTo, s.tovor.degraded, s.refNs, s.tovor.faultN.getD s.refNs)

variable {s u : State} {n a k len v key core : Nat} {r : CtxRef} {g : Group} {x : LogEntry} {c : Cause}

theorem steady_iff : steady u = steady s ↔ u.tovor.active = s.tovor.active ∧ u.tovor.waiting = s.tovor.waiting ∧ u.tovor.ports = s.tovor.ports
    ∧ u.tovor.stepTo = s.tovor.stepTo ∧ u.tovor.degraded = s.tovor.degraded ∧ u.refNs = s.refNs
    ∧ u.tovor.faultN.getD u.refNs = s.tovor.faultN.getD s.refNs := by
  simp only [steady, Prod.mk.injEq]

theorem steady_foldl {α : Type} {f : State → α → State} (hf : ∀ s y, steady (f s y) = steady s) (l : List α) :
    steady (l.foldl f s) = steady s := by
  induction l generalizing s with
  | nil => rfl
  | cons y l ih => exact ih.trans (hf s y)

theorem steady_ite {p : Prop} [Decidable p] {x y : State} (hx : steady x = steady s) (hy : steady y = steady s) :
    steady (if p then x else y) = steady s := by
  split
  · exact hx
  · exact hy

/-! ## The named updates -/

@[simp] theorem steady_modCore (f : Core → Core) : steady (s.modCore k f) = steady s := rfl
@[simp] theorem steady_modCtx (f : Ctx → Ctx) : steady (s.modCtx n f) = steady s := rfl
@[simp] theorem steady_setGroup : steady (s.setGroup key g) = steady s := rfl
@[simp] theorem steady_setGrid (gr : Grid) : steady (s.setGrid k gr) = steady s := rfl
@[simp] theorem steady_setPair (p : Pair) : steady (s.setPair k p) = steady s := rfl
@[simp] theorem steady_modBlock (f : DevBlock → DevBlock) : steady (s.modBlock f) = steady s := rfl

@[simp] theorem steady_modGroup (f : Group → Group) : steady (s.modGroup key f) = steady s := by
  unfold State.modGroup
  split <;> rfl

@[simp] theorem steady_modGrid (f : Grid → Grid) : steady (s.modGrid k f) = steady s := by
  unfold State.modGrid
  split <;> rfl

@[simp] theorem steady_modHart (f : Hart → Hart) : steady (s.modHart r f) = steady s := by
  unfold steady
  simp

@[simp] theorem steady_writeHome (own : Option (Nat × Nat)) (ws : List WByte) : steady (writeHome s own ws) = steady s := by
  unfold writeHome
  split <;> rfl

@[simp] theorem steady_touchPeer (own : Option (Nat × Nat)) (w : PeerBytes) : steady (touchPeer s own w) = steady s := rfl

/-! ## Records -/

@[simp] theorem steady_writeNat : steady (writeNat s a len v) = steady s := steady_writeHome _ _

@[simp] theorem steady_writePf_getD : steady ((writePf s a len v).getD s) = steady s := by
  unfold writePf
  split
  · exact steady_writeNat
  · rfl

@[simp] theorem steady_deviceLog (ctx : Option Nat) : steady (deviceLog s ctx n x) = steady s := by
  unfold deviceLog
  dsimp only
  split <;> simp

@[simp] theorem steady_logEvent : steady (logEvent s n x) = steady s := by
  unfold logEvent writePf
  dsimp only
  split
  · next h =>
    split at h
    · cases h
      simp
    · cases h
  · simp

@[simp] theorem steady_ringWrite (seq : BitVec 24) (bits : BitVec 256) : steady (ringWrite s seq bits) = steady s := by
  unfold ringWrite
  split
  · simp
  · rfl

/-- A report asserts FAULT_N at most from now on. -/
@[simp] theorem steady_report (r : Report) : steady (report s r) = steady s := by
  obtain ⟨h1, h2, h3, h4, h5, h6, h7⟩ := steady_iff.mp (steady_ringWrite (s := s) s.tovor.reportSeq (reportWord s r))
  rw [h6] at h7
  refine steady_iff.mpr ⟨h1, h2, h3, h4, h5, h6, ?_⟩
  refine Eq.trans ?_ h7
  unfold report
  cases r.faultn
  · exact congrArg (Option.getD _) h6
  · rfl

/-! ## Errors of memory -/

@[simp] theorem steady_correctedIn : steady (correctedIn s k) = steady s := by simp [correctedIn]

@[simp] theorem steady_countRow : steady (countRow s n) = steady s := by
  unfold countRow
  refine steady_ite rfl ?_
  dsimp only
  refine steady_ite ?_ rfl
  unfold remapRow
  dsimp only
  split
  · rfl
  · exact (steady_report _).trans (steady_deviceLog _)

@[simp] theorem steady_correctedShared : steady (correctedShared s a) = steady s :=
  steady_ite (steady_countRow.trans steady_correctedIn) steady_correctedIn

@[simp] theorem steady_countUeShared (ctx : Option Nat) : steady (countUeShared s ctx n c) = steady s := by simp [countUeShared]
@[simp] theorem steady_countUeCtx : steady (countUeCtx s n) = steady s := rfl
@[simp] theorem steady_poisonBlock : steady (poisonBlock s n) = steady s := rfl

@[simp] theorem steady_correctedCtx (g : Option Group) : steady (correctedCtx s n g) = steady s := by
  unfold correctedCtx
  cases g <;> simp

@[simp] theorem steady_meetShared (ctx : Option Nat) : steady (meetShared s ctx a).1 = steady s := by
  unfold meetShared
  split
  · exact steady_countUeShared ..
  · split
    · rfl
    · split
      · rfl
      · exact steady_correctedShared
      · exact (steady_countUeShared ..).trans steady_poisonBlock

@[simp] theorem steady_meetMemory : steady (meetMemory s n a).1 = steady s := by
  unfold meetMemory
  split
  · exact steady_meetShared _
  · split
    · exact steady_countUeCtx
    · split
      · rfl
      · refine (steady_correctedCtx _).trans ?_
        rfl
      · exact steady_countUeCtx.trans steady_poisonBlock

theorem steady_meetEach {meet : State → Nat → State × Option Cause} (hm : ∀ s a, steady (meet s a).1 = steady s) (l : List Nat) :
    steady (meetEach meet s l).1 = steady s := by
  induction l generalizing s with
  | nil => rfl
  | cons b l ih =>
    have hb := hm s b
    unfold meetEach
    split
    · next s' h =>
      rw [h] at hb
      exact ih.trans hb
    · exact hb

@[simp] theorem steady_meetSpan : steady (meetSpan s n a len).1 = steady s := steady_meetEach (fun _ _ => steady_meetMemory) _

theorem steady_meetAll (l : List Nat) : steady (meetAll n s l).1 = steady s := steady_meetEach (fun _ _ => steady_meetMemory) l

/-! ## Walks -/

@[simp] theorem steady_correctEntries {m : Nat} : steady (correctEntries n v m s) = steady s := by
  induction m generalizing s with
  | zero => rfl
  | succ m ih =>
    unfold correctEntries
    split
    · split
      · rfl
      · exact ih.trans steady_meetMemory
    · rfl

@[simp] theorem steady_walkCorrect : steady (walkCorrect s n v) = steady s := steady_ite rfl steady_correctEntries

@[simp] theorem steady_meetWalk : steady (meetWalk s n v) = steady s := by
  unfold meetWalk
  split
  · exact steady_meetMemory
  · rfl

@[simp] theorem steady_walked (need : Need) : steady (walked s n v need).1 = steady s := by
  unfold walked
  dsimp only
  split
  · simp
  · simp

theorem steady_walked_eq {need : Need} {y : Except Cause Loc} (h : walked s n v need = (u, y)) : steady u = steady s := by
  rw [← steady_walked (s := s) (n := n) (v := v) need, h]

theorem steady_meetSpan_eq {y : Option Cause} (h : meetSpan s n a len = (u, y)) : steady u = steady s := by
  rw [← steady_meetSpan (s := s) (n := n) (a := a) (len := len), h]

/-! ## Event words and links -/

@[simp] theorem steady_sendLink (op : OutOp) : steady (sendLink s op) = steady s := by
  unfold sendLink peerWritten
  dsimp only
  split <;> rfl

@[simp] theorem steady_signalFlat : steady (signalFlat s n a x) = steady s := by
  unfold signalFlat
  dsimp only
  exact steady_ite steady_logEvent steady_writeNat

@[simp] theorem steady_dropWrite : steady (dropWrite s n a) = steady s := steady_logEvent

@[simp] theorem steady_bumpEvent : steady (bumpEvent s n v) = steady s := by
  unfold bumpEvent
  split
  · rfl
  · split
    · next h =>
      have hw := steady_walked_eq h
      split
      · next h => exact steady_dropWrite.trans ((steady_meetSpan_eq h).trans hw)
      · next h => exact steady_signalFlat.trans ((steady_meetSpan_eq h).trans hw)
    · next h => exact (steady_sendLink _).trans (steady_walked_eq h)
    · next h => exact steady_dropWrite.trans (steady_walked_eq h)

/-! ## The end of groups -/

@[simp] theorem steady_settlePeers : steady (settlePeers s) = steady s := rfl

@[simp] theorem steady_countTrigger : steady (countTrigger s key) = steady s := by
  unfold countTrigger
  split
  · rfl
  · split
    · rfl
    · dsimp only
      split
      · rfl
      · split
        · exact steady_bumpEvent
        · rfl

@[simp] theorem steady_flushL1 : steady (flushL1 s core) = steady s := by simp [flushL1]

@[simp] theorem steady_writeDue (d : DueWord) : steady (writeDue s d) = steady s :=
  steady_writeNat.trans (steady_ite steady_flushL1 rfl)

@[simp] theorem steady_settleDue : steady (settleDue s) = steady s := by
  unfold settleDue
  exact steady_foldl (fun _ _ => steady_writeDue _) _

@[simp] theorem steady_cancelCpy (c : Cmd) : steady (cancelCpy s g c) = steady s := by
  unfold cancelCpy
  exact steady_settleDue

@[simp] theorem steady_abandonSlot (c : Cmd) : steady (abandonSlot s g c) = steady s := rfl
@[simp] theorem steady_releaseSlot (c : Cmd) : steady (releaseSlot s g c) = steady s := rfl
@[simp] theorem steady_removeCmd {id : Nat} : steady (removeCmd s core id) = steady s := rfl

@[simp] theorem steady_removeCmds (cs : List Cmd) : steady (removeCmds s core cs) = steady s := by
  induction cs generalizing s with
  | nil => rfl
  | cons c cs ih => exact ih.trans steady_removeCmd

@[simp] theorem steady_cancelCmds (cs : List Cmd) : steady (cancelCmds s g cs) = steady s := by
  induction cs generalizing s with
  | nil => rfl
  | cons c cs ih =>
    refine ih.trans ?_
    unfold cancelCmd
    dsimp only
    split
    · simp
    · split <;> rfl
    · rfl

@[simp] theorem steady_releaseClaim : steady (releaseClaim s key g) = steady s := by
  unfold releaseClaim
  split <;> rfl

@[simp] theorem steady_settleCtx : steady (settleCtx s n) = steady s := by
  unfold settleCtx
  split <;> rfl

@[simp] theorem steady_killOne {pc aux quad : Nat} {b : Bool} : steady (killOne s key c pc aux quad b) = steady s := by
  unfold killOne
  split
  · rfl
  · split
    · rfl
    · dsimp only
      refine steady_settleCtx.trans (steady_countTrigger.trans (steady_ite ?_ ?_))
      all_goals
        simp only [steady_deviceLog, steady_logEvent, steady_modCtx, steady_modGrid, steady_modGroup, steady_modCore]
        refine steady_ite ?_ (steady_releaseClaim.trans ?_)
        all_goals
          refine (steady_foldl (fun s c => ?_) _).trans (steady_cancelCmds _)
          exact steady_ite rfl rfl

@[simp] theorem steady_killGroup {pc aux quad : Nat} : steady (killGroup s key c pc aux quad) = steady s :=
  steady_foldl (fun _ _ => steady_ite steady_killOne steady_killOne) _

/-! ## Integrity -/

@[simp] theorem steady_logRetired : steady (logRetired s k) = steady s := by
  unfold logRetired
  split
  · rfl
  · exact steady_foldl (fun _ _ => steady_logEvent) _

@[simp] theorem steady_retireUnit (w : HwUnit) : steady (retireUnit s w) = steady s := by
  cases w with
  | none => rfl
  | pair j => exact steady_logRetired
  | quad q => exact steady_logRetired

@[simp] theorem steady_haltGroup : steady (haltGroup s key) = steady s := by simp [haltGroup]

@[simp] theorem steady_settleHalts : steady (settleHalts s) = steady s := steady_foldl (fun _ _ => steady_haltGroup) _

@[simp] theorem steady_beginHalt : steady (beginHalt n s key) = steady s := by
  unfold beginHalt
  split
  · rfl
  · split
    · rfl
    · refine steady_ite ?_ (steady_haltGroup.trans ?_)
      all_goals simp

@[simp] theorem steady_rollBack (keys : List Nat) : steady (rollBack s n keys) = steady s := by
  refine steady_foldl (fun s k => ?_) _
  split
  · exact steady_ite steady_beginHalt rfl
  · rfl

@[simp] theorem steady_countEvent (e : Event) : steady (countEvent s e g) = steady s :=
  steady_ite rfl (steady_ite (steady_deviceLog _) rfl)

@[simp] theorem steady_secondEvent (e : Event) (d : Detected) (halted : List Nat) : steady (secondEvent s e d x n k halted) = steady s := by
  unfold secondEvent
  dsimp only
  split <;> simp

@[simp] theorem steady_integrityEvent (e : Event) : steady (integrityEvent s e) = steady s := by
  unfold integrityEvent
  split
  · rfl
  · dsimp only
    split
    · simp
    · split <;> simp

@[simp] theorem steady_raiseOn : steady (raiseOn s r c) = steady s := by
  unfold raiseOn
  split
  · simp
  · rfl

/-! ## The second executions -/

@[simp] theorem steady_compareClone (d : Dup) : steady (compareClone s r d) = steady s :=
  steady_ite (by simp) (by simp)

@[simp] theorem steady_settleClones : steady (settleClones s) = steady s :=
  steady_foldl (fun _ _ => steady_ite (steady_compareClone _) rfl) _

@[simp] theorem steady_replayClone : steady (replayClone s r) = steady s := by
  unfold replayClone
  split
  · exact steady_ite (steady_compareClone _) rfl
  · rfl

@[simp] theorem steady_replayEntry (q : Replay) : steady (replayEntry s core q) = steady s := by
  unfold replayEntry
  refine (steady_foldl (fun _ _ => steady_replayClone) _).trans (steady_foldl (fun _ _ => ?_) _)
  rfl

@[simp] theorem steady_settleReplays {quad cycles fuel : Nat} : steady (settleReplays core quad cycles fuel s) = steady s := by
  induction fuel generalizing s with
  | zero => rfl
  | succ fuel ih =>
    unfold settleReplays
    split
    · rfl
    · exact steady_ite rfl (ih.trans (steady_replayEntry _))

@[simp] theorem steady_settleQueues (cycles : Nat → Nat) : steady (settleQueues s cycles) = steady s :=
  steady_foldl (fun _ _ => steady_ite rfl (steady_foldl (fun _ _ => steady_settleReplays) _)) _

@[simp] theorem steady_meetRecord : steady (meetRecord core s k) = steady s := by
  unfold meetRecord
  split
  · rfl
  · exact steady_ite rfl rfl

@[simp] theorem steady_meetRecords : steady (meetRecords s core) = steady s := by
  refine steady_foldl (fun s k => ?_) _
  split
  · exact steady_ite steady_meetRecord rfl
  · rfl

@[simp] theorem steady_settleRecords : steady (settleRecords s) = steady s := steady_foldl (fun _ _ => steady_meetRecords) _

@[simp] theorem steady_settleTimeout : steady (settleTimeout s k) = steady s := by
  unfold settleTimeout
  split
  · rfl
  · unfold pairEvent
    refine (steady_integrityEvent _).trans ?_
    exact steady_ite rfl rfl

@[simp] theorem steady_settleTimeouts : steady (settleTimeouts s) = steady s :=
  steady_foldl (fun _ _ => steady_ite rfl steady_settleTimeout) _

end Sys2Proof
end

section
/-!
THE MAILBOX (18 R383, R384; 16 R346; 15 R323; 20 R417): O47.
-/
namespace Sys2Proof
open Machine

variable {s : State} {m : MailArgs} {cmd used : Nat}

/-! ## Requests -/

/-- The state in which a request is taken. -/
def taken (s : State) (cmd : Nat) (m : MailArgs) : State := s.modTovor fun t => { t with request := requestBits cmd m }

/-- What an answer of Tovor leaves. -/
def answerOf (u : State) (m : MailArgs) : Answer → Host.Outcome State Fault Refusal
  | .ok data s => .next (respond s m.tag 0 data)
  | .deny n s => .next (respond (denyReport s n) m.tag 1 0)
  | .bad => .next (respond u m.tag 3 0)

/-- No argument bit beside these is set. -/
abbrev Clean (m : MailArgs) (used : Nat) : Prop := m.args &&& ~~~BitVec.ofNat 448 used = 0

theorem mail_pending (h : field s.tovor.response 0 8 = 0xFF) (act : State → Answer) : mail cmd used m s act = .next s :=
  if_pos (by simp [h])

section Open
variable (hr : s.tovor.released = true) (hp : field s.tovor.response 0 8 ≠ 0xFF)
include hr hp

theorem mail_clean (hc : Clean m used) (act : State → Answer) : mail cmd used m s act = answerOf (taken s cmd m) m (act (taken s cmd m)) := by
  have h0 : ¬ (!s.tovor.released || field s.tovor.response 0 8 == 0xFF) = true := by simp [hr, hp]
  refine (if_neg h0).trans ((if_neg (by simp [hc])).trans ?_)
  unfold taken
  cases act (s.modTovor fun t => { t with request := requestBits cmd m }) <;> rfl

theorem mail_unclean (hc : ¬ Clean m used) (act : State → Answer) : mail cmd used m s act = .next (respond (taken s cmd m) m.tag 3 0) := by
  have h0 : ¬ (!s.tovor.released || field s.tovor.response 0 8 == 0xFF) = true := by simp [hr, hp]
  exact (if_neg h0).trans (if_pos (by simpa using hc))

theorem badRequest_unknown {b : Byte} (h : usedBits b.toNat = none) :
    exec (.badRequest b m) s = .next (respond (taken s b.toNat m) m.tag 3 0) := by
  show execBadRequest b m s = _
  unfold execBadRequest
  rw [h]
  by_cases hc : Clean m (2 ^ 448 - 1)
  · exact mail_clean hr hp hc _
  · exact mail_unclean hr hp hc _

theorem badRequest_reserved {b : Byte} (hu : usedBits b.toNat = some used) (hc : ¬ Clean m used) :
    exec (.badRequest b m) s = .next (respond (taken s b.toNat m) m.tag 3 0) := by
  show execBadRequest b m s = _
  unfold execBadRequest
  rw [hu]
  exact (if_neg hc).trans (mail_unclean hr hp hc _)

end Open

/-! ## Pairs -/

section Pairs
variable {u : State} {p : Nat}

/-- What PAIR answers. -/
def pairAnswer (s : State) (j : Nat) : Answer :=
  match s.partOf (2 * j) with
  | some p =>
    if s.partOf (2 * j + 1) != some p || (s.pair j).formed || s.retiredPairs.contains j || pairBusy s j
        || s.tovor.stepTo.isSome then .deny none s
    else .ok 0 (enterFixed (s.setPair j { initPair with formed := true, forming := true }) p ([2 * j, 2 * j + 1].filter fun k => !s.isFixed k))
  | none => .deny none s

theorem execPair_eq : exec (.pair m) s = mail 0x01 0x7 m s fun s => pairAnswer s (mailArg m 0 3) := rfl

variable {j : Nat}

theorem pairAnswer_forms (h1 : u.partOf (2 * j) = some p) (h2 : u.partOf (2 * j + 1) = some p) (h3 : (u.pair j).formed = false)
    (h4 : j ∉ u.retiredPairs) (h5 : pairBusy u j = false) (h6 : u.tovor.stepTo = none) : pairAnswer u j
    = .ok 0 (enterFixed (u.setPair j { initPair with formed := true, forming := true }) p ([2 * j, 2 * j + 1].filter fun k => !u.isFixed k)) := by
  unfold pairAnswer
  rw [h1]
  exact if_neg (by simp [h2, h3, h4, h5, h6])

theorem pairAnswer_denies (h : u.partOf (2 * j) = none ∨ u.partOf (2 * j) ≠ u.partOf (2 * j + 1) ∨ (u.pair j).formed = true
    ∨ j ∈ u.retiredPairs ∨ pairBusy u j = true ∨ u.tovor.stepTo ≠ none) : pairAnswer u j = .deny none u := by
  unfold pairAnswer
  cases hp : u.partOf (2 * j) with
  | none => rfl
  | some p =>
    refine if_pos ?_
    rw [hp] at h
    simp only [Bool.or_eq_true, bne_iff_ne, List.contains_iff_mem, Option.isSome_iff_ne_none, or_assoc]
    exact (h.resolve_left (by simp)).imp_left Ne.symm

/-- What UNPAIR answers. -/
theorem execUnpair_eq : exec (.unpair m) s = mail 0x02 0x7 m s fun s =>
    if !(s.pair (mailArg m 0 3)).formed || pairBusy s (mailArg m 0 3) then .deny none s else .ok 0 (s.setPair (mailArg m 0 3) initPair) := rfl

end Pairs

/-! ## Slot sets -/

theorem steady_readPf (s : State) (a n : Nat) : steady (readPf s a n).1 = steady s := by
  unfold readPf
  split
  · rfl
  · exact steady_meetAll _

theorem steady_denyReport (s : State) (n : Option Nat) : steady (denyReport s n) = steady s := by
  unfold denyReport
  cases n with
  | none => exact (steady_report _).trans (steady_deviceLog _)
  | some n => exact (steady_report _).trans steady_logEvent

/-- What LOAD_SET answers before its set waits. -/
def loadAnswer (s : State) (m : MailArgs) : Answer :=
  match readPf s (mailArg m 0 64) 384 with
  | (s, none) => .deny none s
  | (s, some v) => if setOk s (setOf v) then .ok 0 (s.modTovor fun t => { t with waiting := some (setOf v, m.tag) }) else .deny none s

/-- A set that waits keeps the mailbox pending. -/
def pendingIf (s : State) (m : MailArgs) : Host.Outcome State Fault Refusal → Host.Outcome State Fault Refusal
  | .next s' => .next (if s'.tovor.waiting.isSome && s.tovor.waiting.isNone then respond s' m.tag 0xFF 0 else s')
  | o => o

theorem execLoadSet_eq : exec (.loadSet m) s = pendingIf s m (mail 0x03 (2 ^ 64 - 1) m s fun s => loadAnswer s m) := by
  show execLoadSet m s = _
  have h : execLoadSet m s = match mail 0x03 (2 ^ 64 - 1) m s fun s => loadAnswer s m with
      | .next s' => .next (if s'.tovor.waiting.isSome && s.tovor.waiting.isNone then respond s' m.tag 0xFF 0 else s')
      | o => o := rfl
  rw [h]
  cases mail 0x03 (2 ^ 64 - 1) m s fun s => loadAnswer s m <;> rfl

theorem pendingIf_next (s' : State) : pendingIf s m (.next s')
    = .next (if s'.tovor.waiting.isSome && s.tovor.waiting.isNone then respond s' m.tag 0xFF 0 else s') := rfl

/-- The request and the response written. The kernel compares states field by field, and would evaluate the bits of a response that is written out:
what a response leaves is said of any. -/
def setRequest (u : State) (w : BitVec 512) : State := u.modTovor fun t => { t with request := w }
def setResponse (u : State) (w : BitVec 512) : State := u.modTovor fun t => { t with response := w }

theorem respond_eq (u : State) (t : Word) (a b : Nat) : respond u t a b = setResponse u (BitVec.ofNat 512 (a + t.toNat * 2 ^ 32 + b * 2 ^ 64)) := rfl

theorem taken_eq (u : State) (c : Nat) : taken u c m = setRequest u (requestBits c m) := rfl

section Response
variable (u : State) (w : BitVec 512)

theorem steady_setRequest : steady (setRequest u w) = steady u := rfl
theorem setResponse_active : (setResponse u w).tovor.active = u.tovor.active := rfl
theorem setResponse_waiting : (setResponse u w).tovor.waiting = u.tovor.waiting := rfl
theorem setResponse_ports : (setResponse u w).tovor.ports = u.tovor.ports := rfl
theorem setResponse_mem : (setResponse u w).mem = u.mem := rfl
theorem setResponse_groups : (setResponse u w).groups = u.groups := rfl
theorem setResponse_response : (setResponse u w).tovor.response = w := rfl

variable (t : Word) (a b : Nat)

theorem steady_taken (c : Nat) : steady (taken u c m) = steady u := by rw [taken_eq, steady_setRequest]
theorem respond_active : (respond u t a b).tovor.active = u.tovor.active := by rw [respond_eq, setResponse_active]
theorem respond_waiting : (respond u t a b).tovor.waiting = u.tovor.waiting := by rw [respond_eq, setResponse_waiting]
theorem respond_ports : (respond u t a b).tovor.ports = u.tovor.ports := by rw [respond_eq, setResponse_ports]
theorem respond_mem : (respond u t a b).mem = u.mem := by rw [respond_eq, setResponse_mem]
theorem respond_groups : (respond u t a b).groups = u.groups := by rw [respond_eq, setResponse_groups]
theorem respond_response : (respond u t a b).tovor.response = BitVec.ofNat 512 (a + t.toNat * 2 ^ 32 + b * 2 ^ 64) := by
  rw [respond_eq, setResponse_response]

end Response

theorem answerOf_ok (u v : State) (d : Nat) : answerOf u m (.ok d v) = .next (respond v m.tag 0 d) := rfl
theorem answerOf_deny (u v : State) (n : Option Nat) : answerOf u m (.deny n v) = .next (respond (denyReport v n) m.tag 1 0) := rfl

/-- A status byte as it stands in the response. -/
theorem field_respond_status {tag : Word} {status : Nat} (h : status < 256) : field (respond s tag status 0).tovor.response 0 8 = status := by
  have ht := tag.isLt
  rw [respond_response, field, bitsOf, BitVec.toNat_ofNat, Nat.shiftRight_zero]
  omega

theorem field_respond_tag {tag : Word} {status : Nat} (h : status < 256) : field (respond s tag status 0).tovor.response 32 32 = tag.toNat := by
  have ht := tag.isLt
  rw [respond_response, field, bitsOf, BitVec.toNat_ofNat, Nat.shiftRight_eq_div_pow]
  omega

section Load
variable (hr : s.tovor.released = true) (hp : field s.tovor.response 0 8 ≠ 0xFF) (hc : Clean m (2 ^ 64 - 1)) (hw : s.tovor.waiting = none)
include hr hp hc hw

theorem loadSet_waits {v : State} {x : Nat} (hx : readPf (taken s 0x03 m) (mailArg m 0 64) 384 = (v, some x)) (ho : setOk v (setOf x) = true) :
    ∃ u, exec (.loadSet m) s = .next u ∧ u.tovor.waiting = some (setOf x, m.tag)
          ∧ field u.tovor.response 0 8 = 0xFF ∧ u.tovor.active = s.tovor.active := by
  have hv : steady v = steady s := by
    rw [← steady_taken (m := m) s 0x03, ← steady_readPf (taken s 0x03 m) (mailArg m 0 64) 384, hx]
  have ha : loadAnswer (taken s 0x03 m) m = .ok 0 (v.modTovor fun t => { t with waiting := some (setOf x, m.tag) }) := by
    unfold loadAnswer
    rw [hx]
    exact if_pos ho
  have hx' : exec (.loadSet m) s = .next (respond (respond (v.modTovor fun t => { t with waiting := some (setOf x, m.tag) }) m.tag 0 0) m.tag 0xFF 0) := by
    rw [execLoadSet_eq, mail_clean hr hp hc, ha, answerOf_ok, pendingIf_next, if_pos]
    rw [respond_waiting, hw]
    rfl
  refine ⟨_, hx', ?_, field_respond_status (by omega), ?_⟩
  · rw [respond_waiting, respond_waiting]
    rfl
  · rw [respond_active, respond_active]
    exact (steady_iff.mp hv).1

theorem loadSet_denies {v : State} {o : Option Nat} (hx : readPf (taken s 0x03 m) (mailArg m 0 64) 384 = (v, o))
    (ho : ∀ x, o = some x → setOk v (setOf x) = false) : exec (.loadSet m) s = .next (respond (denyReport v none) m.tag 1 0) := by
  have hv : steady v = steady s := by
    rw [← steady_taken (m := m) s 0x03, ← steady_readPf (taken s 0x03 m) (mailArg m 0 64) 384, hx]
  have ha : loadAnswer (taken s 0x03 m) m = .deny none v := by
    unfold loadAnswer
    rw [hx]
    cases o with
    | none => rfl
    | some x => exact if_neg (by simp [ho x rfl])
  have hn : (denyReport v none).tovor.waiting = none :=
    ((steady_iff.mp (steady_denyReport v none)).2.1.trans (steady_iff.mp hv).2.1).trans hw
  rw [execLoadSet_eq, mail_clean hr hp hc, ha, answerOf_deny, pendingIf_next, if_neg]
  rw [respond_waiting, hn]
  exact Bool.false_ne_true

end Load

theorem loadSet_pending (h : field s.tovor.response 0 8 = 0xFF) : exec (.loadSet m) s = .next s := by
  rw [execLoadSet_eq, mail_pending h, pendingIf_next, if_neg]
  cases s.tovor.waiting <;> simp

/-! ## The frame boundary -/

theorem ringOk_of_active {u : State} (h : u.tovor.active = s.tovor.active) (v : BitVec 64) : ringOk u v = ringOk s v := by
  unfold ringOk State.part
  rw [h]

theorem enabled_cleared (v : BitVec 64) : NetCtl.enabled (v &&& ~~~1) = false := by
  simp [NetCtl.enabled, flag]

/-- A port is disabled, or its ring lies in its partition. -/
def PortFits (s : State) (k : Nat) : Prop := ∀ p, s.tovor.ports[k]? = some p → NetCtl.enabled p.ctl = true → ringOk s p.ctl = true

/-- A port looked at as the sets change. -/
def settlePort (s : State) (k : Nat) : State :=
  match s.tovor.ports[k]? with
  | some p => if NetCtl.enabled p.ctl && !ringOk s p.ctl then denyPort s k p p.ctl else s
  | none => s

theorem settlePorts_eq (s : State) : settlePorts s = (List.range 4).foldl settlePort s := rfl

theorem denyPort_ports (k : Nat) (p : Port) (v : BitVec 64) : (denyPort s k p v).tovor.ports = s.tovor.ports.set k { p with ctl := v &&& ~~~1 } :=
  (steady_iff.mp (steady_deviceLog (s := s.setPort k { p with ctl := v &&& ~~~1 }) none)).2.2.1

theorem denyPort_active (k : Nat) (p : Port) (v : BitVec 64) : (denyPort s k p v).tovor.active = s.tovor.active :=
  (steady_iff.mp (steady_deviceLog (s := s.setPort k { p with ctl := v &&& ~~~1 }) none)).1

theorem denyPort_waiting (k : Nat) (p : Port) (v : BitVec 64) : (denyPort s k p v).tovor.waiting = s.tovor.waiting :=
  (steady_iff.mp (steady_deviceLog (s := s.setPort k { p with ctl := v &&& ~~~1 }) none)).2.1

theorem settlePort_sets (s : State) (k : Nat) : (settlePort s k).tovor.active = s.tovor.active ∧ (settlePort s k).tovor.waiting = s.tovor.waiting := by
  unfold settlePort
  split
  · split
    · exact ⟨denyPort_active .., denyPort_waiting ..⟩
    · exact ⟨rfl, rfl⟩
  · exact ⟨rfl, rfl⟩

theorem portFits_settlePort (s : State) (k : Nat) : PortFits (settlePort s k) k := by
  unfold settlePort
  cases hk : s.tovor.ports[k]? with
  | none =>
    intro p hp
    rw [hk] at hp
    cases hp
  | some q =>
    have hlt : k < s.tovor.ports.length := (List.getElem?_eq_some_iff.mp hk).1
    dsimp only
    split
    · intro p hp he
      rw [denyPort_ports, List.getElem?_set_self hlt] at hp
      cases hp
      rw [enabled_cleared] at he
      cases he
    · next h =>
      intro p hp he
      rw [hk] at hp
      cases hp
      simpa [he] using h

theorem PortFits.settlePort {j : Nat} (h : PortFits s j) (k : Nat) : PortFits (Sys2Proof.settlePort s k) j := by
  by_cases hjk : j = k
  · exact hjk ▸ portFits_settlePort s k
  · intro p hp he
    rw [ringOk_of_active (settlePort_sets s k).1]
    refine h p ?_ he
    unfold Sys2Proof.settlePort at hp
    split at hp
    · split at hp
      · rwa [denyPort_ports, List.getElem?_set_ne (Ne.symm hjk)] at hp
      · exact hp
    · exact hp

theorem portFits_foldl (ks : List Nat) : ∀ {s : State} {j : Nat}, (PortFits s j ∨ j ∈ ks) → PortFits (ks.foldl settlePort s) j := by
  induction ks with
  | nil => exact fun h => h.elim id fun h => absurd h List.not_mem_nil
  | cons k ks ih =>
    intro s j h
    refine ih (s := settlePort s k) ?_
    rcases h with h | h
    · exact .inl (h.settlePort k)
    · rcases List.mem_cons.mp h with h | h
      · exact .inl (h ▸ portFits_settlePort s k)
      · exact .inr h

theorem foldl_settlePort_sets (ks : List Nat) : ∀ s : State, (ks.foldl settlePort s).tovor.active = s.tovor.active
    ∧ (ks.foldl settlePort s).tovor.waiting = s.tovor.waiting := by
  induction ks with
  | nil => exact fun s => ⟨rfl, rfl⟩
  | cons k ks ih => exact fun s => ⟨(ih _).1.trans (settlePort_sets s k).1, (ih _).2.trans (settlePort_sets s k).2⟩

theorem settlePorts_sets (s : State) : (settlePorts s).tovor.active = s.tovor.active ∧ (settlePorts s).tovor.waiting = s.tovor.waiting := by
  rw [settlePorts_eq]
  exact foldl_settlePort_sets _ s

theorem portFits_settlePorts (s : State) {k : Nat} (hk : k < 4) : PortFits (settlePorts s) k := by
  rw [settlePorts_eq]
  exact portFits_foldl _ (.inr (List.mem_range.mpr hk))

theorem settlePort_of_fits {k : Nat} (h : ∀ p, s.tovor.ports[k]? = some p → NetCtl.enabled p.ctl = false ∨ ringOk s p.ctl = true) :
    settlePort s k = s := by
  unfold settlePort
  split
  · next p hp =>
    refine if_neg ?_
    rcases h p hp with h | h <;> simp [h]
  · rfl

theorem settlePorts_of_fits (h : ∀ (k : Nat) p, s.tovor.ports[k]? = some p → NetCtl.enabled p.ctl = false ∨ ringOk s p.ctl = true) :
    settlePorts s = s := by
  rw [settlePorts_eq]
  induction List.range 4 with
  | nil => rfl
  | cons k ks ih => rw [List.foldl_cons, settlePort_of_fits (h k), ih]

theorem slotSetSwitch_taken {ps : PartSet} {tag : Word} (hw : s.tovor.waiting = some (ps, tag)) :
      let v := s.modTovor fun t => { t with active := ps, waiting := none }
      ∃ u, exec .slotSetSwitch s = .next u ∧ u.tovor.active = ps ∧ u.tovor.waiting = none ∧ field u.tovor.response 0 8 = 0
        ∧ field u.tovor.response 32 32 = tag.toNat
        ∧ ((∀ (k : Nat) p, s.tovor.ports[k]? = some p → NetCtl.enabled p.ctl = false ∨ ringOk v p.ctl = true) →
            u.mem = s.mem ∧ u.groups = s.groups ∧ u.tovor.ports = s.tovor.ports)
        ∧ ∀ (k : Nat) p, k < 4 → u.tovor.ports[k]? = some p → NetCtl.enabled p.ctl = true → ringOk u p.ctl = true := by
  intro v
  have hx : exec .slotSetSwitch s = .next (respond (settlePorts v) tag 0 0) := by
    show execSlotSetSwitch s = _
    unfold execSlotSetSwitch
    rw [hw]
  obtain ⟨ha, hn⟩ := settlePorts_sets v
  refine ⟨_, hx, ?_, ?_, field_respond_status (by omega), field_respond_tag (by omega), fun h => ?_, fun k p hk hu he => ?_⟩
  · rw [respond_active, ha]
    rfl
  · rw [respond_waiting, hn]
    rfl
  · rw [settlePorts_of_fits (s := v) h, respond_mem, respond_groups, respond_ports]
    exact ⟨rfl, rfl, rfl⟩
  · rw [ringOk_of_active (s := settlePorts v) (respond_active ..)]
    rw [respond_ports] at hu
    exact portFits_settlePorts v hk p hu he

/-! ## Code objects -/

/-- What REGISTER_CODE answers. -/
def codeAnswer (s : State) (n va : Nat) : Answer :=
  if va % 256 != 0 || 2 ^ 48 ≤ va || (s.ctx n).state == .resetting then .deny (some n) s
  else match readRecord s n va with
    | (s, none) => .deny (some n) s
    | (s, some h) =>
      match if Hdr.totalLen h < 128 then (s, none) else readObject s n va (Hdr.totalLen h) with
      | (s, none) => .deny (some n) s
      | (s, some (as, bs)) =>
        if sha384 (unmeasured bs) != (bs.drop 80).take 48 then .deny (some n) s
        else .ok (Hdr.measure h) (s.modCtx n fun c => { c with code := (c.code.filter fun x => x.addr != va) ++
          [{ addr := va, len := Hdr.totalLen h, measure := BitVec.ofNat 384 (Hdr.measure h), stale := false
             lines := (as.map lineOf).eraseDups }] })

theorem execRegisterCode_eq : exec (.registerCode m) s = mail 0x04 ((2 ^ 10 - 1) + (2 ^ 64 - 1) * 2 ^ 64) m s fun s =>
    codeAnswer s (mailArg m 0 10) (mailArg m 64 64) := rfl

section Code
variable {u v z : State} {n va : Nat} {h : BitVec 1024} {as : List Nat} {bs : List Byte}

theorem codeAnswer_denies (h : va % 256 ≠ 0 ∨ 2 ^ 48 ≤ va ∨ (u.ctx n).state = .resetting) : codeAnswer u n va = .deny (some n) u := by
  refine if_pos ?_
  simp only [Bool.or_eq_true, bne_iff_ne, decide_eq_true_eq, beq_iff_eq, or_assoc]
  exact h

variable (h1 : va % 256 = 0) (h2 : va < 2 ^ 48) (h3 : (u.ctx n).state ≠ .resetting) (hr : readRecord u n va = (v, some h))
  (hl : 128 ≤ Hdr.totalLen h) (ho : readObject v n va (Hdr.totalLen h) = (z, some (as, bs)))
include h1 h2 h3 hr hl ho

theorem codeAnswer_read : codeAnswer u n va = if sha384 (unmeasured bs) != (bs.drop 80).take 48 then .deny (some n) z
        else .ok (Hdr.measure h) (z.modCtx n fun c => { c with code := (c.code.filter fun x => x.addr != va) ++
          [{ addr := va, len := Hdr.totalLen h, measure := BitVec.ofNat 384 (Hdr.measure h), stale := false
             lines := (as.map lineOf).eraseDups }] }) := by
  refine (if_neg ?_).trans ?_
  · simp only [Bool.or_eq_true, bne_iff_ne, decide_eq_true_eq, beq_iff_eq, not_or, not_not, not_le]
    exact ⟨⟨h1, h2⟩, h3⟩
  · rw [hr]
    dsimp only
    rw [if_neg (by omega), ho]

end Code

/-! ## Units retired -/

/-- Records leave what is retired as it is. -/
theorem retired_keptByRecords (ps qs : List Nat) : KeptByRecords fun s => s.retiredPairs = ps ∧ s.retiredQuads = qs where
  tovor _ h := h
  write own ws h := by
    unfold writeHome
    split
    · exact h
    · exact h
  peer _ _ h := h
  counters _ _ _ h := h

theorem retired_logRetired (s : State) (k : Nat) :
    (logRetired s k).retiredPairs = s.retiredPairs ∧ (logRetired s k).retiredQuads = s.retiredQuads := by
  unfold logRetired
  split
  · exact ⟨rfl, rfl⟩
  · next p _ =>
    have hf (l : List Nat) : ∀ u : State, u.retiredPairs = s.retiredPairs ∧ u.retiredQuads = s.retiredQuads →
        (l.foldl (fun s n => logEvent s n { kind := 2, cause := .pairRetired }) u).retiredPairs = s.retiredPairs
        ∧ (l.foldl (fun s n => logEvent s n { kind := 2, cause := .pairRetired }) u).retiredQuads = s.retiredQuads := by
      induction l with
      | nil => exact fun u h => h
      | cons n l ih => exact fun u h => ih _ ((retired_keptByRecords _ _).logEvent h)
    exact hf _ s ⟨rfl, rfl⟩

theorem retired_report (s : State) (r : Report) :
    (report s r).retiredPairs = s.retiredPairs ∧ (report s r).retiredQuads = s.retiredQuads :=
  (retired_keptByRecords _ _).report ⟨rfl, rfl⟩

end Sys2Proof
end

section
/-!
THE COMMANDS OF THE MAILBOX (18 R383, R384): O47.
-/
namespace Sys2Proof
open Machine

variable {s : State} {m : MailArgs} {w : BitVec 512} {j n cmd : Nat}

/-! ## What a request finds -/

section Request
theorem setRequest_partOf : (setRequest s w).partOf j = s.partOf j := rfl
theorem setRequest_pair : (setRequest s w).pair j = s.pair j := rfl
theorem setRequest_retiredPairs : (setRequest s w).retiredPairs = s.retiredPairs := rfl
theorem setRequest_retiredQuads : (setRequest s w).retiredQuads = s.retiredQuads := rfl
theorem setRequest_pairBusy : pairBusy (setRequest s w) j = pairBusy s j := rfl
theorem setRequest_stepTo : (setRequest s w).tovor.stepTo = s.tovor.stepTo := rfl
theorem setRequest_faultSeq : (setRequest s w).tovor.faultSeq = s.tovor.faultSeq := rfl
theorem setRequest_selfTests : (setRequest s w).tovor.selfTests = s.tovor.selfTests := rfl
theorem setRequest_pairs : (setRequest s w).pairs = s.pairs := rfl
theorem setRequest_ctx : (setRequest s w).ctx n = s.ctx n := rfl

@[simp] theorem taken_partOf : (taken s cmd m).partOf j = s.partOf j := by rw [taken_eq, setRequest_partOf]
@[simp] theorem taken_pair : (taken s cmd m).pair j = s.pair j := by rw [taken_eq, setRequest_pair]
@[simp] theorem taken_retiredPairs : (taken s cmd m).retiredPairs = s.retiredPairs := by rw [taken_eq, setRequest_retiredPairs]
@[simp] theorem taken_retiredQuads : (taken s cmd m).retiredQuads = s.retiredQuads := by rw [taken_eq, setRequest_retiredQuads]
@[simp] theorem taken_pairBusy : pairBusy (taken s cmd m) j = pairBusy s j := by rw [taken_eq, setRequest_pairBusy]
@[simp] theorem taken_stepTo : (taken s cmd m).tovor.stepTo = s.tovor.stepTo := by rw [taken_eq, setRequest_stepTo]
@[simp] theorem taken_faultSeq : (taken s cmd m).tovor.faultSeq = s.tovor.faultSeq := by rw [taken_eq, setRequest_faultSeq]
@[simp] theorem taken_selfTests : (taken s cmd m).tovor.selfTests = s.tovor.selfTests := by rw [taken_eq, setRequest_selfTests]
@[simp] theorem taken_pairs : (taken s cmd m).pairs = s.pairs := by rw [taken_eq, setRequest_pairs]
@[simp] theorem taken_ctx : (taken s cmd m).ctx n = s.ctx n := by rw [taken_eq, setRequest_ctx]
end Request

/-! ## The other commands -/

/-- What INJECT answers. -/
def injectAnswer (s : State) (m : MailArgs) (j : Nat) : Answer :=
  if mailArg m 3 2 = 3 || mailArg m 64 32 = 0 then .bad
  else if !(s.pair j).formed || (s.pair j).inj.isSome then .deny none s
  else .ok 0 (s.setPair j { s.pair j with
    inj := some { kind := mailArg m 3 2, mask := BitVec.ofNat 32 (mailArg m 32 32), count := mailArg m 64 32 } })

theorem execInject_eq : exec (.inject m) s = mail 0x05 (0x1F + (2 ^ 64 - 1) * 2 ^ 32) m s fun s => injectAnswer s m (mailArg m 0 3) := rfl

/-- What CLEAR_FAULT answers. -/
def clearAnswer (s : State) (seq : BitVec 24) : Answer :=
  if s.tovor.faultSeq = some seq then .ok 0 (settleFaultN (s.modTovor fun t => { t with faultClear := t.faultN.isSome })) else .deny none s

theorem execClearFault_eq : exec (.clearFault m) s = mail 0x06 (2 ^ 24 - 1) m s fun s => clearAnswer s (BitVec.ofNat 24 (mailArg m 0 24)) := rfl

/-- The report of a unit retired on request. -/
def retireReport (s : State) : HwUnit → Report
  | .pair j => { cause := .pairRetired, outcome := 5, cluster := 2 * j, pair := j, part := (s.partOf (2 * j)).getD 0 }
  | .quad q => { cause := .pairRetired, outcome := 5, cluster := q / 32, core := q / 4 % 8, quad := q % 4, pair := pairNo s (q / 32), part := (s.partOf (q / 32)).getD 0 }
  | .none => { cause := .pairRetired, outcome := 5 }

/-- What RETIRE answers. -/
def retireAnswer (s : State) : Option HwUnit → Answer
  | none => .bad
  | some u => .ok 0 (report (retireUnit s u) (retireReport s u))

theorem execRetire_eq : exec (.retire m) s = mail 0x07 (2 ^ 13 - 1) m s fun s => retireAnswer s (unitNamed (mailArg m 0 4) (mailArg m 4 9)) := by
  show execRetire m s = _
  unfold execRetire
  refine congrArg (mail _ _ m s) (funext fun s => ?_)
  rcases unitNamed (mailArg m 0 4) (mailArg m 4 9) with _ | (_ | j | q) <;> rfl

/-- A self-test more. -/
def tested (s : State) : State := s.modTovor fun t => { t with selfTests := t.selfTests + 1 }

/-- What RESTORE answers. -/
def restoreAnswer (s : State) (kind unit : Nat) : Option HwUnit → Answer
  | none => .bad
  | some u =>
    if !Config.selfTest kind unit s.tovor.selfTests then .deny none (tested s)
    else match u with
      | .pair j => .ok 0 { tested s with retiredPairs := s.retiredPairs.filter fun x => x != j }
      | .quad q => .ok 0 { tested s with retiredQuads := s.retiredQuads.filter fun x => x != q }
      | .none => .ok 0 (tested s)

theorem execRestore_eq : exec (.restore m) s
    = mail 0x08 (2 ^ 13 - 1) m s fun s => restoreAnswer s (mailArg m 0 4) (mailArg m 4 9) (unitNamed (mailArg m 0 4) (mailArg m 4 9)) := by
  show execRestore m s = _
  unfold execRestore
  refine congrArg (mail _ _ m s) (funext fun s => ?_)
  rcases unitNamed (mailArg m 0 4) (mailArg m 4 9) with _ | (_ | j | q) <;> rfl

/-- What CLOCK answers. -/
def clockAnswer (s : State) (on : Bool) : Answer :=
  if s.pairs.any fun p => p.2.forming then .deny none s else .ok 0 (askStep (s.modTovor fun t => { t with clockAsked := on }) on)

theorem execClock_eq : exec (.clock m) s = mail 0x09 1 m s fun s => clockAnswer s (mailArg m 0 1 == 1) := rfl

/-- What REPORT_RING answers. -/
def ringAnswer (s : State) (base n : Nat) : Answer :=
  if base % 4096 != 0 || n < 7 then .bad else .ok 0 (s.modTovor fun t => { t with ring := some (base, n) })

theorem execReportRing_eq : exec (.reportRing m) s = mail 0x0A (2 ^ 68 - 1) m s fun s => ringAnswer s (mailArg m 0 64) (mailArg m 64 4) := rfl

/-- What ATTEST answers. -/
def attestAnswer (s : State) (buf : Nat) (n : Option Nat) (bs : List Byte) : Answer :=
  if buf % 64 != 0 || dramBytes < buf + bs.length then .deny n s else .ok bs.length (writeHome s none (wholeBytes (dramBase + buf) bs))

theorem execAttest_eq : exec (.attest m) s = mail 0x0B (2 ^ 330 - 1) m s fun s =>
    attestAnswer s (mailArg m 256 64) (if mailArg m 320 10 = 1023 then none else some (mailArg m 320 10))
      (attestBytes s (mailArg m 0 256) (if mailArg m 320 10 = 1023 then none else some (mailArg m 320 10))) := rfl

/-! ## Answers -/

section Answers
variable (hr : s.tovor.released = true) (hp : field s.tovor.response 0 8 ≠ 0xFF)
include hr hp

theorem exec_ok {used d : Nat} {i : Instr} {act : State → Answer} (hi : exec i s = mail cmd used m s act) (hc : Clean m used) {u : State}
    (ha : act (taken s cmd m) = .ok d u) : exec i s = .next (respond u m.tag 0 d) := by
  rw [hi, mail_clean hr hp hc, ha, answerOf_ok]

theorem exec_denied {used : Nat} {i : Instr} {act : State → Answer} (hi : exec i s = mail cmd used m s act) (hc : Clean m used)
    {u : State} {n : Option Nat} (ha : act (taken s cmd m) = .deny n u) : exec i s = .next (respond (denyReport u n) m.tag 1 0) := by
  rw [hi, mail_clean hr hp hc, ha, answerOf_deny]

theorem exec_bad {used : Nat} {i : Instr} {act : State → Answer} (hi : exec i s = mail cmd used m s act) (hc : Clean m used)
    (ha : act (taken s cmd m) = .bad) : exec i s = .next (respond (taken s cmd m) m.tag 3 0) := by
  rw [hi, mail_clean hr hp hc, ha]
  rfl

end Answers

/-- A pending mailbox takes no request. -/
theorem mailbox_pending (h : field s.tovor.response 0 8 = 0xFF) {b : Byte} {i : Instr}
    (hi : i ∈ [Instr.pair m, .unpair m, .registerCode m, .inject m, .clearFault m, .retire m, .restore m, .clock m, .reportRing m,
        .attest m, .loadSet m, .badRequest b m]) : exec i s = .next s := by
  simp only [List.mem_cons, List.not_mem_nil, or_false] at hi
  rcases hi with rfl | rfl | rfl | rfl | rfl | rfl | rfl | rfl | rfl | rfl | rfl | rfl
  · exact execPair_eq.trans (mail_pending h _)
  · exact execUnpair_eq.trans (mail_pending h _)
  · exact execRegisterCode_eq.trans (mail_pending h _)
  · exact execInject_eq.trans (mail_pending h _)
  · exact execClearFault_eq.trans (mail_pending h _)
  · exact execRetire_eq.trans (mail_pending h _)
  · exact execRestore_eq.trans (mail_pending h _)
  · exact execClock_eq.trans (mail_pending h _)
  · exact execReportRing_eq.trans (mail_pending h _)
  · exact execAttest_eq.trans (mail_pending h _)
  · exact loadSet_pending h
  · show execBadRequest b m s = _
    unfold execBadRequest
    cases usedBits b.toNat with
    | none => exact mail_pending h _
    | some u =>
      dsimp only
      split
      · rfl
      · exact mail_pending h _

theorem unitNamed_none {k u : Nat} (h : 1 < k ∨ (k = 0 ∧ 8 ≤ u)) : unitNamed k u = none := by
  rcases h with h | ⟨rfl, h⟩
  · obtain ⟨k, rfl⟩ : ∃ j, k = j + 2 := ⟨k - 2, by omega⟩
    rfl
  · exact if_neg (by omega)

theorem unitNamed_pair {u : Nat} (h : u < 8) : unitNamed 0 u = some (.pair u) := if_pos h

/-- What RETIRE leaves of the units. -/
theorem retireAnswer_pair {u : State} : ∃ v, retireAnswer u (some (.pair j)) = .ok 0 v ∧ j ∈ v.retiredPairs ∧ v.retiredQuads = u.retiredQuads := by
  obtain ⟨h1, h2⟩ := retired_report (retireUnit u (.pair j)) (retireReport u (.pair j))
  obtain ⟨h3, h4⟩ := retired_logRetired { u with retiredPairs := (j :: u.retiredPairs).eraseDups } (2 * j)
  refine ⟨_, rfl, ?_, h2.trans h4⟩
  rw [h1]
  exact (congrArg (j ∈ ·) h3).mpr (List.mem_eraseDups.mpr List.mem_cons_self)

theorem retireAnswer_quad {u : State} : ∃ v, retireAnswer u (some (.quad j)) = .ok 0 v ∧ j ∈ v.retiredQuads ∧ v.retiredPairs = u.retiredPairs := by
  obtain ⟨h1, h2⟩ := retired_report (retireUnit u (.quad j)) (retireReport u (.quad j))
  obtain ⟨h3, h4⟩ := retired_logRetired { u with retiredQuads := (j :: u.retiredQuads).eraseDups } (j / 32)
  refine ⟨_, rfl, ?_, h1.trans h3⟩
  rw [h2]
  exact (congrArg (j ∈ ·) h4).mpr (List.mem_eraseDups.mpr List.mem_cons_self)

theorem setResponse_retiredPairs : (setResponse s w).retiredPairs = s.retiredPairs := rfl
theorem setResponse_retiredQuads : (setResponse s w).retiredQuads = s.retiredQuads := rfl
theorem setResponse_ctx : (setResponse s w).ctx n = s.ctx n := rfl

theorem respond_retiredPairs (t : Word) (a b : Nat) : (respond s t a b).retiredPairs = s.retiredPairs := by
  rw [respond_eq, setResponse_retiredPairs]

theorem respond_retiredQuads (t : Word) (a b : Nat) : (respond s t a b).retiredQuads = s.retiredQuads := by
  rw [respond_eq, setResponse_retiredQuads]

theorem respond_ctx (t : Word) (a b : Nat) : (respond s t a b).ctx n = s.ctx n := by
  rw [respond_eq, setResponse_ctx]

/-! ## The clauses -/

/-- What is answered OK, DENY and BAD_REQUEST. -/
abbrev okAs (s : State) (m : MailArgs) (cmd data : Nat) (u : State → State) : Host.Outcome State Fault Refusal :=
  .next (respond (u (taken s cmd m)) m.tag 0 data)
abbrev deniedAs (s : State) (m : MailArgs) (cmd : Nat) (n : Option Nat) : Host.Outcome State Fault Refusal :=
  .next (respond (denyReport (taken s cmd m) n) m.tag 1 0)
abbrev badAs (s : State) (m : MailArgs) (cmd : Nat) : Host.Outcome State Fault Refusal := .next (respond (taken s cmd m) m.tag 3 0)

section Clauses
variable (hr : s.tovor.released = true) (hp : field s.tovor.response 0 8 ≠ 0xFF)
include hr hp

theorem pair_forms (hc : Clean m 0x7) {p : Nat} (h1 : s.partOf (2 * mailArg m 0 3) = some p) (h2 : s.partOf (2 * mailArg m 0 3 + 1) = some p)
    (h3 : (s.pair (mailArg m 0 3)).formed = false) (h4 : mailArg m 0 3 ∉ s.retiredPairs) (h5 : pairBusy s (mailArg m 0 3) = false)
    (h6 : s.tovor.stepTo = none) : exec (.pair m) s = okAs s m 0x01 0 fun u =>
      enterFixed (u.setPair (mailArg m 0 3) { initPair with formed := true, forming := true }) p
        ([2 * mailArg m 0 3, 2 * mailArg m 0 3 + 1].filter fun k => !u.isFixed k) :=
  exec_ok hr hp execPair_eq hc (pairAnswer_forms (by simpa using h1) (by simpa using h2)
    (by simpa using h3) (by simpa using h4) (by simpa using h5) (by simpa using h6))

theorem pair_denied (hc : Clean m 0x7) (h : s.partOf (2 * mailArg m 0 3) = none ∨ s.partOf (2 * mailArg m 0 3) ≠ s.partOf (2 * mailArg m 0 3 + 1)
    ∨ (s.pair (mailArg m 0 3)).formed = true ∨ mailArg m 0 3 ∈ s.retiredPairs ∨ pairBusy s (mailArg m 0 3) = true ∨ s.tovor.stepTo ≠ none) :
    exec (.pair m) s = deniedAs s m 0x01 none := exec_denied hr hp execPair_eq hc (pairAnswer_denies (by simpa using h))

theorem unpair_ok (hc : Clean m 0x7) (h1 : (s.pair (mailArg m 0 3)).formed = true) (h2 : pairBusy s (mailArg m 0 3) = false) :
    exec (.unpair m) s = okAs s m 0x02 0 fun u => u.setPair (mailArg m 0 3) initPair :=
  exec_ok hr hp execUnpair_eq hc (if_neg (by simp [h1, h2]))

theorem unpair_denied (hc : Clean m 0x7) (h : (s.pair (mailArg m 0 3)).formed = false ∨ pairBusy s (mailArg m 0 3) = true) :
    exec (.unpair m) s = deniedAs s m 0x02 none := exec_denied hr hp execUnpair_eq hc (if_pos (by simpa using h))

theorem registerCode_denied (hc : Clean m ((2 ^ 10 - 1) + (2 ^ 64 - 1) * 2 ^ 64))
    (h : mailArg m 64 64 % 256 ≠ 0 ∨ 2 ^ 48 ≤ mailArg m 64 64 ∨ (s.ctx (mailArg m 0 10)).state = .resetting) :
    exec (.registerCode m) s = deniedAs s m 0x04 (some (mailArg m 0 10)) := by
  refine exec_denied hr hp execRegisterCode_eq hc (codeAnswer_denies ?_)
  rwa [taken_ctx]

section Object
variable (hc : Clean m ((2 ^ 10 - 1) + (2 ^ 64 - 1) * 2 ^ 64)) {v z : State} {h : BitVec 1024} {as : List Nat} {bs : List Byte}
  (h1 : mailArg m 64 64 % 256 = 0) (h2 : mailArg m 64 64 < 2 ^ 48) (h3 : (s.ctx (mailArg m 0 10)).state ≠ .resetting)
  (hrd : readRecord (taken s 0x04 m) (mailArg m 0 10) (mailArg m 64 64) = (v, some h)) (hl : 128 ≤ Hdr.totalLen h)
  (ho : readObject v (mailArg m 0 10) (mailArg m 64 64) (Hdr.totalLen h) = (z, some (as, bs)))
include hc h1 h2 h3 hrd hl ho

theorem registerCode_unmeasured (hm : sha384 (unmeasured bs) ≠ (bs.drop 80).take 48) :
    exec (.registerCode m) s = .next (respond (denyReport z (some (mailArg m 0 10))) m.tag 1 0) := by
  refine exec_denied hr hp execRegisterCode_eq hc ((codeAnswer_read h1 h2 ?_ hrd hl ho).trans (if_pos (bne_iff_ne.mpr hm)))
  rwa [taken_ctx]

theorem registerCode_measured (hm : sha384 (unmeasured bs) = (bs.drop 80).take 48) :
    ∃ u x, exec (.registerCode m) s = .next u ∧ (u.ctx (mailArg m 0 10)).code
        = ((z.ctx (mailArg m 0 10)).code.filter fun x => x.addr != mailArg m 64 64) ++ [x]
      ∧ x.addr = mailArg m 64 64 ∧ x.len = Hdr.totalLen h ∧ x.stale = false ∧ x.measure = BitVec.ofNat 384 (Hdr.measure h) := by
  have ha := (codeAnswer_read h1 h2 (by rwa [taken_ctx]) hrd hl ho).trans (if_neg (by simp [hm]))
  refine ⟨_, { addr := mailArg m 64 64, len := Hdr.totalLen h, measure := BitVec.ofNat 384 (Hdr.measure h), stale := false
               lines := (as.map lineOf).eraseDups }, exec_ok hr hp execRegisterCode_eq hc ha, ?_, rfl, rfl, rfl, rfl⟩
  rw [respond_ctx, State.modCtx, State.ctx_setCtx]

end Object

section Inject
variable (hc : Clean m (0x1F + (2 ^ 64 - 1) * 2 ^ 32))
include hc

theorem inject_ok (h1 : mailArg m 3 2 ≠ 3) (h2 : mailArg m 64 32 ≠ 0) (h3 : (s.pair (mailArg m 0 3)).formed = true)
    (h4 : (s.pair (mailArg m 0 3)).inj = none) : exec (.inject m) s = okAs s m 0x05 0 fun u => u.setPair (mailArg m 0 3)
      { u.pair (mailArg m 0 3) with
        inj := some { kind := mailArg m 3 2, mask := BitVec.ofNat 32 (mailArg m 32 32), count := mailArg m 64 32 } } :=
  exec_ok hr hp execInject_eq hc ((if_neg (by simp [h1, h2])).trans (if_neg (by simp [h3, h4])))

theorem inject_bad (h : mailArg m 3 2 = 3 ∨ mailArg m 64 32 = 0) : exec (.inject m) s = badAs s m 0x05 :=
  exec_bad hr hp execInject_eq hc (if_pos (by simpa using h))

theorem inject_denied (h1 : mailArg m 3 2 ≠ 3) (h2 : mailArg m 64 32 ≠ 0)
    (h : (s.pair (mailArg m 0 3)).formed = false ∨ (s.pair (mailArg m 0 3)).inj ≠ none) : exec (.inject m) s = deniedAs s m 0x05 none :=
  exec_denied hr hp execInject_eq hc ((if_neg (by simp [h1, h2])).trans (if_pos (by simpa [Option.isSome_iff_ne_none] using h)))

end Inject

theorem clearFault_ok (hc : Clean m (2 ^ 24 - 1)) (h : s.tovor.faultSeq = some (BitVec.ofNat 24 (mailArg m 0 24))) : exec (.clearFault m) s
    = okAs s m 0x06 0 fun u => settleFaultN (u.modTovor fun t => { t with faultClear := t.faultN.isSome }) := by
  refine exec_ok hr hp execClearFault_eq hc (if_pos ?_)
  rwa [taken_faultSeq]

theorem clearFault_denied (hc : Clean m (2 ^ 24 - 1)) (h : s.tovor.faultSeq ≠ some (BitVec.ofNat 24 (mailArg m 0 24))) :
    exec (.clearFault m) s = deniedAs s m 0x06 none := by
  refine exec_denied hr hp execClearFault_eq hc (if_neg ?_)
  rwa [taken_faultSeq]

section Retire
variable (hc : Clean m (2 ^ 13 - 1))
include hc

theorem retire_pair (h0 : mailArg m 0 4 = 0) (hu : mailArg m 4 9 < 8) : ∃ u, exec (.retire m) s = .next u ∧ mailArg m 4 9 ∈ u.retiredPairs
    ∧ u.retiredQuads = s.retiredQuads := by
  obtain ⟨v, hv, h1, h2⟩ := retireAnswer_pair (u := taken s 0x07 m) (j := mailArg m 4 9)
  have hn : unitNamed (mailArg m 0 4) (mailArg m 4 9) = some (.pair (mailArg m 4 9)) := by rw [h0, unitNamed_pair hu]
  refine ⟨_, exec_ok hr hp execRetire_eq hc ((congrArg _ hn).trans hv), ?_, ?_⟩
  · rw [respond_retiredPairs]
    exact h1
  · rw [respond_retiredQuads, h2, taken_retiredQuads]

theorem retire_quad (h0 : mailArg m 0 4 = 1) : ∃ u, exec (.retire m) s = .next u ∧ mailArg m 4 9 ∈ u.retiredQuads
    ∧ u.retiredPairs = s.retiredPairs := by
  obtain ⟨v, hv, h1, h2⟩ := retireAnswer_quad (u := taken s 0x07 m) (j := mailArg m 4 9)
  have hn : unitNamed (mailArg m 0 4) (mailArg m 4 9) = some (.quad (mailArg m 4 9)) := by
    rw [h0]
    rfl
  refine ⟨_, exec_ok hr hp execRetire_eq hc ((congrArg _ hn).trans hv), ?_, ?_⟩
  · rw [respond_retiredQuads]
    exact h1
  · rw [respond_retiredPairs, h2, taken_retiredPairs]

theorem retire_bad (h : 1 < mailArg m 0 4 ∨ (mailArg m 0 4 = 0 ∧ 8 ≤ mailArg m 4 9)) :
    exec (.retire m) s = badAs s m 0x07 ∧ exec (.restore m) s = badAs s m 0x08 :=
  ⟨exec_bad hr hp execRetire_eq hc (congrArg _ (unitNamed_none h)), exec_bad hr hp execRestore_eq hc (congrArg _ (unitNamed_none h))⟩

/-- A unit restored, or not, by its self-test. -/
theorem restore_tested (h : (mailArg m 0 4 = 0 ∧ mailArg m 4 9 < 8) ∨ mailArg m 0 4 = 1) : exec (.restore m) s
    = (if Config.selfTest (mailArg m 0 4) (mailArg m 4 9) s.tovor.selfTests then okAs s m 0x08 0 fun u =>
          if mailArg m 0 4 = 0 then { tested u with retiredPairs := u.retiredPairs.filter fun x => x != mailArg m 4 9 }
          else { tested u with retiredQuads := u.retiredQuads.filter fun x => x != mailArg m 4 9 }
        else .next (respond (denyReport (tested (taken s 0x08 m)) none) m.tag 1 0)) := by
  have hu : ∃ w, unitNamed (mailArg m 0 4) (mailArg m 4 9) = some w ∧ ∀ u : State, Config.selfTest (mailArg m 0 4) (mailArg m 4 9) u.tovor.selfTests = true →
      restoreAnswer u (mailArg m 0 4) (mailArg m 4 9) (some w) = .ok 0
        (if mailArg m 0 4 = 0 then { tested u with retiredPairs := u.retiredPairs.filter fun x => x != mailArg m 4 9 }
          else { tested u with retiredQuads := u.retiredQuads.filter fun x => x != mailArg m 4 9 }) := by
    rcases h with ⟨h0, hb⟩ | h0
    · rw [h0]
      exact ⟨_, unitNamed_pair hb, fun u ht => if_neg (by simp [ht])⟩
    · rw [h0]
      exact ⟨_, rfl, fun u ht => if_neg (by simp [ht])⟩
  obtain ⟨w, hw, hok⟩ := hu
  have ht : (taken s 0x08 m).tovor.selfTests = s.tovor.selfTests := taken_selfTests
  by_cases hs : Config.selfTest (mailArg m 0 4) (mailArg m 4 9) s.tovor.selfTests = true
  · rw [if_pos hs]
    exact exec_ok hr hp execRestore_eq hc ((congrArg _ hw).trans (hok _ (by rwa [ht])))
  · rw [if_neg hs]
    refine exec_denied hr hp execRestore_eq hc ((congrArg _ hw).trans (if_pos ?_))
    rw [ht, Bool.not_eq_true']
    exact Bool.not_eq_true _ ▸ hs

end Retire

theorem clock_ok (hc : Clean m 1) (h : ∀ p, p ∈ s.pairs → p.2.forming = false) : exec (.clock m) s
    = okAs s m 0x09 0 fun u => askStep (u.modTovor fun t => { t with clockAsked := mailArg m 0 1 == 1 }) (mailArg m 0 1 == 1) :=
  exec_ok hr hp execClock_eq hc (if_neg (by simpa using h))

theorem clock_denied (hc : Clean m 1) (h : ∃ p, p ∈ s.pairs ∧ p.2.forming = true) : exec (.clock m) s = deniedAs s m 0x09 none :=
  exec_denied hr hp execClock_eq hc (if_pos (by simpa using h))

theorem reportRing_ok (hc : Clean m (2 ^ 68 - 1)) (h1 : mailArg m 0 64 % 4096 = 0) (h2 : 7 ≤ mailArg m 64 4) : exec (.reportRing m) s
    = okAs s m 0x0A 0 fun u => u.modTovor fun t => { t with ring := some (mailArg m 0 64, mailArg m 64 4) } :=
  exec_ok hr hp execReportRing_eq hc (if_neg (by simpa using ⟨h1, h2⟩))

theorem reportRing_bad (hc : Clean m (2 ^ 68 - 1)) (h : mailArg m 0 64 % 4096 ≠ 0 ∨ mailArg m 64 4 < 7) :
    exec (.reportRing m) s = badAs s m 0x0A := exec_bad hr hp execReportRing_eq hc (if_pos (by simpa using h))

theorem attest_ok (hc : Clean m (2 ^ 330 - 1)) {bs : List Byte}
    (hb : attestBytes (taken s 0x0B m) (mailArg m 0 256) (if mailArg m 320 10 = 1023 then none else some (mailArg m 320 10)) = bs)
    (h1 : mailArg m 256 64 % 64 = 0) (h2 : mailArg m 256 64 + bs.length ≤ dramBytes) :
    exec (.attest m) s = okAs s m 0x0B bs.length fun u => writeHome u none (wholeBytes (dramBase + mailArg m 256 64) bs) := by
  subst hb
  refine exec_ok hr hp execAttest_eq hc (if_neg ?_)
  rw [Bool.or_eq_true, bne_iff_ne, decide_eq_true_eq]
  exact fun h => h.elim (fun h => h h1) (fun h => absurd h2 (Nat.not_le.mpr h))

end Clauses

/-- Settles O47. -/
theorem mailboxCommands : Obligations.MailboxCommands := by
  unfold Obligations.MailboxCommands
  refine ⟨?_, fun s m b h i => mailbox_pending h, fun s ps tag => slotSetSwitch_taken, ?_⟩
  · intro s m hr hp arg taken' ok denied bad clean j
    refine ⟨?_, ?_, ?_, ?_, ?_, ?_, ?_, ?_, ?_, ?_, ?_, ?_, ?_, ?_, ?_, ?_, ?_, ?_, ?_, ?_, ?_, ?_, ?_, ?_⟩
    · exact fun hc p => pair_forms hr hp hc
    · exact fun hc => pair_denied hr hp hc
    · exact fun hc => unpair_ok hr hp hc
    · exact fun hc => unpair_denied hr hp hc
    · exact fun hc v x hx ho hw => loadSet_waits hr hp hc hw hx ho
    · exact fun hc hw v o hx ho => loadSet_denies hr hp hc hw hx ho
    · exact fun hc => registerCode_denied hr hp hc
    · exact fun hc v h as bs h1 h2 h3 hrd hl z ho =>
        ⟨registerCode_unmeasured hr hp hc h1 h2 h3 hrd hl ho, registerCode_measured hr hp hc h1 h2 h3 hrd hl ho⟩
    · exact fun hc => inject_ok hr hp hc
    · exact fun hc => inject_bad hr hp hc
    · exact fun hc => inject_denied hr hp hc
    · exact fun hc => clearFault_ok hr hp hc
    · exact fun hc => clearFault_denied hr hp hc
    · exact fun hc => retire_pair hr hp hc
    · exact fun hc => retire_quad hr hp hc
    · exact fun hc => retire_bad hr hp hc
    · exact fun hc => restore_tested hr hp hc
    · exact fun hc => clock_ok hr hp hc
    · exact fun hc => clock_denied hr hp hc
    · exact fun hc => reportRing_ok hr hp hc
    · exact fun hc => reportRing_bad hr hp hc
    · exact fun hc bs => attest_ok hr hp hc
    · exact fun b h => badRequest_unknown hr hp h
    · exact fun cmd u hu hc b hb => hb ▸ badRequest_reserved hr hp (hb ▸ hu) hc
  · intro s h
    show execSlotSetSwitch s = _
    unfold execSlotSetSwitch
    rw [h]

end Sys2Proof
end

section
/-!
CLOCKS AND POWER (18 R386, R388 to R390; 02 R48; 00 R4): O50.
-/
namespace Sys2Proof
open Machine

variable {s : State} {k p : Nat}

/-! ## Cluster modes -/

/-- A cluster whose mode may change. -/
theorem clusterModeChange_taken {fixed : Bool} (hr : s.tovor.released = true) (hk : k < 16) (hf : s.isFixed k = !fixed)
    (he : ∀ p, p ∈ s.groups → p.2.cluster = k → s.occupies p.2 = false) (hp : (s.pair (k / 2)).formed = false ∨ fixed = true) :
    exec (.clusterModeChange k fixed) s = .next (match s.partOf k with
      | some p => if fixed then enterFixed s p [k] else { s with fixed := mapPut s.fixed k fixed }
      | none => { s with fixed := mapPut s.fixed k fixed }) := by
  have hany : (s.groups.any fun p => p.2.cluster == k && s.occupies p.2) = false := by
    refine List.any_eq_false.mpr fun q hq => ?_
    by_cases hc : q.2.cluster = k
    · simp [he q hq hc]
    · simp [hc]
  have h0 : ¬ (!s.tovor.released || decide (16 ≤ k) || s.isFixed k == fixed || (s.groups.any fun p => p.2.cluster == k && s.occupies p.2)
      || ((s.pair (k / 2)).formed && !fixed)) = true := by
    rw [hany, hf, hr]
    have hlt : ¬ 16 ≤ k := by omega
    rcases hp with h | rfl
    · cases fixed <;> simp [h, hlt]
    · simp [hlt]
  refine (if_neg h0).trans ?_
  cases fixed <;> cases s.partOf k <;> rfl

theorem clusterModeChange_occupied {fixed : Bool} {q : Nat × Group} (hq : q ∈ s.groups) (hc : q.2.cluster = k) (ho : s.occupies q.2 = true) :
    exec (.clusterModeChange k fixed) s = .next s := by
  refine if_pos ?_
  have hany : (s.groups.any fun p => p.2.cluster == k && s.occupies p.2) = true := List.any_eq_true.mpr ⟨q, hq, by simp [hc, ho]⟩
  rw [hany]
  simp

theorem isFixed_foldl (ks : List Nat) {m : Map Bool} (h : k ∈ ks ∨ mapGet false m k = true) :
    mapGet false (ks.foldl (fun m k => mapPut m k true) m) k = true := by
  induction ks generalizing m with
  | nil => exact h.resolve_left List.not_mem_nil
  | cons j ks ih =>
    refine ih ?_
    by_cases hj : k = j
    · exact .inr (by simp [hj, mapGet])
    · rcases h with h | h
      · exact .inl ((List.mem_cons.mp h).resolve_left hj)
      · exact .inr (by simpa [mapGet, mapFind_put_other _ _ hj] using h)

theorem mapGet_foldl_put {top : Nat} (ks : List Nat) {m : Map Nat} (h : k ∈ ks ∨ mapGet 0 m k = top) :
    mapGet 0 (ks.foldl (fun m k => mapPut m k top) m) k = top := by
  induction ks generalizing m with
  | nil => exact h.resolve_left List.not_mem_nil
  | cons j ks ih =>
    refine ih ?_
    by_cases hj : k = j
    · exact .inr (by simp [hj, mapGet])
    · rcases h with h | h
      · exact .inl ((List.mem_cons.mp h).resolve_left hj)
      · exact .inr (by simpa [mapGet, mapFind_put_other _ _ hj] using h)

theorem le_foldl_max (l : List Nat) {b n : Nat} (h : n ∈ l ∨ n ≤ b) : n ≤ l.foldl max b := by
  induction l generalizing b with
  | nil => exact h.resolve_left List.not_mem_nil
  | cons x l ih =>
    refine ih ?_
    rcases h with h | h
    · rcases List.mem_cons.mp h with rfl | h
      · exact .inr (Nat.le_max_right ..)
      · exact .inl h
    · exact .inr (h.trans (Nat.le_max_left ..))

theorem isFixed_enterFixed (ks : List Nat) (h : k ∈ ks) : (enterFixed s p ks).isFixed k = true := isFixed_foldl ks (.inl h)

/-- The fixed clusters of the partition stand at the highest of their counts. -/
theorem clusterCycles_enterFixed (ks : List Nat) (hk : k ∈ s.partClusters p) (hf : (enterFixed s p ks).isFixed k = true) :
    (enterFixed s p ks).clusterCycles k = (((s.partClusters p).filter (enterFixed s p ks).isFixed).map s.clusterCycles).foldl max 0
    ∧ s.clusterCycles k ≤ (enterFixed s p ks).clusterCycles k := by
  have hm : k ∈ (s.partClusters p).filter (enterFixed s p ks).isFixed := List.mem_filter.mpr ⟨hk, hf⟩
  have he : (enterFixed s p ks).clusterCycles k = (((s.partClusters p).filter (enterFixed s p ks).isFixed).map s.clusterCycles).foldl max 0 :=
    mapGet_foldl_put _ (.inl hm)
  exact ⟨he, he ▸ le_foldl_max _ (.inl (List.mem_map_of_mem hm))⟩

/-! ## A cycle boundary -/

theorem steady_advanceTime {run : Runner} {c n : Nat} {el : Map Nat} : (advanceTime run s c el n).tovor.stepTo = s.tovor.stepTo
    ∧ (advanceTime run s c el n).tovor.degraded = s.tovor.degraded := by
  unfold advanceTime settleFaultN
  dsimp only
  split
  · split <;> exact ⟨rfl, rfl⟩
  · exact ⟨rfl, rfl⟩

/-- The clocks take the step asked for. -/
theorem degraded_clockStep (s : State) (on : Bool) : (clockStep s on).tovor.degraded = on := by
  unfold clockStep
  split
  · assumption
  · exact (steady_iff.mp ((steady_report _).trans (steady_foldl (fun _ _ => steady_logEvent) _))).2.2.2.2.1

theorem settleClocks_steps {on : Bool} (h : s.tovor.stepTo = some on) :
    (settleClocks s).tovor.degraded = on ∧ (settleClocks s).tovor.stepTo = none := by
  unfold settleClocks
  dsimp only
  rw [h]
  exact ⟨degraded_clockStep _ on, rfl⟩

theorem passTime_steps {c n : Nat} {el : Map Nat} {on : Bool} (hc : 0 < c) (h : s.tovor.stepTo = some on) :
    (passTime exec s c el n).tovor.degraded = on ∧ (passTime exec s c el n).tovor.stepTo = none := by
  have h0 : ¬ (decide (c = 0) && el.isEmpty) = true := by
    rw [Bool.and_eq_true, decide_eq_true_eq]
    omega
  have hs (u : State) (hu : steady u = steady s) :
      (settleTimeouts (settleRecords (settleHalts (advanceTime exec u c el n)))).tovor.stepTo = some on := by
    have hk : steady (settleTimeouts (settleRecords (settleHalts (advanceTime exec u c el n)))) = steady (advanceTime exec u c el n) := by
      rw [steady_settleTimeouts, steady_settleRecords, steady_settleHalts]
    exact (steady_iff.mp hk).2.2.2.1.trans (steady_advanceTime.1.trans ((steady_iff.mp hu).2.2.2.1.trans h))
  unfold passTime
  rw [if_neg h0, if_neg h0]
  refine settleClocks_steps (hs _ ?_)
  rw [steady_settleQueues, steady_settleClones]

/-! ## Reports -/

/-- What only a report changes: FAULT_N and its report, the next sequence number, and the interrupts. -/
def reports (s : State) : Option Nat × Option (BitVec 24) × BitVec 24 × List Nat :=
  (s.tovor.faultN, s.tovor.faultSeq, s.tovor.reportSeq, s.tovor.irqs)

theorem reports_writeHome (own : Option (Nat × Nat)) (ws : List WByte) : reports (writeHome s own ws) = reports s := by
  unfold writeHome
  split <;> rfl

theorem reports_writePf_getD {a len v : Nat} : reports ((writePf s a len v).getD s) = reports s := by
  unfold writePf
  split
  · exact reports_writeHome ..
  · rfl

theorem reports_ringWrite (seq : BitVec 24) (bits : BitVec 256) : reports (ringWrite s seq bits) = reports s := by
  unfold ringWrite
  split
  · exact reports_writePf_getD
  · rfl

theorem report_fields (s : State) (r : Report) : (report s r).tovor.reportSeq = s.tovor.reportSeq + 1
    ∧ (report s r).tovor.irqs = s.tovor.irqs ++ [0]
    ∧ (report s r).tovor.faultN = (if r.faultn then some (s.tovor.faultN.getD s.refNs) else s.tovor.faultN)
    ∧ (report s r).tovor.faultSeq = (if r.faultn then some s.tovor.reportSeq else s.tovor.faultSeq) := by
  have h := reports_ringWrite (s := s) s.tovor.reportSeq (reportWord s r)
  simp only [reports, Prod.mk.injEq] at h
  obtain ⟨h1, h2, h3, h4⟩ := h
  unfold report
  simp only [State.modTovor, h1, h2, h3, h4]
  exact ⟨trivial, trivial, trivial, trivial⟩

/-! ## Power-up -/

theorem powerUp_clears (ok : Bool) : ∃ u, exec (.powerUp ok) s = .next u ∧ u.groups = [] ∧ u.ctxs = [] ∧ u.queues = [] ∧ u.refNs = 0
      ∧ u.tovor.released = ok ∧ u.tovor.faultN = (if ok then none else some 0) ∧ ∀ a, a < hostBase → memGet u.mem a = 0 := by
  refine ⟨_, rfl, rfl, rfl, rfl, rfl, ?_, ?_, fun a ha => memGet_of_absent fun c hc => ?_⟩
  · cases ok <;> rfl
  · cases ok <;> rfl
  · have hb : hostBase ≤ c.1 := by simpa using (List.mem_filter.mp hc).2
    omega

/-- Settles O50. -/
theorem clockAndPower : Obligations.ClockAndPower := by
  unfold Obligations.ClockAndPower
  refine ⟨?_, ?_, fun s k fixed q hq => clusterModeChange_occupied hq, ?_, ?_, fun s c el n on => passTime_steps, ?_, ?_, ?_, ?_,
    fun s => powerUp_clears⟩
  · intro s k hr hk hf he hp
    rw [clusterModeChange_taken (fixed := false) hr hk hf he (.inl hp)]
    cases s.partOf k <;> rfl
  · intro s k p hr hk hf he hp
    refine ⟨enterFixed s p [k], ?_, isFixed_enterFixed _ List.mem_cons_self, fun i j hi hj hfi hfj => ?_⟩
    · rw [clusterModeChange_taken (fixed := true) hr hk hf he (.inr rfl), hp]
      rfl
    · obtain ⟨h1, h2⟩ := clusterCycles_enterFixed [k] hi hfi
      obtain ⟨h3, -⟩ := clusterCycles_enterFixed [k] hj hfj
      exact ⟨h1.trans h3.symm, h2⟩
  · intro s b hr
    refine ⟨_, if_neg (by simp [hr]), rfl, rfl, rfl⟩
  · intro s t ht hd ha hn
    refine ⟨askStep (s.modTovor fun t => { t with triggerAt := none }) false, ?_, ?_, rfl⟩
    · show execDegradedStepLeave s = _
      unfold execDegradedStepLeave
      rw [ht]
      refine if_neg ?_
      have hlt : ¬ s.refNs < t + 10000000 := by omega
      simp [hd, ha, hlt]
    · exact if_neg (by simp [State.modTovor, hd])
  · intro s t ht hn
    show execDegradedStepLeave s = _
    unfold execDegradedStepLeave
    rw [ht]
    refine if_pos ?_
    rw [decide_eq_true hn]
    simp
  · intro s p mhz hr hp hv
    refine (if_neg ?_).trans ?_
    · have hlt : ¬ 12 ≤ p := by omega
      simp [hr, hv, hlt]
    · exact apply_ite Host.Outcome.next _ _ _ |>.symm
  · intro s hr
    obtain ⟨h1, -, h3, h4⟩ := report_fields s
      { cause := .tovorDeny, code := some (Config.internalCause % 0x60), outcome := 8, faultn := true }
    exact ⟨_, if_neg (by simp [hr]), h3, h1, h4⟩
  · intro s hr
    refine ⟨if_pos (by simp [hr]), fun b => if_pos (by simp [hr]), fun p mhz => if_pos (by simp [hr]), fun k fixed => if_pos (by simp [hr])⟩

end Sys2Proof
end

section
/-!
RECORDS (17 R353, R355; 18 R385): what their bits say, and where they stand. For O49.
-/
namespace Sys2Proof
open Machine

/-! ## Fields side by side -/

theorem bitsOf_low (a b : Nat) {k lo len : Nat} (h : lo + len ≤ k) : bitsOf (a + b * 2 ^ k) lo len = bitsOf a lo len := by
  unfold bitsOf
  rw [Nat.shiftRight_eq_div_pow, Nat.shiftRight_eq_div_pow]
  obtain ⟨j, rfl⟩ : ∃ j, k = lo + (len + j) := ⟨k - lo - len, by omega⟩
  rw [Nat.pow_add, ← Nat.mul_assoc, Nat.mul_right_comm, Nat.add_mul_div_right _ _ (Nat.two_pow_pos lo), Nat.pow_add, ← Nat.mul_assoc,
    Nat.mul_right_comm, Nat.add_mul_mod_self_right]

theorem bitsOf_high {a k : Nat} (b len : Nat) (h : a < 2 ^ k) : bitsOf (a + b * 2 ^ k) k len = b % 2 ^ len := by
  unfold bitsOf
  rw [Nat.shiftRight_eq_div_pow, Nat.add_mul_div_right _ _ (Nat.two_pow_pos k), Nat.div_eq_of_lt h, Nat.zero_add]

theorem bitsOf_zero (a len : Nat) : bitsOf a 0 len = a % 2 ^ len := rfl

theorem code_lt (c : Cause) : Cause.code c < 256 := by
  cases c <;> decide

/-- Each field of an event-log record. -/
theorem logBits_fields (x : LogEntry) (time seq mid cluster : Nat) :
      let v := logBits x time seq mid cluster
      bitsOf v 0 32 = seq % 2 ^ 32 ∧ bitsOf v 32 8 = Cause.code x.cause ∧ bitsOf v 40 2 = x.kind % 4 ∧ bitsOf v 42 13 = mid % 2 ^ 13
      ∧ bitsOf v 55 2 = x.quad % 4 ∧ bitsOf v 57 3 = x.core % 8 ∧ bitsOf v 60 4 = cluster % 16 ∧ bitsOf v 64 32 = x.aux % 2 ^ 32
      ∧ bitsOf v 96 32 = x.pc % 2 ^ 32 ∧ bitsOf v 128 64 = x.group.getD (2 ^ 64 - 1) % 2 ^ 64 ∧ bitsOf v 192 64 = time % 2 ^ 64 := by
  intro v
  have hc := code_lt x.cause
  have hv : v = logBits x time seq mid cluster := rfl
  rw [hv, ← allOnes64_eq]
  unfold logBits
  refine ⟨?_, ?_, ?_, ?_, ?_, ?_, ?_, ?_, ?_, ?_, ?_⟩
  all_goals simp (disch := omega) only [bitsOf_low, bitsOf_high]
  · rw [bitsOf_zero, Nat.mod_mod]
  all_goals omega

theorem logBits_lt (x : LogEntry) (time seq mid cluster : Nat) : logBits x time seq mid cluster < 2 ^ (8 * 32) := by
  have hc := code_lt x.cause
  unfold logBits
  omega

theorem testBit_eq_bitsOf (v i : Nat) : v.testBit i = (bitsOf v i 1).testBit 0 := by
  rw [testBit_bitsOf, decide_eq_true Nat.one_pos, Bool.true_and, Nat.add_zero]

/-- Each field of a report. -/
theorem reportBits_fields (r : Report) (time seq : Nat) :
      let v := reportBits r time seq
      bitsOf v 0 24 = seq % 2 ^ 24 ∧ bitsOf v 24 8 = r.code.getD (Cause.code r.cause) % 256 ∧ v.testBit 32 = r.faultn
      ∧ bitsOf v 33 4 = r.outcome % 16 ∧ bitsOf v 37 4 = r.pair % 16 ∧ bitsOf v 41 2 = r.quad % 4 ∧ bitsOf v 43 3 = r.core % 8
      ∧ bitsOf v 46 4 = r.cluster % 16 ∧ bitsOf v 50 4 = r.part % 16 ∧ bitsOf v 54 10 = r.ctx.getD 1023 % 1024
      ∧ bitsOf v 64 32 = r.aux % 2 ^ 32 ∧ bitsOf v 96 32 = r.pc % 2 ^ 32 ∧ bitsOf v 128 64 = r.group.getD (2 ^ 64 - 1) % 2 ^ 64
      ∧ bitsOf v 192 64 = time % 2 ^ 64 := by
  intro v
  have hv : v = reportBits r time seq := rfl
  have hf : boolNat r.faultn < 2 := by cases r.faultn <;> decide
  have ht : v.testBit 32 = (bitsOf v 32 1).testBit 0 := testBit_eq_bitsOf ..
  have hb : (boolNat r.faultn % 2 ^ 1).testBit 0 = r.faultn := by cases r.faultn <;> rfl
  rw [ht, hv, ← allOnes64_eq]
  unfold reportBits
  refine ⟨?_, ?_, ?_, ?_, ?_, ?_, ?_, ?_, ?_, ?_, ?_, ?_, ?_, ?_⟩
  all_goals simp (disch := omega) only [bitsOf_low, bitsOf_high]
  · rw [bitsOf_zero, Nat.mod_mod]
  · omega
  · exact hb
  all_goals omega

/-! ## Numbers written -/

/-- Whole bytes in a row, by the place of the first. -/
theorem memSetMasked_row (m : Memory) (a k : Nat) (bs : List Byte) :
    memSetMasked m ((bs.zipIdx k).map fun p => { addr := a + p.2, val := p.1, mask := 0xFF : WByte }) = memSetBytes m (a + k) bs := by
  induction bs generalizing m k with
  | nil => rfl
  | cons b bs ih =>
    have hb (o : Byte) : mixByte o b 0xFF = b := by
      have h0 : o &&& ~~~(0xFF : Byte) = 0#8 := BitVec.and_zero
      have h1 : b &&& (0xFF : Byte) = b := BitVec.and_allOnes
      rw [mixByte, h0, h1, BitVec.zero_or]
    rw [List.zipIdx_cons, List.map_cons, memSetMasked, hb, ih]
    rfl

theorem mem_writeNat (s : State) (a n v : Nat) : (writeNat s a n v).mem = memSetBytes s.mem a (bytesOfNat n v) := by
  have h : memSetMasked s.mem (wholeBytes a (bytesOfNat n v)) = memSetBytes s.mem a (bytesOfNat n v) := memSetMasked_row s.mem a 0 _
  unfold writeNat writeHome
  split
  · next he =>
    rw [List.isEmpty_iff.mp he] at h
    exact h
  · exact h

theorem memNat_writeNat {s : State} (hm : MemoryOk s) {a n v : Nat} (ha : a + n ≤ memTop) (hv : v < 2 ^ (8 * n)) :
    memNat (writeNat s a n v).mem a n = v := by
  have hl := length_bytesOfNat n v
  have hb := memBytes_memSetBytes hm (a := a) (bs := bytesOfNat n v) (by rwa [hl])
  rw [hl] at hb
  rw [mem_writeNat, memNat, hb, natOfLe_bytesOfNat, Nat.mod_eq_of_lt hv]

theorem dram_le_memTop {a n : Nat} (h : a + n ≤ dramBytes) : dramBase + a + n ≤ memTop := by
  have h1 : dramBytes ≤ memTop := by decide
  have h2 : dramBase = 0 := rfl
  omega

theorem writePf_fits {s : State} {a n v : Nat} (h : a + n ≤ dramBytes) : writePf s a n v = some (writeNat s (dramBase + a) n v) := if_pos h

theorem writePf_out {s : State} {a n v : Nat} (h : dramBytes < a + n) : writePf s a n v = none := if_neg (by omega)

/-! ## Contexts -/

/-- A write and a record leave of a context all but what watches memory, and its place in its log. -/
def CtxStands (c c' : Ctx) : Prop := c' = { c with logIdx := c'.logIdx, descs := c'.descs, slots := c'.slots, code := c'.code }

section Contexts
variable {s : State} {n : Nat}

theorem CtxStands.refl (c : Ctx) : CtxStands c c := rfl

theorem CtxStands.trans {c c' c'' : Ctx} (h : CtxStands c c') (h' : CtxStands c' c'') : CtxStands c c'' := by
  unfold CtxStands at *
  rw [h']
  rw [h]

theorem ctx_writeHome (own : Option (Nat × Nat)) (ws : List WByte) : CtxStands (s.ctx n) ((writeHome s own ws).ctx n)
    ∧ ((writeHome s own ws).ctx n).logIdx = (s.ctx n).logIdx := by
  unfold writeHome
  split
  · exact ⟨rfl, rfl⟩
  · generalize hu : ({ s with mem := memSetMasked s.mem ws, tovor := s.tovor.rewritten (hitsBytes ws) } : State) = u
    have hc : u.ctx n = s.ctx n := by
      subst hu
      rfl
    rw [← hc]
    rcases ctx_touch u own (touchedBy ws) n with h | h
    · rw [h]
      exact ⟨rfl, rfl⟩
    · rw [h]
      exact ⟨rfl, rfl⟩

theorem ctx_writePf_getD {a len v : Nat} : CtxStands (s.ctx n) (((writePf s a len v).getD s).ctx n) := by
  unfold writePf
  split
  · exact (ctx_writeHome ..).1
  · exact .refl _

theorem ctx_deviceLog {k : Nat} (ctx : Option Nat) (x : LogEntry) : CtxStands (s.ctx n) ((deviceLog s ctx k x).ctx n) := by
  unfold deviceLog
  dsimp only
  split
  · exact ctx_writePf_getD
  · exact .refl _

end Contexts

end Sys2Proof
end

section
/-!
WHAT A RECORD LEAVES (17 R353, R355; 18 R385). For O49.
-/
namespace Sys2Proof
open Machine

variable {s : State} {n m key : Nat} {x : LogEntry}

/-! ## Records in memory -/

/-- Where the next record of a context stands, and what it says. -/
def logPlace (c : Ctx) : Nat := c.logBase + 32 * (c.logIdx.toNat % 2 ^ c.logSize)
def logWord (s : State) (n : Nat) (x : LogEntry) : Nat :=
  logBits x s.refNs (s.ctx n).logIdx.toNat 0 (match x.cluster with | some k => s.relCluster (s.ctx n).part k | none => 0)

theorem logEvent_eq (s : State) (n : Nat) (x : LogEntry) : logEvent s n x = if logPlace (s.ctx n) + 32 ≤ dramBytes
    then (writeNat s (dramBase + logPlace (s.ctx n)) 32 (logWord s n x)).modCtx n fun c => { c with logIdx := c.logIdx + 1 }
    else deviceLog s (some n) 0 { x with cause := .saveFault, kind := 2 } := by
  have h : logEvent s n x = match writePf s (logPlace (s.ctx n)) 32 (logWord s n x) with
      | some s' => s'.modCtx n fun c => { c with logIdx := c.logIdx + 1 }
      | none => deviceLog s (some n) 0 { x with cause := .saveFault, kind := 2 } := rfl
  rw [h]
  by_cases hf : logPlace (s.ctx n) + 32 ≤ dramBytes
  · rw [if_pos hf, writePf_fits hf]
  · rw [if_neg hf, writePf_out (Nat.not_le.mp hf)]

theorem logEvent_fits (hm : MemoryOk s) (h : logPlace (s.ctx n) + 32 ≤ dramBytes) : ((logEvent s n x).ctx n).logIdx = (s.ctx n).logIdx + 1
    ∧ memNat (logEvent s n x).mem (dramBase + logPlace (s.ctx n)) 32 = logWord s n x := by
  rw [logEvent_eq, if_pos h]
  refine ⟨?_, memNat_writeNat hm (dram_le_memTop h) (logBits_lt ..)⟩
  rw [State.modCtx, State.ctx_setCtx]
  exact congrArg (· + 1) (ctx_writeHome ..).2

theorem logEvent_out (h : dramBytes < logPlace (s.ctx n) + 32) :
    logEvent s n x = deviceLog s (some n) 0 { x with cause := .saveFault, kind := 2 } := by
  rw [logEvent_eq, if_neg (by omega)]

/-- Where the next record of the device log stands, and what it says. -/
def dlogPlace (s : State) : Nat := s.tovor.block.dlogBase.toNat + 32 * (s.tovor.block.dlogIdx.toNat % 2 ^ s.tovor.block.dlogSize.toNat)
def dlogWord (s : State) (ctx : Option Nat) (source : Nat) (x : LogEntry) : Nat :=
  logBits x s.refNs s.tovor.block.dlogIdx.toNat (ctx.getD 1023 % 1024 * 8 + source % 8) (x.cluster.getD 0)

theorem mem_deviceLog (s : State) (ctx : Option Nat) (source : Nat) (x : LogEntry) : (deviceLog s ctx source x).mem
    = if 4 ≤ s.tovor.block.dlogSize.toNat ∧ dlogPlace s + 32 ≤ dramBytes
      then (writeNat s (dramBase + dlogPlace s) 32 (dlogWord s ctx source x)).mem else s.mem := by
  have h : (deviceLog s ctx source x).mem = (if 4 ≤ s.tovor.block.dlogSize.toNat
      then (writePf s (dlogPlace s) 32 (dlogWord s ctx source x)).getD s else s).mem := rfl
  rw [h]
  by_cases h4 : 4 ≤ s.tovor.block.dlogSize.toNat
  · rw [if_pos h4]
    by_cases hf : dlogPlace s + 32 ≤ dramBytes
    · rw [if_pos ⟨h4, hf⟩, writePf_fits hf]
      rfl
    · rw [if_neg fun h => hf h.2, writePf_out (Nat.not_le.mp hf)]
      rfl
  · rw [if_neg h4, if_neg fun h => h4 h.1]

theorem mem_report (s : State) (r : Report) {base k : Nat} (hr : s.tovor.ring = some (base, k))
    (hf : base + 32 * (s.tovor.reportSeq.toNat % 2 ^ k) + 32 ≤ dramBytes) : (report s r).mem
    = (writeNat s (dramBase + (base + 32 * (s.tovor.reportSeq.toNat % 2 ^ k))) 32 (reportWord s r).toNat).mem := by
  have h : (ringWrite s s.tovor.reportSeq (reportWord s r)) = writeNat s (dramBase + (base + 32 * (s.tovor.reportSeq.toNat % 2 ^ k))) 32 (reportWord s r).toNat := by
    unfold ringWrite
    rw [hr]
    dsimp only
    rw [writePf_fits hf]
    rfl
  rw [← h]
  rfl

/-- A report in the ring. -/
theorem memNat_report (hm : MemoryOk s) (r : Report) {base k : Nat} (hr : s.tovor.ring = some (base, k))
    (hf : base + 32 * (s.tovor.reportSeq.toNat % 2 ^ k) + 32 ≤ dramBytes) :
    memNat (report s r).mem (dramBase + (base + 32 * (s.tovor.reportSeq.toNat % 2 ^ k))) 32 = (reportWord s r).toNat := by
  rw [mem_report s r hr hf]
  exact memNat_writeNat hm (dram_le_memTop hf) (reportWord s r).isLt

/-! ## What else a record leaves -/

theorem reports_deviceLog {k : Nat} (ctx : Option Nat) : reports (deviceLog s ctx k x) = reports s := by
  unfold deviceLog
  dsimp only
  split
  · exact reports_writePf_getD
  · rfl

theorem reports_logEvent : reports (logEvent s n x) = reports s := by
  rw [logEvent_eq]
  split
  · exact reports_writeHome ..
  · exact reports_deviceLog _

theorem ctx_logEvent : CtxStands (s.ctx m) ((logEvent s n x).ctx m) := by
  rw [logEvent_eq]
  split
  · have hw : CtxStands (s.ctx m) ((writeNat s (dramBase + logPlace (s.ctx n)) 32 (logWord s n x)).ctx m) := (ctx_writeHome ..).1
    refine hw.trans ?_
    generalize writeNat s (dramBase + logPlace (s.ctx n)) 32 (logWord s n x) = u
    unfold State.modCtx
    by_cases h : m = n
    · subst h
      rw [State.ctx_setCtx]
      rfl
    · rw [State.ctx_setCtx_other _ _ h]
      exact .refl _
  · exact ctx_deviceLog ..

theorem ctx_ringWrite {seq : BitVec 24} {bits : BitVec 256} : CtxStands (s.ctx m) ((ringWrite s seq bits).ctx m) := by
  unfold ringWrite
  split
  · exact ctx_writePf_getD
  · exact .refl _

theorem ctx_report (r : Report) : CtxStands (s.ctx m) ((report s r).ctx m) := by
  have h : CtxStands (s.ctx m) ((ringWrite s s.tovor.reportSeq (reportWord s r)).ctx m) := ctx_ringWrite
  exact h

/-! ## Groups that stand -/

/-- What a write of memory leaves of a group on its core: its rollback and its halt, and that it runs, or is halted. -/
structure GroupStands (g g' : Group) : Prop where
  mark     : g'.mark = g.mark
  rollback : g'.rollback = g.rollback
  halting  : g'.halting = g.halting
  resident : g.state = .resident → g'.state = .resident
  halted   : g.state = .halted → g'.state = .halted

theorem GroupStands.refl (g : Group) : GroupStands g g := ⟨rfl, rfl, rfl, id, id⟩

theorem GroupStands.trans {g g' g'' : Group} (h : GroupStands g g') (h' : GroupStands g' g'') : GroupStands g g'' :=
  ⟨h'.mark.trans h.mark, h'.rollback.trans h.rollback, h'.halting.trans h.halting, h'.resident ∘ h.resident, h'.halted ∘ h.halted⟩

theorem groupStands_wakeEvicted (g : Group) : GroupStands g (wakeEvicted g) := by
  unfold wakeEvicted
  split
  · exact ⟨rfl, rfl, rfl, id, id⟩
  · split
    · next h => exact ⟨rfl, rfl, rfl, fun hs => by simp [h] at hs, fun hs => by simp [h] at hs⟩
    · exact .refl g

theorem groupStands_ite {g x y : Group} {p : Prop} [Decidable p] (hx : GroupStands g x) (hy : GroupStands g y) :
    GroupStands g (if p then x else y) := by
  split
  · exact hx
  · exact hy

theorem groupStands_touchGroup (s : State) (key : Nat) (t : Touched) (g : Group) : GroupStands g (touchGroup s key t g) := by
  unfold touchGroup
  dsimp only
  refine groupStands_ite (groupStands_ite (groupStands_wakeEvicted g) (.refl g)) ?_
  split
  · exact groupStands_ite ⟨rfl, rfl, rfl, id, id⟩ ⟨rfl, rfl, rfl, id, id⟩
  · exact groupStands_ite ⟨rfl, rfl, rfl, id, id⟩ (.refl g)

/-- The group of a key stands as one stood. -/
def Stands (g : Group) (key : Nat) (s : State) : Prop := ∃ g', s.group? key = some g' ∧ GroupStands g g'

section Stands
variable {g : Group}

theorem Stands.eachGroup {f : Nat → Group → Group} (h : Stands g key s) (hf : ∀ k g, GroupStands g (f k g)) :
    Stands g key { s with groups := mapEach s.groups f } := by
  obtain ⟨g', hg, hs⟩ := h
  refine ⟨f key g', ?_, hs.trans (hf key g')⟩
  have he : mapFind (mapEach s.groups f) key = (mapFind s.groups key).map (f key) := mapFind_each ..
  exact he.trans (congrArg (Option.map (f key)) hg)

theorem Stands.modGroup {f : Group → Group} {j : Nat} (h : Stands g key s) (hf : ∀ g, GroupStands g (f g)) : Stands g key (s.modGroup j f) := by
  obtain ⟨g', hg, hs⟩ := h
  by_cases hj : key = j
  · refine ⟨f g', ?_, hs.trans (hf g')⟩
    rw [group?_modGroup, if_pos hj, ← hj, hg]
    rfl
  · refine ⟨g', ?_, hs⟩
    rw [group?_modGroup, if_neg hj, hg]

theorem Stands.settlePeers (h : Stands g key s) : Stands g key (settlePeers s) :=
  h.eachGroup fun k g => by
    split
    · next hc =>
      rw [Bool.and_eq_true, decide_eq_true_eq] at hc
      exact ⟨rfl, rfl, rfl, fun _ => rfl, fun hs => absurd (hs.symm.trans hc.1) (by decide)⟩
    · split
      · next hc =>
        rw [Bool.and_eq_true, decide_eq_true_eq] at hc
        exact ⟨rfl, rfl, rfl, fun hs => absurd (hs.symm.trans hc.1) (by decide), fun hs => absurd (hs.symm.trans hc.1) (by decide)⟩
      · exact .refl g

theorem Stands.settleTimers (h : Stands g key s) : Stands g key (settleTimers s) :=
  h.eachGroup fun k g => by
    split
    · exact ⟨rfl, rfl, rfl, id, id⟩
    · exact .refl g

theorem Stands.touch {own : Option (Nat × Nat)} {t : Touched} (h : Stands g key s) : Stands g key (touch s own t) := by
  have h1 : Stands g key { s with
      ctxs := mapEach s.ctxs (touchCtx s own t)
      queues := mapEach s.queues fun _ q => touchQueue s t q
      groups := mapEach s.groups fun key g => touchGroup s key t g } := h.eachGroup (groupStands_touchGroup s · t)
  exact h1.settlePeers.settleTimers

/-- Records leave groups standing. -/
theorem stands_keptByRecords (g : Group) (key : Nat) : KeptByRecords (Stands g key) where
  tovor _ h := h
  write own ws h := by
    unfold writeHome
    split
    · exact h
    · refine Stands.touch ?_
      exact h
  peer _ _ h := h
  counters _ _ _ h := h

end Stands

end Sys2Proof
end

section
/-!
INTEGRITY EVENTS (18 R376 to R379, R392; 04 R117): O49.
-/
namespace Sys2Proof
open Machine

variable {s : State} {e : Event} {g : Group} {key halt n : Nat}

/-! ## The halt -/

/-- The group issues until its halt. -/
def runsNow (s : State) (g : Group) : Bool := (g.state == .resident || g.state == .waiting) && (s.ctx g.ctx).state == .running

/-- The steward of a group as its halt begins. -/
def haltingSteward (s : State) (key : Nat) (g : Group) : Hart :=
  pastRunning (undoRdv (s.clusterCycles g.cluster) g.steward) (s.cmdsOf key g)

/-- What is not committed has left the core. -/
def cutOff (s : State) (key : Nat) (g : Group) : State :=
  (removeCmds s g.coreNo ((s.cmdsOf key g).filter (Cmd.discarded (haltingSteward s key g)))).modCore g.coreNo fun c =>
    { c with records := c.records.filter fun r => r.1.group != key
             cmds := c.cmds.map fun k => if k.gid = key then { k with asked := k.matched } else k }

/-- A group whose halt has begun. -/
def beginning (now halt : Nat) (steward : Hart) (g : Group) : Group :=
  { g.eachHart fun _ h => undoRdv now h with
    steward := steward, rollback := true, detected := some now, halting := some (g.halting.getD (now + halt)) }

theorem removeCmds_frame (core : Nat) (cs : List Cmd) : ∀ s : State, (removeCmds s core cs).groups = s.groups
    ∧ (removeCmds s core cs).ctxs = s.ctxs ∧ (removeCmds s core cs).tovor = s.tovor := by
  induction cs with
  | nil => exact fun s => ⟨rfl, rfl, rfl⟩
  | cons c cs ih => exact fun s => ih (removeCmd s core c.id)

theorem cutOff_frame (s : State) (key : Nat) (g : Group) : (cutOff s key g).groups = s.groups ∧ (cutOff s key g).ctxs = s.ctxs
    ∧ (cutOff s key g).tovor = s.tovor := removeCmds_frame _ _ s

theorem haltGroup_frame (s : State) (key : Nat) : (haltGroup s key).ctxs = s.ctxs ∧ (haltGroup s key).tovor = s.tovor
    ∧ (haltGroup s key).mem = s.mem := by
  unfold haltGroup
  simp

/-- A group halted. -/
def haltedGroup (g : Group) : Group :=
  { g.eachHart fun _ h => haltHart h with state := .halted, rdvs := [], batches := haltBatches g, timer := none, halting := none }

theorem group?_haltGroup (s : State) (key j : Nat) :
    (haltGroup s key).group? j = if j = key then (s.group? key).map haltedGroup else s.group? j := by
  unfold haltGroup
  rw [group?_modGroup]
  rfl

section Begin
variable (hg : s.group? key = some g) (hp : g.present = true)
include hg hp

theorem beginHalt_eq : beginHalt halt s key = if runsNow s g
    then (cutOff s key g).modGroup key (beginning (s.clusterCycles g.cluster) halt (haltingSteward s key g))
    else haltGroup ((cutOff s key g).modGroup key (beginning (s.clusterCycles g.cluster) halt (haltingSteward s key g))) key := by
  have hc : (((cutOff s key g).modGroup key (beginning (s.clusterCycles g.cluster) halt (haltingSteward s key g))).ctx g.ctx).state
      = (s.ctx g.ctx).state := by
    unfold State.ctx
    rw [State.modGroup_ctxs, (cutOff_frame s key g).2.1]
  unfold beginHalt
  rw [hg]
  refine (if_neg (by simp [hp])).trans ?_
  unfold runsNow
  rw [← hc]
  rfl

theorem beginHalt_group : ∃ g', (beginHalt halt s key).group? key = some g' ∧ g'.rollback = true
    ∧ (runsNow s g = true → g'.state = g.state ∧ g'.halting = some (g.halting.getD (s.clusterCycles g.cluster + halt)))
    ∧ (runsNow s g = false → g'.state = .halted ∧ g'.halting = none) := by
  have hb : ((cutOff s key g).modGroup key (beginning (s.clusterCycles g.cluster) halt (haltingSteward s key g))).group? key
      = some (beginning (s.clusterCycles g.cluster) halt (haltingSteward s key g) g) := by
    rw [group?_modGroup, if_pos rfl]
    have h : (cutOff s key g).group? key = some g := (congrArg (mapFind · key) (cutOff_frame s key g).1).trans hg
    rw [h]
    rfl
  rw [beginHalt_eq hg hp]
  split
  · next hr => exact ⟨_, hb, rfl, fun _ => ⟨rfl, rfl⟩, fun h => by simp [hr] at h⟩
  · next hr =>
    refine ⟨haltedGroup (beginning (s.clusterCycles g.cluster) halt (haltingSteward s key g) g), ?_, rfl, fun h => absurd h hr, fun _ => ⟨rfl, rfl⟩⟩
    rw [group?_haltGroup, if_pos rfl, hb]
    rfl

theorem beginHalt_frame : (beginHalt halt s key).ctxs = s.ctxs ∧ (beginHalt halt s key).tovor = s.tovor := by
  obtain ⟨-, hc, ht⟩ := cutOff_frame s key g
  rw [beginHalt_eq hg hp]
  split
  · rw [State.modGroup_ctxs, State.modGroup_tovor]
    exact ⟨hc, ht⟩
  · rw [(haltGroup_frame _ _).1, (haltGroup_frame _ _).2.1, State.modGroup_ctxs, State.modGroup_tovor]
    exact ⟨hc, ht⟩

theorem rollBack_one : rollBack s halt [key] = (beginHalt halt s key).modCtx g.ctx fun c => { c with rollbacks := satInc c.rollbacks } := by
  unfold rollBack
  rw [List.foldl_cons, List.foldl_nil, hg]
  exact if_pos hp

end Begin

/-! ## The event -/

/-- In how many cycles an event halts its group. -/
def haltAfter (s : State) (g : Group) : Nat := if s.isFixed g.cluster then 12 else max 1 (min 64 (Config.haltCycles s.tovor.reportSeq.toNat))

theorem haltAfter_bounds (s : State) (g : Group) : 1 ≤ haltAfter s g ∧ haltAfter s g ≤ 64 ∧ (s.isFixed g.cluster = true → haltAfter s g = 12) := by
  unfold haltAfter
  split
  · exact ⟨by omega, by omega, fun _ => rfl⟩
  · next h => exact ⟨by omega, by omega, fun hf => absurd hf h⟩

/-- The report and the record of an event. -/
def eventReport (s : State) (e : Event) (g : Group) : Report :=
  { placeReport s g
    { cause := e.cause, outcome := if g.marked (s.clusterCycles g.cluster) then 2 else 1, faultn := g.marked (s.clusterCycles g.cluster)
      pc := e.pc, quad := eventQuad e, aux := haltAfter s g + boolNat e.inj * 128 } with cluster := e.cluster.getD g.cluster }

def eventEntry (e : Event) (g : Group) : LogEntry :=
  { placeEntry g { kind := 1, cause := e.cause, pc := e.pc, quad := eventQuad e } with cluster := some (e.cluster.getD g.cluster) }

/-- What the group of an event keeps of it (18 R392). -/
def detectedOf (u : State) (e : Event) (g : Group) (rep : Report) : Detected :=
  { cycle := u.clusterCycles g.cluster, code := Cause.code e.cause, seq := u.tovor.reportSeq, report := reportWord u rep }

/-- A group with the mark of its rollback. -/
def marking (d : Detected) (g : Group) : Group := { g with mark := true, event := some d }

/-- A group rolled back, with the record of it. -/
def rolledBack (s : State) (e : Event) (g : Group) : State :=
  logEvent (rollBack s (haltAfter s g) [e.key]) g.ctx
    { eventEntry e g with aux := ((rollBack s (haltAfter s g) [e.key]).ctx g.ctx).rollbacks.toNat }

/-- A group that carried the mark, killed. -/
def escalated (s : State) (e : Event) (g : Group) : State :=
  retireUnit (killGroup s e.key .rollbackLimit e.pc (s.ctx g.ctx).rollbacks.toNat (eventQuad e)) e.part

/-- What an event of a group that is its whole cluster-group leaves: a second event of the cycle, an escalation, or a rollback. -/
def eventOf (s : State) (e : Event) (g : Group) : Option Detected → State
  | some d => secondEvent s e d (eventEntry e g) g.ctx (haltAfter s g) [e.key]
  | none =>
    if g.marked (s.clusterCycles g.cluster) then report (escalated s e g) (eventReport s e g)
    else
      report ((rolledBack s e g).modGroup e.key (marking (detectedOf (rolledBack s e g) e g (eventReport s e g)))) (eventReport s e g)

/-- The record of a second event, the report of the cycle with its cause, and the group that keeps that. -/
def secondLog (s : State) (g : Group) (entry : LogEntry) : State := logEvent s g.ctx { entry with aux := (s.ctx g.ctx).rollbacks.toNat }
def secondBits (e : Event) (d : Detected) : BitVec 256 := BitVec.ofNat 256 (putField d.report.toNat 24 8 (Cause.code e.cause))
def recoded (e : Event) (d : Detected) (g : Group) : Group :=
  { g with event := some { d with code := Cause.code e.cause, report := secondBits e d } }

theorem not_sameCycle (hm : g.marked (s.clusterCycles g.cluster) = false) : sameCycle s g = false := by
  have h : g.mark = false := (Bool.or_eq_false_iff.mp hm).1
  simp [sameCycle, h]

theorem sameCycle_of_event {d : Detected} (hm : g.mark = true) (hr : g.rollback = true) (he : g.event = some d)
    (hd : d.cycle = s.clusterCycles g.cluster) : sameCycle s g = true := by
  simp [sameCycle, hm, hr, he, hd]

theorem event_of_sameCycle (h : sameCycle s g = true) : ∃ d, g.rollback = true ∧ g.event = some d ∧ d.cycle = s.clusterCycles g.cluster := by
  unfold sameCycle at h
  cases he : g.event with
  | none => simp [he] at h
  | some d =>
    simp only [he, Bool.and_eq_true, beq_iff_eq] at h
    exact ⟨d, h.1.2, rfl, h.2⟩

theorem killFrame_retireUnit (s₀ : State) (w : HwUnit) : KillFrame s₀ (retireUnit s₀ w) := by
  have hl (s : State) (k : Nat) (h : KillFrame s₀ s) : KillFrame s₀ (logRetired s k) := by
    unfold logRetired
    split
    · exact h
    · exact List.foldlRecOn _ _ h fun s h n _ => (KillFrame.records s₀).logEvent h
  cases w with
  | none => exact .refl _
  | pair j => exact hl _ _ ⟨(KillFrame.refl s₀).groups, (KillFrame.refl s₀).grids, (KillFrame.refl s₀).cores, (KillFrame.refl s₀).kills⟩
  | quad q => exact hl _ _ ⟨(KillFrame.refl s₀).groups, (KillFrame.refl s₀).grids, (KillFrame.refl s₀).cores, (KillFrame.refl s₀).kills⟩

section Single
variable (hg : s.group? e.key = some g)
include hg

theorem integrityEvent_single (hp : s.peers e.key = [e.key]) (ha : e.also = []) (hi : Cause.inContext e.cause = false)
    (ho : Cause.ofCore e.cause = false) : integrityEvent s e = eventOf s e g (if sameCycle s g then g.event else none) := by
  have hc : countEvent s e g = s := (if_neg (by simp [hi])).trans (if_neg (by simp [ho]))
  have hh : ([e.key] ++ ([] : List Nat)).eraseDups = [e.key] := rfl
  have hf : [e.key].filter (fun k => !List.contains [e.key] k) = [] := by simp
  unfold integrityEvent
  rw [hg]
  dsimp only
  rw [hc, hp, ha, hh, hf]
  generalize (if sameCycle s g then g.event else none) = d
  cases d <;> rfl

/-! ### A rollback -/

section Rollback
variable (hp : g.present = true)
include hp

theorem rolledBack_group : ∃ g', (rolledBack s e g).group? e.key = some g' ∧ g'.rollback = true
    ∧ (runsNow s g = true → g.state = .resident → g'.state = .resident
        ∧ g'.halting = some (g.halting.getD (s.clusterCycles g.cluster + haltAfter s g)))
    ∧ (runsNow s g = false → g'.state = .halted ∧ g'.halting = none) := by
  obtain ⟨g1, h1, hr, hrun, hstill⟩ := beginHalt_group (halt := haltAfter s g) hg hp
  have hs : Stands g1 e.key (rollBack s (haltAfter s g) [e.key]) := by
    rw [rollBack_one hg hp]
    exact ⟨g1, h1, .refl g1⟩
  obtain ⟨g2, h2, hk⟩ := (stands_keptByRecords g1 e.key).logEvent (n := g.ctx)
    (x := { eventEntry e g with aux := ((rollBack s (haltAfter s g) [e.key]).ctx g.ctx).rollbacks.toNat }) hs
  refine ⟨g2, h2, hk.rollback.trans hr, fun h hres => ?_, fun h => ?_⟩
  · obtain ⟨hst, hha⟩ := hrun h
    exact ⟨hk.resident (hst.trans hres), hk.halting.trans hha⟩
  · obtain ⟨hst, hha⟩ := hstill h
    exact ⟨hk.halted hst, hk.halting.trans hha⟩

theorem rolledBack_ctx : CtxStands { s.ctx g.ctx with rollbacks := satInc (s.ctx g.ctx).rollbacks } ((rolledBack s e g).ctx g.ctx) := by
  have hb : (rollBack s (haltAfter s g) [e.key]).ctx g.ctx = { s.ctx g.ctx with rollbacks := satInc (s.ctx g.ctx).rollbacks } := by
    have hc : (beginHalt (haltAfter s g) s e.key).ctx g.ctx = s.ctx g.ctx :=
      congrArg (fun m => mapGet initCtx m g.ctx) (beginHalt_frame hg hp).1
    rw [rollBack_one hg hp, State.modCtx, State.ctx_setCtx, hc]
  rw [← hb]
  exact ctx_logEvent

theorem reports_rolledBack : reports (rolledBack s e g) = reports s := by
  have ht : (rollBack s (haltAfter s g) [e.key]).tovor = s.tovor := by
    rw [rollBack_one hg hp]
    exact (beginHalt_frame hg hp).2
  rw [rolledBack, reports_logEvent]
  unfold reports
  rw [ht]

/-- What a rollback leaves of the group, of its context and of the reports (18 R377, R378). -/
theorem eventOf_rollback (hm : g.marked (s.clusterCycles g.cluster) = false) :
    (∃ g', (eventOf s e g none).group? e.key = some g' ∧ g'.mark = true ∧ g'.rollback = true
      ∧ (runsNow s g = true → g.state = .resident → g'.state = .resident
        ∧ g'.halting = some (g.halting.getD (s.clusterCycles g.cluster + haltAfter s g)))
      ∧ (runsNow s g = false → g'.state = .halted ∧ g'.halting = none))
    ∧ CtxStands { s.ctx g.ctx with rollbacks := satInc (s.ctx g.ctx).rollbacks } ((eventOf s e g none).ctx g.ctx)
    ∧ (eventOf s e g none).tovor.faultN = s.tovor.faultN ∧ (eventOf s e g none).tovor.reportSeq = s.tovor.reportSeq + 1 := by
  have hu : eventOf s e g none = report ((rolledBack s e g).modGroup e.key (marking (detectedOf (rolledBack s e g) e g (eventReport s e g))))
      (eventReport s e g) := if_neg (by simp [hm])
  rw [hu]
  generalize detectedOf (rolledBack s e g) e g (eventReport s e g) = d
  refine ⟨?_, ?_, ?_⟩
  · obtain ⟨g1, h1, hr, hrun, hstill⟩ := rolledBack_group (e := e) hg hp
    have hs : Stands (marking d g1) e.key ((rolledBack s e g).modGroup e.key (marking d)) := by
      refine ⟨marking d g1, ?_, .refl _⟩
      rw [group?_modGroup, if_pos rfl, h1]
      rfl
    obtain ⟨g2, h2, hk⟩ := (stands_keptByRecords (marking d g1) e.key).report (r := eventReport s e g) hs
    refine ⟨g2, h2, hk.mark, hk.rollback.trans hr, fun h hres => ?_, fun h => ?_⟩
    · obtain ⟨hst, hha⟩ := hrun h hres
      exact ⟨hk.resident hst, hk.halting.trans hha⟩
    · obtain ⟨hst, hha⟩ := hstill h
      exact ⟨hk.halted hst, hk.halting.trans hha⟩
  · have hc : ((rolledBack s e g).modGroup e.key (marking d)).ctx g.ctx = (rolledBack s e g).ctx g.ctx :=
      congrArg (fun m => mapGet initCtx m g.ctx) (State.modGroup_ctxs ..)
    refine (rolledBack_ctx hg hp).trans ?_
    rw [← hc]
    exact ctx_report _
  · obtain ⟨hseq, -, hn, -⟩ := report_fields ((rolledBack s e g).modGroup e.key (marking d)) (eventReport s e g)
    have hf : (eventReport s e g).faultn = false := hm
    have hrep := reports_rolledBack (e := e) hg hp
    simp only [reports, Prod.mk.injEq] at hrep
    obtain ⟨hrn, -, hrs, -⟩ := hrep
    rw [hn, hseq, hf, State.modGroup_tovor, hrn, hrs]
    exact ⟨rfl, rfl⟩

end Rollback

/-! ### An escalation -/

/-- What an escalation leaves of the group and of the reports (18 R379). -/
theorem eventOf_escalated (hp : s.peers e.key = [e.key]) (hpr : g.present = true) (hm : g.marked (s.clusterCycles g.cluster) = true) :
    (∃ g', (eventOf s e g none).group? e.key = some g' ∧ g'.state = .killed)
    ∧ (eventOf s e g none).tovor.faultN = some (s.tovor.faultN.getD s.refNs)
    ∧ (eventOf s e g none).tovor.faultSeq = some ((eventOf s e g none).tovor.reportSeq - 1) := by
  have hu : eventOf s e g none = report (escalated s e g) (eventReport s e g) := if_pos hm
  rw [hu]
  refine ⟨?_, ?_⟩
  · have hr : g.state ≠ .retired := fun h => by simp [Group.present, h] at hpr
    obtain ⟨g1, h1, hk1⟩ := killGroup_kills (s := s) (key := e.key) (cause := .rollbackLimit) (pc := e.pc)
      (aux := (s.ctx g.ctx).rollbacks.toNat) (quad := eventQuad e) (hp ▸ List.mem_singleton_self e.key) hg hr
    have hf := (KillFrame.records _).report (r := eventReport s e g) (killFrame_retireUnit (killGroup s e.key .rollbackLimit e.pc
      (s.ctx g.ctx).rollbacks.toNat (eventQuad e)) e.part)
    obtain ⟨g2, h2, hk2⟩ := hf.groups e.key g1 h1
    exact ⟨g2, h2, hk2.killed hk1⟩
  · obtain ⟨hseq, -, hn, hfs⟩ := report_fields (escalated s e g) (eventReport s e g)
    have hf : (eventReport s e g).faultn = true := hm
    have hst : steady (escalated s e g) = steady s := (steady_retireUnit _).trans steady_killGroup
    obtain ⟨-, -, -, -, -, -, hfn⟩ := steady_iff.mp hst
    rw [hn, hseq, hfs, hf, hfn, BitVec.add_sub_cancel]
    exact ⟨rfl, rfl⟩

/-! ### A second event of the cycle -/

/-- The state that a second event finds: the groups it would halt are halted. -/
theorem secondEvent_eq (hr : g.rollback = true) (d : Detected) (entry : LogEntry) (halt : Nat) :
    secondEvent s e d entry g.ctx halt [e.key] = if Cause.code e.cause < d.code then
        (ringWrite (secondLog s g entry) d.seq (secondBits e d)).modGroup e.key (recoded e d)
      else secondLog s g entry := by
  unfold secondEvent
  rw [List.filter_cons_of_neg]
  · rfl
  · simp [hg, hr]

/-- What a second event of the cycle leaves of the group, of its context and of the reports (18 R392). -/
theorem secondEvent_single (hr : g.rollback = true) (d : Detected) (entry : LogEntry) (halt : Nat) :
    Stands g e.key (secondEvent s e d entry g.ctx halt [e.key])
    ∧ CtxStands (s.ctx g.ctx) ((secondEvent s e d entry g.ctx halt [e.key]).ctx g.ctx)
    ∧ reports (secondEvent s e d entry g.ctx halt [e.key]) = reports s := by
  have hs : Stands g e.key (secondLog s g entry) := (stands_keptByRecords g e.key).logEvent ⟨g, hg, .refl g⟩
  rw [secondEvent_eq hg hr]
  split
  · have hc : ((ringWrite (secondLog s g entry) d.seq (secondBits e d)).modGroup e.key (recoded e d)).ctx g.ctx
        = (ringWrite (secondLog s g entry) d.seq (secondBits e d)).ctx g.ctx := congrArg (fun m => mapGet initCtx m g.ctx) (State.modGroup_ctxs ..)
    have ht : reports ((ringWrite (secondLog s g entry) d.seq (secondBits e d)).modGroup e.key (recoded e d))
        = reports (ringWrite (secondLog s g entry) d.seq (secondBits e d)) := by
      unfold reports
      rw [State.modGroup_tovor]
    refine ⟨((stands_keptByRecords g e.key).ringWrite hs).modGroup fun _ => ⟨rfl, rfl, rfl, id, id⟩, ?_, ?_⟩
    · rw [hc]
      exact ctx_logEvent.trans ctx_ringWrite
    · rw [ht, reports_ringWrite]
      exact reports_logEvent
  · exact ⟨hs, ctx_logEvent, reports_logEvent⟩

end Single

/-! ## The clauses -/

theorem runsNow_of_runs (hs : g.state = .resident) (hc : (s.ctx g.ctx).state = .running) : runsNow s g = true := by
  simp [runsNow, hs, hc]

theorem not_runsNow (h : g.state = .halted ∨ g.state = .retiring ∨ (s.ctx g.ctx).state ≠ .running) : runsNow s g = false := by
  rcases h with h | h | h
  · simp [runsNow, h]
  · simp [runsNow, h]
  · simp [runsNow, h]

/-- An event beside its effect on the groups: in the count of its context, or in the device log. -/
theorem countEvent_cases (s : State) (e : Event) (g : Group) : (Cause.inContext e.cause = true → countEvent s e g = countUeCtx s g.ctx)
    ∧ (Cause.ofCore e.cause = true → countEvent s e g
        = deviceLog s (some g.ctx) 0 (placeEntry g { kind := 2, cause := e.cause, pc := e.pc, quad := eventQuad e })) := by
  refine ⟨fun h => if_pos h, fun h => ?_⟩
  have hi : ¬ Cause.inContext e.cause = true := by
    cases hc : e.cause <;> simp [hc, Cause.ofCore, Cause.inContext] at h ⊢
  exact (if_neg hi).trans (if_pos h)

/-- Past its halt a group with the rollback issues nothing. -/
theorem envOf_past_halt {r : CtxRef} (hg : s.group? r.group = some g) (hr : g.rollback = true)
    (hh : ∀ t, g.halting = some t → t ≤ s.clusterCycles g.cluster) : envOf s r = none := by
  have hl : s.groupLive g = false := by simp [State.groupLive, hr]
  have ho : s.runsOut g = false := by
    unfold State.runsOut
    cases ht : g.halting with
    | none => simp
    | some t => simp [hh t ht]
  unfold envOf
  rw [hg]
  dsimp only
  split
  · rw [hl, ho]
    rfl
  · rfl

/-- A group halted, with no rendezvous open. -/
def GroupHalted (g : Group) : Prop := g.state = .halted ∧ g.halting = none ∧ g.rdvs = []

theorem settleHalts_foldl (keys : List Nat) : ∀ s : State, s.group? key = some g →
    (∃ g', (keys.foldl haltGroup s).group? key = some g' ∧ (key ∈ keys ∨ GroupHalted g → GroupHalted g'))
    ∧ (keys.foldl haltGroup s).mem = s.mem ∧ (keys.foldl haltGroup s).ctxs = s.ctxs ∧ (keys.foldl haltGroup s).tovor = s.tovor := by
  induction keys generalizing g with
  | nil => exact fun s hg => ⟨⟨g, hg, fun h => h.resolve_left List.not_mem_nil⟩, rfl, rfl, rfl⟩
  | cons k ks ih =>
    intro s hg
    obtain ⟨hc, ht, hm⟩ := haltGroup_frame s k
    have hf := group?_haltGroup s k key
    rw [hg] at hf
    rw [List.foldl_cons, ← hc, ← ht, ← hm]
    by_cases hk : key = k
    · subst hk
      rw [if_pos rfl, hg] at hf
      obtain ⟨⟨g', hg', hh⟩, hrest⟩ := ih _ hf
      exact ⟨⟨g', hg', fun _ => hh (.inr ⟨rfl, rfl, rfl⟩)⟩, hrest⟩
    · rw [if_neg hk] at hf
      obtain ⟨⟨g', hg', hh⟩, hrest⟩ := ih _ hf
      refine ⟨⟨g', hg', fun h => hh ?_⟩, hrest⟩
      rcases h with h | h
      · exact .inl ((List.mem_cons.mp h).resolve_left hk)
      · exact .inr h

/-- The halts whose cycle has come. -/
theorem settleHalts_halts {t : Nat} (hg : s.group? key = some g) (ht : g.halting = some t) (hd : t ≤ s.clusterCycles g.cluster) :
    ∃ g', (settleHalts s).group? key = some g' ∧ g'.state = .halted ∧ g'.halting = none ∧ g'.rdvs = []
        ∧ (settleHalts s).mem = s.mem ∧ (settleHalts s).ctxs = s.ctxs ∧ (settleHalts s).tovor = s.tovor := by
  have hk : key ∈ (s.groups.filter fun p => p.2.halting.any fun t => decide (t ≤ s.clusterCycles p.2.cluster)).map fun p => p.1 :=
    List.mem_map.mpr ⟨(key, g), List.mem_filter.mpr ⟨mem_of_mapFind hg, by simp [ht, hd]⟩, rfl⟩
  obtain ⟨⟨g', hg', hh⟩, hrest⟩ := settleHalts_foldl _ s hg
  obtain ⟨h1, h2, h3⟩ := hh (.inl hk)
  exact ⟨g', hg', h1, h2, h3, hrest⟩

theorem haltHart_fields (h : Hart) (he : h.status ≠ .exited) : (haltHart h).status = .halted ∧ (haltHart h).pc = h.pc ∧ (haltHart h).regs = h.regs
      ∧ (haltHart h).preds = h.preds ∧ (haltHart h).stores = h.stores.filter (fun q => decide (q.region < h.entryNo))
      ∧ (haltHart h).results = h.results.filter (fun q => decide (q.region < h.entryNo)) ∧ (haltHart h).regionPc = h.regionPc := by
  unfold haltHart
  rw [if_neg he]
  exact ⟨rfl, rfl, rfl, rfl, rfl, rfl, rfl⟩

/-- Settles O49. An event of a group that is its whole cluster-group is the rollback, the escalation or the second event that
`eventOf` names; a record leaves the group standing (`Stands`), and its bits are fields side by side. -/
theorem integrityEvents : Obligations.IntegrityEvents := by
  unfold Obligations.IntegrityEvents
  refine ⟨?event, countEvent_cases, fun s r g => envOf_past_halt, fun s key g t => settleHalts_halts, haltHart_fields, logBits_fields, ?log,
    ?dlog, reportBits_fields, ?report⟩
  case event =>
    intro s e g hg hp ha hi ho hpr u now runs
    have hu : u = eventOf s e g (if sameCycle s g then g.event else none) := integrityEvent_single hg hp ha hi ho
    refine ⟨fun hm => ?_, fun hm hd => ?_, fun d hmark hr he hd => ?_⟩
    · rw [not_sameCycle hm] at hu
      obtain ⟨⟨g', hg', hmark, hroll, hrun, hstill⟩, hctx, hn, hseq⟩ := eventOf_rollback (e := e) hg hpr hm
      obtain ⟨h1, h64, hfix⟩ := haltAfter_bounds s g
      rw [hu]
      exact ⟨g', haltAfter s g, hg', hmark, hroll, h1, h64, hfix, fun h => hrun (runsNow_of_runs h.1 h.2) h.1,
        fun h => hstill (not_runsNow h), hctx, hn, hseq⟩
    · have hs : sameCycle s g = false := by
        by_contra h
        obtain ⟨d, hr, he, hc⟩ := event_of_sameCycle (Bool.not_eq_false _ ▸ h)
        exact hd d hr he hc
      rw [hs] at hu
      obtain ⟨⟨g', hg', hk⟩, hn, hseq⟩ := eventOf_escalated (e := e) hg hp hpr hm
      rw [hu]
      exact ⟨g', hg', hk, hn, hseq⟩
    · rw [sameCycle_of_event hmark hr he hd, he] at hu
      obtain ⟨⟨g', hg', hk⟩, hctx, hrep⟩ := secondEvent_single (e := e) hg hr d (eventEntry e g) (haltAfter s g)
      simp only [reports, Prod.mk.injEq] at hrep
      obtain ⟨hn, -, hseq, -⟩ := hrep
      have hroll := congrArg Ctx.rollbacks hctx
      rw [hu]
      exact ⟨g', hg', hk.mark.trans hmark, hk.rollback.trans hr, hk.halting, hk.halted, hroll, hseq, hn⟩
  case log =>
    intro s n x hm c at_
    exact ⟨fun h => logEvent_fits hm h, fun h => logEvent_out h⟩
  case dlog =>
    intro s n source x hm b at_
    refine ⟨by rw [deviceLog_block], fun h4 hf => ?_, fun h => ?_⟩
    · have hl := mem_deviceLog s n source x
      rw [if_pos ⟨h4, hf⟩] at hl
      rw [hl]
      exact memNat_writeNat hm (dram_le_memTop hf) (logBits_lt ..)
    · have hl := mem_deviceLog s n source x
      rwa [if_neg (by rintro ⟨h4, hf⟩; exact h.elim (Nat.not_lt.mpr h4) (Nat.not_lt.mpr hf))] at hl
  case report =>
    intro s r hm u rollbacks
    obtain ⟨hseq, hirq, hn, hfs⟩ := report_fields s r
    refine ⟨hseq, hirq, fun h => ?_, fun h => ?_, fun base k hr hf => ?_⟩
    · rw [h] at hn hfs
      exact ⟨hn, hfs⟩
    · rw [h] at hn hfs
      exact ⟨hn, hfs⟩
    · exact (memNat_report hm r hr hf).trans (BitVec.toNat_ofNat _ _)

end Sys2Proof
end
